-- ==== Sys2Proof/Word.lean ====
section
/-! DEFINITION. The words of the SJ-9620-L: bytes, the widths its registers and words have, and the shape of a sparse table. -/

namespace Sys2Proof

/-- A byte of memory. -/
abbrev Byte := BitVec 8

/-- A 128-bit instruction word of a core (R76). -/
abbrev Word := BitVec 128

/-- A 64-byte link word (R286). -/
abbrev LinkWord := BitVec 512

/-- A sparse table: key and entry, keys strictly rising, no entry equal to the table's default
(the form `Tbl.wf` of Machine/Tables.lean). -/
abbrev Tbl (α : Type) := List (Nat × α)

/-- A list of memory bytes in the host's cell form, addresses strictly rising. -/
abbrev Cells := List Host.Cell

end Sys2Proof
end

