-- ==== Sys2Proof/Machine/Tables.lean ====
section
/-! DEFINITION. Sparse tables and bit fields: the plain helpers that every operation of the model uses. -/

namespace Sys2Proof.Machine

/-- Field `[lo + w - 1 : lo]` of a value (R7: bits are numbered from 0 at the least significant end). -/
def fld (v lo w : Nat) : Nat := (v >>> lo) % 2 ^ w

/-- Bit `i` of a value. -/
def bit (v i : Nat) : Bool := (v >>> i) % 2 == 1

/-- A Bool as a bit. -/
def b2n (b : Bool) : Nat := if b then 1 else 0

/-- `v` with field `[lo + w - 1 : lo]` set to `x`. -/
def setFld (v lo w x : Nat) : Nat :=
  v - (fld v lo w) * 2 ^ lo + (x % 2 ^ w) * 2 ^ lo

/-- A `w`-bit two's complement field read as an integer. -/
def signed (w v : Nat) : Int := if v % 2 ^ w < 2 ^ (w - 1) then Int.ofNat (v % 2 ^ w) else Int.ofNat (v % 2 ^ w) - Int.ofNat (2 ^ w)

/-- Counter addition that saturates at `2^w - 1`. -/
def satAdd (w a b : Nat) : Nat := min (a + b) (2 ^ w - 1)

/-- Ceiling of `a / b`. -/
def ceilDiv (a b : Nat) : Nat := (a + b - 1) / b

/-- The `i`-th of `n` bits of a mask, as the list of the numbers whose bit is set. -/
def maskList (n v : Nat) : List Nat := (List.range n).filter (fun i => bit v i)

/-- The number of set bits among the first `n`. -/
def popCount (n v : Nat) : Nat := (maskList n v).length

/-- The mask with the given bits set. -/
def maskOf (l : List Nat) : Nat := l.foldl (fun acc i => acc ||| 2 ^ i) 0

/-- The first element of a list under a strict order, or none. -/
def leastBy {α : Type} (lt : α → α → Bool) : List α → Option α
  | [] => none
  | x :: xs => match leastBy lt xs with
    | none => some x
    | some y => if lt y x then some y else some x

/-- Insertion into an ordered list, behind equal elements. -/
def insertBy {α : Type} (le : α → α → Bool) (x : α) : List α → List α
  | [] => [x]
  | y :: ys => if le y x then y :: insertBy le x ys else x :: y :: ys

/-- Insertion sort, stable. -/
def sortBy {α : Type} (le : α → α → Bool) (l : List α) : List α :=
  l.foldl (fun acc x => insertBy le x acc) []

namespace Tbl

/-- The entry of key `k`, `d` where the table lists none. -/
def get {α : Type} (d : α) (k : Nat) : Tbl α → α
  | [] => d
  | (i, v) :: t => if i = k then v else get d k t

/-- The table without key `k`. -/
def erase {α : Type} (k : Nat) : Tbl α → Tbl α
  | [] => []
  | (i, v) :: t => if i = k then erase k t else (i, v) :: erase k t

/-- Insertion of a fresh key at its place. -/
def insert {α : Type} (k : Nat) (v : α) : Tbl α → Tbl α
  | [] => [(k, v)]
  | (i, w) :: t => if k < i then (k, v) :: (i, w) :: t else (i, w) :: insert k v t

/-- Writing entry `k`; writing the default removes the entry, so equal tables are equal lists. -/
def set {α : Type} [DecidableEq α] (d : α) (k : Nat) (v : α) (t : Tbl α) : Tbl α :=
  if v = d then erase k t else insert k v (erase k t)

/-- Entry `k` changed by `f`. -/
def upd {α : Type} [DecidableEq α] (d : α) (k : Nat) (f : α → α) (t : Tbl α) : Tbl α :=
  set d k (f (get d k t)) t

/-- The keys the table lists. -/
def keys {α : Type} (t : Tbl α) : List Nat := t.map Prod.fst

/-- Every listed entry changed by `f`. -/
def mapVals {α : Type} [DecidableEq α] (d : α) (f : Nat → α → α) (t : Tbl α) : Tbl α :=
  t.foldl (fun acc kv => set d kv.1 (f kv.1 kv.2) acc) t

/-- Keys strictly rising. -/
def sorted {α : Type} : Tbl α → Bool
  | [] => true
  | [_] => true
  | (i, _) :: (j, w) :: t => decide (i < j) && sorted ((j, w) :: t)

/-- The canonical form: keys strictly rising and no entry equal to the default. -/
def wf {α : Type} [DecidableEq α] (d : α) (t : Tbl α) : Bool :=
  sorted t && t.all (fun kv => decide (kv.2 ≠ d))

end Tbl

/-- The bytes of `v`, `n` of them, least significant first (R8). -/
def leBytes : Nat → Nat → List Nat
  | 0, _ => []
  | n + 1, v => v % 256 :: leBytes n (v / 256)

/-- The little-endian number of a list of bytes. -/
def ofLeBytes : List Nat → Nat
  | [] => 0
  | b :: bs => b % 256 + 256 * ofLeBytes bs

/-- A list cut into groups of `n`, with fuel for the number of groups. -/
def chunks {α : Type} (n : Nat) : Nat → List α → List (List α)
  | 0, _ => []
  | _ + 1, [] => []
  | f + 1, l => l.take n :: chunks n f (l.drop n)

end Sys2Proof.Machine
end

