-- ==== Sys2Proof/Machine/Numbers.lean ====
section
/-! DEFINITION. Number formats and arithmetic (02_numbers.md): decoding, exact values, the one rounding of R39, output conversion R43–R46. -/

namespace Sys2Proof.Machine

/-- The formats of R32, with the codes of R79. -/
inductive Fmt where
  | fp32 | bf16 | fp16 | e5m2 | e4m3 | f4 | int32 | int8 | int4
deriving DecidableEq, Repr

/-- Format codes (R79); 0x9–0xF are illegal. -/
def Fmt.ofCode (n : Nat) : Option Fmt :=
  match n with
  | 0 => some .fp32 | 1 => some .bf16 | 2 => some .fp16 | 3 => some .e5m2 | 4 => some .e4m3
  | 5 => some .f4 | 6 => some .int32 | 7 => some .int8 | 8 => some .int4 | _ => none

/-- Element width in bits. -/
def Fmt.width : Fmt → Nat
  | .fp32 => 32 | .bf16 => 16 | .fp16 => 16 | .e5m2 => 8 | .e4m3 => 8 | .f4 => 4 | .int32 => 32 | .int8 => 8 | .int4 => 4

/-- Whether the format is one of the float formats. -/
def Fmt.isFloat : Fmt → Bool
  | .int32 => false | .int8 => false | .int4 => false | _ => true

/-- Mantissa width of a float format (R32). -/
def Fmt.mant : Fmt → Nat
  | .fp32 => 23 | .bf16 => 7 | .fp16 => 10 | .e5m2 => 2 | .e4m3 => 3 | .f4 => 1 | _ => 0

/-- Exponent width of a float format (R32). -/
def Fmt.expo : Fmt → Nat
  | .fp32 => 8 | .bf16 => 8 | .fp16 => 5 | .e5m2 => 5 | .e4m3 => 4 | .f4 => 2 | _ => 0

/-- Exponent bias of a float format (R32). -/
def Fmt.bias : Fmt → Int
  | .fp32 => 127 | .bf16 => 127 | .fp16 => 15 | .e5m2 => 15 | .e4m3 => 7 | .f4 => 1 | _ => 0

/-- Exponent of the smallest subnormal of a float format. -/
def Fmt.emin (f : Fmt) : Int := 1 - f.bias - f.mant

/-- The largest finite encoding without sign (R32). -/
def Fmt.maxFinite : Fmt → Nat
  | .fp32 => 0x7F7FFFFF | .bf16 => 0x7F7F | .fp16 => 0x7BFF | .e5m2 => 0x7B | .e4m3 => 0x7E | .f4 => 0x7 | _ => 0

/-- The canonical NaN (V8). F4 has none and gives 0. -/
def Fmt.nan : Fmt → Nat
  | .fp32 => 0x7FC00000 | .bf16 => 0x7FC0 | .fp16 => 0x7E00 | .e5m2 => 0x7F | .e4m3 => 0x7F | _ => 0

/-- +∞ where the format has one; E4M3 gives its NaN (R45). -/
def Fmt.infinity : Fmt → Nat
  | .fp32 => 0x7F800000 | .bf16 => 0x7F80 | .fp16 => 0x7C00 | .e5m2 => 0x7C | .e4m3 => 0x7F | _ => 0

/-- Flag INV, bit 0 of an engine's six flags (R47). -/
def flINV : Nat := 1
/-- Flag OVF. -/
def flOVF : Nat := 2
/-- Flag UNF. -/
def flUNF : Nat := 4
/-- Flag NANIN. -/
def flNANIN : Nat := 8
/-- Flag SAT. -/
def flSAT : Nat := 16
/-- Flag WRAP. -/
def flWRAP : Nat := 32

/-- A decoded value: NaN (V9: one quiet NaN), an infinity, or `(-1)^neg * m * 2^e`. -/
inductive Val where
  | nan
  | inf (neg : Bool)
  | fin (neg : Bool) (m : Nat) (e : Int)
deriving DecidableEq, Repr

/-- An exact dyadic number `m * 2^e`. -/
structure Dy where
  m : Int
  e : Int
deriving DecidableEq, Repr

namespace Dy

/-- Exact sum. -/
def add (a b : Dy) : Dy :=
  if a.m = 0 then b else if b.m = 0 then a
  else
    let e := min a.e b.e
    ⟨a.m * 2 ^ (a.e - e).toNat + b.m * 2 ^ (b.e - e).toNat, e⟩

/-- Exact negation. -/
def neg (a : Dy) : Dy := ⟨-a.m, a.e⟩

/-- Exact difference. -/
def sub (a b : Dy) : Dy := add a (neg b)

/-- Exact product. -/
def mul (a b : Dy) : Dy := ⟨a.m * b.m, a.e + b.e⟩

/-- Scaling by a power of two. -/
def scale (a : Dy) (n : Int) : Dy := ⟨a.m, a.e + n⟩

/-- An integer as a dyadic. -/
def ofInt (n : Int) : Dy := ⟨n, 0⟩

/-- Exact sum of a list. -/
def sum (l : List Dy) : Dy := l.foldl add ⟨0, 0⟩

/-- Exact comparison `a ≤ b`. -/
def le (a b : Dy) : Bool := decide ((sub a b).m ≤ 0)

/-- Exact comparison `a < b`. -/
def lt (a b : Dy) : Bool := decide ((sub a b).m < 0)

end Dy

/-- The exact number of a finite value, 0 for the others. -/
def Val.dy : Val → Dy
  | .fin n m e => ⟨if n then -Int.ofNat m else Int.ofNat m, e⟩
  | _ => ⟨0, 0⟩

/-- A finite value from an exact number; zero is +0. -/
def Val.ofDy (d : Dy) : Val := .fin (decide (d.m < 0)) d.m.natAbs d.e

/-- Whether the value is NaN. -/
def Val.isNan : Val → Bool | .nan => true | _ => false
/-- Whether the value is an infinity. -/
def Val.isInf : Val → Bool | .inf _ => true | _ => false
/-- Whether the value is a zero. -/
def Val.isZero : Val → Bool | .fin _ m _ => m == 0 | _ => false
/-- The sign of a value. -/
def Val.sign : Val → Bool | .nan => false | .inf n => n | .fin n _ _ => n

/-- Decoding of one element (R32). -/
def decodeVal (f : Fmt) (x : Nat) : Val :=
  if f.isFloat then
    let s := bit x (f.width - 1)
    let e := fld x f.mant f.expo
    let m := fld x 0 f.mant
    let top := e = 2 ^ f.expo - 1
    match f with
    | .e4m3 => if top ∧ m = 7 then .nan
               else if e = 0 then .fin s m f.emin else .fin s (m + 8) (f.emin + (e : Int) - 1)
    | .f4 => if e = 0 then .fin s m f.emin else .fin s (m + 2) (f.emin + (e : Int) - 1)
    | _ => if top then (if m = 0 then .inf s else .nan)
           else if e = 0 then .fin s m f.emin
           else .fin s (m + 2 ^ f.mant) (f.emin + (e : Int) - 1)
  else Val.ofDy (Dy.ofInt (signed f.width x))

/-- A UE5M3 fine scale (R32): no sign, 0xFF is NaN, exponent 31 is normal for mantissas 0–6. -/
def decodeScale (x : Nat) : Val :=
  if x % 256 = 255 then .nan
  else
    let e := fld x 3 5
    let m := fld x 0 3
    if e = 0 then .fin false m (-17) else .fin false (m + 8) (-17 + (e : Int) - 1)

/-- Rounding modes of R43; RSR carries the element's random value. -/
inductive Rnd where
  | rne
  | rtz
  | rsr (r : Nat)
deriving DecidableEq, Repr

/-- ⌊log₂ (num / den)⌋ for positive numbers. -/
def log2Rat (num den : Nat) : Int :=
  let d : Int := (Nat.log2 num : Int) - (Nat.log2 den : Int)
  let ge := if 0 ≤ d then decide (den * 2 ^ d.toNat ≤ num) else decide (den ≤ num * 2 ^ (-d).toNat)
  if ge then d else d - 1

/-- Rounding of the positive number `num / den * 2^e` to a mantissa of `mb` fraction bits with smallest subnormal `2^emin`:
the integer, its exponent, and whether the result is inexact. -/
def roundMag (mb : Nat) (emin : Int) (r : Rnd) (num den : Nat) (e : Int) : Nat × Int × Bool :=
  let l := log2Rat num den + e
  if l < emin - 20 then (0, emin, true)
  else
    let q := max emin (l - mb)
    let sh := e - q
    let a := if 0 ≤ sh then num * 2 ^ sh.toNat else num
    let b := if 0 ≤ sh then den else den * 2 ^ (-sh).toNat
    let n := a / b
    let rem := a % b
    let up := match r with
      | .rne => decide (b < 2 * rem) || (decide (2 * rem = b) && n % 2 == 1)
      | .rtz => false
      | .rsr rv => decide (2 ^ 16 ≤ rem * 2 ^ 16 / b + rv)
    let n' := if up then n + 1 else n
    if n' = 2 ^ (mb + 1) then (2 ^ mb, q + 1, decide (rem ≠ 0)) else (n', q, decide (rem ≠ 0))

/-- The encoding, without sign, of a rounded magnitude; it may lie beyond the largest finite encoding. -/
def encodeMag (mb : Nat) (emin : Int) (n : Nat) (q : Int) : Nat :=
  if n < 2 ^ mb then n else ((q - emin).toNat + 1) * 2 ^ mb + (n - 2 ^ mb)

/-- Conversion of a non-zero exact number `(-1)^neg * num / den * 2^e` to a float format under RND and OVF (R43, R45):
bits and flags. UNF is raised as R40 states. -/
def roundTo (f : Fmt) (r : Rnd) (wrap : Bool) (neg : Bool) (num den : Nat) (e : Int) : Nat × Nat :=
  let s := if neg then 2 ^ (f.width - 1) else 0
  let l := log2Rat num den + e
  let big := decide (f.emin + f.mant + 2 ^ f.expo < l)
  let (n, q, inex) := if big then (2 ^ f.mant, f.emin + 2 ^ f.expo, true) else roundMag f.mant f.emin r num den e
  let c := encodeMag f.mant f.emin n q
  if f.maxFinite < c then
    match r with
    | .rtz => (s + f.maxFinite, 0)
    | _ => if wrap then (if f = .e4m3 then (f.nan, flOVF) else (s + f.infinity, flOVF)) else (s + f.maxFinite, flSAT)
  else (s + c, if n < 2 ^ f.mant ∧ inex then flUNF else 0)

/-- Bits of a finite number in a signed `w`-bit integer, under OVF (R45). -/
def narrowInt (w : Nat) (wrap : Bool) (v : Int) : Nat × Nat :=
  let lo : Int := -(2 ^ (w - 1))
  let hi : Int := 2 ^ (w - 1) - 1
  if v < lo ∨ hi < v then
    if wrap then ((v % (2 ^ w : Int)).toNat, flWRAP)
    else (((if v < lo then lo else hi) % (2 ^ w : Int)).toNat, flSAT)
  else ((v % (2 ^ w : Int)).toNat, 0)

/-- An exact number rounded to an integer by RND. -/
def roundInt (r : Rnd) (d : Dy) : Int :=
  if 0 ≤ d.e then d.m * 2 ^ d.e.toNat
  else
    let a := d.m.natAbs
    let k := (-d.e).toNat
    let n := a >>> k
    let rem := a % 2 ^ k
    let up := match r with
      | .rne => decide (2 ^ k < 2 * rem) || (decide (2 * rem = 2 ^ k) && n % 2 == 1)
      | .rtz => false
      | .rsr rv => decide (2 ^ 16 ≤ rem * 2 ^ 16 / 2 ^ k + rv)
    let n' : Int := if up then n + 1 else n
    if d.m < 0 then -n' else n'

/-- Output conversion of a value to a format (R43, R45, V8, V12): bits and flags. F4 output is quantised block by block (R38) elsewhere. -/
def convert (f : Fmt) (r : Rnd) (wrap : Bool) (v : Val) : Nat × Nat :=
  if f.isFloat then
    match v with
    | .nan => (f.nan, 0)
    | .inf n => if f = .e4m3 then (f.nan, flOVF) else ((if n then 2 ^ (f.width - 1) else 0) + f.infinity, 0)
    | .fin n m e => if m = 0 then (if n then 2 ^ (f.width - 1) else 0, 0) else roundTo f r wrap n m 1 e
  else
    match v with
    | .nan => (0, flINV)
    | .inf n => ((if n then 2 ^ (f.width - 1) else 2 ^ (f.width - 1) - 1), flSAT)
    | .fin _ _ _ => narrowInt f.width wrap (roundInt r v.dy)

/-- The one rounding of R39: a value to FP32 by RNE; overflow becomes ±∞ with OVF. -/
def rne32 (v : Val) : Nat × Nat := convert .fp32 .rne true v

/-- The FP32 bits of an exact number; an exact zero gives +0. -/
def rne32Dy (d : Dy) : Nat × Nat := rne32 (Val.ofDy d)

/-- The exact number `num / den` (sign in `num`) times `2^e`, rounded once to FP32 by RNE. -/
def rne32Rat (num : Int) (den : Nat) (e : Int) : Nat × Nat :=
  if num = 0 ∨ den = 0 then (0, 0) else roundTo .fp32 .rne true (decide (num < 0)) num.natAbs den e

/-- An FP32 word decoded. -/
def v32 (x : Nat) : Val := decodeVal .fp32 x

/-- The FP32 encoding of NaN. -/
def nan32 : Nat := 0x7FC00000

/-- One term of a group sum: an exact product (R39), a NaN operand (V1) or 0 × ∞ (V2). -/
inductive Term where
  | nanIn
  | invalid
  | val (v : Val)
deriving DecidableEq, Repr

/-- The exact product of a term's factors: activation, its fine scale, weight, its fine scale (R39, V1, V2, V4, V7). -/
def mulFactors (l : List Val) : Term :=
  if l.any Val.isNan then .nanIn
  else if l.any Val.isInf && l.any Val.isZero then .invalid
  else
    let s := l.foldl (fun b v => xor b v.sign) false
    if l.any Val.isInf then .val (.inf s)
    else .val (.fin s (l.foldl (fun a v => a * v.dy.m.natAbs) 1) (l.foldl (fun a v => a + v.dy.e) 0))

/-- A group sum (R39–R41): the incoming FP32 partial sum and the terms give the new partial sum, the flags,
and whether a new invalid arose (for the locator of R48). -/
def groupSum (acc : Nat) (ts : List Term) : Nat × Nat × Bool :=
  let a := v32 acc
  let vals := a :: ts.filterMap (fun t => match t with | .val v => some v | _ => none)
  if ts.any (fun t => t == .nanIn) then (nan32, flNANIN, false)
  else if a.isNan then (nan32, 0, false)
  else if ts.any (fun t => t == .invalid) then (nan32, flINV, true)
  else
    let pos := vals.any (fun v => v == .inf false)
    let neg := vals.any (fun v => v == .inf true)
    if pos && neg then (nan32, flINV, true)
    else if pos then (0x7F800000, 0, false)
    else if neg then (0xFF800000, 0, false)
    else if vals.all Val.isZero then (if vals.all Val.sign then 0x80000000 else 0, 0, false)
    else
      let (b, fl) := rne32Dy (Dy.sum (vals.map Val.dy))
      (b, fl, false)

/-- An integer group sum (R42): the signed 32-bit accumulator and the exact products, under OVF. -/
def groupSumInt (wrap : Bool) (acc : Nat) (ps : List Int) : Nat × Nat :=
  narrowInt 32 wrap (ps.foldl (· + ·) (signed 32 acc))

/-- The negated value. -/
def Val.negated : Val → Val
  | .nan => .nan
  | .inf n => .inf !n
  | .fin n m e => .fin (!n) m e

/-- A value times a power of two. -/
def Val.scale (k : Int) : Val → Val
  | .fin n m e => .fin n m (e + k)
  | v => v

/-- A sum of two terms formed exactly and rounded once to FP32 (V1, V3, V5, V6): bits and flags. -/
def sumVals (p q : Val) : Nat × Nat :=
  match p, q with
  | .nan, _ => (nan32, flNANIN)
  | _, .nan => (nan32, flNANIN)
  | .inf s, .inf t => if s = t then ((if s then 0xFF800000 else 0x7F800000), 0) else (nan32, flINV)
  | .inf s, _ => ((if s then 0xFF800000 else 0x7F800000), 0)
  | _, .inf t => ((if t then 0xFF800000 else 0x7F800000), 0)
  | p, q => if p.isZero && q.isZero then ((if p.sign && q.sign then 0x80000000 else 0), 0)
            else rne32Dy (p.dy.add q.dy)

/-- FP32 arithmetic of the SFU: `a * b + c` formed exactly and rounded once (R136, with V1–V7): bits and flags. -/
def fmaVal (a b c : Val) : Nat × Nat :=
  match mulFactors [a, b] with
  | .nanIn => (nan32, flNANIN)
  | .invalid => (nan32, if c.isNan then flNANIN else flINV)
  | .val p => sumVals p c

/-- `fmaVal` of FP32 words. -/
def fma32 (a b c : Nat) : Nat × Nat := fmaVal (v32 a) (v32 b) (v32 c)

/-- FP32 product (V1–V7). -/
def mul32 (a b : Nat) : Nat × Nat :=
  match mulFactors [v32 a, v32 b] with
  | .nanIn => (nan32, flNANIN)
  | .invalid => (nan32, flINV)
  | .val v => rne32 v

/-- FP32 sum (V1, V3, V5, V6). -/
def add32 (a b : Nat) : Nat × Nat := fma32 a 0x3F800000 b

/-- FP32 negation of a number (NaN stays the canonical NaN). -/
def neg32 (a : Nat) : Nat := if (v32 a).isNan then nan32 else a ^^^ 0x80000000

/-- FP32 difference. -/
def sub32 (a b : Nat) : Nat × Nat := add32 a (neg32 b)

/-- The step MAX of R136: NaN if either is NaN; MAX(+0, −0) = +0. -/
def Val.larger (a b : Val) : Val :=
  match a, b with
  | .nan, _ => .nan
  | _, .nan => .nan
  | .inf false, _ => a
  | _, .inf false => b
  | .inf true, _ => b
  | _, .inf true => a
  | x, y => if x.isZero && y.isZero then .fin (x.sign && y.sign) 0 0 else if Dy.le x.dy y.dy then b else a

/-- The step MIN of R136: NaN if either is NaN; MIN(+0, −0) = −0. -/
def Val.smaller (a b : Val) : Val := (a.negated.larger b.negated).negated

/-- MAX of FP32 words. -/
def max32 (a b : Nat) : Nat := (rne32 ((v32 a).larger (v32 b))).1

/-- MIN of FP32 words. -/
def min32 (a b : Nat) : Nat := (rne32 ((v32 a).smaller (v32 b))).1

/-- The finite UE5M3 scale of R38: the smallest code other than 0xFF with `x_max ≤ 6 s`, 0xFE where none suffices. -/
def f4Scale (xmax : Dy) : Nat :=
  if xmax.m = 0 then 0
  else ((List.range 255).find? (fun c => Dy.le xmax ((decodeScale c).dy.mul (Dy.ofInt 6)))).getD 0xFE

/-- Quantisation of one block to F4 (R38): the scale byte, the element codes and the flags. `rs` gives each element's rounding. In a block of
zeros, whose scale is 0x00, a −0 keeps its sign (DESIGN CHOICE, log entry 45). -/
def quantF4 (rs : List Rnd) (xs : List Val) : Nat × List Nat × Nat :=
  if xs.any (fun v => v.isNan || v.isInf) then (0xFF, xs.map (fun _ => 0), flINV)
  else
    let mags := xs.map (fun v => let d := v.dy; (⟨Int.ofNat d.m.natAbs, d.e⟩ : Dy))
    let xmax := mags.foldl (fun a b => if Dy.le a b then b else a) ⟨0, 0⟩
    let c := f4Scale xmax
    let s := (decodeScale c).dy
    let clipped := Dy.lt (s.mul (Dy.ofInt 6)) xmax
    let one := fun (v : Val) (r : Rnd) =>
      match v with
      | .fin n m e =>
        if m = 0 ∨ s.m = 0 then ((if n then 8 else 0), 0)
        else let (b, fl) := roundTo .f4 r false n m s.m.natAbs (e - s.e); (b, fl &&& flUNF)
      | _ => (0, 0)
    let es := (xs.zip rs).map (fun p => one p.1 p.2)
    (c, es.map Prod.fst, (es.foldl (fun a p => a ||| p.2) 0) ||| (if clipped then flSAT else 0))

/-- Element `k` of a packed byte list in a format: 4-bit elements as R33, wider ones little-endian (R8). -/
def elemAt (f : Fmt) (bs : List Nat) (k : Nat) : Nat :=
  match f.width with
  | 4 => if k % 2 = 0 then (bs.getD (k / 2) 0) % 16 else (bs.getD (k / 2) 0) / 16 % 16
  | 8 => bs.getD k 0
  | 16 => ofLeBytes [bs.getD (2 * k) 0, bs.getD (2 * k + 1) 0]
  | _ => ofLeBytes [bs.getD (4 * k) 0, bs.getD (4 * k + 1) 0, bs.getD (4 * k + 2) 0, bs.getD (4 * k + 3) 0]

/-- The bytes of a list of elements in a format; an odd count of 4-bit elements is padded with a zero element (R33). -/
def packElems (f : Fmt) : List Nat → List Nat
  | [] => []
  | [x] => if f.width = 4 then [x % 16] else leBytes (f.width / 8) x
  | x :: y :: t => if f.width = 4 then (x % 16 + 16 * (y % 16)) :: packElems f t
                   else leBytes (f.width / 8) x ++ packElems f (y :: t)

/-- Bytes of `n` elements in a format. -/
def Fmt.bytes (f : Fmt) (n : Nat) : Nat := ceilDiv (n * f.width) 8

end Sys2Proof.Machine
end

