-- ==== Sys2Proof/Machine/TypesCore.lean ====
section
/-! DEFINITION. Names shared by the commands and the state: ports, requesters, log entries, maintenance activities, outputs. -/

namespace Sys2Proof

/-- A host port (R16: A is 0, B is 1). -/
inductive Port where
  | A
  | B
deriving DecidableEq, Repr

/-- The number of a port. -/
def Port.num : Port → Nat
  | .A => 0
  | .B => 1

/-- The other port. -/
def Port.other : Port → Port
  | .A => .B
  | .B => .A

/-- The port of a number's low bit. -/
def Port.ofBit (n : Nat) : Port := if n % 2 = 0 then .A else .B

/-- Who accesses a register (R436, R440 REQUESTER). -/
inductive Requester where
  | port (p : Port)
  | steward (n : Fin 4)
  | debug
deriving DecidableEq, Repr

/-- The REQUESTER code of R440. -/
def Requester.code : Requester → Nat
  | .port .A => 0
  | .port .B => 1
  | .steward _ => 2
  | .debug => 3

/-- The key under which a requester's latched LOCAL_TIME_HI is held (R433). -/
def Requester.key : Requester → Nat
  | .port .A => 0
  | .port .B => 1
  | .steward n => 2 + n.val
  | .debug => 6

namespace Machine

/-- The UNIT_KIND codes of R394. -/
inductive UnitKind where
  | none | coreSlot | stack | link | port | router | steward | rail
deriving DecidableEq, Repr

/-- The UNIT_KIND code. -/
def UnitKind.code : UnitKind → Nat
  | .none => 0 | .coreSlot => 1 | .stack => 2 | .link => 3 | .port => 4 | .router => 5 | .steward => 6 | .rail => 7

/-- An entry of the device error log (R394). -/
structure LogEntry where
  time : Nat := 0
  addr : Nat := 0
  detail : Nat := 0
  kind : UnitKind := .none
  unit : Nat := 0
  count : Nat := 0
  verdict : Nat := 0
  func : Nat := 0
  ports : Nat := 0
  seq : Nat := 0
  reqs : Nat := 0
  code : Nat := 0
deriving DecidableEq, Repr

/-- The 256 bits of a log entry (R394). -/
def LogEntry.bits (e : LogEntry) : Nat :=
  e.time % 2 ^ 64 * 2 ^ 192 + e.addr % 2 ^ 48 * 2 ^ 144 + e.detail % 2 ^ 32 * 2 ^ 112 + e.kind.code * 2 ^ 104
    + e.unit % 256 * 2 ^ 96 + e.count % 2 ^ 16 * 2 ^ 80 + e.verdict % 256 * 2 ^ 72 + e.func % 16 * 2 ^ 68
    + e.ports % 4 * 2 ^ 66 + e.seq % 2 ^ 32 * 2 ^ 32 + e.reqs % 2 ^ 16 * 2 ^ 16 + e.code % 2 ^ 16

/-- A maintenance activity of R402, with the units it works on. -/
inductive Activity where
  | hbmScrub (m : Nat)
  | compaction (m : Nat)
  | rowTest (m : Nat)
  | rowRepair (m : Nat) (withdraw : Bool)
  | sramScrub (slot : Nat)
  | coreTest (slot : Nat)
  | replacement (old new : Nat)
  | linkRetrain (l : Nat)
  | linkTest (l : Nat)
  | routeTest
  | pressTest (m : Nat)
deriving DecidableEq, Repr

/-- The activity code of R402. -/
def Activity.code : Activity → Nat
  | .hbmScrub _ => 1 | .compaction _ => 2 | .rowTest _ => 3 | .rowRepair _ _ => 4 | .sramScrub _ => 5 | .coreTest _ => 6
  | .replacement _ _ => 7 | .linkRetrain _ => 8 | .linkTest _ => 9 | .routeTest => 10 | .pressTest _ => 11

/-- The cellar groups an activity needs (R402, with the register numbers g of the group table). -/
def Activity.groups : Activity → List Nat
  | .hbmScrub m => [72 + m]
  | .compaction m => [72 + m, 78 + m]
  | .rowTest m => [72 + m]
  | .rowRepair m w => if w then [72 + m, 78 + m] else [72 + m]
  | .sramScrub s => [s]
  | .coreTest s => [s]
  | .replacement a b => if a = b then [a] else [a, b]
  | .linkRetrain l => [84 + l]
  | .linkTest l => [84 + l]
  | .routeTest => [132]
  | .pressTest m => [72 + m]

/-- A received Yalast frame (R286): header word, payload words as decrypted, whether FEC delivered every codeword, whether the trailer's tag
checks, and how many of its codewords FEC corrected. -/
structure Frame where
  hdr : BitVec 512
  payload : List (BitVec 512)
  fecOk : Bool
  tagOk : Bool
  corr : Nat := 0
deriving DecidableEq, Repr

/-- A frame the device sends (R286, R287): TYPE, ARGS and payload bytes; then, as it goes out, its SEQ and key generation, the header word,
the payload on the wire, which ENC 1 encrypts, and the tag in bits [127:0] of the trailer word, whose other bits are 0. -/
structure TxFrame where
  type : Nat
  args : Nat
  payload : List Nat
  /-- the request whose shipment the frame carries, which is charged for it (R361) -/
  rid : Option Nat := none
  seq : Nat := 0
  kg : Nat := 0
  hdr : BitVec 512 := 0
  wire : List Nat := []
  tag : BitVec 128 := 0
deriving DecidableEq, Repr

/-- What the device sends that leaves no other trace in the state, in the order sent. -/
inductive Output where
  /-- MSI-X message of vector `vec` of function `fn` of a port (R328–R330). -/
  | msix (p : Port) (fn vec : Nat)
  /-- A Yalast frame sent on a link (11_yalast_links.md). -/
  | frame (l : Nat) (f : TxFrame)
  /-- Data returned to an SMBus read (R459, R460). -/
  | smbus (bytes : List Nat)
  /-- Bits shifted out of the TAP's data register, least significant first (R380). -/
  | tdo (bits : Nat) (width : Nat)
  /-- Data returned to a register read. -/
  | readData (r : Requester) (value : Nat)
  /-- A write to a port's host with the PCIe poison bit set (R393), by the device address of the poison. -/
  | poisonedTlp (p : Port) (addr : Nat)
  /-- Bits shifted out of a scan chain (R379). -/
  | scan (chain : Nat) (bits : List Bool)
deriving DecidableEq, Repr

/-- An SMBus transaction (R458): the target address, the PEC byte that the host appended, and whether it clocks one byte more on a read. -/
structure SmbCall where
  addr : BitVec 7
  pec : Option (BitVec 8) := none
  more : Bool := false
deriving DecidableEq, Repr

end Machine
end Sys2Proof
end

