-- ==== Sys2Proof/Machine/TypesPass.lean ====
section
/-! DEFINITION. State of the cores (02–07), of the weight plan (05) and of pegs, barriers, passes and watchdogs (10_sync.md). -/

namespace Sys2Proof.Machine

/-- A peg word (R257). -/
structure Peg where
  satHi : Bool := false
  satLo : Bool := false
  barrier : Bool := false
  fails : Nat := 0
  value : Nat := 0
deriving DecidableEq, Repr

/-- A clamp record: the register at 0x000 of a peg block, or COLL_STATUS (R279, R281). -/
structure ClampRec where
  valid : Bool := false
  tag : Nat := 0
  peg : Nat := 0
  dir : Bool := false
  src : Nat := 0
  loAny : Bool := false
  hiAny : Bool := false
deriving DecidableEq, Repr

/-- A MONITOR or ACQUIRE that waits (R262): the predicate code of R93 and its operand. -/
structure PegWait where
  acquire : Bool
  coll : Bool
  peg : Nat
  pred : Nat
  value : Nat
  started : Nat
  /-- PEG_WAIT_US when the wait began (R282) -/
  limitUs : Nat
  /-- the waiting word -/
  word : Word
deriving DecidableEq, Repr

/-- An open loop level (R95): word offsets of the body, iterations left beyond the present one, and the strides. -/
structure Loop where
  first : Nat
  last : Nat
  count : Nat
  i : Nat
  sa : Int
  sp : Int
  so : Int
deriving DecidableEq, Repr

/-- An epilogue slot (R88, R150). -/
structure EpiSlot where
  isSet : Bool := false
  func : Nat := 0
  /-- the addresses of EPISET's slots A, P and O in 64-byte units, checked where R88 says -/
  rscAddr : Int := 0
  colAddr : Int := 0
  dst : Int := 0
  cols : Nat := 0
  rscEn : Bool := false
  cscEn : Bool := false
  biasEn : Bool := false
  cursor : Nat := 0
deriving DecidableEq, Repr

/-- A kicker binding of a pass (R85): rows and the kicker slot fixed at launch. -/
structure Binding where
  r0 : Nat
  n : Nat
  kicker : Nat
deriving DecidableEq, Repr

/-- A peg operation on its way (R258). `claim` is sent by a woken ACQUIRE. -/
inductive PegOp where
  | set (v : Nat)
  | add (d : Int)
deriving DecidableEq, Repr

/-- An entry of a stream queue (R106, R264). -/
inductive SqEntry where
  /-- a descriptor as read for its SUBMIT word: bits, DONE_PEG (63 none), instruction index, runs moved, conversion flags -/
  | desc (bits : BitVec 512) (donePeg : Nat) (index : Nat) (moved : Bool) (flags : Nat)
  /-- a RELQ peg operation: TK, TCORE, PEG and the operation -/
  | peg (tk tcore peg : Nat) (op : PegOp)
deriving DecidableEq, Repr

/-- An invalid's locator record with the instruction index it belongs to (R48, R49). -/
structure Locator where
  valid : Bool := false
  tag : Nat := 0
  row : Nat := 0
  cubeRow : Nat := 0
  cubeCol : Nat := 0
  ncol : Nat := 0
  index : Nat := 0
deriving DecidableEq, Repr

/-- A fault record of the sequencer, the SFU or the decanter (R104, R159, R177). -/
structure FaultRec where
  valid : Bool := false
  specific : Nat := 0
  tag : Nat := 0
  word : Nat := 0
  index : Nat := 0
deriving DecidableEq, Repr

/-- A query row of a decanter word: whether it is real, its position, the keys it may see and its token ordinal (R161, R163). -/
structure QRow where
  real : Bool
  pos : Nat
  klen : Nat
  tok : Nat
deriving DecidableEq, Repr

/-- A decanter word's mask as it is read when the word starts (R165–R167). -/
inductive Mask where
  | all
  | causal
  | bitmap (base stride : Nat)
  | sparse (left right : Nat) (globals : List Nat) (causal : Bool)
deriving DecidableEq, Repr

/-- The first three cases of R174 for a row, in reverse order of the table: nothing of the kind, an incoming NaN, an allowed score of +∞,
an allowed score that is NaN. -/
inductive RowCase where
  | plain
  | incoming
  | infinite
  | nan
deriving DecidableEq, Repr

/-- The state of a query row between two key blocks (R169): running maximum, running sum, partial output, its case of R174, and whether the
partial output stands in SRAM at O. -/
structure RowState where
  m : Nat := 0xFF800000
  l : Nat := 0
  o : List Nat := []
  kind : RowCase := .plain
  inMem : Bool := false
deriving DecidableEq, Repr

/-- A decanter word under way: the word, the rows and the mask as they were read at its start (R163, R167), the next key block and the rows' states. -/
structure DecProg where
  word : Nat
  rows : List QRow
  mask : Mask
  block : Nat
  states : List RowState
deriving DecidableEq, Repr

/-- Tiles a KFETCH still delivers (R130): its instruction index, count, device address (none: zero tiles) and tile bytes. -/
structure KFetch where
  index : Nat
  count : Nat
  addr : Option Nat
  bytes : Nat
deriving DecidableEq, Repr

/-- The registers of a core block. -/
structure CoreRegs where
  numStatus : BitVec 32 := 0
  inv0 : Locator := {}
  inv1 : Locator := {}
  inv2 : Locator := {}
  inv3 : Locator := {}
  retryBcast : Bool := false
  forceBcast : Bool := false
  feed : Bool := true
  bcastCause : Nat := 1
  /-- FORCE_BROADCAST as the last pass boundary took it (R73) -/
  forced : Bool := false
  seqFault : FaultRec := {}
  sfuFault : FaultRec := {}
  sfuEpoch : BitVec 32 := 0
  sfuLoading : BitVec 16 := 0
  sfuCustom : BitVec 16 := 0
  nanRows : Nat := 0
  maskedRows : Nat := 0
  skipped : BitVec 64 := 0
  decFault : FaultRec := {}
  pegStatus : ClampRec := {}
  /-- BUSY, BCAST, DRAIN, HAZARD, BANK, WSUPPLY, WLOAD, FEED, ISSUE at 0–8 (R132); IDLE is what the sum of R131 leaves -/
  stall : Tbl (BitVec 64) := []
  /-- ARRAY cycles since reset at the last CTR_CLEAR (R132) -/
  clearedAt : Nat := 0
  streamFlags : BitVec 6 := 0
deriving DecidableEq, Repr

/-- What a core holds for the pass it runs (R100). -/
structure CoreRun where
  active : Bool := false
  table : Nat := 0
  prog : Nat := 0
  tag : Nat := 0
  seed : BitVec 64 := 0
  bindings : List Binding := []
  consts : Tbl (BitVec 32) := []
  ctxs : Tbl (BitVec 512) := []
  epis : Tbl EpiSlot := []
  loops : List Loop := []
  pc : Nat := 0
  /-- the instruction buffer (R95, R100): words of the open loops, by word offset, as they were fetched -/
  ibuf : List (Nat × Word) := []
  index : BitVec 32 := 0
  /-- M of the last array word without a binding, whose partial-sum tile a bound word uses (R85, log entry 20) -/
  mainM : Nat := 0
  /-- why the sequencer stopped: ENDCAUSE and FAULT of R272 -/
  stopped : Option (Nat × Nat) := none
  wait : Option PegWait := none
  senses : BitVec 7 := 0
  queues : Tbl (List SqEntry) := []
  scaleFifo : List Nat := []
  /-- fine scales that the array word under way has taken, where its rows need more than the FIFO holds (R117) -/
  scaleHeld : List Nat := []
  /-- next tile of the plan that the weight port takes (R124) -/
  cursor : Nat := 0
  roundsReq : Nat := 0
  lqBase : Nat := 0
  rqBase : Nat := 0
  rqLines : Nat := 0
  /-- local-queue producers in issue order (R128): instruction index and tiles, where their number is known -/
  lqPlan : List (Nat × Option Nat) := []
  /-- local-queue tiles taken, and filled but not taken -/
  lqTaken : Nat := 0
  lqFilled : List Nat := []
  kfetches : List KFetch := []
  /-- what pending descriptors have delivered, by instruction index: tiles under DLQ (R128), bytes of a SCALEFEED (R117) -/
  lqDone : List (Nat × Nat) := []
  dec : Option DecProg := none
deriving DecidableEq, Repr

/-- The registers of one lane of the SFU (R135): L0–L7, the integer register N and the predicate P. An L register holds an FP32 value, or the
exact remainder of a FLOOR (R136). -/
structure Lane where
  l : List Val := List.replicate 8 (.fin false 0 0)
  n : Int := 0
  p : Bool := false
deriving DecidableEq, Repr

/-- A logical core. -/
structure Core where
  regs : CoreRegs := {}
  run : CoreRun := {}
  pegs : Tbl Peg := []
  /-- custom seed tables 4–15: active and shadow banks, FUNC key 16·table (R143): the 4,096 image bytes -/
  tables : Tbl (List Nat) := []
  shadow : Tbl (List Nat) := []
  /-- the registers of the SFU's 512 lanes (R135) -/
  lanes : Tbl Lane := []
  /-- the model's own counter of SFU work, to which the free values of `lanes` are applied (log entry 45) -/
  laneWork : Nat := 0
deriving DecidableEq, Repr

/-- A physical core slot's state (R70). -/
inductive SlotPhys where
  | enabled | kitty | retired | fusedOff
deriving DecidableEq, Repr

/-- STATE codes of R443. -/
def SlotPhys.code : SlotPhys → Nat
  | .enabled => 0 | .kitty => 1 | .retired => 2 | .fusedOff => 3

/-- The logical number of a slot that holds none. -/
def noCore : Nat := 64

/-- A core-map entry of a physical slot (R443). -/
structure CoreSlot where
  /-- manufacture fuses: the state and the logical number at delivery -/
  mfg : SlotPhys := .kitty
  mfgLogical : Nat := 0
  state : SlotPhys := .kitty
  logical : Nat := 0
  retiredAt : Nat := 0
  cause : Nat := 0
  fromKitty : Bool := false
  moving : Bool := false
  /-- the one-time retirement fuse (R70) -/
  fuse : Bool := false
deriving DecidableEq, Repr

/-- A weight-plan segment (R119). -/
structure Seg where
  base : Nat
  fmt : Nat
  fs : Bool
  k128 : Bool
  ntiles : Nat
  scaleBase : Nat
deriving DecidableEq, Repr

/-- The weight sequencer (R120–R127, R133). -/
structure WeightSeq where
  segs : List Seg := []
  ntiles : Nat := 0
  started : Nat := 0
  active : Bool := false
  rounds : BitVec 32 := 0
  lateCore : Nat := 0
  /-- the core whose request came last, for rounds not yet started, and the counter value at which it came -/
  late : Tbl (Nat × Nat) := []
  gateWait : BitVec 64 := 0
deriving DecidableEq, Repr

/-- A barrier group of a pass launch (R266). -/
structure GroupDecl where
  enable : Bool
  childLinks : Nat
  parentLink : Nat
  hasParent : Bool
  releasePeg : Nat
  arrivePeg : Nat
  chipWaitUs : Nat
deriving DecidableEq, Repr

/-- A group's episode state (R268, R269, R281): children and hands arrived, by sense. -/
structure GroupRun where
  episodes : Nat := 0
  child0 : Nat := 0
  child1 : Nat := 0
  hand0 : Nat := 0
  hand1 : Nat := 0
  sense : Bool := false
  /-- counter value at which the die phase of sense 0 / 1 completed and is not yet released -/
  die0 : Option Nat := none
  die1 : Option Nat := none
  /-- senses whose arrival was sent to the parent and whose release is awaited -/
  upSent : List Bool := []
deriving DecidableEq, Repr

/-- Pass-table states (R281). -/
inductive TableState where
  | free | running | closed | aborting
deriving DecidableEq, Repr

/-- STATE codes of R281. -/
def TableState.code : TableState → Nat
  | .free => 0 | .running => 1 | .closed => 2 | .aborting => 3

/-- What a pass does for one request. -/
inductive ItemKind where
  /-- a prompt chunk of `len` positions from `pos` -/
  | chunk (pos len : Nat)
  /-- a generation step with its candidate tokens from MARK on -/
  | step (cands : List Nat)
  /-- the closing row (R228) -/
  | closing
deriving DecidableEq, Repr

/-- A request's rows in a pass. -/
structure PassItem where
  rid : Nat
  kind : ItemKind
  row0 : Nat
  rows : Nat
deriving DecidableEq, Repr

/-- A landing window that a pass's collective needs (R301, R306): number, size, base, link mask, completion peg and EXPECT (log entry 44). -/
structure CollGrant where
  window : Fin 256
  size4k : Nat
  base4k : Nat
  links : BitVec 48
  peg : Option (Fin 64)
  expect : BitVec 32
deriving DecidableEq, Repr

/-- A transfer of a collective into a partner's COLL window (R307): `bytes` at `addr`, once collector peg `peg` holds at least `value`
(log entry 44). -/
structure CollSend where
  link : Fin 48
  window : Nat
  offset : Nat
  addr : Nat
  bytes : Nat
  peg : Fin 64
  value : Nat
deriving DecidableEq, Repr

/-- What the package and firmware give a pass launch: the program address, the cores that run it, the sync block (R266) and the weight block (R118). -/
structure Launch where
  program : Nat
  runs : BitVec 64
  sync : BitVec 1024
  weights : BitVec 128
  /-- query rows of a decanter word for each row of the pass: the model's query heads per key-value head (R238; log entry 43) -/
  heads : Nat := 1
  /-- windows to grant and transfers to make for its collectives over links (R301, R307; log entry 44) -/
  grants : List CollGrant := []
  sends : List CollSend := []
deriving DecidableEq, Repr

/-- A stack of sessions in a step pass (R238): their requests, and how many pages of their common prefix one decanter word covers. -/
structure Stack where
  rids : List Nat
  pages : Nat
deriving DecidableEq, Repr

/-- A pass table of the collector with the steward's record of its pass (R230–R234, R272–R274). -/
structure PassTable where
  state : TableState := .free
  tag : Nat := 0
  seed : BitVec 64 := 0
  mask : BitVec 64 := 0
  present : BitVec 64 := 0
  slots : Tbl Nat := []
  mslot : Nat := 0
  rotation : Bool := true
  items : List PassItem := []
  bindings : List Binding := []
  /-- stacked sessions of a step pass (R238) -/
  stacked : List Stack := []
  launch : Option Launch := none
  launchedAt : Nat := 0
  /-- when the pass closed (R361) -/
  closedAt : Option Nat := none
  /-- S was above 0 while the pass ran under FIXED (R355) -/
  skipSeen : Bool := false
  limitUs : Nat := 0
  abortAt : Nat := 0
  /-- the code that aborted the pass, and whether the pass may be retried (R103, R233) -/
  abortCode : Nat := 0
  mayRetry : Bool := false
  retried : Bool := false
  /-- whether 0x0320 was reported for the pass (R142) -/
  customSeen : Bool := false
  /-- cores whose array datapath check failed in the pass (R65) -/
  arrayCores : List Nat := []
  /-- requests that end at the abort, with their codes (R393) -/
  victims : List (Nat × Nat) := []
deriving DecidableEq, Repr

/-- A collector registration (R263). -/
structure Registration where
  core : Nat
  peg : Nat
  acquire : Bool
  pred : Nat
  value : Nat
deriving DecidableEq, Repr

/-- Pegs at the collector, barriers, pass tables and watchdogs (10_sync.md). -/
structure Sync where
  tables : Tbl PassTable := []
  /-- CORE_MASK and launch of the pass launched last, whose barrier traffic may outlast it (R276) -/
  last : Option (BitVec 64 × Launch) := none
  pegs : Tbl Peg := []
  regs : List Registration := []
  /-- wakes and claims on their way: core and peg, and the VALUE a wake carries -/
  wakes : List (Nat × Nat × Nat) := []
  claims : List (Nat × Nat) := []
  groups : Tbl GroupRun := []
  /-- transfers of the pass's collectives that have not gone out (R307) -/
  colls : List CollSend := []
  /-- arrivals counted by each hand crossbar: key (18·group + hand)·2 + sense -/
  handCnt : Tbl Nat := []
  /-- hand arrivals on their way to the collector: hand, group, sense -/
  handMsgs : List (Nat × Nat × Bool) := []
  missing : BitVec 64 := 0
  laggards : BitVec 64 := 0
  collStatus : ClampRec := {}
  pegWaitUs : Nat := 50000
  passDefaultUs : Nat := 2000000
  stwKickMs : Nat := 100
  pegExp : Nat := 0
  passExp : Nat := 0
  chipExp : Nat := 0
  /-- last KICK of each steward -/
  kicks : Tbl Nat := []
  seq : WeightSeq := {}
deriving DecidableEq, Repr

end Sys2Proof.Machine
end

