-- ==== Sys2Proof/Machine/TypesPower.lean ====
section
/-! DEFINITION. State of the power manager (13_power_thermal.md), and what its readings carry. -/

namespace Sys2Proof.Machine

/-- Activity counts of one estimate interval: per domain (34 for the unswitched fabric) the counts of the event kinds of R346. -/
structure Activity2us where
  counts : List (List Nat)
deriving DecidableEq, Repr

/-- What a regulator's STATUS_WORD says (R359). -/
inductive VrFinding where
  | fine | warning | fault | silent
deriving DecidableEq, Repr

/-- States of a power domain (R343): OFF 0, ON 1, the low state 2. -/
inductive Dom where
  | off | on | low
deriving DecidableEq, Repr

/-- The code of R363. -/
def Dom.code : Dom → Nat
  | .off => 0 | .on => 1 | .low => 2

/-- Module power states (R341, R363). -/
inductive MState where
  | active | readyIdle | standby | tripped
deriving DecidableEq, Repr

/-- MSTATE codes. -/
def MState.code : MState → Nat
  | .active => 0 | .readyIdle => 1 | .standby => 2 | .tripped => 3

/-- A supply rail (R352, R364). Currents in mA, newest interval first. -/
structure Rail where
  ipk : BitVec 16 := 0
  isus : BitVec 16 := 0
  pkHits : Nat := 0
  susHits : Nat := 0
  hist : List Nat := []
  /-- estimates in mW of the intervals since the last calibration -/
  est : List Nat := []
  offset : Int := 0
  lastEvent : Option Nat := none
deriving DecidableEq, Repr

/-- A pass as it counts for energy (R361): its cores, when it ran, its rows, and the rows of each of its requests. -/
structure PassRun where
  cores : Nat
  since : Nat
  ended : Option Nat
  rows : Nat
  shares : List (Nat × Nat)
deriving DecidableEq, Repr

/-- The power manager (R341–R364). -/
structure Power where
  mstate : MState := .active
  doms : Tbl Dom := []
  capCode : BitVec 6 := 32
  /-- the CAP_CODE that the present interval's estimate is held to: a new one applies from the next interval (R350, R360) -/
  capOn : BitVec 6 := 32
  boostEn : Bool := true
  fixed : Bool := false
  attrMode : BitVec 2 := 0
  readyIdleMs : Nat := 20
  fallbackCode : Nat := 16
  tjMax : Nat := 0
  thbmMax : Nat := 0
  temps : List Nat := []
  sCap : Nat := 0
  sRail : Nat := 0
  sTherm : Nat := 0
  sAlert : Nat := 0
  /-- S is forced to 15 by a trip or a coolant stop -/
  stopAll : Bool := false
  /-- the bytes of the image's ENERGY section (R412) -/
  energy : List Nat := []
  hbmHot : Bool := false
  refresh2 : BitVec 6 := 0
  coolantOk : Bool := true
  vrAlert : Bool := false
  /-- the status read that an assertion asks for is still to come (R359) -/
  vrRead : Bool := false
  fallback : Bool := false
  fallbackHeld : Bool := false
  throttle : Bool := false
  hot105 : Bool := false
  boostPending : Bool := false
  /-- when the regulator reported power-good for the entry under way (R354) -/
  powerGoodAt : Option Nat := none
  boosting : Bool := false
  divAt : Nat := 0
  /-- the ARRAY divider and the skip level that hold since the last alignment point (R26, R348) -/
  div8 : Bool := false
  level : Nat := 0
  boostHold : Nat := 0
  /-- P of past intervals in mW, newest first -/
  hist : List Nat := []
  /-- estimate intervals ended: interval n ends at counter value 200n + 200 (R346) -/
  ended : Nat := 0
  sinceRaise : Nat := 16
  railQuiet : Nat := 0
  railOver : Bool := false
  rails : Tbl Rail := []
  /-- CHIP_ENERGY and IDLE_ENERGY in nJ -/
  chipNj : Nat := 0
  idleNj : Nat := 0
  boostTicks : Nat := 0
  /-- skipped pulses in 32nds -/
  skipped32 : Nat := 0
  /-- ARRAY cycles since reset in 32nds (R131, R349) -/
  pulses32 : Nat := 0
  coolantLowAt : Option Nat := none
  glitches : Nat := 0
  throttles : Nat := 0
  fallbacks : Nat := 0
  alertEndAt : Option Nat := none
  lastActivity : Nat := 0
  wokeAt : Nat := 0
  /-- when READY_IDLE was entered last, and when an intake entry was last taken (R360) -/
  idleAt : Option Nat := none
  commitAt : Option Nat := none
  /-- domains woken for a register access and when it was (R437) -/
  touched : Tbl Nat := []
  thermTrip : Bool := false
  /-- TRIP_CAUSE (R460) -/
  tripCause : Nat := 0
  /-- when the module became TRIPPED (R360) -/
  tripAt : Nat := 0
  /-- passes whose tables were freed in the present interval (R361) -/
  ran : List PassRun := []
  /-- bytes that shipments sent in the present interval, by request -/
  shipBytes : List (Nat × Nat) := []
deriving DecidableEq, Repr

end Sys2Proof.Machine
end

