-- ==== Sys2Proof/Machine/TypesServe.lean ====
section
/-! DEFINITION. State of pages, the vine and serving (08_pages_and_vine.md, 09_serving.md). -/

namespace Sys2Proof.Machine

/-- Page states (R186). -/
inductive PageState where
  | free | vat | priv | vine | retiring
deriving DecidableEq, Repr

/-- STATE codes of R185. -/
def PageState.code : PageState → Nat
  | .free => 0 | .vat => 1 | .priv => 2 | .vine => 3 | .retiring => 4

/-- "No parent", the value 0xFFFF_FFFF of R183 and R185. -/
def noIndex : Nat := 0xFFFFFFFF

/-- A page descriptor (R185). -/
structure PageDesc where
  pinEpoch : Nat := 0
  lastUse : Nat := 0
  hits : Nat := 0
  children : Nat := 0
  refs : Nat := 0
  modelGen : Nat := 0
  parent : Nat := 0xFFFFFFFF
  pos0 : Nat := 0
  slot4k : Nat := 0
  domain : Nat := 0
  mslot : Nat := 0
  moving : Bool := false
  ntok : Nat := 0
  state : PageState := .free
deriving DecidableEq, Repr

/-- A vine table entry (R197). -/
structure VineEntry where
  vkey : Nat := 0
  pdi : Nat := 0
  modelGen : Nat := 0
  domain : Nat := 0
  mslot : Nat := 0
  valid : Bool := false
deriving DecidableEq, Repr

/-- A pool partition PART_k of one stack with its water marks (R188, R213). -/
structure Part where
  enable : Bool := false
  base4k : Nat := 0
  count : Nat := 0
  slot4k : Nat := 0
  high : BitVec 20 := 0
  low : BitVec 20 := 0
  pruning : Bool := false
  /-- descriptors read since the last removal of this pruning run, for the full circuit of R209 -/
  idle : Nat := 0
deriving DecidableEq, Repr

/-- The counters of a stack's page block (R213). -/
structure PageCounters where
  lookups : BitVec 64 := 0
  verifyFail : BitVec 64 := 0
  inserts : BitVec 64 := 0
  dedups : BitVec 64 := 0
  pruned : BitVec 64 := 0
  copies : BitVec 64 := 0
  /-- the prune cursor of R209: a descriptor number within the stack -/
  cursor : Nat := 0
deriving DecidableEq, Repr

/-- Pages, partitions, epochs and the vine (R184–R214). -/
structure Pages where
  descs : Tbl PageDesc := []
  /-- partition k of stack m at key 4m + k -/
  parts : Tbl Part := []
  cnts : Tbl PageCounters := []
  /-- 4 KiB units that hold bytes of withdrawn rows (R401) -/
  withdrawn : List Nat := []
  /-- vine entry of set and way at key 4 * set + way -/
  vine : Tbl VineEntry := []
  /-- the vine cache: entries of a cache set, most recently used first (R198) -/
  cache : Tbl (List VineEntry) := []
  newest : Nat := 0xFFFFFF
  oldest : Nat := 0
  /-- epochs retired while an older one is still active -/
  retiredEpochs : List Nat := []
  vcHits : BitVec 64 := 0
  vcMisses : BitVec 64 := 0
  hits : BitVec 64 := 0
deriving DecidableEq, Repr

/-- Session states (R227). -/
inductive SessState where
  | free | idle | busy | racking | racked | unracking
deriving DecidableEq, Repr

/-- STATE codes of R227. -/
def SessState.code : SessState → Nat
  | .free => 0 | .idle => 1 | .busy => 2 | .racking => 3 | .racked => 4 | .unracking => 5

/-- A session table entry (R227) with its page list (R190). A hole left by an unrack is `noIndex` in the list. -/
structure Session where
  rack : Nat := 0
  rack4k : Nat := 0
  rackTtl : Nat := 0
  /-- local-counter value at which the rack expires; the entry shows bits [51:20] -/
  expiry : Option Nat := none
  lastUse : Nat := 0
  mark : Nat := 0
  tail : Nat := 0
  hgen : Nat := 0
  domain : Nat := 0
  stake : Nat := 0
  mslot : Nat := 0
  ring : Nat := 0
  port : Port := .A
  prio : Nat := 0
  preempts : Nat := 0
  state : SessState := .free
  pages : List Nat := []
  /-- the epoch drawn by a rack copy in progress (R217) -/
  rackEpoch : Option Nat := none
  /-- why a rack in progress was started: 0 END 1, 1 pre-empted while IDLE, 2 pre-empted while generating -/
  rackWhy : Nat := 0
  /-- pages on which the rack copy holds a reference of its own (R205) -/
  rackHeld : List Nat := []
deriving DecidableEq, Repr

/-- A decoded request descriptor (R225). -/
structure Desc where
  tokens : Nat := 0
  pour : Nat := 0
  rack : Nat := 0
  rack4k : Nat := 0
  rackTtl : Nat := 0
  session : Nat := 0
  parent : Nat := 0
  ntok : Nat := 0
  basepos : Nat := 0
  shareLen : Nat := 0
  kicker : Nat := 0
  temp : Nat := 0
  stops : List Nat := []
  seed : Nat := 0
  maxNew : Nat := 0
  topK : Nat := 0
  partner : Nat := 0
  lookupN : Nat := 0
  ncand : Nat := 0
  handoff : Nat := 0
  endMode : Nat := 0
  pourPhase : Bool := false
  fork : Bool := false
  prio : Nat := 0
  domain : Nat := 0
  stake : Nat := 0
  mslot : Nat := 0
  version : Nat := 0
  magic : Nat := 0
deriving DecidableEq, Repr

/-- A stake entry (R244). -/
structure StakeEntry where
  budget : Nat := 0
  len : Nat := 0
  genWt : Nat := 0
  vineWt : Nat := 0
  maxPrio : Nat := 0
  defer : Bool := false
  enable : Bool := false
deriving DecidableEq, Repr

/-- A stake's running interval (R245): T0, the interval number USED belongs to, and USED. -/
structure StakeRun where
  t0 : Nat := 0
  interval : Nat := 0
  used : Nat := 0
deriving DecidableEq, Repr

/-- A share-domain entry (R246). -/
structure DomEntry where
  cap : Nat := 0
  enable : Bool := false
  pri : Nat := 0
deriving DecidableEq, Repr

/-- Where an admitted or waiting request stands. -/
inductive Phase where
  /-- waits in its stake's queue (R245) -/
  | waitStake
  /-- waits in its model slot's queue (R250) -/
  | waitModel
  /-- admitted, the vine walk is due (R229) -/
  | walk
  /-- computing prompt chunks -/
  | prefill
  /-- a first token is poured, the request waits for a generation slot (R239) -/
  | waitGen
  /-- generating: a step waits or runs -/
  | generating
  /-- the closing row waits or runs (R228) -/
  | closing
  /-- a shipment is under way (R240) -/
  | shipping
  /-- the session is being racked at the end of the request -/
  | ending
deriving DecidableEq, Repr

/-- A request the device has read (R225–R254). -/
structure Req where
  rid : Nat
  port : Port
  ring : Nat
  cookie : BitVec 64
  desc : Desc
  tokens : List Nat
  sess : Nat := 0
  phase : Phase
  tCommit : Nat
  tAdmit : Nat := 0
  tFirst : Option Nat := none
  stakeEntry : StakeEntry := {}
  stakeEpoch : Nat := 0
  stakeInterval : Nat := 0
  stakeT0 : Nat := 0
  reserved : Nat := 0
  computed : Nat := 0
  vine : Nat := 0
  /-- next prompt position to compute and the first position computed (chunk boundaries of R231) -/
  nextPos : Nat := 0
  firstPos : Nat := 0
  /-- tokens poured, in order -/
  answer : List Nat := []
  steps : Nat := 0
  /-- since when a step or closing row waits (R232) -/
  waitSince : Nat := 0
  kicker : Option Nat := none
  inPass : Bool := false
  /-- the code with which the request ends at its next pass boundary -/
  endCode : Option Nat := none
  /-- the function lost its host: no pour and no record (R332) -/
  silent : Bool := false
  info : List Nat := []
  attrMode : Nat := 0
  numsum : BitVec 64 := 0
  energy : Nat := 0
  stop : Nat := 0
  /-- the outcome of a request that ends after its closing row -/
  closeCode : Nat := 0
  preempts : Nat := 0
deriving DecidableEq, Repr

/-- An intake ring with its completion ring (R221, R222, R329). -/
structure Ring where
  vector : BitVec 8 := 0
  log2ent : BitVec 4 := 6
  enable : Bool := false
  cqBase : BitVec 64 := 0
  cqHead : BitVec 16 := 0
  cqTail : BitVec 16 := 0
  log2cq : BitVec 4 := 6
  cons : BitVec 16 := 0
  /-- expected phase of the next entry (R223) and phase of the next record (R242) -/
  inPhase : Bool := true
  cqPhase : Bool := true
  armed : Bool := false
  /-- entries in the BAR2 area, by slot -/
  area : Tbl (BitVec 256) := []
  /-- CANCEL entries handled ahead of their turn (R254), by index -/
  handled : List Nat := []
deriving DecidableEq, Repr

/-- A completion record that waits (R242): the 1,024 bits but PHASE and T_TOTAL, and the commit time of its entry. -/
structure CompRec where
  port : Port
  ring : Nat
  bits : Nat
  tCommit : Nat
deriving DecidableEq, Repr

/-- Model slot states (R249). -/
inductive SlotState where
  | empty | loading | ready | draining
deriving DecidableEq, Repr

/-- A decoded model load block (R249). -/
structure ModelBlock where
  pkg : Nat := 0
  pkgBytes : Nat := 0
  eos : List Nat := []
  nl : Nat := 0
  nh : Nat := 0
  d : Nat := 0
  kvfmt : Nat := 0
  pgroup : Nat := 0
  force : Bool := false
  source : Nat := 0
  mslot : Nat := 0
  magic : Nat := 0
deriving DecidableEq, Repr

/-- The entry that a model load or unload answers with its record. -/
structure AdminReply where
  port : Port
  ring : Nat
  cookie : BitVec 64
  tCommit : Nat
deriving DecidableEq, Repr

/-- A resident model slot (R249, R250). -/
structure ModelSlot where
  state : SlotState := .empty
  gen : Nat := 0
  /-- the block of the model held or being loaded -/
  block : ModelBlock := {}
  slot4k : Nat := 0
  /-- after draining: a load's block, or none for an unload -/
  next : Option ModelBlock := none
  drainStart : Nat := 0
  reply : Option AdminReply := none
  /-- weights written, so that the partitions may be set -/
  written : Bool := false
  /-- MODEL_ID (R308), 32 bytes as a number: of the model held or being loaded, and of the load that waits for draining -/
  modelId : Nat := 0
  nextId : Nat := 0
deriving DecidableEq, Repr

/-- A kicker version in its slot (R251, R252). -/
structure Kicker where
  name : Nat
  mslot : Nat
  rank : Nat
  fmt : Nat
  sites : List Nat
  /-- K/64 and N/64 of the model's matrices 0–6 (R252, log entry 21) -/
  dims : List (Nat × Nat)
  /-- device address and size of its matrices in the kicker pool -/
  base : Nat
  bytes : Nat
  refs : Nat := 0
  /-- whether the name still refers to this version -/
  current : Bool := true
deriving DecidableEq, Repr

/-- Image parameters of serving (R411, R231, R232, R239, R250). -/
structure ServeParams where
  chunkMax : Nat := 8192
  genWaitMaxUs : Nat := 50000
  localMax : Nat := 256
  genSlots : Nat := 1024
  drainMaxMs : Nat := 0
  sessBase : Option Nat := none
  listBase : Option Nat := none
deriving DecidableEq, Repr

/-- Serving (R220–R254). -/
structure Serve where
  sessions : Tbl Session := []
  reqs : List Req := []
  nextRid : Nat := 0
  rings : Tbl Ring := []
  records : List CompRec := []
  stakes : Tbl StakeEntry := []
  stakesShadow : Tbl StakeEntry := []
  stakeEpoch : BitVec 8 := 0
  stakeRuns : Tbl StakeRun := []
  doms : Tbl DomEntry := []
  domsShadow : Tbl DomEntry := []
  models : Tbl ModelSlot := []
  kickers : Tbl (Option Kicker) := []
  params : ServeParams := {}
  /-- bytes that a stream, a port or a partner wrote over the session table or the page lists in HBM, each with the byte the stewards had
  put there, plus 1 (R29, R220; log entry 43) -/
  overlay : Tbl (Nat × Nat) := []
  /-- the model slot whose turn it is (R232) -/
  turn : Nat := 0
deriving DecidableEq, Repr

end Sys2Proof.Machine
end

