-- ==== Sys2Proof/Machine/TypesCommands.lean ====
section
/-! DEFINITION. What commands carry beside numbers: launches, logits, debug accesses, detections, scrub results, register targets. -/

namespace Sys2Proof.Machine

/-- A row of logits that a pass computed for a request's sampled row (R236): its format code and its code words. -/
structure LogitRow where
  row : Nat
  fmt : Nat
  codes : List Nat
deriving DecidableEq, Repr

/-- A partition that the stewards set when a model is loaded (R188, R250). -/
structure PartDecl where
  stack : Fin 6
  base4k : Nat
  count : Nat
  slot4k : Nat
deriving DecidableEq, Repr

/-- A DBG_ACCESS (R379). -/
inductive DbgAccess where
  | read (addr : BitVec 48)
  | write (addr : BitVec 48) (data : BitVec 64)
deriving DecidableEq, Repr

/-- Where an uncorrectable error is found (R392, R393). -/
inductive Detect where
  /-- a sector of HBM, at its linear address -/
  | hbm (addr : BitVec 48)
  /-- a word of a core slot's SRAM at a local offset -/
  | sram (slot : Fin 72) (off : Fin 6291456)
  /-- a word at the end of a mesh route: the device address it goes to, or none where it is lost -/
  | mesh (dst : Option (BitVec 48)) (router : Nat)
  | array (slot : Fin 72)
  | sfu (slot : Fin 72)
  | press (m : Fin 6)
  /-- steward SRAM, the vine cache or the session-table cache -/
  | stewardSram (n : Fin 4)
  | controlMesh (router : Nat)
  /-- tensor or page data met on the control mesh (R23) -/
  | controlData (router : Nat)
  /-- descriptors, vine sets, session table or page lists -/
  | tables (addr : BitVec 48)
  /-- an epilogue or row-state buffer of a core slot -/
  | coreBuffer (slot : Fin 72)
  /-- a port's buffer, at the device address its word goes to, if that is known -/
  | portBuffer (p : Port) (dst : Option (BitVec 48))
  /-- the buffer of a link group, at a link and the device address its word goes to, if that is known -/
  | linkBuffer (l : Fin 48) (dst : Option (BitVec 48))
deriving DecidableEq, Repr

/-- What consumes a poisoned word (R393). -/
inductive Consumer where
  | core (c : Fin 64)
  | steward (n : Fin 4)
  | port (p : Port)
  | link (l : Fin 48)
deriving DecidableEq, Repr

/-- Where corrected errors are counted (R404). -/
inductive CeSource where
  | hbm (m : Fin 6) (addr : BitVec 48)
  | sram (slot : Fin 72) (off : Fin 6291456)
  | mesh (router : Nat)
deriving DecidableEq, Repr

/-- What a patrol scrub found (R402): for a line of SRAM, the failing 8-byte word of the line; a sector of HBM fails whole. -/
inductive ScrubResult where
  | clean
  | corrected
  | uncorrectable (word : Fin 64)
deriving DecidableEq, Repr

/-- What the hardware under boot answers (R418, R419): whether the NVM answers, and the slots whose arrays fail the boot test. -/
structure BootFacts where
  nvmAnswers : Bool
  badSlots : List (Fin 72)
deriving DecidableEq, Repr

/-- What a register access names: an offset of a PF's BAR0 or BAR4 (R321), an offset of seat `n`'s VF BAR0 (R323), or the Message Control word
of function `n`'s MSI-X capability (R330). -/
inductive RegTarget where
  | bar0 (off : BitVec 26)
  | seat (n : Fin 16) (off : BitVec 16)
  | bar4 (off : BitVec 16)
  | msixControl (n : Fin 16)
deriving DecidableEq, Repr

/-- A steward's access as it reaches a peg (R260): its size, where any count but 8 is a partial-word access, a write's value, and whether it
is a read. -/
structure PegStore where
  bytes : Nat
  data : BitVec 64
  read : Bool
deriving DecidableEq, Repr

/-- A kicker's load block as read from the host (R251, R252, log entry 21). -/
structure KickerBlock where
  name : Nat
  mslot : Fin 4
  rank : Nat
  fmt : Nat
  /-- the format code of the activations of the slot's model, which its package fixes (R252) -/
  modelFmt : Nat
  sites : List Nat
  /-- host address of the matrices -/
  addr : BitVec 64
  dims : List (Nat × Nat)
  /-- bytes of the block itself at DESC (R326) -/
  len : Nat := 128
deriving DecidableEq, Repr

end Sys2Proof.Machine
end

