-- ==== Sys2Proof/Syntax.lean ====
section
/-! DEFINITION. The commands the module takes: one constructor per row of the opcode table, with the rule of each. -/

namespace Sys2Proof

/-- A command or event of the module. Core numbers are logical, slots physical, links L00–L47, stacks M0–M5, seats functions of a port. -/
inductive Instr where
  /-- NOP (R94). -/
  | nop (c : Fin 64) (w : Word)
  /-- END (R94). -/
  | endPart (c : Fin 64) (w : Word)
  /-- LOOP (R95). -/
  | loop (c : Fin 64) (w : Word)
  /-- SETC (R94). -/
  | setc (c : Fin 64) (w : Word)
  /-- LDCX (R94). -/
  | ldcx (c : Fin 64) (w : Word)
  /-- MM (R59). -/
  | mm (c : Fin 64) (w : Word)
  /-- MMW (R67). -/
  | mmw (c : Fin 64) (w : Word)
  /-- DECANTER_FORWARD (R169). -/
  | decanterForward (c : Fin 64) (w : Word)
  /-- DECANTER_RECOMPUTE (R176). -/
  | decanterRecompute (c : Fin 64) (w : Word)
  /-- MAP (R137). -/
  | map (c : Fin 64) (w : Word)
  /-- EPISET (R88). -/
  | episet (c : Fin 64) (w : Word)
  /-- ROWSTAT (R152). -/
  | rowstat (c : Fin 64) (w : Word)
  /-- ROWSTAT_COMBINE (R155). -/
  | rowstatCombine (c : Fin 64) (w : Word)
  /-- ROWNORM (R157). -/
  | rownorm (c : Fin 64) (w : Word)
  /-- TBLOAD (R143). -/
  | tbload (c : Fin 64) (w : Word)
  /-- SUBMIT (R106). -/
  | submit (c : Fin 64) (w : Word)
  /-- KFETCH (R130). -/
  | kfetch (c : Fin 64) (w : Word)
  /-- CONVFEED (R92). -/
  | convfeed (c : Fin 64) (w : Word)
  /-- PEG_SET (R258). -/
  | pegSet (c : Fin 64) (w : Word)
  /-- PEG_ADD (R258). -/
  | pegAdd (c : Fin 64) (w : Word)
  /-- ACQUIRE (R262). -/
  | acquire (c : Fin 64) (w : Word)
  /-- MONITOR (R262). -/
  | monitor (c : Fin 64) (w : Word)
  /-- PEG_REGISTER (R263). -/
  | pegRegister (c : Fin 64)
  /-- PEG_WAKE (R263). -/
  | pegWake (c : Fin 64)
  /-- PEG_CLAIM (R258). -/
  | pegClaim (c : Fin 64)
  /-- STEWARD_PEG_SET (R260). -/
  | stewardPegSet (n : Fin 4) (addr : BitVec 48) (store : Machine.PegStore)
  /-- STEWARD_PEG_ADD (R260). -/
  | stewardPegAdd (n : Fin 4) (addr : BitVec 48) (store : Machine.PegStore)
  /-- STREAM_COPY (R108). -/
  | streamCopy (c : Fin 64) (q : Fin 16) (host : Cells)
  /-- STREAM_GATHER (R112). -/
  | streamGather (c : Fin 64) (q : Fin 16) (host : Cells)
  /-- STREAM_SCATTER (R112). -/
  | streamScatter (c : Fin 64) (q : Fin 16) (host : Cells)
  /-- SCALEFEED (R117). -/
  | scalefeed (c : Fin 64) (q : Fin 16) (host : Cells)
  /-- DESCRIPTOR_COMPLETE (R111). -/
  | descriptorComplete (c : Fin 64) (q : Fin 16)
  /-- WEIGHT_ROUND_REQUEST (R123). -/
  | weightRoundRequest (c : Fin 64)
  /-- WEIGHT_ROUND_START (R123). -/
  | weightRoundStart
  /-- PASS_LAUNCH (R232). -/
  | passLaunch (k : Fin 4) (l : Machine.Launch)
  /-- COMPLETION_SLOT_WRITE (R272). -/
  | completionSlotWrite (c : Fin 64)
  /-- PASS_COMMIT (R234). -/
  | passCommit (t : Fin 4) (logits : List Machine.LogitRow)
  /-- RACK_COMPLETE (R217). -/
  | rackComplete (sess : Nat) (ok : Bool)
  /-- PASS_ABORT (R127). -/
  | passAbort (t : Fin 4) (code : BitVec 16)
  /-- PASS_RETRY (R233). -/
  | passRetry (t : Fin 4)
  /-- DRAIN_LIMIT_EXPIRY (R467). -/
  | drainLimitExpiry (c : Fin 64)
  /-- PEG_WAIT_EXPIRY (R275). -/
  | pegWaitExpiry (c : Fin 64)
  /-- PASS_WATCHDOG_EXPIRY (R275). -/
  | passWatchdogExpiry (t : Fin 4)
  /-- CHIP_BARRIER_EXPIRY (R275). -/
  | chipBarrierExpiry (g : Fin 7)
  /-- STEWARD_WATCHDOG_EXPIRY (R275). -/
  | stewardWatchdogExpiry (n : Fin 4)
  /-- KICK (R282). -/
  | kick (r : Requester) (v : BitVec 64)
  /-- HAND_ARRIVAL (R268). -/
  | handArrival (h : Fin 18) (g : Fin 7) (sense : Bool)
  /-- SYNC_ARRIVE (R268). -/
  | syncArrive (l : Fin 48) (f : Machine.Frame)
  /-- SYNC_RELEASE (R269). -/
  | syncRelease (l : Fin 48) (f : Machine.Frame)
  /-- REQUEST (R229). -/
  | request (p : Port) (n : Fin 16) (e : BitVec 256) (host : Cells)
  /-- CANCEL (R253). -/
  | cancel (p : Port) (n : Fin 16) (e : BitVec 256) (ahead : Nat)
  /-- STAKE_LOAD (R244). -/
  | stakeLoad (p : Port) (n : Fin 16) (e : BitVec 256) (host : Cells)
  /-- DOMAIN_LOAD (R246). -/
  | domainLoad (p : Port) (n : Fin 16) (e : BitVec 256) (host : Cells)
  /-- DOMAIN_PURGE (R210). -/
  | domainPurge (p : Port) (n : Fin 16) (e : BitVec 256)
  /-- MODEL_LOAD (R250). -/
  | modelLoad (p : Port) (n : Fin 16) (e : BitVec 256) (host : Cells)
  /-- MODEL_UNLOAD (R250). -/
  | modelUnload (p : Port) (n : Fin 16) (e : BitVec 256)
  /-- MODEL_DRAINED (R250). -/
  | modelDrained (k : Fin 4)
  /-- MODEL_DRAIN_TIMEOUT (R250). -/
  | modelDrainTimeout (k : Fin 4)
  /-- MODEL_PARTITIONS_SET (R250). -/
  | modelPartitionsSet (k : Fin 4) (parts : List Machine.PartDecl) (weights : Cells)
  /-- KICKER_LOAD (R251). -/
  | kickerLoad (p : Port) (n : Fin 16) (e : BitVec 256) (host : Cells) (k : Machine.KickerBlock)
  /-- KICKER_DROP (R251). -/
  | kickerDrop (p : Port) (n : Fin 16) (e : BitVec 256)
  /-- SESSION_CLOSE (R228). -/
  | sessionClose (p : Port) (n : Fin 16) (e : BitVec 256)
  /-- SESSION_QUERY (R227). -/
  | sessionQuery (p : Port) (n : Fin 16) (e : BitVec 256)
  /-- INTAKE_ILLEGAL_OPCODE (R224). -/
  | intakeIllegalOpcode (p : Port) (n : Fin 16) (e : BitVec 256)
  /-- VINE_WALK (R199). -/
  | vineWalk (sess : Nat) (ahead : Fin 16)
  /-- STAKE_INTERVAL_START (R245). -/
  | stakeIntervalStart (k : BitVec 12)
  /-- PRUNE_ROUND (R209). -/
  | pruneRound (m : Fin 6) (k : Fin 4)
  /-- UNRACK (R219). -/
  | unrack (sess : Nat) (host : Cells)
  /-- RACK_EXPIRY (R218). -/
  | rackExpiry (sess : Nat)
  /-- COMPLETION_RECORD_WRITE (R242). -/
  | completionRecordWrite (p : Port) (n : Fin 16)
  /-- CQ_HEAD_WRITE (R329). -/
  | cqHeadWrite (r : Requester) (p : Port) (n : Fin 16) (v : BitVec 64)
  /-- RING_ENABLE (R221). -/
  | ringEnable (r : Requester) (p : Port) (n : Fin 16) (v : BitVec 64)
  /-- RING_DISABLE (R221). -/
  | ringDisable (r : Requester) (p : Port) (n : Fin 16) (v : BitVec 64)
  /-- SHIP_GRANT (R309). -/
  | shipGrant (l : Fin 48) (f : Machine.Frame)
  /-- SHIP_REFUSE (R309). -/
  | shipRefuse (l : Fin 48) (f : Machine.Frame)
  /-- SHIP_OFFER_TIMEOUT (R309). -/
  | shipOfferTimeout (id : BitVec 32)
  /-- SHIP_NACK (R312). -/
  | shipNack (l : Fin 48) (f : Machine.Frame)
  /-- SHIP_DONE (R309). -/
  | shipDone (l : Fin 48) (f : Machine.Frame)
  /-- SHIP_ABORT (R312). -/
  | shipAbort (l : Fin 48) (f : Machine.Frame)
  /-- SHIP_OFFER (R311). -/
  | shipOffer (l : Fin 48) (f : Machine.Frame)
  /-- SHIP_LIMIT_EXPIRY (R312). -/
  | shipLimitExpiry (id : BitVec 32)
  /-- ACCEPT (R308). -/
  | accept (l : Fin 48) (f : Machine.Frame)
  /-- WRITE (R301). -/
  | write (l : Fin 48) (f : Machine.Frame)
  /-- WINDOW_REVOKE (R302). -/
  | windowRevoke (id : BitVec 8)
  /-- REVOKE_ACK (R302). -/
  | revokeAck (l : Fin 48) (f : Machine.Frame)
  /-- REVOKE_GRACE_EXPIRY (R302). -/
  | revokeGraceExpiry (id : BitVec 8)
  /-- MODEL_REQ (R313). -/
  | modelReq (l : Fin 48) (f : Machine.Frame)
  /-- MODEL_STRIPE (R313). -/
  | modelStripe (l : Fin 48) (f : Machine.Frame)
  /-- MODEL_HAVE (R313). -/
  | modelHave (l : Fin 48) (f : Machine.Frame)
  /-- MODEL_NONE (R313). -/
  | modelNone (l : Fin 48) (f : Machine.Frame)
  /-- MODEL_DONE (R313). -/
  | modelDone (l : Fin 48) (f : Machine.Frame)
  /-- MODEL_REPLY_TIMEOUT (R313). -/
  | modelReplyTimeout (l : Fin 48)
  /-- MODEL_LIMIT_EXPIRY (R313). -/
  | modelLimitExpiry (k : Fin 4)
  /-- SIGNAL_DETECT (R297). -/
  | signalDetect (l : Fin 48)
  /-- SIGNAL_LOSS (R297). -/
  | signalLoss (l : Fin 48)
  /-- TRAINING_TIMEOUT (R285). -/
  | trainingTimeout (l : Fin 48)
  /-- TRAINING_RESTART (R285). -/
  | trainingRestart (l : Fin 48)
  /-- FEC_LOCK (R292). -/
  | fecLock (l : Fin 48)
  /-- NULL (R289). -/
  | null (l : Fin 48) (f : Machine.Frame)
  /-- HELLO (R294). -/
  | hello (l : Fin 48) (f : Machine.Frame)
  /-- CERT (R372). -/
  | cert (l : Fin 48) (f : Machine.Frame)
  /-- KEM_EK (R294). -/
  | kemEk (l : Fin 48) (f : Machine.Frame)
  /-- KEM_CT (R294). -/
  | kemCt (l : Fin 48) (f : Machine.Frame)
  /-- AUTH (R294). -/
  | auth (l : Fin 48) (f : Machine.Frame)
  /-- FINISH (R294). -/
  | finish (l : Fin 48) (f : Machine.Frame)
  /-- REPLAY_REQ (R290). -/
  | replayReq (l : Fin 48) (f : Machine.Frame)
  /-- LINK_FRAME_MALFORMED (R289). -/
  | linkFrameMalformed (l : Fin 48) (f : Machine.Frame)
  /-- HANDSHAKE_TIMEOUT (R295). -/
  | handshakeTimeout (l : Fin 48)
  /-- HANDSHAKE_REFUSED_RETRY (R295). -/
  | handshakeRefusedRetry (l : Fin 48)
  /-- REKEY_START (R296). -/
  | rekeyStart (l : Fin 48)
  /-- REKEY_TIMEOUT (R296). -/
  | rekeyTimeout (l : Fin 48)
  /-- LIVENESS_TIMEOUT (R299). -/
  | livenessTimeout (l : Fin 48)
  /-- FEC_UNCORR_LIMIT (R299). -/
  | fecUncorrLimit (l : Fin 48) (n : Nat)
  /-- REPLAY_NO_PROGRESS (R299). -/
  | replayNoProgress (l : Fin 48)
  /-- CREDIT_STALL (R297). -/
  | creditStall (l : Fin 48) (cls : Fin 3)
  /-- SLOW_EXIT (R297). -/
  | slowExit (l : Fin 48)
  /-- QUARANTINE_HOLD_EXPIRY (R297). -/
  | quarantineHoldExpiry (l : Fin 48)
  /-- LINK_ENABLE (R314). -/
  | linkEnable (r : Requester) (l : Fin 48) (v : BitVec 64)
  /-- LINK_DISABLE (R314). -/
  | linkDisable (r : Requester) (l : Fin 48) (v : BitVec 64)
  /-- RETRAIN (R314). -/
  | retrain (r : Requester) (l : Fin 48) (v : BitVec 64)
  /-- QUAR_RELEASE (R314). -/
  | quarRelease (r : Requester) (l : Fin 48) (v : BitVec 64)
  /-- PERST_ASSERT (R331). -/
  | perstAssert (p : Port)
  /-- PERST_DEASSERT (R334). -/
  | perstDeassert (p : Port)
  /-- DATA_LINK_DOWN (R331). -/
  | dataLinkDown (p : Port) (refclkLost : Bool)
  /-- HOT_RESET (R331). -/
  | hotReset (p : Port)
  /-- PF_FLR (R338). -/
  | pfFlr (p : Port)
  /-- PF_BME_CLEAR (R331). -/
  | pfBmeClear (p : Port)
  /-- VF_ENABLE_CLEAR (R331). -/
  | vfEnableClear (p : Port) (numVf : Fin 16)
  /-- SEAT_FLR (R338). -/
  | seatFlr (p : Port) (n : Fin 16)
  /-- SEAT_BME_CLEAR (R331). -/
  | seatBmeClear (p : Port) (n : Fin 16)
  /-- D3HOT_ENTRY (R331). -/
  | d3hotEntry (p : Port) (n : Fin 16)
  /-- QUIESCE_DONE (R332). -/
  | quiesceDone (p : Port) (n : Fin 16)
  /-- BUS_MASTER_ENABLE_SET (R332). -/
  | busMasterEnableSet (p : Port) (n : Fin 16)
  /-- PCIE_LINK_UP (R334). -/
  | pcieLinkUp (p : Port) (speed : Fin 6) (width : Fin 17)
  /-- RACKING_WINDOW_ENABLE (R325). -/
  | rackingWindowEnable (r : Requester) (p : Port) (win : Fin 64) (v : BitVec 64)
  /-- ESTIMATE_INTERVAL_END (R346). -/
  | estimateIntervalEnd (a : Machine.Activity2us)
  /-- PMBUS_CALIBRATION (R347). -/
  | pmbusCalibration (readings : List Nat)
  /-- BOOST_ENTRY (R354). -/
  | boostEntry
  /-- BOOST_POWER_GOOD (R354). -/
  | boostPowerGood
  /-- TEMPERATURE_READING (R356). -/
  | temperatureReading (temps : List Nat)
  /-- HBM_TEMPERATURE_READING (R356). -/
  | hbmTemperatureReading (t : List Nat)
  /-- COOLANT_OK_FALL (R358). -/
  | coolantOkFall
  /-- COOLANT_OK_RISE (R421). -/
  | coolantOkRise
  /-- COOLANT_STOP (R358). -/
  | coolantStop
  /-- VR_ALERT_ASSERT (R359). -/
  | vrAlertAssert
  /-- VR_STATUS_READ (R359). -/
  | vrStatusRead (st : List Machine.VrFinding)
  /-- FALLBACK_WINDOW_EXPIRY (R359). -/
  | fallbackWindowExpiry
  /-- READY_IDLE_ENTRY (R341). -/
  | readyIdleEntry
  /-- READY_IDLE_WAKE (R345). -/
  | readyIdleWake
  /-- ROOT_PLL_LOSS (R27). -/
  | rootPllLoss
  /-- DBG_CHAL (R381). -/
  | dbgChal
  /-- DBG_TOKEN (R381). -/
  | dbgToken (token : List Nat)
  /-- TOKEN_VERIFIED (R381). -/
  | tokenVerified
  /-- UNLOCK_LOCKOUT_EXPIRY (R382). -/
  | unlockLockoutExpiry
  /-- DBG_STATUS (R381). -/
  | dbgStatus (lower : Option (Fin 4))
  /-- DBG_ACCESS (R379). -/
  | dbgAccess (a : Machine.DbgAccess)
  /-- DBG_SCAN (R379). -/
  | dbgScan (chain : Nat) (bits : List Bool)
  /-- EXTEST (R380). -/
  | extest (bits : List Bool)
  /-- SAMPLE_PRELOAD (R380). -/
  | samplePreload (bits : List Bool)
  /-- IDCODE (R380). -/
  | idcode
  /-- CLAMP (R380). -/
  | clamp (bits : List Bool)
  /-- HIGHZ (R380). -/
  | highz (bits : List Bool)
  /-- BYPASS (R380). -/
  | bypass
  /-- ZEROISE (R384). -/
  | zeroise (r : Requester) (v : BitVec 64)
  /-- ZEROISATION_COMPLETE (R384). -/
  | zeroisationComplete
  /-- ATTESTATION_GO (R376). -/
  | attestationGo (r : Requester) (v : BitVec 64)
  /-- ATTESTATION_SIGNED (R376). -/
  | attestationSigned
  /-- RNG_HEALTH_FAIL (R368). -/
  | rngHealthFail
  /-- DRBG_RESEED (R368). -/
  | drbgReseed
  /-- UNCORRECTABLE_DETECT (R393). -/
  | uncorrectableDetect (d : Machine.Detect)
  /-- POISON_CONSUME (R393). -/
  | poisonConsume (c : Machine.Consumer) (addr : BitVec 48)
  /-- CE_LIMIT_REACHED (R404). -/
  | ceLimitReached (d : Machine.CeSource) (n : Nat)
  /-- CELLAR_KEY_REQUEST (R403). -/
  | cellarKeyRequest (a : Machine.Activity)
  /-- CELLAR_KEY_RELEASE (R403). -/
  | cellarKeyRelease (a : Machine.Activity)
  /-- TARGETED_TEST_VERDICT (R397). -/
  | targetedTestVerdict (a : Machine.Activity) (pass : Bool) (second : Bool)
  /-- COMPACTION (R212). -/
  | compaction (m : Fin 6) (page : Nat)
  /-- HBM_PATROL_SCRUB (R402). -/
  | hbmPatrolScrub (m : Fin 6) (sector : BitVec 48) (r : Machine.ScrubResult)
  /-- SRAM_PATROL_SCRUB (R402). -/
  | sramPatrolScrub (slot : Fin 72) (line : Fin 12288) (r : Machine.ScrubResult)
  /-- SUPPLY_52V_APPLY (R406). -/
  | supply52vApply
  /-- RESET_IN_ASSERT (R406). -/
  | resetInAssert (ns : Nat)
  /-- RESET_IN_DEASSERT (R419). -/
  | resetInDeassert (b : Machine.BootFacts)
  /-- FIRMWARE_READY (R420). -/
  | firmwareReady
  /-- LOADER_REBOOT (R425). -/
  | loaderReboot
  /-- RESCUE_NEXT (R422). -/
  | rescueNext (r : Requester) (v : BitVec 64)
  /-- RESCUE_GO (R424). -/
  | rescueGo (r : Requester) (v : BitVec 64) (host : Cells)
  /-- RESCUE_INSTALL_DONE (R425). -/
  | rescueInstallDone (ok : Bool)
  /-- READ_ID (R459). -/
  | readId
  /-- READ_STATUS (R459). -/
  | readStatus
  /-- READ_POWER (R459). -/
  | readPower
  /-- READ_TRIP (R460). -/
  | readTrip
  /-- READ_LOG (R459). -/
  | readLog (k : BitVec 16)
  /-- READ_REPAIR (R460). -/
  | readRepair (k : BitVec 16)
  /-- READ_TIME (R459). -/
  | readTime
  /-- ZARM (R459). -/
  | zarm
  /-- ZARM_EXPIRY (R459). -/
  | zarmExpiry
  /-- SMB_ZEROISE (R459). -/
  | smbZeroise (x : Machine.SmbCall)
  /-- SMB_RESCUE (R459). -/
  | smbRescue (x : Machine.SmbCall)
  /-- EN_MATE (R455). -/
  | enMate
  /-- POWER_ON_RESET_END (R455). -/
  | powerOnResetEnd
  /-- EN_BREAK (R456). -/
  | enBreak
  /-- INPUT_LOCKOUT (R454). -/
  | inputLockout
  /-- CIRCUIT_BREAKER_TRIP (R454). -/
  | circuitBreakerTrip
  /-- LOCAL_TIME_LOW_READ (R433). -/
  | localTimeLowRead (r : Requester)
  /-- CTR_CLEAR (R132). -/
  | ctrClear (r : Requester) (c : Fin 64) (v : BitVec 64)
  /-- REGISTER_WRITE (R434). -/
  | registerWrite (r : Requester) (t : Machine.RegTarget) (size : Nat) (v : BitVec 64)
  /-- REFCLK_DETECT (R28). -/
  | refclkDetect (p : Port)
  /-- PCIE_COMPLETION_TIMEOUT (R318). -/
  | pcieCompletionTimeout (p : Port) (rid : Nat)
  /-- RATE_WIDTH_CHANGE (R318). -/
  | rateWidthChange (p : Port) (speed : Fin 6) (width : Fin 17)
  /-- VF_ENABLE_SET (R320). -/
  | vfEnableSet (p : Port) (numVf : Fin 16)
  /-- VECTOR_UNMASK (R330). -/
  | vectorUnmask (p : Port) (n : Fin 16) (vec : Fin 64)
  /-- RETURN_TO_D0 (R331). -/
  | returnToD0 (p : Port) (n : Fin 16)
  /-- ASPM_L1_ENTRY (R343). -/
  | aspmL1Entry (p : Port)
  /-- ASPM_L1_EXIT (R343). -/
  | aspmL1Exit (p : Port)
  /-- VR_ALERT_DEASSERT (R359). -/
  | vrAlertDeassert
  /-- RETURN_TO_GATED (R437). -/
  | returnToGated (d : Fin 34)
  /-- AUTH_SIGNED (R369). -/
  | authSigned (l : Fin 48)
  /-- VERIFICATION_DONE (R369). -/
  | verificationDone
  /-- WINDOW_GRANT (R313). -/
  | windowGrant (l : Fin 48) (f : Machine.Frame)
  /-- UNRACK_COMPLETE (R219). -/
  | unrackComplete (sess : Nat) (host : Cells)
deriving DecidableEq, Repr

end Sys2Proof
end

