-- ==== Sys2Proof/Machine/Hashes.lean ====
section
/-! DEFINITION. The checksums and hashes the spec computes: CRC-32C (R140), the 64-bit mix of R44 and SHAKE256 (R196, R294, R308, R366). -/

namespace Sys2Proof.Machine

/-- One bit step of the reflected CRC-32C (polynomial 0x1EDC_6F41 of R140, reflected 0x82F6_3B78). -/
def crcBit (c : Nat) : Nat := if c % 2 = 1 then (c / 2) ^^^ 0x82F63B78 else c / 2

/-- One byte step of the CRC-32C. -/
def crcByte (c b : Nat) : Nat :=
  crcBit (crcBit (crcBit (crcBit (crcBit (crcBit (crcBit (crcBit (c ^^^ (b % 256)))))))))

/-- CRC-32C of R140: initial value and final XOR 0xFFFF_FFFF. -/
def crc32c (bs : List Nat) : Nat := (bs.foldl crcByte 0xFFFFFFFF) ^^^ 0xFFFFFFFF

/-- One bit step of the SMBus CRC-8 (polynomial x^8 + x^2 + x + 1). -/
def crc8Bit (c : Nat) : Nat := if bit c 7 then (2 * c % 256) ^^^ 0x07 else 2 * c

/-- The PEC of the bytes of an SMBus transaction (R458): the CRC-8 of SMBus, which the manual does not repeat (PRESUMED, log entry 38). -/
def crc8 (bs : List Nat) : Nat :=
  bs.foldl (fun c b => crc8Bit (crc8Bit (crc8Bit (crc8Bit (crc8Bit (crc8Bit (crc8Bit (crc8Bit (c ^^^ (b % 256)))))))))) 0

/-- Reduction to 64 bits. -/
def m64 (x : Nat) : Nat := x % 2 ^ 64

/-- The function `mix` of R44, arithmetic modulo 2^64. -/
def mix (x : Nat) : Nat :=
  let x := m64 (x + 0x9E3779B97F4A7C15)
  let x := m64 ((x ^^^ (x >>> 30)) * 0xBF58476D1CE4E5B9)
  let x := m64 ((x ^^^ (x >>> 27)) * 0x94D049BB133111EB)
  x ^^^ (x >>> 31)

/-- The 16-bit random value of R44 for one output element. -/
def rsrValue (seed tag index row col : Nat) : Nat :=
  let h1 := mix (seed ^^^ tag)
  let h2 := mix (h1 ^^^ index)
  (mix (h2 ^^^ (((row % 2 ^ 16) <<< 16) ||| (col % 2 ^ 16)))) >>> 48

/-- Rotation of a 64-bit lane. -/
def rotl64 (x n : Nat) : Nat := if n % 64 = 0 then m64 x else m64 (x <<< (n % 64)) ||| (m64 x >>> (64 - n % 64))

/-- A Keccak state as its five planes, plane `y` holding the lanes of `x` = 0 to 4. -/
abbrev Planes := List (List Nat)

/-- Rotation offsets of the rho step, plane by plane (FIPS 202). -/
def rhoPlanes : Planes :=
  [[0, 1, 62, 28, 27], [36, 44, 6, 55, 20], [3, 10, 43, 25, 39], [41, 45, 15, 21, 8], [18, 2, 61, 56, 14]]

/-- The theta step: every lane takes the parities of the two neighbouring columns. -/
def theta (s : Planes) : Planes :=
  let c := s.foldl (List.zipWith (· ^^^ ·)) [0, 0, 0, 0, 0]
  let d := List.zipWith (· ^^^ ·) (c.rotateRight 1) ((c.rotateLeft 1).map (rotl64 · 1))
  s.map (List.zipWith (· ^^^ ·) d)

/-- The rho and pi steps: lane (x, y), rotated, goes to (y, 2x + 3y); so plane `y` takes from plane `k` its lane k + 3y. -/
def rhoPi (s : Planes) : Planes :=
  let r := List.zipWith (List.zipWith rotl64) s rhoPlanes
  (List.range 5).map (fun y => r.zipIdx.map (fun pk => pk.1.getD ((pk.2 + 3 * y) % 5) 0))

/-- The chi step on one plane: each lane takes the lane two further where the next one is 0. -/
def chi (p : List Nat) : List Nat :=
  List.zipWith (· ^^^ ·) p (List.zipWith (fun a b => (a &&& b) ^^^ b) (p.rotateLeft 1) (p.rotateLeft 2))

/-- One step of the shift register over x^8 + x^6 + x^5 + x^4 + 1 that makes the round constants. -/
def lfsrStep (r : Nat) : Nat := if 128 ≤ r then (2 * r) ^^^ 0x171 else 2 * r

/-- A round constant and the register after it: output bit `j` of seven stands at bit 2^j − 1. -/
def roundConst (r : Nat) : Nat × Nat :=
  (List.range 7).foldl (fun cr j => (cr.1 ||| (cr.2 % 2) <<< (2 ^ j - 1), lfsrStep cr.2)) (0, r)

/-- The iota step: the constant goes into lane (0, 0). -/
def iota (c : Nat) : Planes → Planes
  | (l :: p) :: s => ((l ^^^ c) :: p) :: s
  | s => s

/-- `n` rounds of Keccak-f[1600] from a state of the shift register. -/
def keccakRounds : Nat → Nat → Planes → Planes
  | 0, _, s => s
  | n + 1, r, s => keccakRounds n (roundConst r).2 (iota (roundConst r).1 ((rhoPi (theta s)).map chi))

/-- Keccak-f[1600], 24 rounds. -/
def keccakF (s : Planes) : Planes := keccakRounds 24 1 s

/-- SHAKE256's padding to a whole number of 136-byte blocks. -/
def shakePad (bs : List Nat) : List Nat :=
  let r := bs.length % 136
  let n := 136 - r
  if n = 1 then bs ++ [0x9F] else bs ++ (0x1F :: List.replicate (n - 2) 0) ++ [0x80]

/-- Absorption of one 136-byte block into the first 17 lanes. -/
def shakeAbsorb (s : Planes) (blk : List Nat) : Planes :=
  keccakF (List.zipWith (List.zipWith (· ^^^ ·)) s (chunks 5 5 ((chunks 8 17 blk).map ofLeBytes ++ List.replicate 8 0)))

/-- Squeezing: the bytes of the rate part, block after block. -/
def shakeSqueeze : Nat → Planes → List Nat
  | 0, _ => []
  | f + 1, s => ((s.flatten.take 17).map (leBytes 8)).flatten ++ shakeSqueeze f (keccakF s)

/-- The first `n` bytes of SHAKE256 over `bs`. -/
def shake256 (n : Nat) (bs : List Nat) : List Nat :=
  let p := shakePad bs
  let s := (chunks 136 (p.length / 136) p).foldl shakeAbsorb (List.replicate 5 (List.replicate 5 0))
  (shakeSqueeze (ceilDiv n 136) s).take n

/-- The ASCII bytes of a string. -/
def ascii (t : String) : List Nat := t.toList.map (fun c => c.toNat % 256)

end Sys2Proof.Machine
end

