-- ==== Sys2Proof/Config.lean ====
section
/-! DEFINITION. What the spec leaves open (free values, constants with no body) and what a module's manufacture fixes. -/

namespace Sys2Proof.Config

/-- DESIGN CHOICE (log entry 1): which of the FP32 values that R138 and R139 allow a function returns where R138 promises no order, as a
fixed function of FUNC and its operand (the steps of these functions are not published). -/
opaque sfuPick : Nat → BitVec 32 → Nat

/-- DESIGN CHOICE (log entry 1): a function on one of its monotone stretches (FUNC and the stretch): the input order number from which on
its result has at least a given order number. -/
opaque sfuSplit : Nat → Nat → Int → Int

/-- DESIGN CHOICE (log entry 1): which of the values within RSQRT's bound ROWNORM's factor takes where its argument lies beyond FP32 (R157). -/
opaque rhoPick : Nat → Int → Nat

/-- DESIGN CHOICE (log entry 45): what the SFU's n-th work on a core leaves in a register of a lane: L0–L7 as registers 0–7, N as 8 (R135). -/
opaque laneReg : Nat → Nat → Nat → BitVec 32

/-- DESIGN CHOICE (log entry 45): the predicate of a lane after the SFU's n-th work on a core. -/
opaque lanePred : Nat → Nat → Bool

/-- DESIGN CHOICE (log entry 2): the n-th 512-bit output of the random generator of R368 (pass seeds, nonces,
challenges, ML-KEM and signing randomness). -/
opaque drbg : Nat → BitVec 512

/-- DESIGN CHOICE (log entry 3): verification of an SLH-DSA signature of FIPS 205 (R367):
public key, context string, message, signature. -/
opaque slhVerify : List Nat → List Nat → List Nat → List Nat → Bool

/-- DESIGN CHOICE (log entry 3): an SLH-DSA-SHAKE-256f signature made by the device identity key (R367):
secret seeds, context string, message, hedging value. -/
opaque slhSign : List Nat → List Nat → List Nat → BitVec 512 → List Nat

/-- DESIGN CHOICE (log entry 3): the public root of an SLH-DSA key pair, from SK.seed, SK.prf, PK.seed (R366). -/
opaque slhRoot : List Nat → List Nat

/-- DESIGN CHOICE (log entry 3): the ML-KEM-1024 encapsulation key made from a random value (R294). -/
opaque kemKey : BitVec 512 → List Nat

/-- DESIGN CHOICE (log entry 3): ML-KEM-1024 encapsulation: key and randomness give ciphertext and secret. -/
opaque kemEncaps : List Nat → BitVec 512 → List Nat × List Nat

/-- DESIGN CHOICE (log entry 3): ML-KEM-1024 decapsulation: the key's random value and the ciphertext give the secret. -/
opaque kemDecaps : BitVec 512 → List Nat → List Nat

/-- DESIGN CHOICE (log entry 3): AES-256-GCM (R294): key, nonce, additional authenticated data and plaintext give ciphertext and tag. -/
opaque gcmSeal : List Nat → List Nat → List Nat → List Nat → List Nat × BitVec 128

/-- DESIGN CHOICE (log entry 34): the CAPS that an image lets a link advertise and those it requires of the link's partner (R294, R295; no
section of R411–R415 gives them a place). -/
opaque linkCaps : List Nat → Nat → BitVec 8 × BitVec 8

/-- DESIGN CHOICE (log entry 4): whether a RESET_IN# pulse of 1 µs to 10 µs resets the module (R406), as a function of its length in ns. -/
opaque shortPulseResets : Nat → Bool

/-- DESIGN CHOICE (log entry 5): the bits a scan of a TAP chain shifts out (R379: the manual lists no chain). -/
opaque scanOut : Nat → List Bool → List Bool

/-- DESIGN CHOICE (log entry 6): fuse contents of a module that the manual does not state: the device serial (R390). -/
opaque fuseSerial : BitVec 64

/-- DESIGN CHOICE (log entry 6): the unique device secret, 32 bytes (R366). -/
opaque fuseUds : List Nat

/-- DESIGN CHOICE (log entry 6): the spare-cube fuses of a physical slot, in the layout of R74. -/
opaque fuseSpare : Nat → BitVec 64

/-- DESIGN CHOICE (log entry 6): the boot ROM version (R439). -/
opaque romVersion : BitVec 16

/-- DESIGN CHOICE (log entry 6): the subject keys that the module's certificates name (R371): 0 the device certificate, 1 the product CA's. -/
opaque certSubject : Nat → BitVec 512

/-- DESIGN CHOICE (log entry 6): NAME of those certificates (R370: not interpreted). -/
opaque certName : Nat → BitVec 256

/-- DESIGN CHOICE (log entry 6): SERIAL and PRODUCT of the product CA certificate (R370: the device's own are its serial and 0x9620). -/
opaque caSerial : BitVec 80

/-- DESIGN CHOICE (log entry 6): the subject ID of the Pytokai root, which issues the product CA certificate (R371). -/
opaque rootId : BitVec 256

/-- DESIGN CHOICE (log entry 6): the bytes of the issuers' signatures under those certificates (R371). -/
opaque certSig : Nat → Nat → BitVec 8

/-- DESIGN CHOICE (log entry 6): digests of the firmware keys in slots 0–3 and of the vendor debug key in slot 8 (R366). -/
opaque fuseKeyDigest : Nat → List Nat

/-- DESIGN CHOICE (log entry 6): the public key that a digest names: a trust anchor, an operator debug key or the vendor debug key
(R366 and R412 hold digests, and no rule gives a place for the keys). -/
opaque keyOf : List Nat → List Nat

/-- DESIGN CHOICE (log entry 9): energy in pJ of one event of a kind in a domain on a rail, as the bytes of the image's ENERGY section give it
(R346, R412: no layout). -/
opaque eventPj : List Nat → Nat → Nat → Nat → Nat

/-- DESIGN CHOICE (log entry 9): leakage in mW of a domain on a rail at the sensors' temperatures and the rail's voltage in mV,
as the bytes of ENERGY give it (R346, R412). -/
opaque leakMw : List Nat → Nat → Nat → List Nat → Nat → Nat

/-- DESIGN CHOICE (log entry 9): energy in nJ that ATTR_MODE 1 charges for a request's rows in a pass: rows, positions held, pass rows
(R361: the mode-1 table of ENERGY, whose bytes come first). -/
opaque modelNj : List Nat → Nat → Nat → Nat → Nat

/-- DESIGN CHOICE (log entry 40): suit-cycles that fall to the first eight causes of R131 in a core's SLOW cycle, from the core and the
time (the timing that decides them is left out). -/
opaque suitCycles : Nat → Nat → List Nat

/-- DESIGN CHOICE (log entry 33): the row of an HBM3E stack that holds a linear address, as PCH, BANK and ROW of R460 in bits [28:24],
[23:18] and [17:0] (the spec gives no mapping). -/
opaque hbmRow : Nat → BitVec 29

/-- DESIGN CHOICE (log entry 33): the linear addresses of the bytes of the row that holds an address. -/
opaque hbmRowBytes : Nat → List Nat

/-- DESIGN CHOICE (log entry 5): the bits that DBG_STATUS shifts out, from the level, the result of the last token (0 none, 1 accepted,
2 refused) and DOMAIN_OFF (R381, R388: the spec gives no layout). -/
opaque dbgStatusBits : Nat → Nat → Bool → List Bool

/-- DESIGN CHOICE (log entry 5): the boundary-scan bits captured from the pins at the n-th output of the device (R380: no cell order given). -/
opaque boundaryPins : Nat → Nat → List Bool

/-- DESIGN CHOICE (log entry 5): whether a scan of a chain of PD33 writes BOOT_HOLD (R383: no chain given). -/
opaque scanHold : Nat → List Bool → Bool

/-- DESIGN CHOICE (log entry 5): the power domain of a scan chain (R388: the manual lists no chain). -/
opaque scanDomain : Nat → Nat

/-- DESIGN CHOICE (log entry 5): the domains whose clocks the debugger has stopped after a scan of a chain of PD33, from those it had
stopped before (R388: how it stops them is not given). -/
opaque scanStops : List Nat → Nat → List Bool → List Nat

/-- DESIGN CHOICE (log entry 6): the 64 bytes of board data in the module record of the NVM (R461). -/
opaque boardData : List Nat

/-- DESIGN CHOICE (log entry 34): the three counts that a TRUST section's header gives: anchors, deny list, operator keys (R412 gives the
header 16 bytes and no layout). -/
opaque trustCounts : List Nat → Nat × Nat × Nat

/-- DESIGN CHOICE (log entry 34): whether the bytes of an ENERGY section hold a mode-1 table (R412 gives no layout). -/
opaque hasMode1 : List Nat → Bool

/-- DESIGN CHOICE (log entry 34): the period in µs that the firmware sets for a timer of an owner (R440 gives none). -/
opaque timerPeriodUs : Nat → Nat

end Sys2Proof.Config
end

