-- ==== Sys2Proof/Machine/TypesBoard.lean ====
section
/-! DEFINITION. State of the boot ROM and the rescue loader (16_boot_and_image.md), and of the module's pins, supply, SMBus and TAP
(14_security_debug.md, 18_module_hardware.md). -/

namespace Sys2Proof.Machine

/-- An OWNERSHIP entry (R415). -/
structure Owner where
  kind : Nat
  feature : Nat
  index : Nat
  count : Nat
  first : Nat
deriving DecidableEq, Repr

/-- Boot (R406–R429). -/
structure Boot where
  /-- BOOT_STATUS, R419 -/
  stage : Nat := 1
  /-- when RESET_IN# was deasserted -/
  startAt : Nat := 0
  bootMs : Nat := 0
  rescueCause : Nat := 0
  imageKind : Nat := 0
  imageBytes : Nat := 0
  buildId : Nat := 0
  iswPorts : BitVec 2 := 3
  rescueOpen : Bool := true
  rescueSrc : BitVec 64 := 0
  rescueBytes : BitVec 32 := 0
  rstatus : Nat := 0
  rescueErr : Nat := 0
  rescueDetail : Nat := 0
  /-- the next boot enters the loader, by RESCUE_NEXT or by SMBus -/
  rescueNext : Bool := false
  /-- PORT_CLOCK of the image -/
  portClock : BitVec 2 := 3
  commitSvn : Bool := false
  revoke : BitVec 4 := 0
  /-- OPEN bits of SETTINGS by register offset (R413) -/
  opened : Tbl (BitVec 64) := []
  owners : List Owner := []
  /-- the CODE section in each steward's SRAM (R412) -/
  code : List Nat := []
  /-- the PARAMS section (R414) -/
  params : Nat := 0
  /-- tables 0–3 of the image as every core holds them from boot on (R140) -/
  seeds : List (List Nat) := []
  /-- whether ENERGY holds a mode-1 table (R427) -/
  mode1 : Bool := false
  /-- the image copied into M0 by the rescue loader (R424) -/
  staged : List Nat := []
  /-- the port whose host the loader reads that image from -/
  rescuePort : Port := .A
  /-- enabled or kitty slots that fail the boot array test, as the deassertion of RESET_IN# found them -/
  badSlots : List Nat := []
  /-- boot ends in NO_SERVICE after ZERO (R421, R459) -/
  noService : Bool := false
deriving DecidableEq, Repr

/-- Pins, supply, NVM, SMBus arming and the TAP. -/
structure Board where
  /-- 52 V lies inside the lockout limits, EN is mated, auxiliary power is good with PD33 ON (R454, R455) -/
  v52 : Bool := true
  en : Bool := true
  aux : Bool := true
  /-- RESET_IN# is asserted -/
  resetIn : Bool := false
  /-- the straps SMB_ADDR1 and SMB_ADDR0 (R450): 1 where open -/
  straps : BitVec 2 := 3
  /-- the SMBus transaction that the host drives (R458; log entry 38) -/
  smb : SmbCall := { addr := 0x5B }
  /-- when ZARM was received (R459) -/
  armed : Option Nat := none
  /-- the image slot of the NVM (R408): bytes by offset in the slot, 0 where none is listed (log entry 6) -/
  nvm : Cells := []
  /-- the TAP's instruction register and the boundary-scan cells (R380) -/
  ir : Nat := 2
  boundary : List Bool := []
deriving DecidableEq, Repr

end Sys2Proof.Machine
end

