-- ==== Sys2Proof/Machine/TypesHost.lean ====
section
/-! DEFINITION. State of the host ports (12_host_interface.md), of the log and maintenance (15_integrity_and_faults.md)
and of the global register block (17_registers.md). -/

namespace Sys2Proof.Machine

/-- A racking window (R324). HOST_BASE and DEV_4K are held in 4 KiB units. -/
structure RackWindow where
  base4k : BitVec 52 := 0
  wr : Bool := false
  rd : Bool := false
  en : Bool := false
  size4k : BitVec 35 := 0
  dev4k : BitVec 34 := 0
deriving DecidableEq, Repr

/-- The registers of a seat that the PF sets (R336). -/
structure SeatRegs where
  maxSessions : BitVec 16 := 0
  maxInflight : BitVec 8 := 0
  stake : BitVec 12 := 0
  domBase : BitVec 14 := 0
  domCnt : BitVec 14 := 0
deriving DecidableEq, Repr

/-- An entry of an MSI-X table: message address and data (R321, R323); its mask stands in `Func.unmasked`. -/
structure VecEntry where
  addr : BitVec 64 := 0
  data : BitVec 32 := 0
deriving DecidableEq, Repr

/-- A PCIe function: its generation (R332), Bus Master Enable, power state and MSI-X state (R328, R330). -/
structure Func where
  gen : Nat := 0
  bme : Bool := false
  d3hot : Bool := false
  msixEn : Bool := false
  msixMask : Bool := false
  vectors : Tbl VecEntry := []
  /-- vectors the host has unmasked; every vector is masked at reset -/
  unmasked : List Nat := []
  /-- PBA bits, R330 -/
  pba : List Nat := []
  /-- the generation of requests still to be cleaned up after a loss, and how many ended so far (R332) -/
  quiesce : Bool := false
  lossPort : Bool := false
  ended : Nat := 0
  /-- time of the last vector 0 sent for the log (R395) -/
  lastVec0 : Option Nat := none
deriving DecidableEq, Repr

/-- Link state of a port, without QUIESCING, which is derived (R331, R335). -/
inductive PortLink where
  | down | training | up
deriving DecidableEq, Repr

/-- A host port (R317–R339). -/
structure PortSt where
  link : PortLink := .down
  losses : Nat := 0
  lastLoss : Nat := 0
  numVf : Nat := 0
  refclkOk : Bool := false
  width : Nat := 0
  speed : Nat := 0
  adminRings : BitVec 16 := 1
  seatMode : Bool := false
  refclkSel : Bool := false
  cqDrop : BitVec 64 := 0
  dmaRefused : BitVec 64 := 0
  foreignWr : BitVec 64 := 0
  perst : Bool := true
  l1 : Bool := false
  ready : Bool := false
  windows : Tbl RackWindow := []
  /-- racking windows as they stood before a change made since the latest pass started (R327) -/
  past : List RackWindow := []
  seats : Tbl SeatRegs := []
  funcs : Tbl Func := []
  /-- the host memory behind this port, as the device has read and written it -/
  hostMem : Cells := []
deriving DecidableEq, Repr

/-- A targeted self-test that is due (R396). -/
structure PendingTest where
  act : Activity
  kind : UnitKind
  unit : Nat
  code : Nat
  addr : Nat
  seq : Nat
  /-- DETAIL of the entry: the tag of the pass that the error aborted -/
  detail : Nat
deriving DecidableEq, Repr

/-- Transient verdicts of a unit within its 1 h window (R397). -/
structure Transients where
  kind : UnitKind
  unit : Nat
  start : Nat
  count : Nat
deriving DecidableEq, Repr

/-- Corrected events of a reporter within its 10 s window (R404). -/
structure CeWindow where
  code : Nat
  unit : Nat
  start : Nat
  count : Nat
  reported : Bool := false
deriving DecidableEq, Repr

/-- A granted maintenance activity (R403). -/
structure Held where
  act : Activity
  since : Nat
  suspended : Bool := false
deriving DecidableEq, Repr

/-- A soft repair of the repair list (R400): stack and the row's first address. -/
structure Repair where
  stack : Nat
  row : Nat
deriving DecidableEq, Repr

/-- The log and the maintenance block (R394–R404). -/
structure Integrity where
  log : Tbl LogEntry := []
  nextSeq : Nat := 0
  tests : List PendingTest := []
  transients : List Transients := []
  ceWindows : List CeWindow := []
  held : List Held := []
  waiting : List Activity := []
  scrubH : BitVec 8 := 8
  ceLimit : BitVec 16 := 8
  repairs : List Repair := []
  withdrawnRows : Nat := 0
  /-- rows to be withdrawn, whose keys are still awaited: stack and address (R401, R402) -/
  withdrawals : List (Nat × Nat) := []
  ceHbm : Tbl (BitVec 64) := []
  ceSram : BitVec 64 := 0
  meshRetry : BitVec 64 := 0
  /-- poisoned bytes of device memory and the origin code of each (R393) -/
  poison : Tbl Nat := []
  /-- model slots whose weights met poison (R393) -/
  poisonedSlots : List Nat := []
deriving DecidableEq, Repr

/-- The 10 service counters of R442. -/
structure Counters where
  passesLaunched : BitVec 64 := 0
  passesAborted : BitVec 64 := 0
  passesRetried : BitVec 64 := 0
  reqAdmitted : BitVec 64 := 0
  reqOk : BitVec 64 := 0
  reqErr : BitVec 64 := 0
  records : BitVec 64 := 0
  tokens : BitVec 64 := 0
  posComputed : BitVec 64 := 0
  posVine : BitVec 64 := 0
deriving DecidableEq, Repr

/-- A timer GTt (R440): its owner, its period, and the counter value at which the firmware started it. -/
structure GTimer where
  feature : Nat := 0
  periodUs : Nat := 0
  start : Nat := 0
deriving DecidableEq, Repr

/-- The first refusal since VALID was cleared (R440, 0x050). -/
structure RegRefuse where
  requester : Nat
  reason : Nat
  offset : Nat
deriving DecidableEq, Repr

/-- The global block (R440, R442). SERVICE uses the codes of R440. -/
structure Glob where
  service : Nat := 0
  fatal : Bool := false
  /-- the MOD_READY pin -/
  modReady : Bool := false
  /-- CODE and SEQ of the first device-fatal error -/
  firstFatal : Option (Nat × Nat) := none
  regRefuse : Option RegRefuse := none
  refused : Nat := 0
  badSize : Nat := 0
  timeHi : Tbl Nat := []
  gts : Tbl GTimer := []
  cnt : Counters := {}
deriving DecidableEq, Repr

end Sys2Proof.Machine
end

