-- ==== Sys2Proof/Machine/TypesLinks.lean ====
section
/-! DEFINITION. State of the Yalast links (11_yalast_links.md) and of the security engine (14_security_debug.md). -/

namespace Sys2Proof.Machine

/-- Link states (R297). -/
inductive LState where
  | disabled | absent | training | handshake | inService | slow | faulty | quarantined | retired
deriving DecidableEq, Repr

/-- STATE codes of R314. -/
def LState.code : LState → Nat
  | .disabled => 0 | .absent => 1 | .training => 2 | .handshake => 3 | .inService => 4 | .slow => 5 | .faulty => 6
  | .quarantined => 7 | .retired => 8

/-- An ACCEPT that a partner declared (R308). -/
structure Accept where
  model : Nat
  maxPages : Nat
  slotBytes : Nat
deriving DecidableEq, Repr

/-- What a handshake or rekey has exchanged (R294, R296). -/
structure Shake where
  /-- time of the first HELLO sent -/
  start : Nat := 0
  nonce : Nat := 0
  peer : Option Nat := none
  /-- payload bytes of the HELLOs, sent and received -/
  helloTx : List Nat := []
  helloRx : List Nat := []
  /-- FINISH was sent -/
  finSent : Bool := false
  pcaps : Nat := 0
  /-- payload bytes sent and received: CERT, KEM_EK, KEM_CT -/
  chain : Option (List Nat) := none
  ek : Option (List Nat) := none
  ct : Option (List Nat) := none
  myEk : List Nat := []
  myCt : List Nat := []
  kemRand : BitVec 512 := 0
  mySecret : List Nat := []
  peerSecret : List Nat := []
  transcript : List Nat := []
  authSent : Bool := false
  auth : Option (List Nat) := none
  chainOk : Bool := false
  authOk : Bool := false
  finish : Bool := false
  /-- objects being received, by TYPE: length and bytes so far (R287) -/
  objs : Tbl (Nat × List Nat) := []
deriving DecidableEq, Repr

/-- A link (R284–R300, R314). -/
structure LinkSt where
  state : LState := .disabled
  enable : Bool := false
  kr : Bool := false
  rates : BitVec 3 := 0
  /-- capabilities the image lets the link advertise (SYNC, MODEL_SERVE, COLL) and those it requires of a partner (R294, R295) -/
  caps : BitVec 8 := 0
  reqCaps : BitVec 8 := 0
  rate : Nat := 3
  cause : Nat := 0
  pcaps : Nat := 0
  syncOk : Bool := false
  initiator : Bool := false
  keyGen : Nat := 0
  quars : Nat := 0
  partnerId : Nat := 0
  /-- FRAMES_TX, FRAMES_RX, FEC_CORR, FEC_UNCORR, REPLAYS, BAD_TAG, MALFORMED, OUT_WINDOW at 0–7 -/
  cnt : Tbl (BitVec 64) := []
  since : Nat := 0
  trainRate : Nat := 3
  /-- after the lowest rate failed (R285) or a refused handshake (R295): when training starts again -/
  waitUntil : Option Nat := none
  /-- next SEQ to send and to accept, the partner's latest ACK, the last NULL accepted -/
  txSeq : Nat := 0
  rxSeq : Nat := 0
  ack : Option Nat := none
  nullRx : Option Nat := none
  kept : List TxFrame := []
  queue : List TxFrame := []
  /-- kept frames that a REPLAY_REQ asked for and that have not gone out again (R290) -/
  again : List TxFrame := []
  /-- NULL frames sent (R289), and the ACK and CR totals that the last frame sent carried -/
  nullTx : Nat := 0
  toldSeq : Nat := 0
  told : Tbl Nat := []
  /-- words sent, words received, words freed for the partner, and the partner's latest CR total, by class (R291) -/
  sent : Tbl Nat := []
  got : Tbl Nat := []
  freed : Tbl Nat := []
  credit : Tbl Nat := []
  buf : Tbl Nat := []
  /-- since when a class has frames and no credit; since when nothing waits -/
  stall : Tbl Nat := []
  clearSince : Nat := 0
  lastReplay : Option Nat := none
  replaysFor : Nat := 0
  replayAsked : Nat := 0
  replayCount : Nat := 0
  lastAccept : Nat := 0
  hostStart : Nat := 0
  hostCount : Nat := 0
  shake : Shake := {}
  kg : Nat := 0
  keys : List Nat := []
  keySince : Nat := 0
  /-- data frames sent and received under the present keys (R296) -/
  keyFrames : Nat := 0
  keyRx : Nat := 0
  rekey : Option Nat := none
  /-- keys that take effect once this responder's KEM_CT has gone out (R296) -/
  nextKeys : Option (List Nat) := none
  /-- arrivals held while no pass runs: group and sense (R303) -/
  latch : List (Nat × Bool) := []
  accepts : List Accept := []
  /-- landing windows the partner granted: number, KIND and SIZE_4K (R288, R313) -/
  granted : List (Nat × Nat × Nat) := []
  /-- landing windows that were ever granted to the link (R298) -/
  offered : List Nat := []
  /-- the model slot that the partner asked for last (R313) -/
  serves : Option Nat := none
deriving DecidableEq, Repr

/-- A landing window (R301, R315). -/
structure Landing where
  kind : Nat := 0
  size4k : Nat := 0
  base4k : Nat := 0
  pegEn : Bool := false
  peg : Nat := 0
  links : Nat := 0
  expect : Nat := 0
  count : Nat := 0
  state : Nat := 0
  revokedAt : Nat := 0
  /-- links whose REVOKE_ACK is awaited (R302) -/
  awaiting : Nat := 0
deriving DecidableEq, Repr

/-- A shipment (R309–R312). -/
structure Shipment where
  id : Nat
  rid : Nat
  group : Nat
  pages : List Nat
  /-- the link the open offer went out on, and the partners tried before -/
  offer : Option Nat
  tried : List Nat := []
  offerAt : Nat
  /-- when the first offer went out, the epoch drawn, the slot size and the partner of the open or granted offer -/
  startAt : Nat
  /-- pages on which the shipment holds a reference of its own (R205) -/
  held : List Nat
  epoch : Option Nat
  slotBytes : Nat
  partner : Nat
  /-- after the grant: the partner's links, window and offset -/
  granted : Option (List Nat × Nat × Nat) := none
  /-- the link each page went to, and its NACKs -/
  sentOn : Tbl Nat := []
  nacks : Tbl Nat := []
deriving DecidableEq, Repr

/-- A stripe of a model fetch (R313). -/
structure Stripe where
  link : Nat
  offset : Nat
  len : Nat
  crc : Option Nat := none
  moved : Bool := false
deriving DecidableEq, Repr

/-- A model fetch from a partner group (R313). -/
structure Fetch where
  mslot : Nat
  modelId : Nat
  bytes : Nat
  window : Nat
  start : Nat
  asked : List Nat
  have_ : List Nat := []
  none_ : List Nat := []
  stripes : List Stripe := []
deriving DecidableEq, Repr

/-- The link global block (R315). -/
structure LinkGlob where
  modelLimitMs : Nat := 2000
  shipLimitMs : BitVec 32 := 100
  slowUs : Nat := 100
  quarHoldS : Nat := 60
  quarWindowMs : Nat := 1000
  quarLimit : Nat := 8
  rekeyS : Nat := 3600
  shipOk : Nat := 0
  shipFail : Nat := 0
  groups : Tbl Nat := []
  windows : Tbl Landing := []
  nextShip : Nat := 0
  ships : List Shipment := []
  /-- offers that moved on: SHIP_ID and the partner that had it (R312) -/
  moved : List (Nat × Nat) := []
  fetch : Option Fetch := none
  /-- model slots whose fetch waits for the one under way (R313) -/
  fetchQ : List Nat := []
deriving DecidableEq, Repr

/-- A job of the verification unit (R369). -/
inductive VerJob where
  /-- certificate `i` of the chain of link `l` -/
  | cert (l i : Nat)
  | auth (l : Nat)
deriving DecidableEq, Repr

/-- A job of the signing unit (R369). -/
inductive SignJob where
  | auth (l : Nat)
  | report (p : Port) (body : List Nat) (dest : Nat)
deriving DecidableEq, Repr

/-- The security engine, debug and TAP (R366–R391). -/
structure Sec where
  lifecycle : Nat := 1
  debug : Nat := 0
  held : Bool := false
  /-- an L2 or L3 was entered since reset (R379) -/
  invaded : Bool := false
  zstate : Nat := 0
  zeroiseOpen : Bool := false
  unlockFails : Nat := 0
  challenge : Option (BitVec 512 × Nat) := none
  lockout : Option Nat := none
  token : Option (List Nat) := none
  /-- the result that DBG_STATUS reports (R381): 0 none, 1 accepted, 2 refused -/
  tokenResult : Nat := 0
  /-- a lifecycle change that waits for zeroisation (R378): RMA 2 or SCRAPPED 3 -/
  nextLife : Option Nat := none
  verQ : List VerJob := []
  signQ : List SignJob := []
  /-- verified KIND 2 certificates: digest and issuer's subject ID, most recently used first (R373) -/
  cache : List (List Nat × List Nat) := []
  drbg : Nat := 0
  reseeds : Nat := 0
  attNonce : Tbl (BitVec 64) := []
  attDest : BitVec 48 := 0
  attStatus : Nat := 0
  svnFuse : Nat := 0
  revoked : BitVec 4 := 0
  fwSlot : Nat := 0
  imageDigest : List Nat := []
  imageSvn : Nat := 0
  anchors : List (List Nat) := []
  deny : List (List Nat) := []
  opKeys : Tbl (List Nat) := []
  bootHold : Bool := false
  /-- the last DBG_ACCESS ended because its domain was off (R388) -/
  domainOff : Bool := false
  /-- domains whose clocks the debugger has stopped (R388) -/
  stoppedDoms : List Nat := []
  udsKilled : Bool := false
deriving DecidableEq, Repr

end Sys2Proof.Machine
end

