-- ==== Sys2Proof/Machine/State.lean ====
section
/-! DEFINITION. The machine's state, its stops, and reset. -/

namespace Sys2Proof.Machine

/-- Why a step stops with a fault. -/
inductive Fault where
  /-- Raised by every command whose operands are not well formed (WellFormed.lean): no event of the hardware has that form. Safe:
  nothing is claimed of what no sender can send. -/
  | illFormed
deriving DecidableEq, Repr

/-- Why a command has no meaning. -/
inductive Refusal where
  /-- Raised by an arm of `exec` for a command that the model does not cover. Safe. -/
  | notModelled (mnemonic : String)
deriving DecidableEq, Repr

/-- The state of the module. -/
structure State where
  /-- LOCAL_TIME: SLOW cycles of 10 ns since auxiliary power came up (R14, R441) -/
  time : Nat
  /-- bytes of HBM and SRAM by canonical device address (R29); an unlisted byte reads 0 (R385) -/
  mem : Cells
  cores : Tbl Core
  /-- the 72 physical core slots (R443) -/
  slots : List CoreSlot
  sync : Sync
  pages : Pages
  serve : Serve
  portA : PortSt
  portB : PortSt
  integ : Integrity
  links : Tbl LinkSt
  lglob : LinkGlob
  sec : Sec
  pow : Power
  glob : Glob
  boot : Boot
  board : Board
  /-- everything the device has sent, oldest first -/
  out : List Output
  /-- the commands that wait, first in, first out -/
  pending : List Instr
deriving DecidableEq, Repr

/-- A physical slot as a module leaves manufacture (DESIGN CHOICE, log entry 12: slots 0–63 are the cores, 64–71 the kitty). -/
def slotAtReset (n : Nat) : CoreSlot :=
  if n < 64 then { mfg := .enabled, mfgLogical := n, state := .enabled, logical := n } else {}

/-- The module right after reset: auxiliary power has come up, RESET_IN# is deasserted and boot stands at stage FUSES (R406, R429, log
entry 11). Fields whose value the spec does not give are named in log entry 12. -/
def State.reset : State :=
  { time := 0, mem := [], cores := [], slots := (List.range 72).map slotAtReset, sync := {}, pages := {}, serve := {}, portA := {},
    portB := {}, integ := {}, links := [], lglob := {}, sec := {}, pow := { doms := [(33, .on)] }, glob := {}, boot := {}, board := {},
    out := [], pending := [] }

end Sys2Proof.Machine
end

