-- ==== Sys2Proof/Machine/Ops.lean ====
section
/-! DEFINITION. The operations that every family shares: memory, host access, the error log, interrupts, access to the tables of State. -/

namespace Sys2Proof.Machine

/-- ARRAY cycles since reset (R349: a skipped pulse is none). -/
def Power.arrayCycles (p : Power) : Nat := p.pulses32 / 32

/-! Access to the parts of State. -/

/-- Port `p`'s state. -/
def State.port (s : State) : Port → PortSt
  | .A => s.portA
  | .B => s.portB

/-- Port `p`'s state changed by `f`. -/
def State.modPort (s : State) (p : Port) (f : PortSt → PortSt) : State :=
  match p with
  | .A => { s with portA := f s.portA }
  | .B => { s with portB := f s.portB }

/-- Logical core `c`. -/
def State.core (s : State) (c : Nat) : Core := Tbl.get {} c s.cores

/-- Core `c` changed by `f`. -/
def State.modCore (s : State) (c : Nat) (f : Core → Core) : State :=
  { s with cores := Tbl.upd {} c f s.cores }

/-- Core `c`'s registers changed by `f`. -/
def State.modRegs (s : State) (c : Nat) (f : CoreRegs → CoreRegs) : State :=
  s.modCore c (fun k => { k with regs := f k.regs })

/-- What core `c` holds for its pass, changed by `f`. -/
def State.modRun (s : State) (c : Nat) (f : CoreRun → CoreRun) : State :=
  s.modCore c (fun k => { k with run := f k.run })

/-- A lane after the SFU's `n`-th work on its core: which elements it took, and what their steps left in its registers, no rule says, so they
are free values (R135; log entry 45). -/
def Lane.free (n k : Nat) : Lane :=
  { l := (List.range 8).map (fun i => decodeVal .fp32 (Config.laneReg n k i).toNat), n := (Config.laneReg n k 8).toInt, p := Config.lanePred n k }

/-- Core `c` after its SFU's lanes have worked on some elements. -/
def State.useLanes (s : State) (c : Nat) : State :=
  s.modCore c (fun k => { k with lanes := (List.range 512).map (fun i => (i, Lane.free k.laneWork i)), laneWork := k.laneWork + 1 })

/-- Physical slot `n` of the core map. -/
def State.slot (s : State) (n : Nat) : CoreSlot := s.slots.getD n {}

/-- Slot `n` changed by `f`. -/
def State.modSlot (s : State) (n : Nat) (f : CoreSlot → CoreSlot) : State :=
  { s with slots := s.slots.set n (f (s.slot n)) }

/-- The physical slot that holds logical core `c` (R18), 72 when none does. -/
def State.slotOf (s : State) (c : Nat) : Nat :=
  ((List.range 72).find? (fun n => decide ((s.slot n).state = .enabled ∧ (s.slot n).logical = c))).getD 72

/-- The hand of logical core `c`. -/
def State.handOf (s : State) (c : Nat) : Nat := s.slotOf c / 4

/-- Seed table 0 of the image, which EXP2 reads (R136, R140). -/
def State.expTable (s : State) : List Nat := s.boot.seeds.getD 0 []

/-- Synchronisation state changed by `f`. -/
def State.modSync (s : State) (f : Sync → Sync) : State := { s with sync := f s.sync }

/-- Pages and vine changed by `f`. -/
def State.modPages (s : State) (f : Pages → Pages) : State := { s with pages := f s.pages }

/-- Serving state changed by `f`. -/
def State.modServe (s : State) (f : Serve → Serve) : State := { s with serve := f s.serve }

/-- Integrity state changed by `f`. -/
def State.modInteg (s : State) (f : Integrity → Integrity) : State := { s with integ := f s.integ }

/-- Global block changed by `f`. -/
def State.modGlob (s : State) (f : Glob → Glob) : State := { s with glob := f s.glob }

/-- Service counters changed by `f` (R442). -/
def State.count (s : State) (f : Counters → Counters) : State :=
  s.modGlob (fun g => { g with cnt := f g.cnt })

/-- Function `fn` of a port. -/
def PortSt.func (q : PortSt) (fn : Nat) : Func := Tbl.get {} fn q.funcs

/-- Function `fn` of a port changed by `f`. -/
def State.modFunc (s : State) (p : Port) (fn : Nat) (f : Func → Func) : State :=
  s.modPort p (fun q => { q with funcs := Tbl.upd {} fn f q.funcs })

/-- An output appended. -/
def State.emit (s : State) (o : Output) : State := { s with out := s.out ++ [o] }

/-- Whether no device-fatal error has stopped the device (R13). -/
def State.alive (s : State) : Bool := !s.glob.fatal

/-- Whether the device serves requests (R440: SERVICE 1). -/
def State.serving (s : State) : Bool := !s.glob.fatal && s.glob.service == 1

/-- Local counter bits [51:20], the unit of LAST_USE and EXPIRY (R185, R227). -/
def now32 (t : Nat) : Nat := fld t 20 32

/-! Device memory. -/

/-- What a device address names (R29). -/
inductive Region where
  | hbm (a : Nat)
  | reserved (a : Nat)
  | sram (c off : Nat)
  | peg (off : Nat)
  | regs (off : Nat)
  | host (p : Port) (off : Nat)
  | unmapped
deriving DecidableEq, Repr

/-- Bytes of one HBM stack (R29). -/
def stackBytes : Nat := 0x600000000

/-- Offset in a stack of its reserved top 8 MiB (R184). -/
def reservedOff : Nat := 0x5FF800000

/-- An HBM linear address with the reserved part told apart (R184). -/
def hbmRegion (a : Nat) : Region :=
  if reservedOff ≤ a % stackBytes then .reserved a else .hbm a

/-- The range of R29 that a device address lies in; both HBM views give the linear address. -/
def region (a : Nat) : Region :=
  if a < 0x2400000000 then hbmRegion a
  else if 0x4000000000 ≤ a ∧ a < 0x6400000000 then
    let o := a - 0x4000000000
    hbmRegion (o / 4096 % 6 * stackBytes + o / 4096 / 6 * 4096 + o % 4096)
  else if 0x8000000000 ≤ a ∧ a < 0x8020000000 then
    let o := a - 0x8000000000
    if o % 0x800000 < 0x600000 then .sram (o / 0x800000) (o % 0x800000) else .unmapped
  else if 0x8100000000 ≤ a ∧ a < 0x8100040200 then .peg (a - 0x8100000000)
  else if 0xF000000000 ≤ a ∧ a < 0xF004000000 then .regs (a - 0xF000000000)
  else if 0x800000000000 ≤ a ∧ a < 0xC00000000000 then .host .A (a - 0x800000000000)
  else if 0xC00000000000 ≤ a ∧ a < 0x1000000000000 then .host .B (a - 0xC00000000000)
  else .unmapped

/-- The SRAM window address of local offset `off` of core `c` (R29, R54). -/
def sramAddr (c off : Nat) : Nat := 0x8000000000 + c * 0x800000 + off

/-- What the transposing read port returns of a block of 64 rows of 64 bytes (R57): the elements of `size` bytes, 1, 2 or 4, taken column by
column; the bytes of an element keep their order. -/
def transposedBlock (size : Nat) (block : List Nat) : List Nat :=
  (List.range (64 / size)).flatMap (fun col => (List.range 64).flatMap (fun row => (block.drop (64 * row + size * col)).take size))

/-- The canonical address under which a byte of HBM or SRAM is held. -/
def Region.canon : Region → Option Nat
  | .hbm a => some a
  | .reserved a => some a
  | .sram c o => some (sramAddr c o)
  | _ => none

/-- One byte of the plain memory. -/
def memByte (m : Cells) (a : Nat) : Nat := (Tbl.get (0 : Byte) a m).toNat

/-- The memory with byte `a` written; zero bytes are not listed. -/
def memSet (m : Cells) (a b : Nat) : Cells := Tbl.set (0 : Byte) a (BitVec.ofNat 8 b) m

/-- Bytes written at consecutive addresses. -/
def memPut (m : Cells) (a : Nat) : List Nat → Cells
  | [] => m
  | b :: bs => memPut (memSet m a b) (a + 1) bs

/-- `n` bytes read at consecutive addresses. -/
def memGet (m : Cells) (a : Nat) : Nat → List Nat
  | 0 => []
  | n + 1 => memByte m a :: memGet m (a + 1) n

/-- The canonical form of memory: addresses strictly rising, no zero byte listed. -/
def memWf (m : Cells) : Bool := Tbl.wf (0 : Byte) m

/-- Bytes of a range moved from one place to another: the target range is replaced by a copy. -/
def memCopy (m : Cells) (src dst n : Nat) : Cells :=
  let kept := m.filter (fun kv => decide (kv.1 < dst ∨ dst + n ≤ kv.1))
  let moved := (m.filter (fun kv => decide (src ≤ kv.1 ∧ kv.1 < src + n))).map (fun kv => (kv.1 - src + dst, kv.2))
  moved.foldl (fun acc kv => Tbl.set (0 : Byte) kv.1 kv.2 acc) kept

/-- A range set to zero. -/
def memZero (m : Cells) (a n : Nat) : Cells := m.filter (fun kv => decide (kv.1 < a ∨ a + n ≤ kv.1))

/-- Poison marks of a range removed, as a write does. -/
def unpoison (t : Tbl Nat) (a n : Nat) : Tbl Nat := t.filter (fun kv => decide (kv.1 < a ∨ a + n ≤ kv.1))

/-- Poison marks carried along by a copy (R393: every handover keeps the pattern). -/
def copyPoison (t : Tbl Nat) (src dst n : Nat) : Tbl Nat :=
  let kept := unpoison t dst n
  let moved := (t.filter (fun kv => decide (src ≤ kv.1 ∧ kv.1 < src + n))).map (fun kv => (kv.1 - src + dst, kv.2))
  moved.foldl (fun acc kv => Tbl.set 0 kv.1 kv.2 acc) kept

/-- Bytes written to device memory at a canonical address; the bytes' poison ends. -/
def State.putMem (s : State) (a : Nat) (bs : List Nat) : State :=
  { s with mem := memPut s.mem a bs, integ := { s.integ with poison := unpoison s.integ.poison a bs.length } }

/-- A block of device memory copied with its poison. -/
def State.copyMem (s : State) (src dst n : Nat) : State :=
  { s with mem := memCopy s.mem src dst n, integ := { s.integ with poison := copyPoison s.integ.poison src dst n } }

/-- The origin code of the first poisoned byte of a range, if any (R393). -/
def State.poisonIn (s : State) (a n : Nat) : Option Nat :=
  (s.integ.poison.find? (fun kv => decide (a ≤ kv.1 ∧ kv.1 < a + n))).map Prod.snd

/-- The first poisoned byte of a canonical range with its origin code. -/
def State.poisonAt (s : State) (a n : Nat) : Option (Nat × Nat) :=
  s.integ.poison.find? (fun kv => decide (a ≤ kv.1 ∧ kv.1 < a + n))

/-! Byte views of the tables that lie in HBM. -/

/-- Page descriptor `p`. -/
def Pages.desc (g : Pages) (p : Nat) : PageDesc := Tbl.get {} p g.descs

/-- The 256 bits of a page descriptor (R185). -/
def PageDesc.bits (d : PageDesc) : Nat :=
  d.pinEpoch % 2 ^ 24 * 2 ^ 232 + d.lastUse % 2 ^ 32 * 2 ^ 192 + d.hits % 2 ^ 16 * 2 ^ 176 + d.children % 2 ^ 16 * 2 ^ 160
    + d.refs % 2 ^ 16 * 2 ^ 144 + d.modelGen % 2 ^ 16 * 2 ^ 128 + d.parent % 2 ^ 32 * 2 ^ 96 + d.pos0 % 2 ^ 32 * 2 ^ 64
    + d.slot4k % 2 ^ 36 * 2 ^ 28 + d.domain % 2 ^ 14 * 2 ^ 14 + d.mslot % 4 * 2 ^ 12 + b2n d.moving * 2 ^ 11
    + d.ntok % 32 * 2 ^ 6 + d.state.code

/-- The 256 bits of a vine entry (R197). -/
def VineEntry.bits (e : VineEntry) : Nat :=
  e.vkey % 2 ^ 128 * 2 ^ 128 + e.pdi % 2 ^ 32 * 2 ^ 96 + e.modelGen % 2 ^ 16 * 2 ^ 80 + e.domain % 2 ^ 14 * 2 ^ 66
    + e.mslot % 4 * 2 ^ 64 + b2n e.valid

/-- The 512 bits of a session entry (R227). -/
def Session.bits (x : Session) : Nat :=
  x.rack % 2 ^ 64 * 2 ^ 448 + x.rack4k % 2 ^ 32 * 2 ^ 416 + x.rackTtl % 2 ^ 32 * 2 ^ 384
    + (match x.expiry with | some t => now32 t | none => 0) * 2 ^ 288
    + x.lastUse % 2 ^ 32 * 2 ^ 256 + x.mark % 2 ^ 32 * 2 ^ 224 + x.tail % 2 ^ 32 * 2 ^ 192 + x.hgen % 2 ^ 16 * 2 ^ 176
    + x.domain % 2 ^ 14 * 2 ^ 162 + x.stake % 2 ^ 12 * 2 ^ 150 + x.mslot % 4 * 2 ^ 148 + x.ring % 16 * 2 ^ 144
    + x.port.num * 2 ^ 143 + x.prio % 8 * 2 ^ 140 + x.preempts % 256 * 2 ^ 132 + x.state.code

/-- Session table entry `i`. -/
def Serve.session (v : Serve) (i : Nat) : Session := Tbl.get {} i v.sessions

/-- Byte `i` of a number. -/
def byteOf (v i : Nat) : Nat := fld v (8 * i) 8

/-- The address of a linear HBM byte in the interleaved view (R29). -/
def interleaved (a : Nat) : Nat := 0x4000000000 + (a % stackBytes / 4096 * 6 + a / stackBytes) * 4096 + a % 4096

/-- The place of a linear HBM byte in a table of `n` bytes whose base lies in either view (R29, R415). -/
def tableOff (base : Option Nat) (n a : Nat) : Option Nat :=
  match base with
  | some b =>
    let x := if b < 0x2400000000 then a else interleaved a
    if a < 0x2400000000 ∧ b ≤ x ∧ x < b + n then some (x - b) else none
  | none => none

/-- Bytes of the session table and of the page lists (R227). -/
def sessTableBytes : Nat := 49152 * 64
def pageListBytes : Nat := 49152 * 65536

/-- The byte that the stewards keep at an address of the session table or the page lists (R227). -/
def State.listByte (s : State) (a : Nat) : Option Nat :=
  match tableOff s.serve.params.sessBase sessTableBytes a with
  | some o => some (byteOf (s.serve.session (o / 64)).bits (o % 64))
  | none => (tableOff s.serve.params.listBase pageListBytes a).map
      (fun o => byteOf ((s.serve.session (o / 65536)).pages.getD (o % 65536 / 4) 0) (o % 4))

/-- A byte of HBM or SRAM at a canonical address. Page descriptors and vine sets (R184, R197) are read from the tables that hold them; so are
the session table and the page lists (R227), but for bytes that another write laid over them and the stewards have not rewritten since. -/
def State.devByte (s : State) (a : Nat) : Nat :=
  let m := a / stackBytes
  let o := a % stackBytes
  if a < 0x2400000000 ∧ reservedOff ≤ o then
    if o < 0x5FFC00000 then
      let r := o - reservedOff
      let set := r / 128 * 6 + m
      if set < 131072 then byteOf (Tbl.get {} (4 * set + r % 128 / 32) s.pages.vine).bits (r % 32) else 0
    else
      let r := o - 0x5FFC00000
      let p := r / 32 * 6 + m
      if p < 262144 then byteOf (s.pages.desc p).bits (r % 32) else 0
  else match s.listByte a with
    | some v =>
      let x := Tbl.get ((0, 0) : Nat × Nat) a s.serve.overlay
      if x.2 = v + 1 then x.1 else v
    | none => memByte s.mem a

/-- `n` bytes of HBM or SRAM from a canonical address. -/
def State.devBytes (s : State) (a n : Nat) : List Nat := (List.range n).map (fun i => s.devByte (a + i))

/-! Access by stream engines, press units, stewards and partners (R29, R30). -/

/-- A range cut at 4 KiB boundaries, so that each piece lies in one granule of either HBM view. -/
def pieces : Nat → Nat → Nat → List (Nat × Nat)
  | 0, _, _ => []
  | f + 1, a, n =>
    if n = 0 then []
    else
      let k := min n (4096 - a % 4096)
      (a, k) :: pieces f (a + k) (n - k)

/-- The pieces of a range by canonical address; none where a byte of the range is no byte of HBM or SRAM. -/
def canonPieces (a n : Nat) : Option (List (Nat × Nat)) :=
  (pieces (n / 4096 + 2) a n).mapM (fun x => match (region x.1).canon, (region (x.1 + x.2 - 1)).canon with
    | some b, some _ => some (b, x.2)
    | _, _ => none)

/-- Whether a canonical address lies in the SRAM window of a core that no slot holds: a RETIRED slot's SRAM is isolated from the fabric (R70). -/
def State.isolated (s : State) (a : Nat) : Bool := decide (0x8000000000 ≤ a ∧ 72 ≤ s.slotOf ((a - 0x8000000000) / 0x800000))

/-- Whether a canonical address lies in the reserved top of a stack (R184). -/
def inReserved (a : Nat) : Bool := decide (a < 0x2400000000 ∧ reservedOff ≤ a % stackBytes)

/-- The pieces of a range that streams, sequencers and partners reach: neither in a RETIRED slot's SRAM (R70) nor in a stack's reserved top (R184). -/
def State.devPieces (s : State) (a n : Nat) : Option (List (Nat × Nat)) :=
  (canonPieces a n).filter (fun ps => !ps.any (fun x => s.isolated x.1 || inReserved x.1))

/-- Bytes of a device range with the origin code of the first poisoned byte; none where the range is refused. -/
def State.readDev (s : State) (a n : Nat) : Option (List Nat × Option Nat) :=
  match s.devPieces a n with
  | some ps => some (ps.flatMap (fun x => s.devBytes x.1 x.2), ps.findSome? (fun x => s.poisonIn x.1 x.2))
  | none => none

/-- Bytes marked poisoned with an origin code (R393). -/
def State.markPoison (s : State) (a n code : Nat) : State :=
  s.modInteg (fun g => { g with poison := (List.range n).foldl (fun t i => Tbl.set 0 (a + i) code t) g.poison })

/-- A device range, in either view, copied with its poison to a canonical address; a range that no address maps leaves it as it is. -/
def State.copyDev (s : State) (src dst n : Nat) : State :=
  match canonPieces src n with
  | some ps => (ps.foldl (fun (x : State × Nat) y => (x.1.copyMem y.1 x.2 y.2, x.2 + y.2)) (s, dst)).1
  | none => s

/-- Session entries changed by `f`: the stewards write the bytes that change, and a write laid over one of these ends (R227). -/
def State.modSessions (s : State) (f : Tbl Session → Tbl Session) : State :=
  let t := s.modServe (fun v => { v with sessions := f v.sessions })
  t.modServe (fun v => { v with overlay := v.overlay.filter (fun kv => t.listByte kv.1 == some (kv.2.2 - 1)) })

/-- Bytes written to memory at a canonical address; those over the session table or the page lists are noted. -/
def State.putOver (s : State) (a : Nat) (bs : List Nat) : State :=
  let laid := bs.zipIdx.filterMap (fun x => (s.listByte (a + x.2)).map (fun v => (a + x.2, x.1, v + 1)))
  (s.putMem a bs).modServe (fun v => { v with overlay := laid.foldl (fun t x => Tbl.set (0, 0) x.1 x.2 t) v.overlay })

/-- Bytes written over the pieces of a range, with the poison they carry. -/
def State.putPieces (s : State) (ps : List (Nat × Nat)) (bs : List Nat) (poison : Option Nat) : State :=
  (ps.foldl (fun (acc : State × List Nat) x =>
    let s := acc.1.putOver x.1 (acc.2.take x.2)
    ((match poison with | some code => s.markPoison x.1 x.2 code | none => s), acc.2.drop x.2)) (s, bs)).1

/-- Bytes written to a device range, with the poison they carry; none where the range is refused. -/
def State.writeDev (s : State) (a : Nat) (bs : List Nat) (poison : Option Nat) : Option State :=
  (s.devPieces a bs.length).map (fun ps => s.putPieces ps bs poison)

/-! Epochs (R203, R204). -/

/-- Position of a tag after OLDEST. -/
def Pages.age (g : Pages) (x : Nat) : Nat := (x + 2 ^ 24 - g.oldest % 2 ^ 24) % 2 ^ 24

/-- Width of the active window: 0 when OLDEST = NEWEST + 1. -/
def Pages.width (g : Pages) : Nat := (g.newest + 1 + 2 ^ 24 - g.oldest % 2 ^ 24) % 2 ^ 24

/-- Whether a tag lies in the active window. -/
def Pages.inWindow (g : Pages) (x : Nat) : Bool := decide (g.age x < g.width)

/-- Whether page `p` is pinned by epoch `e` (R204). -/
def Pages.pinnedBy (g : Pages) (p e : Nat) : Bool :=
  let x := (g.desc p).pinEpoch
  g.inWindow x && decide (g.age e ≤ g.age x)

/-! Interrupts and the error log. -/

/-- MSI-X vectors of a function (R328). -/
def PortSt.vectors (q : PortSt) (fn : Nat) : Nat :=
  if q.seatMode then (if fn = 0 then 16 else 4) else 64

/-- A message sent; vector 0 starts the 1 ms window of R395. -/
def State.message (s : State) (p : Port) (fn vec : Nat) : State :=
  (s.modFunc p fn (fun f => { f with lastVec0 := if vec = 0 then some s.time else f.lastVec0 })).emit (.msix p fn vec)

/-- A message for vector `vec` of function `fn` (R330). A function without Bus Master Enable issues no DMA (R332), messages included; in the rescue
loader the device sends none (R423). -/
def State.sendVector (s : State) (p : Port) (fn vec : Nat) : State :=
  let f := (s.port p).func fn
  if !f.msixEn || f.msixMask || !f.bme || s.glob.service == 4 then s
  else if f.unmasked.contains vec then s.message p fn vec
  else s.modFunc p fn (fun f => { f with pba := if f.pba.contains vec then f.pba else f.pba ++ [vec] })

/-- Vector 0 of a function for a log entry: at most one in each half-open 1 ms window (R395). -/
def State.logVector (s : State) (p : Port) (fn : Nat) : State :=
  let f := (s.port p).func fn
  let quiet := match f.lastVec0 with | some t => decide (s.time < t + 100000) | none => false
  if quiet then s
  else s.sendVector p fn 0

/-- An event to report (R394): the fields a reporter supplies. -/
structure Report where
  code : Nat
  addr : Nat := 0
  detail : Nat := 0
  kind : UnitKind := .none
  unit : Nat := 0
  verdict : Nat := 0
  func : Nat := 0
  ports : Nat := 3
  reqs : Nat := 0
deriving DecidableEq, Repr

/-- The class of an error code (R12). -/
def codeClass (c : Nat) : Nat := c / 4096 % 16

/-- The newest log entry. -/
def Integrity.newest (g : Integrity) : Option LogEntry :=
  if g.nextSeq = 0 then none else some (Tbl.get {} ((g.nextSeq - 1) % 1024) g.log)

/-- Whether an event merges into the newest entry (R394). -/
def merges (r : Report) (t : Nat) (e : LogEntry) : Bool :=
  decide (codeClass r.code ≤ 1 ∧ r.verdict = 0 ∧ e.verdict = 0 ∧ e.code = r.code ∧ e.kind = r.kind ∧ e.unit = r.unit
    ∧ t < e.time + 100000000)

/-- The log entry of an event. -/
def Report.entry (r : Report) (t seq : Nat) : LogEntry :=
  { time := t, addr := r.addr, detail := r.detail, kind := r.kind, unit := r.unit, verdict := r.verdict, func := r.func,
    ports := r.ports, seq := seq, reqs := min r.reqs 65535, code := r.code }

/-- An entry written to the log, with its vector 0 messages (R394, R395). -/
def State.writeLog (s : State) (r : Report) : State :=
  let e := r.entry s.time s.integ.nextSeq
  let s := s.modInteg (fun g => { g with log := Tbl.set {} (g.nextSeq % 1024) e g.log, nextSeq := (g.nextSeq + 1) % 2 ^ 32 })
  let one := fun (s : State) (p : Port) =>
    if bit r.ports p.num then
      let s := s.logVector p 0
      if r.func = 0 then s else s.logVector p r.func
    else s
  one (one s .A) .B

/-- The end of all service by a device-fatal error (R13, R440): the first one is kept in the register at 0x048. -/
def State.stopService (s : State) (code : Nat) : State :=
  s.modGlob (fun g => { g with
    fatal := true, service := 3, modReady := false
    firstFatal := match g.firstFatal with | some x => some x | none => some (code, (s.integ.nextSeq + 2 ^ 32 - 1) % 2 ^ 32) })

/-- Reporting of an error (R12, R13, R394): the log entry, and the end of service for class 3. -/
def State.report (s : State) (r : Report) : State :=
  let mergeInto := match s.integ.newest with | some e => merges r s.time e | none => false
  let s' :=
    if mergeInto then s.modInteg (fun g => { g with log := Tbl.upd {} ((g.nextSeq - 1) % 1024) (fun e => { e with count := satAdd 16 e.count 1 }) g.log })
    else s.writeLog r
  if codeClass r.code = 3 then s'.stopService r.code else s'

/-- An error that starts a targeted self-test (R396): reported, and the test becomes due under the entry's SEQ. -/
def State.reportTest (s : State) (r : Report) (act : Activity) : State :=
  let s := s.report { r with verdict := 1 }
  s.modInteg (fun g => { g with tests := g.tests ++
    [{ act := act, kind := r.kind, unit := r.unit, code := r.code, addr := r.addr, seq := (g.nextSeq + 2 ^ 32 - 1) % 2 ^ 32, detail := r.detail }] })

/-! Host memory. -/

/-- The function that owns racking window `w` (R324). -/
def PortSt.winOwner (q : PortSt) (w : Nat) : Nat := if q.seatMode then w / 4 else 0

/-- Racking window `w`. -/
def PortSt.win (q : PortSt) (w : Nat) : RackWindow := Tbl.get {} w q.windows

/-- Whether host range `[a, a + n)` lies wholly in one enabled window of function `fn` that grants the direction (R326). -/
def PortSt.grantsBy (q : PortSt) (fn a n : Nat) (may : RackWindow → Bool) : Bool :=
  (List.range 64).any (fun w =>
    let x := q.win w
    x.en && may x && q.winOwner w == fn
      && decide (x.base4k.toNat * 4096 ≤ a ∧ a + n ≤ (x.base4k.toNat + x.size4k.toNat) * 4096))

/-- Whether a window of a function grants a read or a write of a host range. -/
def PortSt.grants (q : PortSt) (fn a n : Nat) (wr : Bool) : Bool := q.grantsBy fn a n (fun x => if wr then x.wr else x.rd)

/-- Whether one window grants both directions, as R326 asks for a rack area. -/
def PortSt.grantsBoth (q : PortSt) (fn a n : Nat) : Bool := q.grantsBy fn a n (fun x => x.wr && x.rd)

/-- Whether a window maps the 4 KiB block `b` of its port's host window in a direction (R325). -/
def RackWindow.maps (x : RackWindow) (b : Nat) (wr : Bool) : Bool :=
  x.en && (if wr then x.wr else x.rd) && decide (x.dev4k.toNat ≤ b ∧ b < x.dev4k.toNat + x.size4k.toNat)

/-- Host address of the 4 KiB block `b` of a port's host window in a direction (R325): that of the enabled window that maps it. A function whose
Bus Master Enable is 0 has no DMA (R332). -/
def PortSt.blockAt (q : PortSt) (b : Nat) (wr : Bool) : Option Nat :=
  ((List.range 64).find? (fun w => (q.win w).maps b wr && (q.func (q.winOwner w)).bme)).map (fun w =>
    let x := q.win w
    (x.base4k.toNat + (b - x.dev4k.toNat)) * 4096)

/-- Translation of `n` bytes at offset `off` of a host window, block by block (R325): host addresses and lengths, or none where an offset
finds no window that grants the direction. -/
def PortSt.pieces (q : PortSt) (off n : Nat) (wr : Bool) : Option (List (Nat × Nat)) :=
  let first := off / 4096
  (List.range ((off + n + 4095) / 4096 - first)).foldr (fun k l => match q.blockAt (first + k) wr, l with
    | some a, some l =>
      let lo := max off (4096 * (first + k))
      some ((a + lo % 4096, min (off + n) (4096 * (first + k + 1)) - lo) :: l)
    | _, _ => none) (some [])

/-- Whether windows mapped a range of the host window until a change that came after the latest pass started (R327). -/
def PortSt.mapped (q : PortSt) (off n : Nat) (wr : Bool) : Bool :=
  let first := off / 4096
  (List.range ((off + n + 4095) / 4096 - first)).all (fun k => (q.blockAt (first + k) wr).isSome || q.past.any (fun x => x.maps (first + k) wr))

/-- As `pieces`, where one window holds the whole range: the host address of its first byte. -/
def PortSt.translate (q : PortSt) (off n : Nat) (wr : Bool) : Option Nat :=
  ((List.range 64).find? (fun w => (q.win w).maps (off / 4096) wr && (q.win w).maps ((off + n - 1) / 4096) wr && (q.func (q.winOwner w)).bme)).map (fun w =>
    (q.win w).base4k.toNat * 4096 + (off - (q.win w).dev4k.toNat * 4096))

/-- Bytes of host memory. -/
def State.hostGet (s : State) (p : Port) (a n : Nat) : List Nat := memGet (s.port p).hostMem a n

/-- A device write to host memory. -/
def State.hostPut (s : State) (p : Port) (a : Nat) (bs : List Nat) : State :=
  s.modPort p (fun q => { q with hostMem := memPut q.hostMem a bs })

/-- Bytes of host memory at translated pieces. -/
def State.windowGet (s : State) (p : Port) (l : List (Nat × Nat)) : List Nat := l.flatMap (fun x => s.hostGet p x.1 x.2)

/-- Bytes written to translated pieces of host memory. -/
def State.windowPut (s : State) (p : Port) : List (Nat × Nat) → List Nat → State
  | [], _ => s
  | (a, n) :: l, bs => (s.hostPut p a (bs.take n)).windowPut p l (bs.drop n)

/-- What the host itself stored in its memory before the command. -/
def State.hostStore (s : State) (p : Port) (cs : Cells) : State :=
  s.modPort p (fun q => { q with hostMem := cs.foldl (fun m kv => memSet m kv.1 kv.2.toNat) q.hostMem })

/-- A host access refused under R325 is counted in DMA_REFUSED (R335). -/
def State.dmaRefuse (s : State) (p : Port) : State :=
  s.modPort p (fun q => { q with dmaRefused := q.dmaRefused + 1 })

/-! Lists of 32-bit and 64-bit values. -/

/-- The 32-bit little-endian values of a byte list. -/
def words32 (bs : List Nat) : List Nat := (chunks 4 bs.length bs).map ofLeBytes

/-- A list position replaced. -/
def setAt {α : Type} (l : List α) (i : Nat) (v : α) : List α := l.set i v

end Sys2Proof.Machine
end

