-- ==== Sys2Proof/Machine/Flags.lean ====
section
/-! DEFINITION. Flags and fault records of the cores: NUM_STATUS (R47), locators (R48, R49), fault registers (R104, R159, R177), clamps (R279). -/

namespace Sys2Proof.Machine

/-- Flags `fl` of engine `e` set in NUM_STATUS (R47: engine e holds bits [6e+5:6e]). -/
def CoreRegs.raise (r : CoreRegs) (e fl : Nat) : CoreRegs :=
  { r with numStatus := r.numStatus ||| BitVec.ofNat 32 ((fl % 64) * 2 ^ (6 * e)) }

/-- Engine number of the SFU. -/
def engSfu : Nat := 4

/-- The locator of suit `s`. -/
def CoreRegs.inv (r : CoreRegs) (s : Nat) : Locator :=
  match s with | 0 => r.inv0 | 1 => r.inv1 | 2 => r.inv2 | _ => r.inv3

/-- The locator of suit `s` replaced. -/
def CoreRegs.setInv (r : CoreRegs) (s : Nat) (l : Locator) : CoreRegs :=
  match s with
  | 0 => { r with inv0 := l } | 1 => { r with inv1 := l } | 2 => { r with inv2 := l } | _ => { r with inv3 := l }

/-- The order of R49 within one instruction: ROW, CUBE_ROW, CUBE_COL, NCOL. -/
def Locator.before (a b : Locator) : Bool :=
  decide (a.row < b.row) || (a.row == b.row && (decide (a.cubeRow < b.cubeRow) || (a.cubeRow == b.cubeRow
    && (decide (a.cubeCol < b.cubeCol) || (a.cubeCol == b.cubeCol && decide (a.ncol < b.ncol))))))

/-- A new invalid at a suit (R49): it is recorded when no record stands, or replaces a later one of the same instruction. -/
def CoreRegs.locate (r : CoreRegs) (s : Nat) (l : Locator) : CoreRegs :=
  let old := r.inv s
  if !old.valid then r.setInv s { l with valid := true }
  else if old.index = l.index ∧ old.tag = l.tag ∧ l.before old then r.setInv s { l with valid := true }
  else r

/-- FIRST_INV_s as a register (R48). -/
def Locator.bits (l : Locator) : Nat :=
  b2n l.valid * 2 ^ 63 + l.tag % 2 ^ 24 * 2 ^ 32 + l.row % 2 ^ 16 * 2 ^ 16 + l.cubeRow % 16 * 2 ^ 12 + l.cubeCol % 16 * 2 ^ 8
    + l.ncol % 4 * 2 ^ 4

/-- A fault record as a register (R104, R159, R177). -/
def FaultRec.bits (f : FaultRec) : Nat :=
  b2n f.valid * 2 ^ 63 + f.specific % 256 * 2 ^ 48 + f.tag % 2 ^ 24 * 2 ^ 24 + f.word % 2 ^ 24

/-- A fault recorded unless an earlier one stands (R104). -/
def FaultRec.keep (f : FaultRec) (code tag word index : Nat) : FaultRec :=
  if f.valid then f else ⟨true, code % 256, tag, word, index⟩

/-- A clamp record as a register (R279). -/
def ClampRec.bits (c : ClampRec) : Nat :=
  b2n c.valid * 2 ^ 63 + c.tag % 2 ^ 24 * 2 ^ 32 + c.peg % 64 * 2 ^ 26 + b2n c.dir * 2 ^ 25 + c.src % 128 * 2 ^ 18
    + b2n c.loAny * 2 + b2n c.hiAny

/-- A clamp recorded (R279): `low` is a clamp at 0. -/
def ClampRec.note (c : ClampRec) (tag peg src : Nat) (low : Bool) : ClampRec :=
  let c := if low then { c with loAny := true } else { c with hiAny := true }
  if c.valid then c else { c with valid := true, tag := tag, peg := peg, dir := low, src := src }

/-- Which register records a core fault, by its code: 0x2330–0x2333 the SFU's (R160), 0x2442–0x2444 the decanter's (R179),
the faults
of R102 and barrier misuse the sequencer's (R103, R104, R270). -/
def CoreRegs.recordFault (r : CoreRegs) (code tag word index : Nat) : CoreRegs :=
  if 0x2330 ≤ code ∧ code ≤ 0x2333 then { r with sfuFault := r.sfuFault.keep code tag word index }
  else if 0x2442 ≤ code ∧ code ≤ 0x2444 then { r with decFault := r.decFault.keep code tag word index }
  else if (0x2130 ≤ code ∧ code ≤ 0x2136) ∨ code = 0x2731 then { r with seqFault := r.seqFault.keep code tag word index }
  else r

/-- ENDCAUSE and FAULT (R272) after a fault: the first code stands, and a fault after END turns the cause to 1. -/
def stopWith (code : Nat) : Option (Nat × Nat) → Option (Nat × Nat)
  | none => some (1, code)
  | some (0, 0) => some (1, code)
  | some (k, 0) => some (k, code)
  | some x => some x

/-- A contained fault of core `c` at its present word (R101, R103): the record, and the sequencer stops with ENDCAUSE 1. -/
def State.coreFault (s : State) (c code : Nat) : State :=
  let r := (s.core c).run
  s.modCore c (fun k => { k with
    regs := k.regs.recordFault code r.tag r.pc r.index.toNat
    run := { k.run with stopped := stopWith code k.run.stopped, wait := none } })

/-- Conversion flags of press units ORed into STREAM_FLAGS (R111, R132). -/
def CoreRegs.raiseStream (r : CoreRegs) (fl : Nat) : CoreRegs :=
  { r with streamFlags := r.streamFlags ||| BitVec.ofNat 6 fl }

end Sys2Proof.Machine
end

