-- ==== Sys2Proof/Machine/SfuRanges.lean ====
section
/-! DEFINITION. The results that R138 and R139 allow an SFU function whose steps are not published: the exact function to some 150 bits,
and the FP32 values within its error bound, of which a free choice takes one (log entry 1). -/

namespace Sys2Proof.Machine

/-- FP32 +∞. -/
def inf32 : Nat := 0x7F800000
/-- FP32 1. -/
def one32 : Nat := 0x3F800000

/-- ⌊2^200 ln 2⌋. -/
def ln2Fx : Nat := 1113844574712631719546256151097547306333272293549090750737802
/-- ⌊2^200 / ln 2⌋. -/
def log2eFx : Nat := 2318321547468254865173387471183990171487108758923299108729110

/-- The sum of `t^i / i!` from a term on, in units of 2^-200. -/
def expSeries : Nat → Nat → Nat → Nat → Nat
  | 0, _, _, _ => 0
  | n + 1, i, t, term => term + expSeries n (i + 1) t (term * t / (i * 2 ^ 200))

/-- 2^f for a fraction `f` in units of 2^-200. -/
def exp2Frac (f : Nat) : Dy := ⟨Int.ofNat (expSeries 50 1 (f * ln2Fx / 2 ^ 200) (2 ^ 200)), -200⟩

/-- e^x for |x| below 2^10. -/
def expDy (x : Dy) : Dy :=
  let p := x.m * Int.ofNat log2eFx
  let y := if 0 ≤ x.e then p * 2 ^ x.e.toNat else p / 2 ^ (-x.e).toNat
  (exp2Frac (y % 2 ^ 200).toNat).scale (y / 2 ^ 200)

/-- The sum of `z^(2i+1) / (2i+1)` from a term on, in units of 2^-200. -/
def atanhSeries : Nat → Nat → Int → Int → Int
  | 0, _, _, _ => 0
  | n + 1, i, z, term => term / Int.ofNat (2 * i + 1) + atanhSeries n (i + 1) z (term * z / 2 ^ 200 * z / 2 ^ 200)

/-- The binary or the natural logarithm of `m * 2^e`, `m` not 0. -/
def logDy (natural : Bool) (m : Nat) (e : Int) : Dy :=
  let b := Nat.log2 m
  let z := (Int.ofNat m - 2 ^ b) * 2 ^ 200 / (Int.ofNat m + 2 ^ b)
  let ln := 2 * atanhSeries 70 0 z z
  let n := e + Int.ofNat b
  if natural then ⟨n * Int.ofNat ln2Fx + ln, -200⟩ else ⟨n * 2 ^ 200 + ln * Int.ofNat log2eFx / 2 ^ 200, -200⟩

/-- `a / b` for `b` above 0, to 600 bits and more. -/
def divDy (a b : Dy) : Dy :=
  let n := 600 + Nat.log2 b.m.natAbs
  ⟨a.m * 2 ^ n / b.m, a.e - b.e - Int.ofNat n⟩

/-- Whether |x| is at least `2^k`. -/
def Dy.reaches (x : Dy) (k : Int) : Bool := Dy.le ⟨1, k⟩ ⟨Int.ofNat x.m.natAbs, x.e⟩

/-- A positive number below every product of FP32 values that the functions form: what e^x is where it lies far below FP32. -/
def tinyDy : Dy := ⟨1, -2000⟩

/-- e^-|x|, as `tinyDy` where it is below 2^-369. -/
def expNeg (x : Dy) : Dy := if x.reaches 8 then tinyDy else expDy ⟨-Int.ofNat x.m.natAbs, x.e⟩

/-- 1 / (1 + e^-x). -/
def sigmoidDy (x : Dy) : Dy :=
  let t := expNeg x
  divDy (if 0 ≤ x.m then ⟨1, 0⟩ else t) (t.add ⟨1, 0⟩)

/-- 2 · sigmoid(2x) − 1. -/
def tanhDy (x : Dy) : Dy :=
  let t := expNeg (x.scale 1)
  let v := divDy (Dy.sub ⟨1, 0⟩ t) (t.add ⟨1, 0⟩)
  if x.m < 0 then v.neg else v

/-- The argument of GELU's sigmoid, 1.595769 · (x + 0.044715 x³), saturated beyond 2^8 (R138). -/
def geluArg (x : Dy) : Dy :=
  if x.reaches 8 then x
  else
    let s := (x.mul ⟨1000000, 0⟩).add (((x.mul x).mul x).mul ⟨44715, 0⟩)
    ⟨s.m * 1595769 * 2 ^ 300 / 1000000000000, s.e - 300⟩

/-- Integer square root by bits, with fuel for the bit position. -/
def isqrtGo : Nat → Nat → Nat → Nat
  | 0, _, r => r
  | b + 1, n, r => let c := r + 2 ^ b; if c * c ≤ n then isqrtGo b n c else isqrtGo b n r

/-- ⌊√n⌋ for `n` below 2^160. -/
def isqrt (n : Nat) : Nat := isqrtGo 80 n 0

/-- √(m · 2^e) or its reciprocal, for `m` below 2^25. -/
def sqrtDy (inv : Bool) (m : Nat) (e : Int) : Dy :=
  let m' := if e % 2 = 0 then m else 2 * m
  let h := (e - e % 2) / 2
  if inv then ⟨Int.ofNat (isqrt (2 ^ 158 / m')), -79 - h⟩ else ⟨Int.ofNat (isqrt (m' * 2 ^ 130)), h - 65⟩

/-! Encodings in order: order number `n` at and above 0 is encoding `n`; below 0 it is the sign bit with `-n - 1`. -/

/-- The encoding with an order number, infinities at the ends. -/
def encAt (z : Int) : Nat := if 0 ≤ z then min inf32 z.toNat else 0x80000000 + min inf32 (-z - 1).toNat

/-- The order number of the greatest encoding whose magnitude is at most `m * 2^e`. -/
def magDown (m : Nat) (e : Int) : Nat :=
  if m = 0 then 0
  else if 128 ≤ log2Rat m 1 + e then inf32
  else let (n, q, _) := roundMag 23 (-149) .rtz m 1 e; encodeMag 23 (-149) n q

/-- The order number of the least encoding whose magnitude is at least `m * 2^e`. -/
def magUp (m : Nat) (e : Int) : Nat :=
  if m = 0 then 0
  else if 128 ≤ log2Rat m 1 + e then inf32
  else let (n, q, inex) := roundMag 23 (-149) .rtz m 1 e; encodeMag 23 (-149) n q + (if inex then 1 else 0)

/-- Least order number at or above a number; −0 counts as 0. -/
def ordUp (d : Dy) : Int := if 0 < d.m then Int.ofNat (magUp d.m.toNat d.e) else -1 - Int.ofNat (magDown d.m.natAbs d.e)
/-- Greatest order number at or below a number. -/
def ordDown (d : Dy) : Int := if 0 ≤ d.m then Int.ofNat (magDown d.m.toNat d.e) else -1 - Int.ofNat (magUp d.m.natAbs d.e)

/-! The bounds of R138 and the monotone choice within them. -/

/-- An error bound of R138: so many ulp, 2^-rel of the value where `rel` is not 0, and the absolute bound 2^abs if larger. -/
structure Tol where
  ulp : Nat
  rel : Nat := 0
  abs : Option Int := none
deriving DecidableEq, Repr

/-- The magnitude of a number. -/
def Dy.mag (v : Dy) : Dy := ⟨Int.ofNat v.m.natAbs, v.e⟩

/-- ⌊log₂ |v|⌋ of a number, at least −126. -/
def Dy.binade (v : Dy) : Int := if v.m = 0 then -126 else max (-126) (log2Rat v.m.natAbs 1 + v.e)

/-- The relative part of a bound around an exact result. -/
def Tol.main (t : Tol) (v : Dy) : Dy := if t.rel = 0 then ⟨Int.ofNat t.ulp, v.binade - 23⟩ else v.mag.scale (-Int.ofNat t.rel)

/-- The absolute part that governs at `v`, if one does. Below the normal numbers, where R138 bounds nothing, monotonicity keeps a result
within the smallest normal number. -/
def Tol.floor (t : Tol) (v : Dy) : Option Int :=
  let a := match t.abs with | some a => if Dy.le (t.main v) ⟨1, a⟩ then some a else none | none => none
  if v.reaches (-126) then a else some (max (-126) (a.getD (-126)))

/-- The error allowed around an exact result known to 60 bits and more. -/
def Tol.err (t : Tol) (v : Dy) : Dy :=
  Dy.add (match t.floor v with | some a => ⟨1, a⟩ | none => t.main v) (v.mag.scale (-60))

/-- What the bound's form at `v` depends on: the sign, and the absolute bound or the binade. Where it stays the same, both ends of the
bound rise with `v`. -/
def Tol.form (t : Tol) (v : Dy) : Bool × Option Int × Int :=
  (decide (v.m < 0), t.floor v, if (t.floor v).isSome || t.rel ≠ 0 then 0 else v.binade)

/-- A stretch of inputs, by order number, on which a function of unpublished steps is non-decreasing: the exact function, its bound, the
results that the special values leave, and a name for the free choice. -/
structure Stretch where
  func : Nat
  part : Nat
  first : Int
  last : Int
  exact : Int → Dy
  tol : Int → Tol
  least : Int
  greatest : Int

/-- The least result that the bound allows at `z`. -/
def Stretch.lo (g : Stretch) (z : Int) : Int := max g.least (ordUp ((g.exact z).sub ((g.tol z).err (g.exact z))))

/-- The greatest result that the bound allows at `z`. -/
def Stretch.hi (g : Stretch) (z : Int) : Int := min g.greatest (ordDown ((g.exact z).add ((g.tol z).err (g.exact z))))

/-- The form of the bound at `z`. -/
def Stretch.form (g : Stretch) (z : Int) : Tol × Bool × Option Int × Int := (g.tol z, (g.tol z).form (g.exact z))

/-- The input farthest from `z` towards `limit`, `n` halvings away at most, up to which the bound keeps its form. -/
def Stretch.edge (g : Stretch) (z limit : Int) : Nat → Int → Int
  | 0, at_ => at_
  | n + 1, at_ =>
    let next := if limit ≤ z then at_ - 2 ^ n else at_ + 2 ^ n
    let inside := if limit ≤ z then decide (limit ≤ next) else decide (next ≤ limit)
    g.edge z limit n (if inside && g.form next == g.form z then next else at_)

/-- Whether a bound at `z` may be passed by the bound of an input where its form is another one. -/
def Stretch.nearEdge (g : Stretch) (z : Int) : Bool :=
  let v := g.exact z
  !v.reaches (-124) || (g.tol z).rel ≠ 0 || g.tol z != g.tol g.first || g.tol z != g.tol g.last
    || (((g.tol z).floor v).isNone && Dy.lt (v.mag.sub ((g.tol z).err v)) (⟨1, v.binade⟩ : Dy))

/-- The least result at `z` that no smaller input's least result passes: the bound as monotonicity leaves it. -/
def Stretch.low (g : Stretch) (z : Int) : Int :=
  if g.nearEdge z then
    let e := g.edge z g.first 32 z
    if e ≤ g.first then g.lo z else max (g.lo z) (g.lo (e - 1))
  else g.lo z

/-- The greatest result at `z` that passes no greater input's greatest result. -/
def Stretch.high (g : Stretch) (z : Int) : Int :=
  if g.nearEdge z then
    let e := g.edge z g.last 32 z
    if g.last ≤ e then g.hi z else min (g.hi z) (g.hi (e + 1))
  else g.hi z

/-- A result between `lo` and `hi` found by halving, each time by whether the input has reached the free threshold of the upper half:
it never falls as `z` rises, and every non-decreasing function is one of these. -/
def descend (reached : Int → Bool) : Nat → Int → Int → Int
  | 0, lo, _ => lo
  | n + 1, lo, hi =>
    if hi ≤ lo then lo
    else
      let m := (lo + hi + 1) / 2
      if reached m then descend reached n m hi else descend reached n lo (m - 1)

/-- The result of a stretch at the input of order number `z` (R138): the free choice, monotone over the stretch and within the bound. -/
def Stretch.pick (g : Stretch) (z : Int) : Int :=
  max (g.low z) (min (g.high z) (descend (fun m => decide (Config.sfuSplit g.func g.part m ≤ z)) 33 g.least g.greatest))

/-- A choice among the results within a bound where no order is promised. -/
def pickIn (pick : Nat) (t : Tol) (v : Dy) (lo hi : Int) : Int :=
  let l := max lo (ordUp (v.sub (t.err v)))
  let h := min hi (ordDown (v.add (t.err v)))
  l + Int.ofNat pick % (h - l + 1)

/-- The order number of an encoding. -/
def ordOf (x : Nat) : Int := if x < 0x80000000 then Int.ofNat x else -1 - Int.ofNat (x - 0x80000000)

/-- The order number of the negated value. -/
def ordNeg (z : Int) : Int := -1 - z

end Sys2Proof.Machine
end

