-- ==== Sys2Proof/Machine/SeedTables.lean ====
section
/-! DEFINITION. The published seed tables 0–3 as R141 defines them entry by entry: every coefficient is the RNE rounding to FP32 of an
exact real value, which the series of SfuRanges.lean give to far more bits than the rounding needs. -/

namespace Sys2Proof.Machine

/-- (ln 2)^k. -/
def lnPow : Nat → Dy
  | 0 => ⟨1, 0⟩
  | k + 1 => (lnPow k).mul ⟨Int.ofNat ln2Fx, -200⟩

/-- k!. -/
def factorial : Nat → Nat
  | 0 => 1
  | k + 1 => (k + 1) * factorial k

/-- Coefficient `k` of entry `i` of published table `t` (R141); coefficients that R141 does not list are +0.0. -/
def seedCoef (t i k : Nat) : Nat :=
  match t, k with
  | 0, k => let v := (exp2Frac (i * 2 ^ 194)).mul (lnPow k); (rne32Rat v.m (factorial k) v.e).1
  | 1, 0 => (rne32Dy (logDy false (128 + i) (-7))).1
  | 1, 1 => (rne32Rat 128 (128 + i) 0).1
  | 2, 0 => (rne32Rat 256 (257 + 2 * i) 0).1
  | 3, 0 => (rne32Dy (sqrtDy true (129 + 2 * (i % 64)) (Int.ofNat (i / 64) - 7))).1
  | _, _ => 0

/-- NENT of a published table. -/
def seedEntries (t : Nat) : Nat := if t = 0 then 64 else 128

/-- The entry bytes of published table `t`, in entry order (R140). -/
def seedBytes (t : Nat) : List Nat :=
  (List.range (seedEntries t)).flatMap (fun i => (List.range 4).flatMap (fun k => leBytes 4 (seedCoef t i k)))

/-- The checksums that R141 publishes for tables 0–3. -/
def publishedCrc : List Nat := [0x3A7D51C4, 0x9E02B86F, 0x61C90D3A, 0xD45E27B1]

/-- The published tables 0–3 (R140, R141), as images of header and entries. -/
def publishedTable (t : Nat) : List Nat :=
  leBytes 64 (0x5D + t * 2 ^ 16 + 1 * 2 ^ 24 + seedEntries t * 2 ^ 32 + publishedCrc.getD t 0 * 2 ^ 128) ++ seedBytes t

end Sys2Proof.Machine
end

