-- ==== Sys2Proof/Machine/Sfu.lean ====
section
/-! DEFINITION. SFU functions (06_special_functions.md): what each FUNC returns for FP32 operands, with its flags. -/

namespace Sys2Proof.Machine

/-- Whether FUNC names a function (R138). -/
def funcLegal (f : Nat) : Bool := decide (f ≤ 0x0F) || decide (0x44 ≤ f ∧ f ≤ 0x4F)

/-- Whether FUNC takes a second operand. -/
def funcBinary (f : Nat) : Bool := f == 2 || f == 3 || f == 0xF

/-- The custom table a FUNC reads, if any. -/
def funcTable (f : Nat) : Option Nat := if 0x44 ≤ f ∧ f ≤ 0x4F then some (f - 0x40) else none

/-- ⌊a⌋ of a finite number, clamped to a signed 32-bit integer (R136 FLOOR). -/
def floorN (d : Dy) : Int :=
  let n : Int := if 0 ≤ d.e then (if 40 < d.e then (if d.m < 0 then -(2 ^ 31) else if d.m = 0 then 0 else 2 ^ 31) else d.m * 2 ^ d.e.toNat)
    else d.m / (2 ^ (-d.e).toNat : Int)
  max (-(2 ^ 31)) (min (2 ^ 31 - 1) n)

/-! Lanes and steps (R135, R136). -/

/-- Register L`k` of a lane at work. -/
def Lane.reg (x : Lane) (k : Nat) : Val := x.l.getD k (.fin false 0 0)

/-- Register L`k` written. -/
def Lane.put (x : Lane) (k : Nat) (v : Val) : Lane := { x with l := x.l.set k v }

/-- Step FMA: d = a × b + c, formed exactly and rounded once. -/
def Lane.fma (x : Lane) (d a b c : Nat) : Lane × Nat := let (v, f) := fmaVal (x.reg a) (x.reg b) (x.reg c); (x.put d (v32 v), f)

/-- Whether MAX and MIN find their operands equal, which sets P. -/
def Lane.equal (x : Lane) (a b : Nat) : Bool :=
  match x.reg a, x.reg b with
  | .nan, _ => false
  | _, .nan => false
  | .inf s, .inf t => s == t
  | .inf _, _ => false
  | _, .inf _ => false
  | u, v => decide ((u.dy.sub v.dy).m = 0)

/-- Step MAX. -/
def Lane.maxStep (x : Lane) (d a b : Nat) : Lane := { x.put d ((x.reg a).larger (x.reg b)) with p := x.equal a b }

/-- Step MIN. -/
def Lane.minStep (x : Lane) (d a b : Nat) : Lane := { x.put d ((x.reg a).smaller (x.reg b)) with p := x.equal a b }

/-- Step FLOOR: N = ⌊a⌋, clamped, and the exact remainder in [0, 1), which stays exact where FP32 cannot hold it (DEDUCED, log entry 45);
an infinity has the remainder 0. -/
def Lane.floorStep (x : Lane) (d a : Nat) : Lane :=
  match x.reg a with
  | .nan => x.put d .nan
  | .inf neg => { x.put d (.fin false 0 0) with n := if neg then -(2 ^ 31) else 2 ^ 31 - 1 }
  | v =>
    let r := if 0 ≤ v.dy.e then (⟨0, 0⟩ : Dy) else ⟨v.dy.m % 2 ^ (-v.dy.e).toNat, v.dy.e⟩
    { x.put d (.ofDy r) with n := floorN v.dy }

/-- Step SPLIT: |a| = d × 2^N with d in [1, 2); 0 and the infinities are not of that form, and keep their magnitude with N = 0. -/
def Lane.splitStep (x : Lane) (d a : Nat) : Lane :=
  match x.reg a with
  | .nan => x.put d .nan
  | .inf _ => { x.put d (.inf false) with n := 0 }
  | .fin _ m e =>
    if m = 0 then { x.put d (.fin false 0 0) with n := 0 }
    else { x.put d (.fin false m (-Int.ofNat (Nat.log2 m))) with n := e + Int.ofNat (Nat.log2 m) }

/-- Step SCALE: d = a × 2^N, rounded once. -/
def Lane.scaleStep (x : Lane) (d a : Nat) : Lane × Nat :=
  match x.reg a with
  | .fin s m e => let (v, f) := rne32 (.fin s m (e + x.n)); (x.put d (v32 v), f)
  | v => (x.put d v, 0)

/-- Step SEL: d = a if P else b. -/
def Lane.sel (x : Lane) (d a b : Nat) : Lane := x.put d (if x.p then x.reg a else x.reg b)

/-- Coefficient `k` of entry `i` of a table image. -/
def tableCoef (bs : List Nat) (i k : Nat) : Nat := ofLeBytes ((bs.drop (64 + 16 * i + 4 * k)).take 4)

/-- The entry of published table `t` for the seed `a`, and where its segment begins (R141): table 0 by the top 6 bits of a fraction, tables
1 and 2 by the top 7 bits of a mantissa in [1, 2), table 3 by its top 6 bits and the parity of the exponent N. -/
def seedIndex (t : Nat) (n : Int) (a : Dy) : Nat × Dy :=
  match t with
  | 0 => let i := (floorN (a.scale 6)).toNat % 64; (i, ⟨Int.ofNat i, -6⟩)
  | 3 => let j := (floorN (a.scale 6)).toNat % 64; (64 * (n % 2).toNat + j, ⟨Int.ofNat (64 + j), -6⟩)
  | _ => let i := (floorN (a.scale 7)).toNat % 128; (i, ⟨Int.ofNat (128 + i), -7⟩)

/-- Step SEED of published table `t`, whose image is `table`: C0–C3 of the entry go to L4–L7, the exact remainder to L3. -/
def Lane.seed (x : Lane) (t : Nat) (table : List Nat) (a : Nat) : Lane :=
  match x.reg a with
  | .fin s m e =>
    let d := (Val.fin s m e).dy
    let (i, start) := seedIndex t x.n d
    let x := (List.range 4).foldl (fun (x : Lane) k => x.put (4 + k) (v32 (tableCoef table i k))) x
    x.put 3 (.ofDy (d.sub start))
  | v => [3, 4, 5, 6, 7].foldl (fun (x : Lane) k => x.put k (if v.isNan then .nan else .fin false 0 0)) x

/-- FP32 bits and flags of the special-value row of function FUNC at an input, where one holds (R139). -/
def fixRow (f x : Nat) : Option (Nat × Nat) :=
  let inv := some (nan32, flINV)
  match v32 x with
  | .nan => some (nan32, flNANIN)
  | .inf n => match f with
    | 0x4 | 0x5 => some (if n then 0 else inf32, 0)
    | 0x6 | 0x7 | 0xA => if n then inv else some (inf32, 0)
    | 0x8 => some (if n then 0x80000000 else 0, 0)
    | 0x9 => if n then inv else some (0, 0)
    | 0xB => some (if n then 0 else one32, 0)
    | 0xC => some (if n then 0xBF800000 else one32, 0)
    | 0xD | 0xE => some (if n then 0x80000000 else inf32, 0)
    | _ => none
  | .fin n m _ =>
    if m = 0 then match f with
      | 0x4 | 0x5 => some (one32, 0)
      | 0x6 | 0x7 => some (0xFF800000, 0)
      | 0x8 | 0x9 => some ((if n then 0x80000000 else 0) + inf32, 0)
      | 0xA | 0xC | 0xD | 0xE => some (x, 0)
      | 0xB => some (0x3F000000, 0)
      | _ => none
    else if n && (f == 0x6 || f == 0x7 || f == 0x9 || f == 0xA) then inv
    else if x = one32 ∧ (f = 0x6 ∨ f = 0x7) then some (0, 0)
    else none

/-- Step FIX: the special-value row of FUNC at the word's input overrides L0 and sets P where it holds; its flags then stand for those of
the steps. -/
def Lane.fix (k : Lane) (f x flags : Nat) : Lane × Nat :=
  match fixRow f x with
  | some (v, fl) => ({ k.put 0 (v32 v) with p := true }, fl)
  | none => ({ k with p := false }, flags)

/-- EXP2's micro-program (R136) with the image of table 0: the lane it leaves, and the flags of the result (R139). -/
def exp2Lane (table : List Nat) (x : Nat) : Lane × Nat :=
  let k := ({} : Lane).put 0 (v32 x)
  let k := (k.floorStep 1 0).seed 0 table 1
  let k := (k.fma 6 7 3 6).1
  let k := (k.fma 5 6 3 5).1
  let k := (k.fma 4 5 3 4).1
  let (k, f) := k.scaleStep 0 4
  k.fix 4 x f

/-- EXP2 (R136, R139). -/
def exp2 (table : List Nat) (x : Nat) : Nat × Nat := let (k, f) := exp2Lane table x; ((rne32 (k.reg 0)).1, f)

/-- Flags of a result computed outside the special rows (R139): an infinity is an overflow; a subnormal or zero that is not the exact
result is an underflow. -/
def resultFlags (b : Nat) (exact : Dy) : Nat :=
  match v32 b with
  | .inf _ => flOVF
  | .fin n m e => if m < 2 ^ 23 ∧ (Dy.sub (Val.fin n m e).dy exact).m ≠ 0 then flUNF else 0
  | .nan => 0

/-- Order number of +∞. -/
def topOrd : Int := Int.ofNat inf32
/-- Order number of −∞. -/
def botOrd : Int := -1 - Int.ofNat inf32
/-- Order number of 1. -/
def oneOrd : Int := Int.ofNat one32

/-- The exact functions that R138 names, at a finite FP32 value. -/
def sfuExact (f : Nat) (v : Val) : Dy :=
  let d := v.dy
  match f with
  | 0x5 => if d.reaches 10 then (if d.m < 0 then tinyDy else ⟨1, 1000⟩) else expDy d
  | 0x6 => logDy false d.m.natAbs d.e
  | 0x7 => logDy true d.m.natAbs d.e
  | 0x8 => ⟨(if d.m < 0 then -1 else 1) * (2 ^ 150 / Int.ofNat d.m.natAbs), -150 - d.e⟩
  | 0x9 => sqrtDy true d.m.natAbs d.e
  | 0xA => sqrtDy false d.m.natAbs d.e
  | 0xB => sigmoidDy d
  | 0xC => tanhDy d
  | 0xD => d.mul (sigmoidDy d)
  | _ => d.mul (sigmoidDy (geluArg d))

/-- The error bounds of R138 at an input. -/
def sfuTol (f : Nat) (v : Val) : Tol :=
  match f with
  | 0x5 => { ulp := 3 }
  | 0x6 => { ulp := 2, abs := some (-28) }
  | 0x7 => { ulp := 3, abs := some (-28) }
  | 0x8 => { ulp := 1 }
  | 0x9 => { ulp := 2 }
  | 0xA => { ulp := 2 }
  | 0xB => { ulp := 4, abs := some (-30) }
  | 0xC => if v.dy.reaches (-1) then { ulp := 4 } else { ulp := 0, abs := some (-24) }
  | 0xD => { ulp := 5, abs := some (-30) }
  | _ => { ulp := 0, rel := 20, abs := some (-30) }

/-- A stretch of a function between two inputs and two results, by order number: `up` where it does not fall there, else as the
negated function. -/
def stretchOf (f part : Nat) (up : Bool) (first last least greatest : Int) : Stretch :=
  { func := f, part := part, first := first, last := last
    exact := fun z => let d := sfuExact f (v32 (encAt z)); if up then d else d.neg
    tol := fun z => sfuTol f (v32 (encAt z))
    least := if up then least else ordNeg greatest, greatest := if up then greatest else ordNeg least }

/-- A function of unpublished steps at `x` on a monotone stretch: the result and its flags. -/
def onStretch (f part : Nat) (up : Bool) (first last least greatest : Int) (x : Nat) : Nat × Nat :=
  let z := (stretchOf f part up first last least greatest).pick (ordOf x)
  let b := encAt (if up then z else ordNeg z)
  (b, resultFlags b (sfuExact f (v32 x)))

/-- A function of unpublished steps: its special-value row where one holds, else the steps' result. -/
def fixed (f x : Nat) (steps : Nat × Nat) : Nat × Nat :=
  match fixRow f x with
  | some r => r
  | none => steps

/-- EXP (R138, R139): non-decreasing from +0, and 1 at 0. -/
def exp32 (x : Nat) : Nat × Nat :=
  fixed 5 x (if (v32 x).sign then onStretch 5 0 true (botOrd + 1) (-2) 0 oneOrd x else onStretch 5 1 true 1 (topOrd - 1) oneOrd topOrd x)

/-- LOG2 and LOG (R138, R139): non-decreasing, and +0 at 1. -/
def log32 (f x : Nat) : Nat × Nat :=
  fixed f x (if x < one32 then onStretch f 0 true 1 oneOrd botOrd 0 x else onStretch f 1 true oneOrd (topOrd - 1) 0 topOrd x)

/-- RECIP (R138, R139): non-increasing on each side of 0. -/
def recip (x : Nat) : Nat × Nat :=
  fixed 8 x (if (v32 x).sign then onStretch 8 0 false (botOrd + 1) (-2) botOrd (-1) x else onStretch 8 1 false 1 (topOrd - 1) 0 topOrd x)

/-- RSQRT (R138, R139): non-increasing. -/
def rsqrt (x : Nat) : Nat × Nat := fixed 9 x (onStretch 9 0 false 1 (topOrd - 1) 0 topOrd x)

/-- SQRT (R138, R139): non-decreasing. -/
def sqrt32 (x : Nat) : Nat × Nat := fixed 0xA x (onStretch 10 0 true 1 (topOrd - 1) 0 topOrd x)

/-- SIGMOID (R138, R139): non-decreasing from +0 to 1, and 0.5 at 0. -/
def sigmoid (x : Nat) : Nat × Nat :=
  fixed 0xB x (if (v32 x).sign then onStretch 0xB 0 true (botOrd + 1) (-2) 0 0x3F000000 x
    else onStretch 0xB 1 true 1 (topOrd - 1) 0x3F000000 oneOrd x)

/-- TANH (R138, R139): non-decreasing from −1 to 1, with the sign of its input. -/
def tanh32 (x : Nat) : Nat × Nat :=
  fixed 0xC x (if (v32 x).sign then onStretch 0xC 0 true (botOrd + 1) (-2) (ordNeg oneOrd) (-1) x
    else onStretch 0xC 1 true 1 (topOrd - 1) 0 oneOrd x)

/-- The order numbers between which SILU and GELU promise no order: of the greatest FP32 values at or below −1.30 and −0.78, and of the
least at or above −1.25 and −0.72 (R138). -/
def dip (f : Nat) : Int × Int := if f = 0xD then (ordNeg 0x3FA66667, ordNeg 0x3FA00000) else (ordNeg 0x3F47AE15, ordNeg 0x3F3851EB)

/-- SILU and GELU (R138, R139): they fall up to the dip and rise from it on; a zero keeps its sign, and both sides of 0 keep theirs. -/
def silu (f x : Nat) : Nat × Nat :=
  fixed f x (
    if (v32 x).sign = false then onStretch f 2 true 1 (topOrd - 1) 0 topOrd x
    else if (dip f).2 ≤ ordOf x then onStretch f 1 true (dip f).2 (-2) botOrd (-1) x
    else if ordOf x ≤ (dip f).1 then onStretch f 0 false (botOrd + 1) (dip f).1 botOrd (-1) x
    else
      let v := sfuExact f (v32 x)
      let b := encAt (pickIn (Config.sfuPick f (BitVec.ofNat 32 x)) (sfuTol f (v32 x)) v botOrd (-1))
      (b, resultFlags b v))

/-- RELU (R138, R139). -/
def relu (x : Nat) : Nat × Nat :=
  match v32 x with
  | .nan => (nan32, flNANIN)
  | v => if v.sign || v.isZero then (0, 0) else (x, 0)

/-- A table image: header fields of R140. -/
structure TableHdr where
  magic : Nat
  table : Nat
  nent : Nat
  xlo : Nat
  xhi : Nat
  crc : Nat
deriving DecidableEq, Repr

/-- The header of a table image (R140). -/
def tableHdr (bs : List Nat) : TableHdr :=
  let h := ofLeBytes (bs.take 64)
  { magic := fld h 0 8, table := fld h 16 8, nent := fld h 32 16, xlo := fld h 64 32, xhi := fld h 96 32, crc := fld h 128 32 }

/-- An FMA step of CUSTOM (R142): `a * f + c` for the exact remainder `f = fn / den`, at least 0, with the special values of R46. A NaN that
the step before made flows on without a flag, and a NaN coefficient read is NANIN (V1). -/
def fmaRat (a : Nat) (fn : Dy) (den c : Nat) : Nat × Nat :=
  match v32 a, v32 c with
  | _, .nan => (nan32, flNANIN)
  | .nan, _ => (nan32, 0)
  | .inf n, cv => if fn.m = 0 then (nan32, flINV) else
      (match cv with | .inf k => if k = n then (a, 0) else (nan32, flINV) | _ => (a, 0))
  | _, .inf _ => (c, 0)
  | x, y =>
    let s := (x.dy.mul fn).add (y.dy.mul (Dy.ofInt den))
    if s.m ≠ 0 then rne32Rat s.m den s.e
    else if (x.isZero || fn.m == 0) && y.isZero && x.sign && y.sign then (0x80000000, 0) else (0, 0)

/-- CUSTOM (R142): the value of a table image at `x`. Of the first two FMA steps INV and NANIN alone are kept: OVF and UNF are those of the
result (R139; DEDUCED, log entry 45). -/
def customFunc (bs : List Nat) (x : Nat) : Nat × Nat :=
  let h := tableHdr bs
  if (v32 x).isNan then (nan32, flNANIN)
  else
    let u := min32 (max32 x h.xlo) h.xhi
    let du := (v32 u).dy.sub (v32 h.xlo).dy
    let span := (v32 h.xhi).dy.sub (v32 h.xlo).dy
    let n := h.nent
    -- i = floor(du * n / span) at a common exponent
    let e := min du.e span.e
    let a := du.m * 2 ^ (du.e - e).toNat * n
    let b := span.m * 2 ^ (span.e - e).toNat
    let i := min (if b ≤ 0 then 0 else (a / b).toNat) (n - 1)
    let fn := (du.mul (Dy.ofInt n)).sub (span.mul (Dy.ofInt i))
    let r3 := fmaRat (tableCoef bs i 3) fn n (tableCoef bs i 2)
    let r2 := fmaRat r3.1 fn n (tableCoef bs i 1)
    let r1 := fmaRat r2.1 fn n (tableCoef bs i 0)
    (r1.1, (if (v32 (tableCoef bs i 3)).isNan then flNANIN else 0) ||| ((r3.2 ||| r2.2) &&& (flINV ||| flNANIN)) ||| r1.2)

/-- SWIGLU (R138, R139): SILU of `x`, then MUL by R46; where SILU(x) × y is finite and normal, within 6 ulp of it. -/
def swiglu (x y : Nat) : Nat × Nat :=
  let (a, fa) := silu 0xD x
  let (b, fb) := mul32 a y
  if (v32 x).isNan || (v32 y).isNan then (nan32, flNANIN)
  else match v32 x, v32 y with
    | .fin n m e, .fin yn ym ye =>
      let v := (sfuExact 0xD (.fin n m e)).mul (Val.fin yn ym ye).dy
      if v.reaches (-126) && !v.reaches 128 then
        let t : Tol := { ulp := 6 }
        let c := encAt (max (ordUp (v.sub (t.err v))) (min (ordDown (v.add (t.err v))) (ordOf b)))
        (c, resultFlags c v)
      else (b, fa ||| fb)
    | _, _ => (b, fa ||| fb)

/-- Function FUNC of operands `x` and `y` (R138, R139). `table` is the active image that FUNC reads: table 0 for EXP2, its own for a CUSTOM
function. -/
def sfuFunc (f : Nat) (table : List Nat) (x y : Nat) : Nat × Nat :=
  match f with
  | 0x00 => if (v32 x).isNan then (nan32, flNANIN) else (x, 0)
  | 0x01 => relu x
  | 0x02 => add32 x y
  | 0x03 => mul32 x y
  | 0x04 => exp2 table x
  | 0x05 => exp32 x
  | 0x06 => log32 6 x
  | 0x07 => log32 7 x
  | 0x08 => recip x
  | 0x09 => rsqrt x
  | 0x0A => sqrt32 x
  | 0x0B => sigmoid x
  | 0x0C => tanh32 x
  | 0x0D => silu 0xD x
  | 0x0E => silu 0xE x
  | 0x0F => swiglu x y
  | _ => customFunc table x

/-- An input element as it enters a lane (R135): FP32 bits; large INT32 values are rounded by RNE without a flag. -/
def laneIn (f : Fmt) (x : Nat) : Nat :=
  match f with
  | .fp32 => if (v32 x).isNan then nan32 else x
  | _ => (rne32 (decodeVal f x)).1

/-- CVT (R136): an FP32 result to the output format under RND and OVF. -/
def cvt (f : Fmt) (r : Rnd) (wrap : Bool) (x : Nat) : Nat × Nat :=
  match f with
  | .fp32 => (x, 0)
  | _ => convert f r wrap (v32 x)

end Sys2Proof.Machine
end

