-- ==== Sys2Proof/Machine/Operands.lean ====
section
/-! DEFINITION. The sequencer and the operand forms of core words: fetch and issue (R95–R101), address slots (R81), operands and
partial-sum tiles (R82–R85), hazards against streams (R56, R110). -/

namespace Sys2Proof.Machine

/-- The CLASS of a word (R77). -/
def wClass (w : Nat) : Nat := fld w 0 4
/-- The OP of a word (R77). -/
def wOp (w : Nat) : Nat := fld w 4 3
/-- FENCE (R77). -/
def wFence (w : Nat) : Bool := bit w 7

/-- A CLASS or OP that R77 and the class tables call illegal (R102, 0x2130). -/
def wIllegal (w : Nat) : Bool :=
  match wClass w with
  | 0 => decide (5 ≤ wOp w)
  | 1 => decide (2 ≤ wOp w)
  | 2 => decide (2 ≤ wOp w)
  | 3 => decide (5 ≤ wOp w)
  | 4 => decide (3 ≤ wOp w)
  | 5 => decide (4 ≤ wOp w)
  | _ => true

/-- Whether a word has the given CLASS and OP. -/
def wIs (cls op w : Nat) : Bool := wClass w == cls && wOp w == op

/-- The outcome of a core word's command: the word must be of the command's own kind, or illegal by its CLASS or OP
(log entry 7: an illegal word may stand under any core-word command). -/
def coreWord (own : Bool) (w : Nat) (after : State) : Host.Outcome State Fault Refusal :=
  if own || wIllegal w then .next after else .fault .illFormed

/-- Tiles before a producer in a local-queue plan, while all their numbers are known (R128). -/
def planFirst (index : Nat) : List (Nat × Option Nat) → Option Nat
  | [] => none
  | (i, n) :: l => if i = index then some 0 else match n, planFirst index l with | some n, some m => some (n + m) | _, _ => none

/-- First tile of the producer with an instruction index. -/
def CoreRun.lqFirst (r : CoreRun) (index : Nat) : Option Nat := planFirst index r.lqPlan

/-- Tiles that the words issued so far produce; none while a SCATTER's number is open. -/
def CoreRun.lqReserved (r : CoreRun) : Option Nat :=
  r.lqPlan.foldl (fun a x => match a, x.2 with | some a, some n => some (a + n) | _, _ => none) (some 0)

/-- Whether a word may take `n` more tiles, as far as is known (R126). -/
def CoreRun.lqSupplies (r : CoreRun) (n : Nat) : Bool := match r.lqReserved with | some m => decide (r.lqTaken + n ≤ m) | none => true

/-- Tiles of a KFETCH that it has still to write (R97, R130). -/
def CoreRun.kfetchLeft (r : CoreRun) (k : KFetch) : List Nat :=
  match r.lqFirst k.index with
  | some f => ((List.range k.count).map (fun i => f + i)).filter (fun t => decide (r.lqTaken ≤ t) && !r.lqFilled.contains t)
  | none => List.range k.count

/-- Whether a KFETCH still has tiles to write. -/
def CoreRun.kfetchOpen (r : CoreRun) : Bool := r.kfetches.any (fun k => !(r.kfetchLeft k).isEmpty)

/-- Whether a stream word of a core has not yet completed (R97). -/
def CoreRun.streamsOpen (r : CoreRun) : Bool :=
  r.kfetchOpen || r.queues.any (fun kv => kv.2.any (fun e => match e with | .desc .. => true | .peg .. => false))

/-- Entries that wait in a core's stream queues, and KFETCH words that have tiles to write (R97). The sequencer's stream queue takes 16 (R96,
log entry 8). -/
def CoreRun.queueLoad (r : CoreRun) : Nat :=
  (r.queues.map (fun kv => kv.2.length)).sum + (r.kfetches.filter (fun k => !(r.kfetchLeft k).isEmpty)).length

/-- What a descriptor under way has delivered: local-queue tiles under DLQ (R128), bytes of a SCALEFEED (R117). -/
def CoreRun.progress (r : CoreRun) (index : Nat) : Nat := ((r.lqDone.find? (fun x => x.1 == index)).map Prod.snd).getD 0

/-- The progress of a descriptor set. -/
def CoreRun.setProgress (r : CoreRun) (index n : Nat) : CoreRun :=
  { r with lqDone := (r.lqDone.filter (fun x => x.1 != index)) ++ [(index, n)] }

/-- Address of the word at the sequencer's position (R76). -/
def CoreRun.fetchAddr (r : CoreRun) : Nat := r.prog + 16 * r.pc

/-- The word at the sequencer's position: from the instruction buffer where an open loop has brought it there before (R95), else from
memory; none where the fetch is refused or returns poison (R102, 0x2136). A program may lie in HBM or in SRAM, and a fetch from a host
window, from registers or from a peg board counts as refused (DEDUCED, log entry 41). -/
def State.fetchWord (s : State) (c : Nat) : Option Nat :=
  let r := (s.core c).run
  match r.ibuf.find? (fun x => x.1 == r.pc) with
  | some x => some x.2.toNat
  | none => match (region r.fetchAddr) with
  | .hbm a => if (s.poisonIn a 16).isSome then none else some (ofLeBytes (s.devBytes a 16))
  | .sram k o => if (s.poisonIn (sramAddr k o) 16).isSome then none else some (ofLeBytes (s.devBytes (sramAddr k o) 16))
  | _ => none

/-- Whether a word has begun that takes more than one command: a decanter word with blocks left, or an array word whose scales come by parts
(R117, R169). -/
def CoreRun.underWay (r : CoreRun) : Bool := r.dec.isSome || !r.scaleHeld.isEmpty

/-- Whether core `c` may decode a next word: it runs a pass, no MONITOR or ACQUIRE waits, and it has not stopped (R96, R101).
A word that has begun completes after a stop too (R101). -/
def State.canDecode (s : State) (c : Nat) : Bool :=
  let r := (s.core c).run
  s.alive && r.active && (r.stopped.isNone || r.underWay) && r.wait.isNone

/-- Word position and open loops after a word has passed (R95): every body that ends here takes its next iteration or closes. -/
def stepLoops (pc : Nat) : List Loop → Nat × List Loop
  | [] => (pc + 1, [])
  | l :: outer =>
    if l.last = pc then
      if l.i < l.count then (l.first, { l with i := l.i + 1 } :: outer)
      else stepLoops pc outer
    else (pc + 1, l :: outer)

/-- The instruction buffer after a word has issued: it keeps the words of the open loops (R95). -/
def CoreRun.buffered (r : CoreRun) (w : Nat) (open_ : Bool) : List (Nat × Word) :=
  if !open_ then [] else if r.ibuf.any (fun x => x.1 == r.pc) then r.ibuf else r.ibuf ++ [(r.pc, BitVec.ofNat 128 w)]

/-- The sequencer after word `w` has issued: the index counts it (R99) and the position moves on (R95). Loops are kept innermost first. -/
def CoreRun.issued (w : Nat) (r : CoreRun) : CoreRun :=
  let (pc, ls) := stepLoops r.pc r.loops
  { r with index := r.index + 1, pc := pc, loops := ls, ibuf := r.buffered w (!ls.isEmpty) }

/-- The loop level `n` counted from the outermost, if open. -/
def CoreRun.level (r : CoreRun) (n : Nat) : Option Loop := r.loops.reverse[n]?

/-- Slots of R81. -/
inductive Slot where
  | a | p | o
deriving DecidableEq, Repr

/-- A level's stride for a slot. -/
def Loop.stride (l : Loop) : Slot → Int
  | .a => l.sa | .p => l.sp | .o => l.so

/-- The STEP bit of a slot. -/
def wStep (w : Nat) : Slot → Bool
  | .a => bit w 8 | .p => bit w 9 | .o => bit w 10

/-- The effective address of R81, in 64-byte units. -/
def CoreRun.eff (r : CoreRun) (w : Nat) (x : Slot) (field : Nat) : Int :=
  if wStep w x then r.loops.foldl (fun a l => a + Int.ofNat l.i * l.stride x) (Int.ofNat field) else Int.ofNat field

/-- A byte range of the core's own SRAM. -/
structure Range where
  lo : Int
  len : Nat
deriving DecidableEq, Repr

/-- Whether a range lies in the window (R81). -/
def Range.inWindow (x : Range) : Bool := decide (0 ≤ x.lo ∧ x.lo + Int.ofNat x.len ≤ 0x600000)

/-- Whether two ranges touch one 512-byte line (R56). -/
def Range.shareLine (x y : Range) : Bool :=
  decide (0 < x.len ∧ 0 < y.len ∧ x.lo / 512 ≤ (y.lo + Int.ofNat y.len - 1) / 512 ∧ y.lo / 512 ≤ (x.lo + Int.ofNat x.len - 1) / 512)

/-- Whether two ranges share a byte. -/
def Range.overlap (x y : Range) : Bool :=
  decide (0 < x.len ∧ 0 < y.len ∧ x.lo < y.lo + Int.ofNat y.len ∧ y.lo < x.lo + Int.ofNat x.len)

/-- What a word touches in its core's SRAM: `later` is what it reads block by block. The weight tiles it takes and the queue slots it fills
stand apart: the queue orders them among themselves (R124, R128), so that a slot's next tile is not one the word waits for. -/
structure Footprint where
  reads : List Range := []
  writes : List Range := []
  later : List Range := []
  tiles : List Range := []
  slots : List Range := []
deriving DecidableEq, Repr

/-- Whether a footprint lies in the window. -/
def Footprint.inWindow (f : Footprint) : Bool :=
  f.reads.all Range.inWindow && f.writes.all Range.inWindow && f.later.all Range.inWindow && f.tiles.all Range.inWindow

/-- Whether two lists of ranges share a line. -/
def shareLines (l m : List Range) : Bool := l.any (fun x => m.any (fun y => x.shareLine y))

/-- Whether a read of a later footprint waits for an earlier one's writes (R56). -/
def Footprint.holdsRead (a b : Footprint) : Bool :=
  shareLines a.writes (b.reads ++ b.later ++ b.tiles) || shareLines a.slots (b.reads ++ b.later)

/-- Whether a write of a later footprint waits for an earlier one's accesses (R56, R110). -/
def Footprint.holdsWrite (a b : Footprint) : Bool :=
  shareLines (a.reads ++ a.later ++ a.writes) (b.writes ++ b.slots) || shareLines a.slots b.writes

/-- Whether a later footprint must wait for an earlier one (R56, R110): one of them writes a line that the other touches. -/
def Footprint.conflicts (a b : Footprint) : Bool := a.holdsRead b || a.holdsWrite b

/-! Stream descriptors (R107). -/

/-- The fields of a descriptor. -/
structure SDesc where
  kind : Nat
  sfmt : Nat
  dfmt : Nat
  xpose : Bool
  rnd : Nat
  ovf : Bool
  dlq : Bool
  ndim : Nat
  idxfmt : Nat
  src : Nat
  dst : Nat
  len0 : Nat
  cnt1 : Nat
  cnt2 : Nat
  cnt3 : Nat
  sstr1 : Int
  sstr2 : Int
  sstr3 : Int
  dstr1 : Int
  dstr2 : Int
  dstr3 : Int
  idx : Nat
  scl : Nat
deriving DecidableEq, Repr

/-- Decoding of a descriptor (R107): counts of unused dimensions read as 1 and their strides as 0. -/
def SDesc.decode (v : Nat) : SDesc :=
  let nd := fld v 21 2
  { kind := fld v 0 8, sfmt := fld v 8 4, dfmt := fld v 12 4, xpose := bit v 16, rnd := fld v 17 2, ovf := bit v 19, dlq := bit v 20,
    ndim := nd, idxfmt := fld v 24 4, src := fld v 32 48, dst := fld v 80 48, len0 := fld v 128 16,
    cnt1 := if 1 ≤ nd then fld v 144 16 else 1, cnt2 := if 2 ≤ nd then fld v 160 16 else 1, cnt3 := if 3 ≤ nd then fld v 176 16 else 1,
    sstr1 := if 1 ≤ nd then signed 32 (fld v 192 32) else 0, sstr2 := if 2 ≤ nd then signed 32 (fld v 224 32) else 0,
    sstr3 := if 3 ≤ nd then signed 32 (fld v 256 32) else 0, dstr1 := if 1 ≤ nd then signed 32 (fld v 288 32) else 0,
    dstr2 := if 2 ≤ nd then signed 32 (fld v 320 32) else 0, dstr3 := if 3 ≤ nd then signed 32 (fld v 352 32) else 0,
    idx := fld v 384 48, scl := fld v 464 48 }

/-- Width of a format code in bits, 8 where the code names none. -/
def fmtWidth (n : Nat) : Nat := match Fmt.ofCode n with | some f => f.width | none => 8

/-- Bytes of a run at the destination (R108). A SCALEFEED moves plain bytes. -/
def SDesc.outLen (d : SDesc) : Nat :=
  if d.kind = 4 then d.len0 else d.len0 * fmtWidth d.dfmt / fmtWidth d.sfmt

/-- A run of a descriptor: its ordinal, the i1 of its index, and its source and destination (R108). -/
structure Run where
  ord : Nat
  i1 : Nat
  src : Int
  dst : Int
deriving DecidableEq, Repr

/-- The runs of a descriptor in loop order (R108), with the index values of a GATHER or SCATTER. With DLQ the destination is an
offset in the output (R128). -/
def SDesc.runs (d : SDesc) (idx : List Nat) : List Run :=
  (List.range d.cnt3).flatMap (fun i3 => (List.range d.cnt2).flatMap (fun i2 => (List.range d.cnt1).map (fun i1 =>
    let js := if d.kind = 2 then idx.getD i1 0 else i1
    let jd := if d.kind = 3 then idx.getD i1 0 else i1
    let base : Int := if d.dlq then 0 else Int.ofNat d.dst
    { ord := (i3 * d.cnt2 + i2) * d.cnt1 + i1, i1 := i1,
      src := Int.ofNat d.src + Int.ofNat js * d.sstr1 + Int.ofNat i2 * d.sstr2 + Int.ofNat i3 * d.sstr3,
      dst := base + Int.ofNat jd * d.dstr1 + Int.ofNat i2 * d.dstr2 + Int.ofNat i3 * d.dstr3 })))

/-- The part of an address range that lies in core `c`'s own SRAM, as a window range. -/
def ownRange (c : Nat) (a : Int) (n : Nat) : List Range :=
  let lo := max 0 (a - Int.ofNat (sramAddr c 0))
  let hi := min 0x600000 (a + Int.ofNat n - Int.ofNat (sramAddr c 0))
  if lo < hi then [⟨lo, (hi - lo).toNat⟩] else []

/-- What an end of a descriptor lies in (R109). -/
inductive End where
  | sram
  | hbm
  | host (p : Port)
  | unit
  | refused
deriving DecidableEq, Repr

/-- The end of one byte. -/
def endAt (a : Int) : End :=
  match a with
  | .negSucc _ => .refused
  | .ofNat n => match region n with
    | .hbm _ => .hbm
    | .sram _ _ => .sram
    | .host p _ => .host p
    | .peg _ => .unit
    | .regs _ => .unit
    | _ => .refused

/-- The end that holds a whole run, judged by its first and last byte. -/
def endOf (a : Int) (n : Nat) : End :=
  let x := endAt a
  let y := endAt (a + Int.ofNat n - 1)
  if x = .unit ∨ y = .unit then .unit else if x = y then x else .refused

/-- The offset of an address in its port's host window. -/
def hostOffset (a : Int) : Nat := match region a.toNat with | .host _ o => o | _ => 0

/-- Bytes at a device address as a stream word reads them, with their poison, or the code of a refusal (R30, R109): HBM, SRAM, or a host
window, which a transfer after a change of the windows leaves with 0x2604 (R327). -/
def State.readAny (s : State) (a : Int) (n : Nat) : (List Nat × Option Nat) ⊕ Nat :=
  match endOf a n with
  | .host p => match (s.port p).pieces (hostOffset a) n false with
    | some l => .inl (s.windowGet p l, none)
    | none => .inr (if (s.port p).mapped (hostOffset a) n false then 0x2604 else 0x2201)
  | .sram | .hbm => match s.readDev a.toNat n with | some x => .inl x | none => .inr 0x2201
  | _ => .inr 0x2201

/-- As `readAny`, for a write. -/
def State.writeAny (s : State) (a : Int) (bs : List Nat) (poison : Option Nat) : State ⊕ Nat :=
  match endOf a bs.length with
  | .host p => match (s.port p).pieces (hostOffset a) bs.length true with
    | some l => .inl (s.windowPut p l bs)
    | none => .inr (if (s.port p).mapped (hostOffset a) bs.length true then 0x2604 else 0x2201)
  | .sram | .hbm => match s.writeDev a.toNat bs poison with | some x => .inl x | none => .inr 0x2201
  | _ => .inr 0x2201

/-- Bytes of a descriptor's index stream. -/
def SDesc.idxBytes (d : SDesc) : Nat := if d.kind = 2 ∨ d.kind = 3 then d.cnt1 * (if d.idxfmt = 0 then 2 else 4) else 0

/-- Indices of a descriptor, read where IDX points (R112; log entry 21). -/
def State.indexList (s : State) (d : SDesc) : List Nat :=
  if d.idxBytes = 0 then [] else match s.readAny (Int.ofNat d.idx) d.idxBytes with
    | .inl (bs, _) => (chunks (if d.idxfmt = 0 then 2 else 4) d.cnt1 bs).map ofLeBytes
    | .inr _ => []

/-- Runs of a descriptor. -/
def SDesc.total (d : SDesc) : Nat := d.cnt1 * d.cnt2 * d.cnt3

/-- Elements of a source run. -/
def SDesc.elems (d : SDesc) : Nat := d.len0 * 8 / fmtWidth d.sfmt

/-- Fine-scale bytes that the press units read and write at SCL (R115). -/
def SDesc.sclRead (d : SDesc) : Nat := if d.kind ≠ 4 ∧ d.sfmt = 5 ∧ d.dfmt ≠ 5 then ceilDiv (d.total * d.elems) 16 else 0
/-- As `sclRead`, for an F4 destination. -/
def SDesc.sclWrite (d : SDesc) : Nat := if d.kind ≠ 4 ∧ d.sfmt ≠ 5 ∧ d.dfmt = 5 then d.total * (d.elems / 16) else 0

/-- The local-queue tile size of a DLQ descriptor (R128). -/
def SDesc.tile (d : SDesc) : Nat := d.dst % 2 ^ 24

/-- Window ranges of the local-queue slots of the tiles from `a` up to `b`. -/
def CoreRun.slotRanges (r : CoreRun) (a b : Option Nat) (bytes : Nat) : List Range :=
  let slots := match a, b with
    | some a, some b => if a + 8 ≤ b then List.range 8 else (List.range (b - a)).map (fun i => (a + i) % 8)
    | _, _ => List.range 8
  slots.map (fun k => ⟨Int.ofNat (64 * r.lqBase + k * 16384), bytes⟩)

/-- Slots that a DLQ descriptor has still to write. -/
def CoreRun.dlqSlots (r : CoreRun) (index : Nat) (d : SDesc) : List Range :=
  if !d.dlq then [] else
    let f := r.lqFirst index
    r.slotRanges (f.map (· + r.progress index)) (match f, r.lqPlan.find? (fun x => x.1 == index) with
      | some f, some (_, some n) => some (f + n) | _, _ => none) d.tile

/-- Reads and writes of a pending descriptor in its own core's SRAM (R110): its runs by the indices `idx`, its index stream and its fine
scales. Runs through a page descriptor index touch HBM only. -/
def SDesc.footprint (d : SDesc) (c : Nat) (idx : List Nat) : Footprint :=
  let paged := d.idxfmt = 2 ∧ (d.kind = 2 ∨ d.kind = 3)
  let rs := d.runs idx
  { reads := rs.flatMap (fun r => if paged ∧ d.kind = 2 then [] else ownRange c r.src d.len0)
      ++ ownRange c (Int.ofNat d.idx) d.idxBytes ++ ownRange c (Int.ofNat d.scl) d.sclRead
    writes := rs.flatMap (fun r => if d.kind = 4 ∨ d.dlq ∨ (paged ∧ d.kind = 3) then [] else ownRange c r.dst d.outLen)
      ++ ownRange c (Int.ofNat d.scl) d.sclWrite }

/-- The footprint of a pending descriptor by the indices that memory holds. -/
def State.descFootprint (s : State) (c : Nat) (d : SDesc) : Footprint := d.footprint c (s.indexList d)

/-- The whole SRAM window. -/
def wholeWindow : Range := ⟨0, 0x600000⟩

/-- The footprint of a descriptor whose indices an earlier stream word has still to write: any line may be among those its runs touch. -/
def SDesc.openFootprint (d : SDesc) (c : Nat) : Footprint :=
  let f := d.footprint c []
  if d.idxfmt = 2 then f
  else if d.kind = 2 then { f with reads := wholeWindow :: f.reads } else if d.dlq then f else { f with writes := wholeWindow :: f.writes }

/-- A stream word that has issued and has still to move. -/
inductive StreamWork where
  | desc (d : SDesc)
  | kfetch (k : KFetch)
deriving DecidableEq, Repr

/-- The stream words of a core that have issued and have still to move, in the order in which they issued. -/
def CoreRun.streamWork (r : CoreRun) : Tbl (Option StreamWork) :=
  let ds := r.queues.flatMap (fun kv => kv.2.filterMap (fun e => match e with
    | .desc bits _ index false _ => some (index, StreamWork.desc (SDesc.decode bits.toNat))
    | _ => none))
  let ks := (r.kfetches.filter (fun k => !(r.kfetchLeft k).isEmpty)).map (fun k => (k.index, StreamWork.kfetch k))
  (ds ++ ks).foldl (fun t x => Tbl.set none x.1 (some x.2) t) []

/-- The footprint of a stream word that has still to move, behind those of earlier ones. -/
def State.workFoot (s : State) (c : Nat) (earlier : List (Nat × Footprint)) (index : Nat) : StreamWork → Footprint
  | .desc d =>
    let idx : Footprint := { reads := ownRange c (Int.ofNat d.idx) d.idxBytes }
    let f := if earlier.any (fun e => e.2.holdsRead idx) then d.openFootprint c else s.descFootprint c d
    { f with slots := (s.core c).run.dlqSlots index d }
  | .kfetch k => { slots := ((s.core c).run.kfetchLeft k).flatMap (fun t => (s.core c).run.slotRanges (some t) (some (t + 1)) k.bytes) }

/-- The footprints of the stream words that have issued and have still to move, in that order, by instruction index. -/
def State.streamFeet (s : State) (c : Nat) : List (Nat × Footprint) :=
  (s.core c).run.streamWork.foldl (fun l x => match x.2 with | some w => l ++ [(x.1, s.workFoot c l x.1 w)] | none => l) []

/-- Whether a stream word that `before` holds of, by its instruction index, has issued and not moved and touches a line of footprint `f` in
conflict (R56, R110). -/
def State.streamConflict (s : State) (c : Nat) (before : Nat → Bool) (f : Footprint) : Bool :=
  (s.streamFeet c).any (fun e => before e.1 && e.2.conflicts f)

/-- Whether a word with footprint `f` must wait for a stream word of its core that has issued and not moved (R56, R110). -/
def State.streamHazard (s : State) (c : Nat) (f : Footprint) : Bool := s.streamConflict c (fun _ => true) f

/-- Whether it is a read of the word that must wait (R56, R131). -/
def State.readHazard (s : State) (c : Nat) (f : Footprint) : Bool := (s.streamFeet c).any (fun e => e.2.holdsRead f)

/-- The word's issue conditions that hold for every class: FENCE waits for every earlier word (R77, R97). -/
def State.fenceOpen (s : State) (c w : Nat) : Bool := !(wFence w && ((s.core c).run.kfetchOpen || (s.core c).run.queues.any (fun kv => !kv.2.isEmpty)))

/-- Poisoned bytes among the ranges that a word reads from its core's SRAM (R393). -/
def State.poisonRead (s : State) (c : Nat) (rs : List Range) : Option Nat :=
  rs.findSome? (fun x => s.poisonIn (sramAddr c x.lo.toNat) x.len)

/-- A contained fault of the word at core `c`'s position: the core stops, and fine scales that the word had taken are gone with it. -/
def State.wordFault (s : State) (c code : Nat) : State := (s.coreFault c code).modRun c (fun r => { r with scaleHeld := [] })

/-- The frame of every core word: the word must be the one in memory at the sequencer's position; `check` gives its decode fault
(R102), `ready` its issue conditions and `run` its effect, after which the word has issued (a word that is still under way stays at the sequencer's position). A word that waits leaves the state unchanged. -/
def State.runWord (s : State) (c w : Nat) (check : Option Nat) (foot : Footprint) (ready : Bool) (run : State → State) : State :=
  if !s.canDecode c then s
  else match s.fetchWord c with
    | none => s.wordFault c 0x2136
    | some m =>
      if m ≠ w then s
      else if wIllegal w then s.wordFault c 0x2130
      else match check with
        | some code => s.wordFault c code
        | none =>
          if !(s.fenceOpen c w) || !ready || s.streamHazard c foot then s
          else match s.poisonRead c (foot.reads ++ foot.tiles) with
            | some code => s.wordFault c code
            | none =>
              let s' := run s
              if decide ((s'.core c).run.stopped ≠ (s.core c).run.stopped) || (s'.core c).run.underWay || (s'.core c).run.wait.isSome then s'
              else s'.modRun c (CoreRun.issued w)

/-- First failing check of a list. -/
def firstFault (l : List (Bool × Nat)) : Option Nat := (l.find? Prod.fst).map Prod.snd

/-! Array operands. -/

/-- An operand pair of R34: K of a tile, integer or float accumulator, tile bytes, scale bytes and K block of fine scales. -/
structure Pair where
  k : Nat
  int : Bool
  tile : Nat
  scale : Nat
  block : Nat
deriving DecidableEq, Repr

/-- The legal pairs of R34 with the tile shapes of R58 and the fine-scale blocks of R35. -/
def pairOf (a w : Fmt) : Option Pair :=
  match a, w with
  | .f4, .f4 => some ⟨128, false, 4096, 512, 16⟩
  | .int4, .int4 => some ⟨128, true, 4096, 0, 0⟩
  | .e4m3, .e4m3 => some ⟨64, false, 4096, 128, 32⟩
  | .e4m3, .e5m2 => some ⟨64, false, 4096, 128, 32⟩
  | .e5m2, .e4m3 => some ⟨64, false, 4096, 128, 32⟩
  | .e5m2, .e5m2 => some ⟨64, false, 4096, 128, 32⟩
  | .int8, .int8 => some ⟨64, true, 4096, 0, 0⟩
  | .int8, .int4 => some ⟨64, true, 2048, 0, 0⟩
  | .bf16, .bf16 => some ⟨64, false, 8192, 0, 0⟩
  | .fp16, .fp16 => some ⟨64, false, 8192, 0, 0⟩
  | .fp32, .fp32 => some ⟨64, false, 16384, 0, 0⟩
  | _, _ => none

/-- The fields of an array word (R82). -/
structure AWord where
  wide : Bool
  ors : Nat
  oaddr : Nat
  paddr : Nat
  ars : Nat
  aaddr : Nat
  m4 : Nat
  eslot : Nat
  lvl : Nat
  drain : Nat
  psi : Nat
  wq : Bool
  fsw : Bool
  fsa : Bool
  ovf : Bool
  rnd : Nat
  ofmt : Nat
  wfmt : Nat
  afmt : Nat
  kb : Nat
deriving DecidableEq, Repr

/-- Decoding of an array word (R82). -/
def AWord.decode (w : Nat) : AWord :=
  { wide := wOp w == 1, ors := fld w 116 10, oaddr := fld w 99 17, paddr := fld w 82 17, ars := fld w 72 10, aaddr := fld w 55 17,
    m4 := fld w 43 12, eslot := fld w 41 2, lvl := fld w 39 2, drain := fld w 36 3, psi := fld w 34 2, wq := bit w 33, fsw := bit w 32,
    fsa := bit w 31, ovf := bit w 30, rnd := fld w 28 2, ofmt := fld w 24 4, wfmt := fld w 20 4, afmt := fld w 16 4, kb := fld w 11 5 }

/-- The resolved drain of a word at an issue (R82): 0 ACC, 1 CONV, 2 EPI. -/
def AWord.drainNow (a : AWord) (r : CoreRun) : Nat :=
  let lastIter := match r.level a.lvl with | some l => l.i == l.count | none => false
  if a.drain = 3 then (if lastIter then 1 else 0)
  else if a.drain = 4 then (if lastIter then 2 else 0)
  else a.drain

/-- Whether the partial-sum input is zero at an issue (R82). -/
def AWord.psiZero (a : AWord) (r : CoreRun) : Bool :=
  a.psi == 0 || (a.psi == 2 && (match r.level a.lvl with | some l => l.i == 0 | none => true))

/-- The binding a word runs over (R85). -/
def AWord.binding (a : AWord) (r : CoreRun) : Option Binding := if a.kb = 31 then none else r.bindings[a.kb]?

/-- Rows of the instruction, M (R59, R67, R85). -/
def AWord.rows (a : AWord) (r : CoreRun) : Nat :=
  match a.binding r with
  | some b => if a.wide then ceilDiv b.n 4 * 4 else ceilDiv b.n 16 * 16
  | none => 4 * (a.m4 + 1)

/-- Rows that produce output: rows at and beyond a binding's count are bubbles (R85). -/
def AWord.liveRows (a : AWord) (r : CoreRun) : Nat :=
  match a.binding r with
  | some b => b.n
  | none => 4 * (a.m4 + 1)

/-- First pass row of the word (R85). -/
def AWord.row0 (a : AWord) (r : CoreRun) : Nat := match a.binding r with | some b => b.r0 | none => 0

/-- Byte offset of row `i` of suit `s` in a partial-sum tile for `m` rows (R84). -/
def psOffset (p m : Nat) (wide : Bool) (s i : Nat) : Nat :=
  let l := if wide then m / 2 else m / 8
  let ln := i / 2
  (p / 4096 + (ln + 4 * s) % 16) * 0x40000 + ((p % 4096) / 8 + s * ceilDiv l 16 + ln / 16) * 512 + i % 2 * 256

/-- Whether a partial-sum tile breaks R84. -/
def psBad (p m : Nat) (wide : Bool) : Bool :=
  let l := if wide then m / 2 else m / 8
  decide (p % 8 ≠ 0 ∨ 8 < p / 4096 ∨ 511 < (p % 4096) / 8 + 4 * ceilDiv l 16 - 1)

/-- RND of R80 with an element's random value. -/
def rndOf (rnd rv : Nat) : Rnd := if rnd = 0 then .rne else if rnd = 1 then .rtz else .rsr rv

/-- KFETCH tiles written to the local-queue slots that are free (R124, R128, R130), once no earlier stream word touches their lines
(R56). -/
def State.pumpKfetch (s : State) (c : Nat) : State :=
  (s.core c).run.kfetches.foldl (fun s k => match (s.core c).run.lqFirst k.index with
    | none => s
    | some f => (List.range k.count).foldl (fun s i =>
      let r := (s.core c).run
      let t := f + i
      if t < r.lqTaken ∨ r.lqTaken + 8 ≤ t ∨ r.lqFilled.contains t
        ∨ s.streamConflict c (fun n => decide (n < k.index)) { slots := r.slotRanges (some t) (some (t + 1)) k.bytes } = true then s
      else
        let dst := sramAddr c (64 * r.lqBase + t % 8 * 16384)
        let s := match k.addr with
          | some a => s.copyDev (a + i * k.bytes) dst k.bytes
          | none => s.putMem dst (List.replicate k.bytes 0)
        s.modRun c (fun r => { r with lqFilled := r.lqFilled ++ [t] })) s) s

/-- Local-queue tiles taken by a consumer: `n` slots become free (R124), and waiting KFETCH tiles move up. -/
def State.takeLq (s : State) (c n : Nat) : State :=
  (s.modRun c (fun r =>
    let taken := r.lqTaken + n
    { r with
      lqTaken := taken, lqFilled := r.lqFilled.filter (fun t => decide (taken ≤ t))
      kfetches := r.kfetches.filter (fun k => match r.lqFirst k.index with | some f => decide (taken < f + k.count) | none => true) })).pumpKfetch c

end Sys2Proof.Machine
end

