-- ==== Sys2Proof/Machine/ArrayWords.lean ====
section
/-! DEFINITION. Array words MM and MMW (02_numbers.md, 03_cores_and_arrays.md, R82–R85, R124, R126, R146–R148). -/

namespace Sys2Proof.Machine

/-- RSR's random value for an element of the word at issue (R44). -/
def CoreRun.rsr (r : CoreRun) (row col : Nat) : Nat := rsrValue r.seed.toNat r.tag r.index.toNat row col

/-- Whether RND is not checked (R80): an FP32 output, or INT32 taken from integers with no narrowing. A float value that becomes INT32 is
rounded by RND (R45, V12). -/
def noRound (int : Bool) (f : Fmt) : Bool := f == .fp32 || (int && f == .int32)

/-- Tiles a word takes from its weight queue (R124). -/
def AWord.tiles (a : AWord) : Nat := if a.wide then 4 else 1

/-- Output columns of a word (R59, R67). -/
def AWord.cols (a : AWord) : Nat := if a.wide then 256 else 64

/-- Whether the integer path of R147 applies. -/
def epiInteger (es : EpiSlot) (int : Bool) (of : Fmt) : Bool :=
  int && !es.rscEn && !es.cscEn && !es.biasEn && es.func == 0 && !of.isFloat

/-- Encoding checks of an array word, code 0x2130 (R102). A word under DRAIN ACC converts and outputs nothing, so its OFMT, RND and O_RS
are not used and not checked (DEDUCED, log entry 41). -/
def AWord.illegal (a : AWord) (int : Bool) (es : EpiSlot) : Bool :=
  (Fmt.ofCode a.afmt).isNone || (Fmt.ofCode a.wfmt).isNone
    || (a.drain != 0 && (Fmt.ofCode a.ofmt).isNone)
    || (a.drain != 0 && a.rnd == 3 && !(match Fmt.ofCode a.ofmt with
      | some f => noRound (if a.drain == 1 || a.drain == 3 then int else epiInteger es int f) f
      | none => true))
    || a.psi == 3 || decide (5 ≤ a.drain) || decide (16 ≤ a.kb ∧ a.kb ≤ 30)

/-- Format-combination checks, code 0x2131 (R102). -/
def AWord.badFormats (a : AWord) (pr : Option Pair) : Bool :=
  match pr with
  | none => true
  | some p =>
    let conv := a.drain == 1 || a.drain == 3
    let of := (Fmt.ofCode a.ofmt).getD .fp32
    (p.block == 16 && !(a.fsa && a.fsw)) || (p.block == 0 && (a.fsa || a.fsw))
      || (conv && (if p.int then of != .int32 else !(of == .fp32 || of == .bf16 || of == .fp16 || of == .e5m2 || of == .e4m3)))

/-- Effective addresses of the slots of an array word, with the rows of a binding added (R81, R85). -/
def AWord.effA (a : AWord) (r : CoreRun) (w : Nat) : Int := 64 * r.eff w .a a.aaddr + 64 * Int.ofNat a.ars * Int.ofNat (a.row0 r)
/-- Effective output base. -/
def AWord.effO (a : AWord) (r : CoreRun) (w : Nat) : Int := 64 * r.eff w .o a.oaddr + 64 * Int.ofNat a.ors * Int.ofNat (a.row0 r)
/-- Effective partial-sum base, in 64-byte units. -/
def AWord.effP (a : AWord) (r : CoreRun) (w : Nat) : Int := r.eff w .p a.paddr

/-- Rows the partial-sum tile is laid out for: those of the instruction; under a binding those of the last word without one, whose tile
it shares, or more where the binding's rows run past them (R85 gives no M for the tile: DEDUCED, log entry 20). -/
def AWord.psRows (a : AWord) (r : CoreRun) : Nat :=
  if a.kb = 31 then a.rows r
  else max r.mainM (if a.wide then ceilDiv (a.row0 r + a.rows r) 4 * 4 else ceilDiv (a.row0 r + a.rows r) 16 * 16)

/-- Byte offset in the partial-sum tile of column `n` of the word's row `m`: where the tile's layout has that pass row (R84, R85). -/
def AWord.psAt (a : AWord) (r : CoreRun) (p n m : Nat) : Nat :=
  let row := m + a.row0 r
  let q := a.psRows r / 4
  (if a.wide then psOffset p (a.psRows r) true (n / 64) row else psOffset p (a.psRows r) false (row / q) (row % q)) + 4 * (n % 64)

/-- The bytes of the partial-sum tile that the word's rows have (R84, R85). -/
def AWord.psRanges (a : AWord) (r : CoreRun) (p : Nat) : List Range :=
  (List.range (a.liveRows r)).flatMap (fun m => (List.range (if a.wide then 4 else 1)).map (fun s => ⟨Int.ofNat (a.psAt r p (64 * s) m), 256⟩))

/-- The parts that `n` columns from the cursor on have of `c` columns, as first column and count (R88). -/
def wrapped (cursor n c : Nat) : List (Nat × Nat) :=
  if c ≤ n then [(0, c)] else if cursor + n ≤ c then [(cursor, n)] else [(cursor, c - cursor), (0, cursor + n - c)]

/-- Whether the word reads or writes its partial-sum tile at this issue. P_ADDR and the tile rules of R84 are checked only then (DEDUCED,
log entry 41). -/
def AWord.usesPs (a : AWord) (r : CoreRun) : Bool := a.drainNow r == 0 || !a.psiZero r

/-- Bytes of one activation row (R83). -/
def rowBytes (f : Fmt) (n : Nat) : Nat := n * f.width / 8

/-- Window offset of the queue slot of the word's `i`-th tile (R124, R128). -/
def AWord.tileAt (a : AWord) (r : CoreRun) (i : Nat) : Nat :=
  if a.wq then 64 * r.lqBase + (r.lqTaken + i) % 8 * 16384
  else 64 * r.rqBase + (r.cursor + i) % 24 * r.rqLines * 512

/-- Bytes of one of the word's tiles, its fine scales included (R58, R124, R128). -/
def AWord.tileBytes (a : AWord) (p : Pair) : Nat := p.tile + (if a.fsw then p.scale else 0)

/-- What the word touches in SRAM (R81–R84, R88): activation rows, partial sums, weight tiles, output rows, epilogue blocks. -/
def AWord.footprint (a : AWord) (r : CoreRun) (w : Nat) (af of : Fmt) (k tile : Nat) : Footprint :=
  let rows := List.range (a.liveRows r)
  let es := Tbl.get {} a.eslot r.epis
  let p := (a.effP r w).toNat
  let ps := if a.usesPs r then a.psRanges r p else []
  let epi := a.drainNow r == 2
  let part := wrapped es.cursor a.cols es.cols
  let rs := if epi && es.rscEn then [⟨64 * es.rscAddr + 4 * Int.ofNat (a.row0 r), 4 * a.liveRows r⟩] else []
  let cs := if epi && (es.cscEn || es.biasEn) then part.map (fun x => ⟨64 * es.colAddr + 8 * Int.ofNat x.1, 8 * x.2⟩) else []
  let f4 := if epi && of == .f4 then rows.flatMap (fun m => part.map (fun x =>
      ⟨64 * es.dst + Int.ofNat ((m + a.row0 r) * (es.cols / 16) + x.1 / 16), x.2 / 16⟩)) else []
  { reads := rows.map (fun m => ⟨a.effA r w + 64 * Int.ofNat a.ars * Int.ofNat m, rowBytes af k⟩)
      ++ (if a.psiZero r then [] else ps) ++ rs ++ cs
    tiles := (List.range a.tiles).map (fun i => ⟨Int.ofNat (a.tileAt r i), tile⟩)
    writes := (if a.drainNow r == 0 then ps
      else rows.map (fun m => ⟨a.effO r w + 64 * Int.ofNat a.ors * Int.ofNat m, rowBytes of a.cols⟩)) ++ f4 }

/-- The segment of plan tile `t` and the tile's number in it (R119). -/
def planTile : List Seg → Nat → Option (Seg × Nat)
  | [], _ => none
  | g :: gs, t => if t < g.ntiles then some (g, t) else planTile gs (t - g.ntiles)

/-- Whether a plan segment matches the word that takes its tile (R126). -/
def AWord.matchesSeg (a : AWord) (g : Seg) (p : Pair) : Bool :=
  g.fmt == a.wfmt && g.fs == a.fsw && g.k128 == (p.k == 128)

/-- Whether every tile the word takes exists and matches (R126); otherwise error 0x2204. -/
def State.tilesExist (s : State) (c : Nat) (a : AWord) (p : Pair) : Bool :=
  let r := (s.core c).run
  if a.wq then r.lqSupplies a.tiles
  else (List.range a.tiles).all (fun i => match planTile s.sync.seq.segs (r.cursor + i) with
    | some (g, _) => a.matchesSeg g p
    | none => false)

/-- Whether the word's tiles have arrived in their queue slots (R124, R128). -/
def State.tilesHere (s : State) (c : Nat) (a : AWord) : Bool :=
  let r := (s.core c).run
  if a.wq then (List.range a.tiles).all (fun i => r.lqFilled.contains (r.lqTaken + i))
  else decide (r.cursor + a.tiles ≤ 6 * s.sync.seq.started)

/-- Activation fine-scale bytes per row (R117). -/
def AWord.scaleRow (a : AWord) (p : Pair) : Nat := if a.fsa then p.k / p.block else 0

/-- Bytes that pending SCALEFEED descriptors have still to append. -/
def CoreRun.scalePending (r : CoreRun) : Nat :=
  (r.queues.map (fun kv => (kv.2.map (fun e => match e with
    | .desc bits _ ix moved _ => let d := SDesc.decode bits.toNat
                                   if d.kind = 4 ∧ !moved then d.len0 * d.cnt1 * d.cnt2 * d.cnt3 - r.progress ix else 0
    | .peg .. => 0)).sum)).sum

/-- Checks of an array word at decode (R102), and the supply checks of R126 made when it takes its operands. The spec gives no order of
the codes; where a word meets several conditions, the first of this list gives the code (DESIGN CHOICE, log entry 41). -/
def State.checkArray (s : State) (c w : Nat) (a : AWord) : Option Nat :=
  let r := (s.core c).run
  let af := (Fmt.ofCode a.afmt).getD .fp32
  let wf := (Fmt.ofCode a.wfmt).getD .fp32
  let of := (Fmt.ofCode a.ofmt).getD .fp32
  let pr := pairOf af wf
  let p := pr.getD ⟨64, false, 4096, 0, 0⟩
  let m := a.rows r
  let es := Tbl.get {} a.eslot r.epis
  let uses := a.drain == 2 || a.drain == 4
  let pa := a.effP r w
  firstFault [
    (decide (2 ≤ wOp w), 0x2130),
    (a.illegal p.int es, 0x2130),
    (a.badFormats pr, 0x2131),
    (decide (a.kb ≠ 31 ∧ (a.binding r).isNone), 0x2135),
    ((a.psi == 2 || decide (3 ≤ a.drain)) && (r.level a.lvl).isNone, 0x2135),
    (uses && !es.isSet, 0x2135),
    (if a.wide then decide (2048 < m ∨ m = 0) else decide (8192 < m ∨ m = 0 ∨ m % 16 ≠ 0), 0x2133),
    (decide (a.ars * 64 < rowBytes af p.k), 0x2133),
    (a.drain != 0 && decide (a.ors * 64 < rowBytes of a.cols), 0x2133),
    (a.usesPs r && (decide (pa < 0) || psBad pa.toNat (a.psRows r) a.wide), 0x2132),
    (!(a.footprint r w af of p.k (a.tileBytes p)).inWindow, 0x2132),
    (!(s.tilesExist c a p), 0x2204),
    (decide (r.scaleHeld.length + r.scaleFifo.length + r.scalePending < a.liveRows r * a.scaleRow p), 0x2204)]

/-- A partial sum of the array: FP32 bits or a 32-bit integer word. -/
abbrev Acc := Nat

/-- The columns of a tile grouped by four along K: for column `n`, a list of groups of (weight, fine scale) (R58, R35). -/
def tileCols (f : Fmt) (p : Pair) (fs : Bool) (bytes : List Nat) : List (List (List (Val × Val))) :=
  (List.range 64).map (fun n => (List.range (p.k / 4)).map (fun g => (List.range 4).map (fun j =>
    let k := 4 * g + j
    let v := decodeVal f (elemAt f bytes (k * 64 + n))
    let sc := if fs then decodeScale (bytes.getD (p.tile + 64 * (k / p.block) + n) 0) else .fin false 1 0
    (v, sc))))

/-- One activation row grouped by four, with its fine scales (R83, R117). -/
def actGroups (f : Fmt) (p : Pair) (bytes scales : List Nat) (fs : Bool) : List (List (Val × Val)) :=
  (List.range (p.k / 4)).map (fun g => (List.range 4).map (fun j =>
    let k := 4 * g + j
    (decodeVal f (elemAt f bytes k), if fs then decodeScale (scales.getD (k / p.block) 0) else .fin false 1 0)))

/-- One group of an output element: the partial sum, flags and the new invalid, if any (R39–R42). -/
def groupStep (p : Pair) (wrap : Bool) (acc : Acc) (as ws : List (Val × Val)) : Acc × Nat × Bool :=
  if p.int then
    let (b, fl) := groupSumInt wrap acc ((as.zip ws).map (fun q => (q.1.1.dy.mul q.2.1.dy).m))
    (b, fl, false)
  else groupSum acc ((as.zip ws).map (fun q => mulFactors [q.1.1, q.1.2, q.2.1, q.2.2]))

/-- All groups of an output element in ascending K (R41): partial sum, flags, and the first group that raised an invalid. -/
def accumulate (p : Pair) (wrap : Bool) (acc : Acc) (row : List (List (Val × Val))) (col : List (List (Val × Val))) :
    Acc × Nat × Option Nat :=
  ((row.zip col).foldl (fun (st : (Acc × Nat × Option Nat) × Nat) q =>
    let ((a, fl, inv), g) := st
    let (a', f', i') := groupStep p wrap a q.1 q.2
    ((a', fl ||| f', match inv with | some x => some x | none => if i' then some g else none), g + 1))
    ((acc, 0, none), 0)).1

/-- Output conversion in the drain (R43, R45, R46). -/
def drainConv (of : Fmt) (rnd : Rnd) (wrap : Bool) (acc : Acc) : Nat × Nat :=
  match of with
  | .fp32 => (if (v32 acc).isNan then nan32 else acc, 0)
  | .int32 => (acc, 0)
  | _ => convert of rnd wrap (v32 acc)

/-- An epilogue's parameters for one element: row scale, column scale and bias, where enabled (R88, R146). -/
structure EpiParam where
  rsc : Option Nat
  csc : Option Nat
  bias : Option Nat
deriving DecidableEq, Repr

/-- The float path of R146 before CVT: FP32 bits and flags. A NaN that the suit or an earlier stage made flows on
without further flags (R46). -/
def epiFloat (es : EpiSlot) (table : List Nat) (int : Bool) (acc : Acc) (q : EpiParam) : Nat × Nat :=
  let v : Val := if int then Val.ofDy (Dy.ofInt (signed 32 acc)) else v32 acc
  let scales := [q.rsc, q.csc].filterMap id
  let (x, f1) :=
    if scales.isEmpty then (if v.isNan then (nan32, 0) else rne32 v |>.1 |> fun b => (b, 0))
    else match mulFactors (v :: scales.map v32) with
      | .nanIn => (nan32, if scales.any (fun b => (v32 b).isNan) then flNANIN else 0)
      | .invalid => (nan32, flINV)
      | .val y => rne32 y
  let (x, f2) := match q.bias with
    | some b => if (v32 x).isNan then (nan32, if (v32 b).isNan then flNANIN else 0) else add32 x b
    | none => (x, 0)
  let (x, f3) := if (v32 x).isNan then (nan32, 0) else sfuFunc es.func table x 0
  (x, f1 ||| f2 ||| f3)

/-- The epilogue of one output row (R146–R148): element codes, F4 scale bytes by block, flags. -/
def epiRow (es : EpiSlot) (table : List Nat) (int : Bool) (of : Fmt) (wrap : Bool) (rnd : Nat → Rnd) (param : Nat → EpiParam)
    (accs : List Acc) : List Nat × List Nat × Nat :=
  if epiInteger es int of then
    let rs := accs.map (fun a => narrowInt of.width wrap (signed 32 a))
    (rs.map Prod.fst, [], rs.foldl (fun f x => f ||| x.2) 0)
  else
    let xs := accs.zipIdx.map (fun (a, n) => epiFloat es table int a (param n))
    let fl := xs.foldl (fun f x => f ||| x.2) 0
    if of = .f4 then
      let blocks := chunks 16 xs.length (xs.zipIdx)
      let qs := blocks.map (fun b => quantF4 (b.map (fun e => rnd e.2)) (b.map (fun e => v32 e.1.1)))
      (qs.flatMap (fun q => q.2.1), qs.map (fun q => q.1), qs.foldl (fun f q => f ||| q.2.2) fl)
    else
      let rs := xs.zipIdx.map (fun (x, n) => cvt of (rnd n) wrap x.1)
      (rs.map Prod.fst, [], rs.foldl (fun f x => f ||| x.2) fl)

/-- The result of one row of an array word: writes as window offset and bytes, flags of the four suits and the SFU, invalids. -/
structure RowResult where
  writes : List (Nat × List Nat) := []
  flags : List (Nat × Nat) := []
  invs : List (Nat × Locator) := []
deriving DecidableEq, Repr

/-- Everything about an array word at issue that its rows share. -/
structure ArrayJob where
  a : AWord
  r : CoreRun
  p : Pair
  af : Fmt
  of : Fmt
  effA : Nat
  effP : Nat
  effO : Nat
  cols : List (List (List (List (Val × Val))))
  scales : List Nat
  es : EpiSlot
  table : List Nat

/-- The suit that computes column `n` of row `m` (R59, R67). -/
def ArrayJob.suit (j : ArrayJob) (m n : Nat) : Nat := if j.a.wide then n / 64 else m / (j.a.rows j.r / 4)

/-- One row of an array word, from the SRAM contents `rd`. -/
def ArrayJob.row (j : ArrayJob) (rd : Nat → Nat → List Nat) (m : Nat) : RowResult :=
  let pr := m + j.a.row0 j.r
  let nb := j.a.scaleRow j.p
  let act := actGroups j.af j.p (rd (j.effA + 64 * j.a.ars * m) (rowBytes j.af j.p.k)) ((j.scales.drop (nb * m)).take nb) j.a.fsa
  let cube := fun (g : Nat) => if j.p.k = 128 then g / 2 else g
  let elems := (List.range j.a.cols).map (fun n =>
    let su := j.suit m n
    let off := j.a.psAt j.r j.effP n m
    let acc0 := if j.a.psiZero j.r then 0 else ofLeBytes (rd off 4)
    let (acc, fl, inv) := accumulate j.p j.a.ovf acc0 act ((j.cols.getD (n / 64) []).getD (n % 64) [])
    let loc := inv.map (fun g => (su, ({ tag := j.r.tag, row := pr, cubeRow := cube g, cubeCol := n % 64 / 4, ncol := n % 4,
                                         index := j.r.index.toNat } : Locator)))
    (n, su, off, acc, fl, loc))
  let accs := elems.map (fun e => e.2.2.2.1)
  let fl0 := elems.map (fun e => (e.2.1, e.2.2.2.2.1))
  let invs := elems.filterMap (fun e => e.2.2.2.2.2)
  let orow := j.effO + 64 * j.a.ors * m
  match j.a.drainNow j.r with
  | 0 => { writes := elems.map (fun e => (e.2.2.1, leBytes 4 e.2.2.2.1)), flags := fl0, invs := invs }
  | 1 =>
    let rs := elems.map (fun e => (e.2.1, drainConv j.of (rndOf j.a.rnd (j.r.rsr pr e.1)) j.a.ovf e.2.2.2.1))
    { writes := [(orow, packElems j.of (rs.map (fun x => x.2.1)))], flags := fl0 ++ rs.map (fun x => (x.1, x.2.2)), invs := invs }
  | _ =>
    let es := j.es
    let col := fun n => (es.cursor + n) % es.cols
    let param := fun n =>
      ({ rsc := if es.rscEn then some (ofLeBytes (rd ((64 * es.rscAddr).toNat + 4 * pr) 4)) else none
         csc := if es.cscEn then some (ofLeBytes (rd ((64 * es.colAddr).toNat + 8 * col n) 4)) else none
         bias := if es.biasEn then some (ofLeBytes (rd ((64 * es.colAddr).toNat + 8 * col n + 4) 4)) else none } : EpiParam)
    let (codes, scl, fl) := epiRow es j.table j.p.int j.of j.a.ovf (fun n => rndOf j.a.rnd (j.r.rsr pr n)) param accs
    let sw := scl.zipIdx.map (fun (b, i) => ((64 * es.dst).toNat + pr * (es.cols / 16) + col (16 * i) / 16, [b]))
    { writes := (orow, packElems j.of codes) :: sw, flags := fl0 ++ [(engSfu, fl)], invs := invs }

/-- Writes of a word applied to core `c`'s SRAM, in order. -/
def State.sramWrites (s : State) (c : Nat) (ws : List (Nat × List Nat)) : State :=
  ws.foldl (fun s w => s.putMem (sramAddr c w.1) w.2) s

/-- Flags and locators of a word's rows entered in the core's registers (R47–R49). -/
def CoreRegs.absorb (r : CoreRegs) (rs : List RowResult) : CoreRegs :=
  let r := rs.foldl (fun r x => x.flags.foldl (fun r f => r.raise f.1 f.2) r) r
  rs.foldl (fun r x => x.invs.foldl (fun r l => r.locate l.1 l.2) r) r

/-- The table image that a FUNC reads: the active bank of a CUSTOM function's table, and published table 0 for EXP2, whose steps R136 gives
(R140); none for the others. -/
def State.tableOf (s : State) (c f : Nat) : List Nat :=
  match funcTable f with
  | some t => Tbl.get [] t (s.core c).tables
  | none => if f = 4 then s.expTable else []

/-- Whether a FUNC reads a custom table with an empty active bank (R142, error 0x2332). -/
def Core.tableEmpty (k : Core) (f : Nat) : Bool :=
  match funcTable f with
  | some t => (Tbl.get [] t k.tables).isEmpty
  | none => false

/-- The plan position and the scale FIFO after a word has taken its operands (R117, R124), and the cursor of its epilogue slot (R88). -/
def CoreRun.takeOperands (r : CoreRun) (a : AWord) (p : Pair) : CoreRun :=
  let n := a.tiles
  let r := if a.wq then r else { r with cursor := r.cursor + n }
  let r := { r with scaleFifo := r.scaleFifo.drop (a.liveRows r * a.scaleRow p - r.scaleHeld.length), scaleHeld := [], mainM := if a.kb = 31 then a.rows r else r.mainM }
  if a.drainNow r = 2 then
    { r with epis := Tbl.upd {} a.eslot (fun e => { e with cursor := (e.cursor + a.cols) % e.cols }) r.epis }
  else r

/-- The job of an array word at issue. -/
def State.arrayJob (s : State) (c w : Nat) (a : AWord) : ArrayJob :=
  let k := s.core c
  let r := k.run
  let af := (Fmt.ofCode a.afmt).getD .fp32
  let wf := (Fmt.ofCode a.wfmt).getD .fp32
  let p := (pairOf af wf).getD ⟨64, false, 4096, 0, 0⟩
  let es := Tbl.get {} a.eslot r.epis
  { a := a, r := r, p := p, af := af, of := (Fmt.ofCode a.ofmt).getD .fp32, effA := (a.effA r w).toNat, effP := (a.effP r w).toNat,
    effO := (a.effO r w).toNat,
    cols := (List.range a.tiles).map (fun i => tileCols wf p a.fsw (memGet s.mem (sramAddr c (a.tileAt r i)) (a.tileBytes p))),
    scales := r.scaleHeld ++ r.scaleFifo, es := es, table := s.tableOf c es.func }

/-- Effect of an array word that issues (R59, R67). -/
def State.runArray (s : State) (c w : Nat) (a : AWord) : State :=
  let j := s.arrayJob c w a
  if a.drainNow j.r = 2 ∧ (s.core c).tableEmpty j.es.func then s.wordFault c 0x2332
  else
    let rd := fun off n => memGet s.mem (sramAddr c off) n
    let rs := (List.range (a.liveRows j.r)).map (j.row rd)
    let s' := s.sramWrites c (rs.flatMap (fun x => x.writes))
    let s' := s'.modCore c (fun k => { k with regs := k.regs.absorb rs, run := k.run.takeOperands a j.p })
    let s' := if a.drainNow j.r = 2 then s'.useLanes c else s'
    if a.wq then s'.takeLq c a.tiles else s'

/-- The operand pair of an array word. -/
def AWord.pair (a : AWord) : Pair := (pairOf ((Fmt.ofCode a.afmt).getD .fp32) ((Fmt.ofCode a.wfmt).getD .fp32)).getD ⟨64, false, 4096, 0, 0⟩

/-- What an array word reads and writes in its core's SRAM. -/
def AWord.foot (a : AWord) (r : CoreRun) (w : Nat) : Footprint :=
  a.footprint r w ((Fmt.ofCode a.afmt).getD .fp32) ((Fmt.ofCode a.ofmt).getD .fp32) a.pair.k (a.tileBytes a.pair)

/-- Whether the word's activation fine scales have come: those of the scale FIFO, and those its first rows have taken (R117). -/
def AWord.scalesHere (a : AWord) (r : CoreRun) : Bool := decide (a.liveRows r * a.scaleRow a.pair ≤ r.scaleHeld.length + r.scaleFifo.length)

/-- Whether rows of a word that needs more fine scales than the FIFO's 8 KiB hold can take theirs, while SCALEFEEDs go on (R117). -/
def AWord.scalesSome (a : AWord) (r : CoreRun) : Bool :=
  decide (8192 < a.liveRows r * a.scaleRow a.pair ∧ a.scaleRow a.pair ≤ r.scaleFifo.length)

/-- The scales of whole rows leave the FIFO for the word under way (R117). -/
def CoreRun.feedScales (r : CoreRun) (row : Nat) : CoreRun :=
  let n := r.scaleFifo.length / row * row
  { r with scaleHeld := r.scaleHeld ++ r.scaleFifo.take n, scaleFifo := r.scaleFifo.drop n }

/-- An array word (R82). One whose scales the FIFO cannot hold at once begins with the rows whose scales are there. -/
def execArray (c w : Nat) (s : State) : State :=
  let a := AWord.decode w
  let r := (s.core c).run
  s.runWord c w (s.checkArray c w a) (a.foot r w) (s.tilesHere c a && (a.scalesHere r || a.scalesSome r))
    (fun s => if a.scalesHere r then s.runArray c w a else s.modRun c (fun r => r.feedScales (a.scaleRow a.pair)))

/-- MM (R59): normal mode. -/
def execMm (c : Fin 64) (w : Word) (s : State) : Host.Outcome State Fault Refusal :=
  coreWord (wIs 1 0 w.toNat) w.toNat (execArray c.val w.toNat s)

/-- MMW (R67): wide mode. -/
def execMmw (c : Fin 64) (w : Word) (s : State) : Host.Outcome State Fault Refusal :=
  coreWord (wIs 1 1 w.toNat) w.toNat (execArray c.val w.toNat s)

end Sys2Proof.Machine
end

