-- ==== Sys2Proof/Machine/DecanterWords.lean ====
section
/-! DEFINITION. Decanter words (07_attention.md): fused attention over key blocks, and recomputation of probabilities. -/

namespace Sys2Proof.Machine

/-- The fields of a decanter word (R86). -/
structure DWord where
  op : Nat
  cx : Nat
  oaddr : Nat
  saddr : Nat
  qaddr : Nat
  nb : Nat
  m : Nat
  fin : Bool
  len : Bool
  mask : Nat
  stIn : Bool
  ovf : Bool
  rnd : Nat
  ofmt : Nat
  kvfmt : Nat
  qfmt : Nat
  sc : Nat
deriving DecidableEq, Repr

/-- Decoding of a decanter word (R86). -/
def DWord.decode (w : Nat) : DWord :=
  { op := wOp w, cx := fld w 115 4, oaddr := fld w 98 17, saddr := fld w 81 17, qaddr := fld w 64 17, nb := fld w 48 16,
    m := 4 * (fld w 36 12 + 1), fin := bit w 35, len := bit w 34, mask := fld w 32 2, stIn := bit w 31, ovf := bit w 30,
    rnd := fld w 28 2, ofmt := fld w 24 4, kvfmt := fld w 20 4, qfmt := fld w 16 4, sc := fld w 11 5 }

/-- A decanter context's fields (R90). -/
structure DecCtx where
  kpos0 : Nat
  qpos0 : Nat
  lenAddr : Nat
  maskAddr : Nat
  kind : Nat
deriving DecidableEq, Repr

/-- Decoding of a decanter context (R90). -/
def DecCtx.decode (v : Nat) : DecCtx :=
  { kpos0 := fld v 96 32, qpos0 := fld v 64 32, lenAddr := fld v 25 17, maskAddr := fld v 8 17, kind := fld v 0 8 }

/-- An entry of the length table (R163). -/
structure LenEntry where
  qpos : Nat
  klen : Nat
  nrows : Nat
  row0 : Nat
  rpt : Nat
deriving DecidableEq, Repr

/-- Decoding of a length-table entry. -/
def LenEntry.decode (v : Nat) : LenEntry :=
  { qpos := fld v 96 32, klen := fld v 64 32, nrows := fld v 48 16, row0 := fld v 32 16, rpt := fld v 16 8 }

/-- The entries of a length table that follows the rules of R163, or none. -/
def lenTable (rd : Nat → Nat → List Nat) (addr m nb : Nat) : Option (List LenEntry) :=
  let h := ofLeBytes (rd addr 16)
  let n := fld h 16 16
  if fld h 0 8 ≠ 0x4C ∨ n = 0 ∨ 256 < n then none
  else
    let es := (List.range n).map (fun i => LenEntry.decode (ofLeBytes (rd (addr + 16 + 16 * i) 16)))
    let ok := es.all (fun e => decide (1 ≤ e.rpt ∧ e.rpt ≤ 64 ∧ 1 ≤ e.nrows ∧ e.nrows % (max e.rpt 1) = 0 ∧ e.klen ≤ 64 * nb
      ∧ e.row0 + e.nrows ≤ m))
    let ordered := (es.zip (es.drop 1)).all (fun p => decide (p.1.row0 + p.1.nrows ≤ p.2.row0))
    if ok && ordered then some es else none

/-- The rows of a word under a length table (R163). -/
def rowsOfTable (es : List LenEntry) (qpos0 m : Nat) : List QRow :=
  (List.range m).map (fun i =>
    let before := es.takeWhile (fun e => decide (e.row0 + e.nrows ≤ i))
    let t := (before.map (fun e => e.nrows / e.rpt)).sum
    match es.find? (fun e => decide (e.row0 ≤ i ∧ i < e.row0 + e.nrows)) with
    | some e => { real := true, pos := qpos0 + e.qpos + (i - e.row0) / e.rpt, klen := e.klen, tok := t + (i - e.row0) / e.rpt }
    | none => { real := false, pos := 0, klen := 0, tok := 0 })

/-- The rows of a word (R161): none where the length table is rejected or a position would reach 2^32 (0x2442). -/
def DWord.qrows (d : DWord) (cx : DecCtx) (rd : Nat → Nat → List Nat) : Option (List QRow) :=
  let rows := if d.len then (lenTable rd (64 * cx.lenAddr) d.m d.nb).map (fun es => rowsOfTable es cx.qpos0 d.m)
    else some ((List.range d.m).map (fun i => { real := true, pos := cx.qpos0 + i, klen := 64 * d.nb, tok := i }))
  match rows with
  | none => none
  | some rs => if rs.any (fun r => r.real && decide (2 ^ 32 ≤ r.pos)) || decide (2 ^ 32 < cx.kpos0 + 64 * d.nb) then none else some rs

/-- The word's token count (R166). -/
def tokenCount (rows : List QRow) : Nat := (rows.filter (fun x => x.real)).foldl (fun n x => max n (x.tok + 1)) 0

/-- The mask of a word (R166, R167): none where it is rejected (0x2443). `toks` is the word's token count. -/
def DWord.maskOf (d : DWord) (cx : DecCtx) (rd : Nat → Nat → List Nat) (toks : Nat) : Option Mask :=
  let a := 64 * cx.maskAddr
  let h := ofLeBytes (rd a 64)
  match d.mask with
  | 0 => some .all
  | 1 => some .causal
  | 2 =>
    let st := fld h 32 32
    if fld h 0 8 = 0x42 ∧ st % 8 = 0 ∧ 8 * d.nb ≤ st ∧ toks ≤ fld h 16 16 then some (.bitmap (a + 64) st) else none
  | _ =>
    let n := fld h 16 8
    let gs := words32 (rd (a + 64) (4 * min n 64))
    let rising := (gs.zip (gs.drop 1)).all (fun p => decide (p.1 < p.2))
    if fld h 0 8 = 0x57 ∧ n ≤ 64 ∧ rising then some (.sparse (fld h 32 32) (fld h 64 32) gs (bit h 8)) else none

/-- Whether key `j` is allowed for a real row (R165). -/
def Mask.allows (k : Mask) (rd : Nat → Nat → List Nat) (kpos0 : Nat) (r : QRow) (j : Nat) : Bool :=
  let p := kpos0 + j
  decide (j < r.klen) && (match k with
    | .all => true
    | .causal => decide (p ≤ r.pos)
    | .bitmap base st => bit (ofLeBytes (rd (base + r.tok * st + j / 8) 1)) (j % 8)
    | .sparse left right gs ca =>
      (decide (r.pos ≤ p + left ∧ p ≤ r.pos + right) || gs.contains p) && (!ca || decide (p ≤ r.pos)))

/-- The parts of a word's job that its blocks share. -/
structure DecJob where
  d : DWord
  r : CoreRun
  q : Fmt
  kv : Fmt
  of : Fmt
  scale : Nat
  cx : DecCtx
  rows : List QRow
  mask : Mask
  /-- image of seed table 0 (R136) -/
  table : List Nat
  qbase : Nat
  sbase : Nat
  obase : Nat

/-- Whether the FP32 partial output stands at O between blocks (R86, R169): not where O is laid out for finished rows of another format,
of which no rule says where their partial output stands meanwhile (DEDUCED, log entry 45). -/
def DWord.partialAtO (d : DWord) : Bool := d.op != 1 && (d.stIn || !d.fin || d.ofmt == 0)

/-- The pair arithmetic of scores and outputs: exact products without fine scales (R162). -/
def decPair : Pair := ⟨64, false, 4096, 0, 0⟩

/-- A value with the fine scale 1. -/
def unscaled (v : Val) : Val × Val := (v, .fin false 1 0)

/-- A list cut into groups of four. -/
def fours {α : Type} (l : List α) : List (List α) := chunks 4 l.length l

/-- What a row of a block raises: flags by engine and invalids by suit. -/
structure RowNotes where
  flags : List (Nat × Nat) := []
  invs : List (Nat × Locator) := []
deriving DecidableEq, Repr

/-- Notes joined. -/
def RowNotes.join (a b : RowNotes) : RowNotes := ⟨a.flags ++ b.flags, a.invs ++ b.invs⟩

/-- Score of query row `i` against key `kk` of a Kᵀ block (R68): spade then heart, with their flags. -/
def DecJob.score (j : DecJob) (qrow : List Val) (kt : List Nat) (i kk : Nat) : Nat × RowNotes :=
  let col := (List.range 128).map (fun k => unscaled (decodeVal j.kv (elemAt j.kv kt (k * 64 + kk))))
  let qs := qrow.map unscaled
  let (a, f0, i0) := accumulate decPair j.d.ovf 0 (fours (qs.take 64)) (fours (col.take 64))
  let (b, f1, i1) := accumulate decPair j.d.ovf a (fours (qs.drop 64)) (fours (col.drop 64))
  let loc := fun (g : Nat) => ({ tag := j.r.tag, row := i, cubeRow := g, cubeCol := kk / 4, ncol := kk % 4, index := j.r.index.toNat } : Locator)
  (b, { flags := [(0, f0), (1, f1)], invs := (i0.map (fun g => (0, loc g))).toList ++ (i1.map (fun g => (1, loc g))).toList })

/-- A group of 32 probabilities in QFMT (R170): its scale, its elements and the flags of their conversion; none where the group holds a NaN. -/
def quantProb (q : Fmt) (ps : List Nat) : Option (Val × List Val × Nat) :=
  if ps.any (fun p => (v32 p).isNan) then none
  else
    let ds := ps.map (fun p => (v32 p).dy)
    let g := ds.foldl (fun a b => if Dy.le a b then b else a) ⟨0, 0⟩
    let fmax := (decodeVal q q.maxFinite).dy
    -- exponent of the scale: the smallest s = 2^up with g ≤ s · F, at least 2^-17; 16-bit formats are not scaled
    let up : Int :=
      if q = .bf16 ∨ q = .fp16 then 0
      else if g.m ≤ 0 then -17
      else
        let l := log2Rat (g.m.natAbs) (fmax.m.natAbs) + (g.e - fmax.e)
        max (-17) (if Dy.le g (fmax.scale l) then l else l + 1)
    let cs := ps.map (fun p => convert q .rne false (match v32 p with | .fin n m e => .fin n m (e - up) | v => v))
    some (.fin false 1 up, cs.map (fun x => decodeVal q x.1), cs.foldl (fun f x => f ||| x.2) 0)

/-- Flags of the SFU in a row's soft maximum: NANIN only for a NaN score that is read (R174). -/
def dropNanin (f : Nat) : Nat := if f / flNANIN % 2 = 1 then f - flNANIN else f

/-- The 64 scores of row `i` in a block, scaled and masked (R169): their flags, and what spade and heart raise. -/
def DecJob.scores (j : DecJob) (rd : Nat → Nat → List Nat) (b i : Nat) (row : QRow) (qrow : List Val) (kt : List Nat) : List (Nat × Nat) × RowNotes :=
  let sc := (List.range 64).map (fun kk => j.score qrow kt i kk)
  (sc.zipIdx.map (fun (x, kk) => if j.mask.allows rd j.cx.kpos0 row (64 * b + kk) then mul32 x.1 j.scale else (0xFF800000, 0)),
    sc.foldl (fun (n : RowNotes) x => n.join x.2) ({} : RowNotes))

/-- The case of R174 that scaled scores put a row in: the table's first that fits. -/
def RowCase.seen (k : RowCase) (ys : List Nat) : RowCase :=
  if k = .nan ∨ ys.any (fun y => (v32 y).isNan) then .nan
  else if k = .infinite ∨ ys.contains 0x7F800000 then .infinite
  else k

/-- R169 for one real row and one key block, from its scaled scores `ys`: the new state, and what the SFU, diamond and club raise. A step
without a finite score so far leaves the identity (−∞, +0, all +0), as R174 has it (log entry 8). -/
def DecJob.soften (j : DecJob) (i : Nat) (vb : List Nat) (ys : List (Nat × Nat)) (x : RowState) : RowState × RowNotes :=
  let bm := (ys.map Prod.fst).foldl max32 0xFF800000
  let mn := max32 x.m bm
  let low := decide (mn = 0xFF800000)
  let ad := sub32 x.m mn
  let al := if low then (one32, 0) else exp2 j.table ad.1
  let ps := ys.map (fun y => if low then (0, 0) else let t := sub32 y.1 mn; let e := exp2 j.table t.1; (e.1, dropNanin t.2 ||| dropNanin e.2))
  let groups := (chunks 32 2 (ps.map Prod.fst)).map (quantProb j.q)
  let bad := groups.any Option.isNone
  let es : List (Val × Val) := groups.flatMap (fun g => match g with
    | some (s, vs, _) => vs.map (fun v => (v, s))
    | none => (List.range 32).map (fun _ => (Val.fin false 0 0, Val.nan)))
  let fq := groups.foldl (fun f g => match g with | some (_, _, fl) => f ||| fl | none => f) 0
  let ln : Nat × Nat :=
    if bad || (v32 x.l).isNan || (v32 al.1).isNan then (nan32, 0)
    else match v32 x.l with
      | .inf _ => fma32 al.1 x.l 0
      | _ => rne32Dy (((v32 al.1).dy.mul (v32 x.l).dy).add (Dy.sum (es.map (fun e => e.1.dy.mul e.2.dy))))
  let og := fours es
  let outs := x.o.zipIdx.map (fun (y, d) =>
    let (y', f0) := if (v32 y).isNan then (nan32, 0) else let t := mul32 al.1 y; (t.1, dropNanin t.2)
    let col := fours ((List.range 64).map (fun kk => unscaled (decodeVal j.kv (elemAt j.kv vb (kk * 128 + d)))))
    let (z, f1, inv) := accumulate decPair j.d.ovf y' og col
    let su := if d < 64 then 2 else 3
    let loc := inv.map (fun g => (su, ({ tag := j.r.tag, row := i, cubeRow := g, cubeCol := d % 64 / 4, ncol := d % 4,
                                         index := j.r.index.toNat } : Locator)))
    (z, ({ flags := [(engSfu, f0), (su, f1)], invs := loc.toList } : RowNotes)))
  let n1 := outs.foldl (fun (n : RowNotes) y => n.join y.2) ({} : RowNotes)
  let fy := ys.foldl (fun f y => f ||| y.2) 0
  let fsfu := fy ||| (if low then 0 else dropNanin ad.2 ||| dropNanin al.2) ||| ps.foldl (fun f p => f ||| p.2) 0 ||| fq ||| dropNanin ln.2
  (if low then { x with m := mn, l := 0, o := x.o.map (fun _ => 0) } else { x with m := mn, l := ln.1, o := outs.map Prod.fst },
    n1.join { flags := [(engSfu, fsfu)] })

/-- One real row and one key block (R169, R174). A row that has left the plain case keeps what it holds; only its allowed scores can still
raise SFU flags and change its case (log entry 8). -/
def DecJob.rowBlock (j : DecJob) (rd : Nat → Nat → List Nat) (b i : Nat) (row : QRow) (qrow : List Val) (kt vb : List Nat)
    (x : RowState) : RowState × RowNotes :=
  let (ys, n0) := j.scores rd b i row qrow kt
  let kind := x.kind.seen (ys.map Prod.fst)
  if x.kind = .plain then
    let (x', n1) := j.soften i vb ys x
    ({ x' with kind := kind }, n0.join n1)
  else
    let fl := if kind = .nan then ys.foldl (fun f y => f ||| y.2) 0 else if kind = .infinite then flINV else 0
    ({ x with kind := kind }, n0.join { flags := [(engSfu, fl)] })

/-- A row's state as its word ends (R174). -/
def RowState.ended (x : RowState) : RowState :=
  match x.kind with
  | .plain => x
  | .incoming => { x with l := nan32, o := x.o.map (fun _ => nan32) }
  | .infinite => { x with m := 0x7F800000, l := nan32, o := x.o.map (fun _ => nan32) }
  | .nan => { x with m := nan32, l := nan32, o := x.o.map (fun _ => nan32) }

/-- Whether the step of row `i` runs in block `b` (R168). -/
def DecJob.stepRuns (j : DecJob) (rd : Nat → Nat → List Nat) (b i : Nat) : Bool :=
  (List.range 4).any (fun t => match j.rows[4 * (i / 4) + t]? with
    | some row => row.real && (List.range 64).any (fun kk => j.mask.allows rd j.cx.kpos0 row (64 * b + kk))
    | none => false)

/-- Steps skipped in a block (R168, R177). -/
def DecJob.skippedSteps (j : DecJob) (rd : Nat → Nat → List Nat) (b : Nat) : Nat :=
  ((List.range (j.d.m / 4)).filter (fun t => !(j.stepRuns rd b (4 * t)))).length

/-- Query row `i` decoded (R161). -/
def DecJob.qrow (j : DecJob) (rd : Nat → Nat → List Nat) (i : Nat) : List Val :=
  let n := rowBytes j.q 128
  let bs := rd (j.qbase + n * i) n
  (List.range 128).map (fun k => decodeVal j.q (elemAt j.q bs k))

/-- Whether some step of block `b` runs (R168): only then are the block's tiles read. -/
def DecJob.blockRuns (j : DecJob) (rd : Nat → Nat → List Nat) (b : Nat) : Bool := (List.range (j.d.m / 4)).any (fun t => j.stepRuns rd b (4 * t))

/-- The place of row `i`'s FP32 partial output at O (R86). -/
def DecJob.partialAt (j : DecJob) (i : Nat) : Range := ⟨Int.ofNat (j.obase + 512 * i), 512⟩

/-- A row's state with its partial output as SRAM holds it, where it stands there. -/
def DecJob.fetchRow (j : DecJob) (rd : Nat → Nat → List Nat) (i : Nat) (x : RowState) : RowState :=
  if x.inMem then { x with o := words32 (rd (j.obase + 512 * i) 512) } else x

/-- A block of a forward word on all rows (R169): each row of a step that runs reads its partial output and writes it again. A padding row
that passes through the suits with such a step leaves no result, flags and locators included (DEDUCED, log entry 45). -/
def DecJob.block (j : DecJob) (rd : Nat → Nat → List Nat) (kt vb : List Nat) (g : DecProg) :
    DecProg × RowNotes × List (Nat × List Nat) :=
  let rs := (List.range j.d.m).map (fun i =>
    let x := g.states.getD i {}
    match j.rows[i]? with
    | some row =>
      if row.real && j.stepRuns rd g.block i then
        let (y, n) := j.rowBlock rd g.block i row (j.qrow rd i) kt vb (j.fetchRow rd i x)
        ({ y with inMem := j.d.partialAtO }, n, if j.d.partialAtO then [(j.obase + 512 * i, y.o.flatMap (leBytes 4))] else [])
      else (x, {}, [])
    | none => (x, {}, []))
  ({ g with block := g.block + 1, states := rs.map Prod.fst }, rs.foldl (fun n x => n.join x.2.1) {}, rs.flatMap (fun x => x.2.2))

/-- The state in which a row enters a word (R169, R174): that of S and O under ST_IN, which a padding row's are not (R164). -/
def DecJob.rowStart (j : DecJob) (rd : Nat → Nat → List Nat) (i : Nat) (row : QRow) : RowState :=
  if j.d.stIn && row.real then
    let m := ofLeBytes (rd (j.sbase + 8 * i) 4)
    let l := ofLeBytes (rd (j.sbase + 8 * i + 4) 4)
    let o := if j.d.op = 1 then [] else words32 (rd (j.obase + 512 * i) 512)
    { m := m, l := l, o := o, kind := if (v32 m).isNan || (v32 l).isNan || o.any (fun x => (v32 x).isNan) then .incoming else .plain, inMem := j.d.partialAtO }
  else { o := List.replicate 128 0 }

/-- The progress a word starts with. -/
def DecJob.start (j : DecJob) (w : Nat) (rd : Nat → Nat → List Nat) : DecProg :=
  { word := w, rows := j.rows, mask := j.mask, block := 0, states := j.rows.zipIdx.map (fun x => j.rowStart rd x.2 x.1) }

/-- One finished row (R173, R174): output bytes, flags, whether it is NaN, whether it is fully masked. RECIP's own flags count unless the
row is NaN, which raises none here. -/
def DecJob.finish (j : DecJob) (i : Nat) (x : RowState) : List Nat × Nat × Bool × Bool :=
  let dead := x.kind != .plain || (v32 x.l).isNan
  let zero := x.l = 0 ∧ dead = false
  let r := recip x.l
  let es := x.o.zipIdx.map (fun (y, d) =>
    if zero then (0, 0)
    else
      let (y, f1) := if (v32 y).isNan || dead then (nan32, 0) else mul32 y r.1
      let (z, f2) := cvt j.of (rndOf j.d.rnd (j.r.rsr i d)) j.d.ovf y
      (z, f1 ||| dropNanin f2))
  let nan := dead = true ∨ (¬zero ∧ x.o.any (fun y => (v32 y).isNan) = true)
  (packElems j.of (es.map Prod.fst), es.foldl (fun f e => f ||| e.2) (if dead || decide zero then 0 else r.2), decide nan,
    decide (x.m = 0xFF800000 ∧ x.l = 0 ∧ dead = false))

/-- Window offset of the queue slot of the `n`-th tile from the next one to take. -/
def CoreRun.lqAt (r : CoreRun) (n : Nat) : Nat := 64 * r.lqBase + (r.lqTaken + n) % 8 * 16384

/-- Ranges that a forward word reads as it ends: the partial outputs that it finishes (R173). -/
def DecJob.endReads (j : DecJob) (g : DecProg) : List Range :=
  if j.d.op = 1 ∨ j.d.fin = false then []
  else g.states.zipIdx.filterMap (fun x => if x.1.inMem then some (j.partialAt x.2) else none)

/-- Writes, flags and counts of a forward word that ends (R169, R173, R174). A partial output that stands at O and that R174 does not replace
is left as it is. -/
def State.endForward (s : State) (c : Nat) (j : DecJob) (g : DecProg) : State :=
  let rd := fun off n => memGet s.mem (sramAddr c off) n
  let xs := (g.states.zipIdx.map (fun x => ((j.fetchRow rd x.2 x.1).ended, x.2))).filter
    (fun x => match j.rows[x.2]? with | some r => r.real | none => false)
  let st := xs.map (fun (x, i) => (j.sbase + 8 * i, leBytes 4 x.m ++ leBytes 4 x.l))
  if j.d.fin then
    let fs := xs.map (fun (x, i) => (i, j.finish i x))
    let s := s.sramWrites c (fs.map (fun x => (j.obase + rowBytes j.of 128 * x.1, x.2.1)) ++ st)
    let cnt := fun (f : List Nat × Nat × Bool × Bool → Bool) => (fs.filter (fun x => f x.2)).length
    s.modRegs c (fun k =>
      let k := k.raise engSfu (fs.foldl (fun f x => f ||| x.2.2.1) 0)
      { k with nanRows := satAdd 32 k.nanRows (cnt (fun x => x.2.2.1)), maskedRows := satAdd 32 k.maskedRows (cnt (fun x => x.2.2.2)) })
  else
    s.sramWrites c ((xs.filter (fun x => !x.1.inMem || x.1.kind != .plain)).map (fun (x, i) => (j.obase + 512 * i, x.o.flatMap (leBytes 4))) ++ st)

/-- Ranges that the next block of progress `g` reads: the bitmap's bits for its keys (R166), and, where some step runs, the Kᵀ tile, the V tile
of a forward word, and the query rows and partial outputs of the steps that run (R168, R169, R176). -/
def DecJob.blockReads (j : DecJob) (rd : Nat → Nat → List Nat) (r : CoreRun) (g : DecProg) : List Range :=
  let b := g.block
  let bits := match j.mask with
    | .bitmap base st => (j.rows.filter (fun x => x.real)).map (fun x => (⟨Int.ofNat (base + x.tok * st + 8 * b), 8⟩ : Range))
    | _ => []
  let n := 128 * 8 * j.kv.width
  let tiles := if j.blockRuns rd b then ⟨Int.ofNat (r.lqAt 0), n⟩ :: (if j.d.op = 1 then [] else [⟨Int.ofNat (r.lqAt 1), n⟩]) else []
  let rows := ((List.range j.d.m).filter (j.stepRuns rd b))
  bits ++ tiles ++ rows.map (fun i => (⟨Int.ofNat (j.qbase + rowBytes j.q 128 * i), rowBytes j.q 128⟩ : Range))
    ++ (rows.filter (fun i => (g.states.getD i {}).inMem)).map j.partialAt

/-- Blocks of a decanter word taken as long as their tiles are in the local queue (R128, R129) and nothing they read is poisoned (R393), whose
code ends the word; `fuel` bounds the blocks. -/
def State.decBlocks (reads : State → DecProg → List Range) (one : State → DecProg → State × DecProg) (c nb : Nat) :
    Nat → State → DecProg → State × DecProg × Option Nat
  | 0, s, g => (s, g, none)
  | fuel + 1, s, g =>
    let r := (s.core c).run
    if nb ≤ g.block ∨ !(r.lqFilled.contains r.lqTaken && r.lqFilled.contains (r.lqTaken + 1)) then (s, g, none)
    else match s.poisonRead c (reads s g) with
      | some code => (s, g, some code)
      | none =>
        let (s', g') := one s g
        State.decBlocks reads one c nb fuel (s'.takeLq c 2) g'

/-- Core `c`'s SRAM window, read by offset. -/
def State.window (s : State) (c off n : Nat) : List Nat := memGet s.mem (sramAddr c off) n

/-- One block of a forward word. -/
def forwardBlock (c : Nat) (j : DecJob) (s : State) (g : DecProg) : State × DecProg :=
  let r := (s.core c).run
  let rd := s.window c
  let (g', notes, ws) := j.block rd (rd (r.lqAt 0) (128 * 64 * j.kv.width / 8)) (rd (r.lqAt 1) (128 * 64 * j.kv.width / 8)) g
  (((s.sramWrites c ws).modRegs c (fun k =>
    let k := k.absorb [{ flags := notes.flags, invs := notes.invs }]
    { k with skipped := k.skipped + BitVec.ofNat 64 (j.skippedSteps rd g.block) })).useLanes c, g')

/-- A recomputed probability (R176) of an allowed key with score `x`: its code and the SFU's flags. NANIN is raised for a NaN that enters:
the score or the row's statistics. -/
def DecJob.probability (j : DecJob) (i key x m l : Nat) : Nat × Nat :=
  let y := mul32 x j.scale
  let t := sub32 y.1 m
  let e := exp2 j.table t.1
  let r := recip l
  let p := mul32 e.1 r.1
  let z := cvt j.of (rndOf j.d.rnd (j.r.rsr i key)) j.d.ovf p.1
  (z.1, y.2 ||| (if (v32 m).isNan || (v32 l).isNan then flNANIN else 0) ||| dropNanin (t.2 ||| e.2 ||| r.2 ||| p.2 ||| z.2))

/-- One block of a recomputing word (R176): the probabilities of its 64 keys are written. -/
def recomputeBlock (c : Nat) (j : DecJob) (s : State) (g : DecProg) : State × DecProg :=
  let r := (s.core c).run
  let rd := s.window c
  let kt := rd (r.lqAt 0) (128 * 64 * j.kv.width / 8)
  let eo := j.of.width / 8
  let rs := (List.range j.d.m).filterMap (fun i => match j.rows[i]? with
    | none => none
    | some row => if !row.real then none else
      let x := g.states.getD i {}
      let run := j.stepRuns rd g.block i
      let qr := j.qrow rd i
      let es := (List.range 64).map (fun kk =>
        let sc := if run then j.score qr kt i kk else (0, {})
        if x.l = 0 ∨ !(j.mask.allows rd j.cx.kpos0 row (64 * g.block + kk)) then (0, sc.2)
        else
          let z := j.probability i (64 * g.block + kk) sc.1 x.m x.l
          (z.1, sc.2.join { flags := [(engSfu, z.2)] }))
      some ((j.obase + 64 * j.d.nb * eo * i + 64 * eo * g.block, packElems j.of (es.map Prod.fst)),
            es.foldl (fun n e => n.join e.2) ({} : RowNotes)))
  let notes := rs.foldl (fun n x => n.join x.2) ({} : RowNotes)
  let s := s.sramWrites c (rs.map Prod.fst)
  ((s.modRegs c (fun k =>
    let k := k.absorb [{ flags := notes.flags, invs := notes.invs }]
    { k with skipped := k.skipped + BitVec.ofNat 64 (j.skippedSteps rd g.block) })).useLanes c, { g with block := g.block + 1 })

/-- Operand ranges Q, O and S of a decanter word (R86, R176): under ST_IN or without FIN the FP32 partial output lies at O, 512 bytes a row. -/
def DWord.ranges (d : DWord) (r : CoreRun) (w : Nat) : List Range :=
  let q := (Fmt.ofCode d.qfmt).getD .bf16
  let of := (Fmt.ofCode d.ofmt).getD .fp32
  let orow := if d.op = 1 then 64 * d.nb * of.width / 8 else if d.fin && !d.stIn then rowBytes of 128 else 512
  [⟨64 * r.eff w .a d.qaddr, rowBytes q 128 * d.m⟩, ⟨64 * r.eff w .o d.oaddr, orow * d.m⟩, ⟨64 * r.eff w .p d.saddr, 8 * d.m⟩]

/-- The context of a decanter word. -/
def DWord.ctx (d : DWord) (r : CoreRun) : DecCtx := DecCtx.decode (Tbl.get (0 : BitVec 512) d.cx r.ctxs).toNat

/-- The bit rows of a bitmap mask, which the word reads block by block (R166). -/
def DWord.bitmap (d : DWord) (cx : DecCtx) (rd : Nat → Nat → List Nat) : List Range :=
  let ma := 64 * cx.maskAddr
  match d.mask, d.qrows cx rd with
  | 2, some rs => match d.maskOf cx rd (tokenCount rs) with
    | some (.bitmap base st) => [⟨Int.ofNat base, fld (ofLeBytes (rd ma 64)) 16 16 * st⟩]
    | _ => []
  | _, _ => []

/-- Ranges of the length table and the mask that a word reads at its start (R163, R166, R167): of a bitmap its header, and only the header of
one that is rejected. -/
def DWord.tables (d : DWord) (cx : DecCtx) (rd : Nat → Nat → List Nat) : List Range :=
  let la := 64 * cx.lenAddr
  let ma := 64 * cx.maskAddr
  let rows := d.qrows cx rd
  let len : List Range := if !d.len then [] else [⟨Int.ofNat la, match lenTable rd la d.m d.nb with | some es => 16 + 16 * es.length | none => 16⟩]
  let mask : List Range := match d.mask, rows with
    | 0, _ => []
    | 1, _ => []
    | _, none => []
    | _, some rs => [⟨Int.ofNat ma, match d.maskOf cx rd (tokenCount rs) with
      | some (.sparse _ _ gs _) => 64 + 4 * gs.length
      | _ => 64⟩]
  len ++ mask

/-- The ranges that R102 holds a decanter word to: Q, O and S of its M rows, and its tables. -/
def State.decWindow (s : State) (c w : Nat) : List Range :=
  let d := DWord.decode w
  let r := (s.core c).run
  d.ranges r w ++ d.tables (d.ctx r) (s.window c) ++ d.bitmap (d.ctx r) (s.window c)

/-- Footprint of a decanter word at its start (R56, R164): the tables, and O and S, which it reads under ST_IN for real rows only; the query
rows and the bitmap it reads block by block. The tiles are ordered by the local queue (R128). -/
def State.decFoot (s : State) (c w : Nat) : Footprint :=
  let d := DWord.decode w
  let r := (s.core c).run
  let cx := d.ctx r
  let rd := s.window c
  let rs := d.ranges r w
  let rows := (d.qrows cx rd).getD []
  let real := (rows.zipIdx.filter (fun x => x.1.real)).map Prod.snd
  let part := fun (n size : Nat) => match rs[n]? with | some x => real.map (fun i => (⟨x.lo + Int.ofNat (size * i), size⟩ : Range)) | none => []
  { reads := d.tables cx rd ++ (if d.stIn then part 2 8 ++ (if d.op = 1 then [] else part 1 512) else [])
    later := rs.take 1 ++ d.bitmap cx rd
    writes := if d.op = 1 then (rs.drop 1).take 1 else rs.drop 1 }

/-- Decode checks of a decanter word (R102). -/
def State.checkDec (s : State) (c w : Nat) : Option Nat :=
  let d := DWord.decode w
  let r := (s.core c).run
  let pr := match Fmt.ofCode d.qfmt, Fmt.ofCode d.kvfmt with | some q, some k => pairOf q k | _, _ => none
  let okPair := match pr with | some p => !p.int && p.block != 16 && d.qfmt != 0 | none => false
  let used := d.fin
  firstFault [
    (decide (2 ≤ d.op), 0x2130),
    ((Fmt.ofCode d.qfmt).isNone || (Fmt.ofCode d.kvfmt).isNone || (used && (Fmt.ofCode d.ofmt).isNone), 0x2130),
    (used && d.rnd == 3 && !noRound false ((Fmt.ofCode d.ofmt).getD .fp32), 0x2130),
    (decide (16 ≤ d.sc), 0x2130),
    (!okPair, 0x2131),
    (decide (1024 < d.m ∨ d.nb = 0), 0x2133),
    ((d.ctx r).kind != 1, 0x2135),
    (!(s.decWindow c w).all Range.inWindow, 0x2132),
    (!r.lqSupplies (2 * d.nb), 0x2204)]

/-- The job of a decanter word on given rows and mask. -/
def State.decTask (s : State) (c w : Nat) (rows : List QRow) (mask : Mask) : DecJob :=
  let d := DWord.decode w
  let r := (s.core c).run
  let base := fun n => (((d.ranges r w)[n]?.map Range.lo).getD 0).toNat
  { d := d, r := r, q := (Fmt.ofCode d.qfmt).getD .bf16, kv := (Fmt.ofCode d.kvfmt).getD .bf16, of := (Fmt.ofCode d.ofmt).getD .fp32,
    scale := (Tbl.get (0 : BitVec 32) d.sc r.consts).toNat, cx := d.ctx r, rows := rows, mask := mask, table := s.expTable,
    qbase := base 0, obase := base 1, sbase := base 2 }

/-- The checks at word start (R161, R163, R166, R167, R173, R176, R179): the job, or the code that aborts the word. -/
def State.decJob (s : State) (c w : Nat) : DecJob ⊕ Nat :=
  let d := DWord.decode w
  let r := (s.core c).run
  let rd := s.window c
  let cx := d.ctx r
  let of := (Fmt.ofCode d.ofmt).getD .fp32
  let overlaps := match d.ranges r w with | [a, b, x] => a.overlap b || a.overlap x || b.overlap x | _ => false
  if (d.fin && !(of == .fp32 || of == .bf16 || of == .fp16 || of == .e5m2 || of == .e4m3)) || (d.op = 1 && !(d.stIn && d.fin)) || overlaps then
    .inr 0x2444
  else match d.qrows cx rd with
    | none => .inr 0x2442
    | some rows => match d.maskOf cx rd (tokenCount rows) with
      | none => .inr 0x2443
      | some mask => .inl (s.decTask c w rows mask)

/-- The blocks of a job that can be taken now, from progress `g` on. -/
def State.decRun (s : State) (c : Nat) (j : DecJob) (g : DecProg) : State × DecProg × Option Nat :=
  State.decBlocks (fun s g => j.blockReads (s.window c) (s.core c).run g) (if j.d.op = 1 then recomputeBlock c j else forwardBlock c j)
    c j.d.nb j.d.nb s g

/-- A decanter word goes on from progress `g`: the blocks whose tiles have arrived are taken; with the last one the word ends (R169, R173,
R176), and poison ends it with the core stopped (R393). The rows of a recomputing word, which it does not finish under R173, count in neither
NAN_ROWS nor MASKED_ROWS (DEDUCED, log entry 45). -/
def State.decGoOn (s : State) (c : Nat) (j : DecJob) (g : DecProg) : State :=
  let (s, g, bad) := s.decRun c j g
  let done := s.modRun c (fun r => { r with dec := none })
  match bad with
  | some code => done.coreFault c code
  | none =>
    if g.block < j.d.nb then s.modRun c (fun r => { r with dec := some g })
    else if j.d.op = 1 then done
    else match s.poisonRead c (j.endReads g) with
      | some code => done.coreFault c code
      | none => done.endForward c j g

/-- A decanter word starts: its checks at word start, then its first blocks. -/
def State.runDec (s : State) (c w : Nat) : State :=
  match s.decJob c w with
  | .inr code => s.coreFault c code
  | .inl j => s.decGoOn c j (j.start w (s.window c))

/-- Whether the K and V tiles of the next block have arrived (R165). -/
def CoreRun.blockHere (r : CoreRun) : Bool := r.lqFilled.contains r.lqTaken && r.lqFilled.contains (r.lqTaken + 1)

/-- A decanter word (R86): it is fetched and checked once, when it starts; one that is under way takes the blocks that have arrived since, and
completes even when the sequencer has stopped (R101). -/
def execDec (c w : Nat) (s : State) : State :=
  let r := (s.core c).run
  match r.dec with
  | none => s.runWord c w (s.checkDec c w) (s.decFoot c w) r.blockHere (fun s => s.runDec c w)
  | some g =>
    if !s.canDecode c || g.word != w || !r.blockHere then s
    else
      let t := s.decGoOn c (s.decTask c w g.rows g.mask) g
      if decide ((t.core c).run.stopped ≠ r.stopped) || (t.core c).run.dec.isSome then t else t.modRun c (CoreRun.issued w)

/-- DECANTER_FORWARD (R169). -/
def execDecanterForward (c : Fin 64) (w : Word) (s : State) : Host.Outcome State Fault Refusal :=
  coreWord (wIs 2 0 w.toNat) w.toNat (execDec c.val w.toNat s)

/-- DECANTER_RECOMPUTE (R176). -/
def execDecanterRecompute (c : Fin 64) (w : Word) (s : State) : Host.Outcome State Fault Refusal :=
  coreWord (wIs 2 1 w.toNat) w.toNat (execDec c.val w.toNat s)

end Sys2Proof.Machine
end

