-- ==== Sys2Proof/Machine/Pages.lean ====
section
/-! DEFINITION. Pages, partitions, references, pins, epochs and the vine (R181–R214). -/

namespace Sys2Proof.Machine

/-! Geometry (R181). -/

/-- Bits of an element of a KVFMT code; 0 where R181 does not list the format. -/
def kvBits (f : Nat) : Nat :=
  match Fmt.ofCode f with
  | some .e4m3 => 8 | some .e5m2 => 8 | some .bf16 => 16 | some .fp16 => 16 | _ => 0

/-- Payload bytes P of a page of a model. -/
def ModelBlock.payload (b : ModelBlock) : Nat := 2 * b.nl * b.nh * 16 * b.d * (kvBits b.kvfmt / 8)

/-- Slot size in 4 KiB units. -/
def ModelBlock.slot4k (b : ModelBlock) : Nat := ceilDiv (128 + b.payload) 4096

/-- Model slot `k`. -/
def State.model (s : State) (k : Nat) : ModelSlot := Tbl.get {} k s.serve.models

/-- Model slot `k` changed by `f`. -/
def State.modModel (s : State) (k : Nat) (f : ModelSlot → ModelSlot) : State :=
  s.modServe (fun v => { v with models := Tbl.upd {} k f v.models })

/-! Descriptors, partitions and counters. -/

/-- Descriptor `p` of the device. -/
def State.page (s : State) (p : Nat) : PageDesc := s.pages.desc p

/-- Descriptor `p` changed by `f`. -/
def State.modPage (s : State) (p : Nat) (f : PageDesc → PageDesc) : State :=
  s.modPages (fun g => { g with descs := Tbl.upd {} p f g.descs })

/-- Partition `k` of stack `m`. -/
def Pages.part (g : Pages) (m k : Nat) : Part := Tbl.get {} (4 * m + k) g.parts

/-- Partition `k` of stack `m` changed by `f`. -/
def State.modPart (s : State) (m k : Nat) (f : Part → Part) : State :=
  s.modPages (fun g => { g with parts := Tbl.upd {} (4 * m + k) f g.parts })

/-- Counters of stack `m` changed by `f`. -/
def State.modPageCnt (s : State) (m : Nat) (f : PageCounters → PageCounters) : State :=
  s.modPages (fun g => { g with cnts := Tbl.upd {} m f g.cnts })

/-- The stack of a descriptor (R184). -/
def stackOf (p : Nat) : Nat := p % 6

/-- Descriptors of a stack (R184, R213). -/
def descCount (m : Nat) : Nat := if m < 4 then 43691 else 43690

/-- Base of a stack in 4 KiB units. -/
def stack4k (m : Nat) : Nat := m * (stackBytes / 4096)

/-- Whether a slot address lies in partition `k` of stack `m`. -/
def Pages.inPart (g : Pages) (m k x : Nat) : Bool :=
  let q := g.part m k
  q.enable && decide (stack4k m + q.base4k ≤ x ∧ x < stack4k m + q.base4k + q.count * q.slot4k)

/-- The slot of partition `k` of stack `m` in which a 4 KiB unit lies. -/
def Pages.slotIn (g : Pages) (m k x : Nat) : Nat :=
  let q := g.part m k
  stack4k m + q.base4k + (x - stack4k m - q.base4k) / max 1 q.slot4k * q.slot4k

/-- Withdrawn slots of partition `k` of stack `m`: those with a byte of a withdrawn row (R401). -/
def Pages.withdrawnIn (g : Pages) (m k : Nat) : List Nat := ((g.withdrawn.filter (g.inPart m k)).map (g.slotIn m k)).eraseDups

/-- Whether the slot of page `p` is withdrawn. -/
def Pages.isWithdrawn (g : Pages) (p : Nat) : Bool := (g.withdrawnIn (stackOf p) (g.desc p).mslot).contains (g.desc p).slot4k

/-- Slot addresses of partition `k` of stack `m` that a page uses or that are withdrawn. -/
def Pages.taken (g : Pages) (m k : Nat) : List Nat :=
  (((g.descs.filter (fun kv => kv.2.state != .free && stackOf kv.1 == m)).map (fun kv => kv.2.slot4k)).filter (g.inPart m k)
    ++ g.withdrawnIn m k).eraseDups

/-- FREE of partition `k` of stack `m` (R213). -/
def Pages.freeIn (g : Pages) (m k : Nat) : Nat :=
  if (g.part m k).enable then (g.part m k).count - (g.taken m k).length else 0

/-- Descriptors of stack `m` in a state. -/
def Pages.inState (g : Pages) (m : Nat) (x : PageState) : Nat :=
  (g.descs.filter (fun kv => stackOf kv.1 == m && kv.2.state == x)).length

/-- Descriptors of stack `m` in use. -/
def Pages.usedDescs (g : Pages) (m : Nat) : List Nat :=
  (g.descs.filter (fun kv => stackOf kv.1 == m && kv.2.state != .free)).map Prod.fst

/-- The lowest free slot address of partition `k` of stack `m` (R189). -/
def Pages.lowestSlot (g : Pages) (m k : Nat) : Option Nat :=
  let q := g.part m k
  let used := g.taken m k
  if !q.enable then none
  else ((List.range (min q.count (used.length + 1))).map (fun i => stack4k m + q.base4k + i * q.slot4k)).find? (fun x => !used.contains x)

/-- The lowest free descriptor of stack `m` (R189). -/
def Pages.lowestDesc (g : Pages) (m : Nat) : Option Nat :=
  let used := g.usedDescs m
  ((List.range (min (descCount m) (used.length + 1))).map (fun i => 6 * i + m)).find? (fun p => !used.contains p)

/-! Headers (R183). -/

/-- The header fields of a page. -/
structure PageHdr where
  magic : Nat
  ntok : Nat
  kvfmt : Nat
  mslot : Nat
  domain : Nat
  modelGen : Nat
  pos0 : Nat
  parent : Nat
  vkey : Nat
  tokens : List Nat
deriving DecidableEq, Repr

/-- Bytes 0–63 of a header. -/
def PageHdr.bits (h : PageHdr) : Nat :=
  h.vkey % 2 ^ 128 * 2 ^ 384 + h.parent % 2 ^ 32 * 2 ^ 352 + h.pos0 % 2 ^ 32 * 2 ^ 320 + h.modelGen % 2 ^ 16 * 2 ^ 304
    + h.domain % 2 ^ 14 * 2 ^ 290 + h.mslot % 4 * 2 ^ 288 + h.kvfmt % 16 * 2 ^ 20 + h.ntok % 32 * 2 ^ 8 + h.magic % 256

/-- A header decoded from its 128 bytes. -/
def PageHdr.ofBytes (bs : List Nat) : PageHdr :=
  let v := ofLeBytes bs
  { magic := fld v 0 8, ntok := fld v 8 5, kvfmt := fld v 20 4, mslot := fld v 288 2, domain := fld v 290 14, modelGen := fld v 304 16,
    pos0 := fld v 320 32, parent := fld v 352 32, vkey := fld v 384 128, tokens := (List.range 16).map (fun t => fld v (512 + 32 * t) 32) }

/-- The byte address of descriptor `p`'s slot. -/
def State.slotAddr (s : State) (p : Nat) : Nat := 4096 * (s.page p).slot4k

/-- The header of page `p`. -/
def State.header (s : State) (p : Nat) : PageHdr := PageHdr.ofBytes (memGet s.mem (s.slotAddr p) 128)

/-- The header's bytes 0–63 written from the descriptor, with a vintage key; token IDs stay. -/
def State.writeHeader (s : State) (p vkey : Nat) : State :=
  let d := s.page p
  s.putMem (4096 * d.slot4k) (leBytes 64 (PageHdr.bits
    { magic := 0xB7, ntok := d.ntok, kvfmt := (s.model d.mslot).block.kvfmt, mslot := d.mslot, domain := d.domain, modelGen := d.modelGen,
      pos0 := d.pos0, parent := d.parent, vkey := vkey, tokens := [] }))

/-- Token ID of token `t` written into the header of page `p` (R191). -/
def State.writeToken (s : State) (p t tok : Nat) : State := s.putMem (s.slotAddr p + 64 + 4 * t) (leBytes 4 tok)

/-! References, pins and epochs (R203–R205). -/

/-- A broken transition (R187). -/
def State.brokenPage (s : State) (p : Nat) : State := s.report { code := 0x3559, addr := s.slotAddr p, kind := .stack, unit := stackOf p }

/-- The sweep of R205: RETIRING pages without a pin in the window become FREE. -/
def State.sweep (s : State) : State :=
  s.modPages (fun g => { g with descs := g.descs.filter (fun kv => kv.2.state != .retiring || g.inWindow kv.2.pinEpoch) })

/-- release(p). -/
def State.release (s : State) (p : Nat) : State :=
  let d := s.page p
  if d.refs = 0 then s.brokenPage p
  else if d.refs = 1 then (s.modPage p (fun d => { d with refs := 0, state := .retiring })).sweep
  else s.modPage p (fun d => { d with refs := d.refs - 1 })

/-- take(p); none where it is refused with 0x2555. -/
def State.take (s : State) (p : Nat) : Option State :=
  let d := s.page p
  if (d.state = .priv ∨ d.state = .vine) ∧ d.refs ≠ 65535 then some (s.modPage p (fun d => { d with refs := d.refs + 1 })) else none

/-- What take_if_vine answers. -/
inductive Taken where
  | taken (s : State)
  | removed
  | refused

/-- take_if_vine(p, k, g). -/
def State.takeIfVine (s : State) (p gen : Nat) : Taken :=
  let d := s.page p
  if d.state ≠ .vine ∨ d.modelGen ≠ gen then .removed
  else if d.refs = 65535 then .refused
  else .taken (s.modPage p (fun d => { d with refs := d.refs + 1, hits := satAdd 16 d.hits 1, lastUse := now32 s.time }))

/-- pin(p, e). A compaction is one step of this model, so no pin meets MOVING (log entry 24). -/
def State.pin (s : State) (p e : Nat) : State :=
  let d := s.page p
  if d.state = .free ∨ d.state = .retiring then s.brokenPage p
  else
    let later := !s.pages.inWindow d.pinEpoch || decide (s.pages.age d.pinEpoch < s.pages.age e)
    s.modPage p (fun d => { d with pinEpoch := if later then e else d.pinEpoch, lastUse := now32 s.time })

/-- Whether the next tag may be drawn (R203). -/
def Pages.mayDraw (g : Pages) : Bool := decide (g.width + 1 < 2 ^ 23)

/-- The next epoch tag. -/
def Pages.next (g : Pages) : Nat := (g.newest + 1) % 2 ^ 24

/-- A tag drawn. -/
def State.drawEpoch (s : State) : State := s.modPages (fun g => { g with newest := g.next })

/-- OLDEST moved past every retired tag. -/
def Pages.advance : Nat → Pages → Pages
  | 0, g => g
  | n + 1, g =>
    if g.retiredEpochs.contains g.oldest then
      Pages.advance n { g with oldest := (g.oldest + 1) % 2 ^ 24, retiredEpochs := g.retiredEpochs.erase g.oldest }
    else g

/-- An epoch retires (R203): OLDEST advances where it can and every stack sweeps. -/
def State.retireEpoch (s : State) (e : Nat) : State :=
  (s.modPages (fun g => { g with retiredEpochs := g.retiredEpochs ++ [e] }.advance (g.retiredEpochs.length + 1))).sweep

/-! The vine table and its cache (R196–R198). -/

/-- vkey(parent key, tokens, slot, domain). -/
def vkey (pk : Nat) (toks : List Nat) (k dom : Nat) : Nat :=
  ofLeBytes (shake256 16 (leBytes 16 pk ++ toks.flatMap (leBytes 4) ++ [k % 256] ++ leBytes 2 dom))

/-- Whether an entry is the node sought. -/
def VineEntry.is (e : VineEntry) (key k dom gen : Nat) : Bool :=
  e.valid && e.vkey == key && e.mslot == k && e.domain == dom && e.modelGen == gen

/-- The four ways of a set. -/
def Pages.ways (g : Pages) (set : Nat) : List VineEntry := (List.range 4).map (fun w => Tbl.get {} (4 * set + w) g.vine)

/-- An entry put at the head of its cache set (R198). -/
def Pages.cacheIn (g : Pages) (e : VineEntry) : Pages :=
  { g with cache := Tbl.upd [] (e.vkey % 4096) (fun l => (e :: l.filter (fun x => x != e)).take 4) g.cache }

/-- cache_find or set_find: the entry, with VC_HITS, VC_MISSES and LOOKUPS. -/
def State.lookup (s : State) (key k dom gen : Nat) : Option VineEntry × State :=
  match (Tbl.get [] (key % 4096) s.pages.cache).find? (fun e => e.is key k dom gen) with
  | some e => (some e, s.modPages (fun g => { (g.cacheIn e) with vcHits := g.vcHits + 1 }))
  | none =>
    let set := key % 131072
    let s := (s.modPages (fun g => { g with vcMisses := g.vcMisses + 1 })).modPageCnt (set % 6) (fun c => { c with lookups := c.lookups + 1 })
    match (s.pages.ways set).find? (fun e => e.is key k dom gen) with
    | some e => (some e, s.modPages (fun g => g.cacheIn e))
    | none => (none, s)

/-- The header check of R199. A header that reads poisoned fails it (R200). -/
def State.verify (s : State) (p : Nat) (toks : List Nat) (pos0 k dom gen key parent : Nat) : Bool :=
  let h := s.header p
  (s.poisonIn (s.slotAddr p) 128).isNone && h.magic == 0xB7 && h.ntok == 16 && h.tokens == toks && h.pos0 == pos0 && h.mslot == k
    && h.domain == dom && h.modelGen == gen && h.vkey == key && h.parent == parent

/-- A failed verification: VERIFY_FAIL and 0x0550. -/
def State.verifyFailed (s : State) (p : Nat) : State :=
  (s.modPageCnt (stackOf p) (fun c => { c with verifyFail := c.verifyFail + 1 })).report
    { code := 0x0550, addr := s.slotAddr p, kind := .stack, unit := stackOf p }

/-- Lookups in flight behind a miss (R200): they were served, and their results are discarded. -/
def State.lookAhead (k dom gen : Nat) : List (List Nat) → Nat → State → State
  | [], _, s => s
  | t :: ts, pk, s =>
    let key := vkey pk t k dom
    State.lookAhead k dom gen ts key (s.lookup key k dom gen).2

/-- The result of a walk: the pages taken, and whether a reference was refused with 0x2555. -/
structure Walked where
  pages : List Nat
  refused : Bool
  s : State

/-- The walk of R199 over the page-sized groups of tokens, from key `pk`, parent `ppdi` and depth `d`. -/
def State.walk (k dom gen ahead : Nat) : List (List Nat) → Nat → Nat → Nat → State → Walked
  | [], _, _, _, s => ⟨[], false, s⟩
  | t :: ts, d, pk, ppdi, s =>
    let key := vkey pk t k dom
    let (e, s) := s.lookup key k dom gen
    let miss := fun (s : State) => State.lookAhead k dom gen (ts.take ahead) key s
    match e with
    | none => ⟨[], false, miss s⟩
    | some e =>
      if !s.verify e.pdi t (16 * d) k dom gen key ppdi then ⟨[], false, miss (s.verifyFailed e.pdi)⟩
      else match s.takeIfVine e.pdi gen with
        | .removed => ⟨[], false, miss s⟩
        | .refused => ⟨[], true, s⟩
        | .taken s =>
          let r := State.walk k dom gen ahead ts (d + 1) key e.pdi (s.modPages (fun g => { g with hits := g.hits + 1 }))
          { r with pages := e.pdi :: r.pages }

/-- Tokens of page-sized groups, the first `n` pages. -/
def pageGroups (n : Nat) (toks : List Nat) : List (List Nat) := (List.range n).map (fun d => (toks.drop (16 * d)).take 16)

/-! Removal, pruning and purge (R207–R210). -/

/-- Removal of the node of page `p`: cached copy, entry, state, the vine's reference, the parent's CHILDREN. -/
def State.removeNode (s : State) (p : Nat) : State :=
  let d := s.page p
  if d.state ≠ .vine then s
  else
    let s := s.modPages (fun g => { g with
      cache := Tbl.mapVals [] (fun _ l => l.filter (fun e => e.pdi != p)) g.cache
      vine := g.vine.filter (fun kv => kv.2.pdi != p) })
    let s := s.modPage p (fun d => { d with state := .priv, parent := noIndex })
    let s := s.writeHeader p 0
    let s := s.release p
    let s := if d.parent = noIndex then s else s.modPage d.parent (fun x => { x with children := x.children - 1 })
    s.modPageCnt (stackOf p) (fun c => { c with pruned := c.pruned + 1 })

/-- Whether page `p` is a candidate of R207 for model slot `k`. -/
def Pages.candidate (g : Pages) (k p : Nat) : Bool :=
  let d := g.desc p
  d.mslot == k && d.state == .vine && d.refs == 1 && d.children == 0 && !d.moving && !g.inWindow d.pinEpoch

/-- The score of R208. -/
def State.score (s : State) (p : Nat) : Nat :=
  let d := s.page p
  let age := (now32 s.time + 2 ^ 32 - d.lastUse) % 2 ^ 32
  if d.modelGen ≠ (s.model d.mslot).gen then 0
  else (min d.hits 4095 + 1) * 2 ^ (8 + (Tbl.get {} d.domain s.serve.doms).pri) / (age + 1)

/-- Pruning order: score, then older LAST_USE, then index. -/
def State.prunesBefore (s : State) (a b : Nat) : Bool :=
  let x := s.score a
  let y := s.score b
  let t := fun (p : Nat) => (now32 s.time + 2 ^ 32 - (s.page p).lastUse) % 2 ^ 32
  decide (x < y) || (x == y && (decide (t b < t a) || (t a == t b && decide (a ≤ b))))

/-- Removals of one round, until the partition reaches its mark. -/
def State.pruneList (m k goal : Nat) : List Nat → State → State
  | [], s => s
  | p :: ps, s =>
    if goal ≤ s.pages.freeIn m k then s
    else State.pruneList m k goal ps (if s.pages.candidate k p then s.removeNode p else s)

/-- A round of R209 on partition `k` of stack `m`, towards `goal` free slots. -/
def State.pruneRound (s : State) (m k goal : Nat) : State :=
  let n := descCount m
  let c := (Tbl.get {} m s.pages.cnts).cursor
  let cand := ((List.range (min 256 n)).map (fun i => 6 * ((c + i) % n) + m)).filter (s.pages.candidate k)
  let removed := fun (s : State) => (Tbl.get {} m s.pages.cnts).pruned
  let before := removed s
  let s := State.pruneList m k goal ((sortBy s.prunesBefore cand).take 16) s
  let s := s.modPageCnt m (fun x => { x with cursor := (c + 256) % n })
  let gone := removed s != before
  s.modPart m k (fun q => { q with idle := if gone then 0 else q.idle + 256 })

/-- Whether a pruning run on partition `k` of stack `m` is over. -/
def State.pruneDone (s : State) (m k goal : Nat) : Bool :=
  decide (goal ≤ s.pages.freeIn m k ∨ descCount m ≤ (s.pages.part m k).idle)

/-- Rounds until the run is over. -/
def State.pruneRun (m k goal : Nat) : Nat → State → State
  | 0, s => s
  | n + 1, s => if s.pruneDone m k goal then s else State.pruneRun m k goal n (s.pruneRound m k goal)

/-- The pruning before an allocation fails (R189), in every stack. -/
def State.pruneAll (s : State) (k : Nat) : State :=
  (List.range 6).foldl (fun s m =>
    let goal := max 1 (s.pages.part m k).high.toNat
    let s := s.modPart m k (fun q => { q with idle := 0 })
    (State.pruneRun m k goal (172 * (s.pages.descs.length + 1)) s).modPart m k (fun q => { q with idle := 0, pruning := false })) s

/-- PRUNING set when FREE lies below LOW_WATER (R207). -/
def State.startPruning (s : State) (m k : Nat) : State :=
  let q := s.pages.part m k
  if q.enable && !q.pruning && decide (s.pages.freeIn m k < q.low.toNat) then
    s.modPart m k (fun q => { q with pruning := true, idle := 0 })
  else s

/-- PRUNE_ROUND (R209). -/
def execPruneRound (m : Fin 6) (k : Fin 4) (s : State) : Host.Outcome State Fault Refusal :=
  let q := s.pages.part m k
  if !s.alive || !q.pruning then .next s
  else
    let s := s.pruneRound m k q.high.toNat
    let s : State := { s with pow := { s.pow with lastActivity := s.time } }
    .next (if s.pruneDone m k q.high.toNat then s.modPart m k (fun q => { q with pruning := false, idle := 0 }) else s)

/-- VINE pages that a test picks, deepest first. -/
def Pages.nodes (g : Pages) (f : PageDesc → Bool) : List Nat :=
  (sortBy (fun a b => decide ((g.desc b).pos0 ≤ (g.desc a).pos0))
    ((g.descs.filter (fun kv => kv.2.state == .vine && f kv.2)).map Prod.fst))

/-- Every node of a domain or a model slot removed (R210, R250). -/
def State.purge (s : State) (f : PageDesc → Bool) : State := (s.pages.nodes f).foldl State.removeNode s

/-- COUNT of a share domain (R210). -/
def Pages.domCount (g : Pages) (dom : Nat) : Nat := (g.descs.filter (fun kv => kv.2.state == .vine && kv.2.domain == dom)).length

/-! Allocation (R189). -/

/-- A page of stack `m` allocated as a VAT page; none where the stack has no room. -/
def State.allocIn (s : State) (m k dom pos0 : Nat) : Option (Nat × State) :=
  match s.pages.lowestSlot m k, s.pages.lowestDesc m with
  | some x, some p =>
    let s := s.modPage p (fun _ => { state := .vat, refs := 1, pos0 := pos0, slot4k := x, domain := dom, mslot := k, modelGen := (s.model k).gen })
    some (p, (s.writeHeader p 0).startPruning m k)
  | _, _ => none

/-- The stacks tried for position `pos0` of session `i`, in order. -/
def stackOrder (i pos0 : Nat) : List Nat := (List.range 6).map (fun j => (pos0 / 16 + i + j) % 6)

/-- A page for position `pos0` of session `i`, without pruning. -/
def State.allocNow (s : State) (i k dom pos0 : Nat) : Option (Nat × State) := (stackOrder i pos0).findSome? (fun m => s.allocIn m k dom pos0)

/-- A page for position `pos0` of session `i`, with the pruning of R189 where no stack has room; the state after a failure is the pruned one. -/
def State.alloc (s : State) (i k dom pos0 : Nat) : Option Nat × State :=
  match s.allocNow i k dom pos0 with
  | some (p, s) => (some p, s)
  | none =>
    let s := s.pruneAll k
    match s.allocNow i k dom pos0 with
    | some (p, s) => (some p, s)
    | none => (none, s)

/-- Copy-on-write of page `p` into the fresh page `q` (R206). -/
def State.cowInto (s : State) (p q : Nat) : State :=
  let d := s.page p
  let n := 128 + (s.model d.mslot).block.payload
  let s := s.copyMem (s.slotAddr p) (s.slotAddr q) n
  let s := s.modPage q (fun x => { x with ntok := d.ntok, pos0 := d.pos0, parent := noIndex })
  let s := (s.writeHeader q 0).modPageCnt (stackOf q) (fun c => { c with copies := c.copies + 1 })
  s.release p

/-! Insertion (R202). -/

/-- What an insertion makes of depth `d` of a page list. -/
structure Inserted where
  page : Nat
  s : State

/-- A declined insertion: 0x0551. -/
def State.decline (s : State) (p : Nat) : State := s.report { code := 0x0551, addr := s.slotAddr p, kind := .stack, unit := stackOf p }

/-- The node written at way `w` of its set, through the vine cache (R198: write-through, log entry 25). -/
def State.plant (s : State) (p set w key parent : Nat) : State :=
  let s := s.modPage p (fun x => { x with parent := parent, state := .vine, refs := x.refs + 1 })
  let s := s.writeHeader p key
  let s := if parent = noIndex then s else s.modPage parent (fun x => { x with children := x.children + 1 })
  let d := s.page p
  let e : VineEntry := { vkey := key, pdi := p, modelGen := d.modelGen, domain := d.domain, mslot := d.mslot, valid := true }
  (s.modPages (fun g => { g with vine := Tbl.set {} (4 * set + w) e g.vine }.cacheIn e)).modPageCnt
      (stackOf p) (fun c => { c with inserts := c.inserts + 1 })

/-- A way for a new node: an invalid one, else the lowest-scoring candidate of the slot, removed first. -/
def State.wayFor (s : State) (set k : Nat) : Option (Nat × State) :=
  let ws := s.pages.ways set
  match (List.range 4).find? (fun w => !(ws.getD w {}).valid) with
  | some w => some (w, s)
  | none =>
    let cand := (List.range 4).filter (fun w => s.pages.candidate k (ws.getD w {}).pdi)
    (leastBy (fun a b => s.prunesBefore (ws.getD a {}).pdi (ws.getD b {}).pdi) cand).map
      (fun w => (w, s.removeNode (ws.getD w {}).pdi))

/-- insert(s, d) for page `p` at depth `d` behind `parent`. Its set read counts in LOOKUPS (R213, log entry 25). -/
def State.insertPage (s : State) (p d k dom parent : Nat) : Inserted :=
  let x := s.page p
  let gen := (s.model k).gen
  let pk := if parent = noIndex then 0 else (s.header parent).vkey
  let toks := (s.header p).tokens
  let key := vkey pk toks k dom
  let set := key % 131072
  let s := s.modPageCnt (set % 6) (fun c => { c with lookups := c.lookups + 1 })
  let held := (s.pages.ways set).find? (fun e => e.is key k dom gen)
  let goOn := fun (s : State) =>
    let cap := (Tbl.get {} dom s.serve.doms).cap
    if (s.pages.ways set).any (fun e => e.is key k dom gen) || decide (cap ≤ s.pages.domCount dom)
        || (parent != noIndex && (s.page parent).children == 65535) || x.refs == 65535 then Inserted.mk p (s.decline p)
    else match s.wayFor set k with
      | some (w, s) => Inserted.mk p (s.plant p set w key parent)
      | none => Inserted.mk p (s.decline p)
  match held with
  | some e =>
    if s.verify e.pdi toks (16 * d) k dom gen key parent then
      match s.takeIfVine e.pdi gen with
      | .taken s => Inserted.mk e.pdi ((s.release p).modPageCnt (stackOf e.pdi) (fun c => { c with dedups := c.dedups + 1 }))
      | .refused => Inserted.mk p (s.decline p)
      | .removed => goOn s
    else goOn s
  | none => goOn s

/-! Compaction (R212). -/

/-- Page `p` moved to slot `x` of its stack. -/
def State.movePage (s : State) (p x : Nat) : State :=
  let d := s.page p
  let s := s.copyMem (s.slotAddr p) (4096 * x) (128 + (s.model d.mslot).block.payload)
  (s.modPage p (fun d => { d with slot4k := x })).modPageCnt (stackOf p) (fun c => { c with copies := c.copies + 1 })

/-- Whether compaction may move page `p`. -/
def Pages.movable (g : Pages) (p : Nat) : Bool :=
  let d := g.desc p
  (d.state == .priv || d.state == .vine) && !g.inWindow d.pinEpoch

/-- COMPACTION: page `p` of stack `m` moves into the lowest free slot of its partition while the stack's page key is held. Out of a withdrawn
slot it lowers FREE, which may start pruning (R207). -/
def execCompaction (m : Fin 6) (page : Nat) (s : State) : Host.Outcome State Fault Refusal :=
  let d := s.page page
  let keyed := s.integ.held.any (fun h => h.act == .compaction m || h.act == .rowRepair m true)
  if !s.alive || stackOf page != m || !s.pages.movable page || !keyed then .next s
  else match s.pages.lowestSlot m d.mslot with
    | some x => .next ((s.movePage page x).startPruning m d.mslot)
    | none => .next s

end Sys2Proof.Machine
end

