-- ==== Sys2Proof/Machine/PegWords.lean ====
section
/-! DEFINITION. Pegs: the homes' operations (R257–R263), peg words (R93, R264) and barrier arrivals (R268, R270). -/

namespace Sys2Proof.Machine

/-- Where a peg lives (R257): a core's board or the collector. -/
inductive Home where
  | core (c : Nat)
  | coll
deriving DecidableEq, Repr

/-- A peg's word as a read returns it (R257). -/
def Peg.bits (p : Peg) : Nat :=
  b2n p.satHi * 2 ^ 63 + b2n p.satLo * 2 ^ 62 + b2n p.barrier * 2 ^ 61 + p.fails % 2 ^ 16 * 2 ^ 32 + p.value % 2 ^ 24

/-- A peg operation (R258), with the clamp it made: true at 0, false at 2^24 - 1. -/
def Peg.apply (p : Peg) : PegOp → Peg × Option Bool
  | .set v => ({ p with value := v % 2 ^ 24 }, none)
  | .add d =>
    let x := Int.ofNat p.value + d
    if 2 ^ 24 - 1 < x then ({ p with value := 2 ^ 24 - 1, satHi := true }, some false)
    else if x < 0 then ({ p with value := 0, satLo := true }, some true)
    else ({ p with value := x.toNat }, none)

/-- A claim (R258): the peg after it, and whether it succeeded. -/
def Peg.claim (p : Peg) : Peg × Bool :=
  if 1 ≤ p.value then ({ p with value := p.value - 1 }, true) else ({ p with fails := satAdd 16 p.fails 1 }, false)

/-- PRED codes of R93. -/
def predHolds (pred value operand : Nat) : Bool :=
  match pred with
  | 0 => decide (operand ≤ value)
  | 1 => value == operand
  | 2 => value != operand
  | _ => decide (value < operand)

/-- The peg at a home. -/
def State.peg (s : State) (h : Home) (p : Nat) : Peg :=
  match h with
  | .core c => Tbl.get {} p (s.core c).pegs
  | .coll => Tbl.get {} p s.sync.pegs

/-- The peg at a home replaced. -/
def State.setPeg (s : State) (h : Home) (p : Nat) (v : Peg) : State :=
  match h with
  | .core c => s.modCore c (fun k => { k with pegs := Tbl.set {} p v k.pegs })
  | .coll => s.modSync (fun y => { y with pegs := Tbl.set {} p v y.pegs })

/-- A waiting MONITOR or ACQUIRE completes: the word has issued. -/
def State.finishWait (s : State) (c : Nat) : State := s.modRun c (fun r => match r.wait with | some t => { r.issued t.word.toNat with wait := none } | none => r)

/-- Whether a wait's watchdog has expired (R275, half-open under R15). -/
def PegWait.expired (w : PegWait) (t : Nat) : Bool := decide (w.started + 100 * w.limitUs ≤ t)

/-- The test of a core's own board after a change (R263): before the wait's expiry (R276) a MONITOR completes, and an ACQUIRE claims. -/
def State.testOwn (s : State) (c p : Nat) : State :=
  match (s.core c).run.wait with
  | some w =>
    if w.coll || w.peg != p then s
    else
      let v := s.peg (.core c) p
      if w.acquire then (if 1 ≤ v.value ∧ w.expired s.time = false then (s.setPeg (.core c) p v.claim.1).finishWait c else s)
      else if predHolds w.pred v.value w.value && !w.expired s.time then s.finishWait c
      else s
  | none => s

/-- The collector's test of its registrations after a change of VALUE (R263): a wake for each that holds, which is dropped. -/
def State.testColl (s : State) (p : Nat) : State :=
  let v := (s.peg .coll p).value
  let hit := fun (r : Registration) => r.peg == p && predHolds r.pred v r.value
  s.modSync (fun y => { y with
    wakes := y.wakes ++ (y.regs.filter hit).map (fun r => (r.core, p, v))
    regs := y.regs.filter (fun r => !hit r) })

/-- The table of the pass that runs, if any (R274). -/
def State.running (s : State) : Option (Nat × PassTable) :=
  ((List.range 4).find? (fun t => (Tbl.get ({} : PassTable) t s.sync.tables).state == .running)).map
    (fun t => (t, Tbl.get {} t s.sync.tables))

/-- The tag of the pass that runs or is being aborted (R274), 0 when none is. -/
def State.liveTag (s : State) : Nat :=
  match (List.range 4).find? (fun t =>
    let x := (Tbl.get ({} : PassTable) t s.sync.tables).state
    x == .running || x == .aborting) with
  | some t => (Tbl.get ({} : PassTable) t s.sync.tables).tag
  | none => 0

/-- A peg operation at its home (R258), with the clamp record (R279, R281) and the tests that follow a change. -/
def State.pegOp (s : State) (h : Home) (p src : Nat) (op : PegOp) : State :=
  let (v, clamp) := (s.peg h p).apply op
  let s := s.setPeg h p v
  match h with
  | .core c =>
    let s := match clamp with
      | some low => s.modRegs c (fun r => { r with pegStatus := r.pegStatus.note (s.core c).run.tag p src low })
      | none => s
    s.testOwn c p
  | .coll =>
    let s := match clamp with
      | some low => s.modSync (fun y => { y with collStatus := y.collStatus.note s.liveTag p src low })
      | none => s
    s.testColl p

/-! Barrier groups of a launch (R266). -/

/-- CORE_MASK of a sync block. -/
def Launch.coreMask (l : Launch) : Nat := fld l.sync.toNat 0 64

/-- PASS_LIMIT_US. -/
def Launch.passLimitUs (l : Launch) : Nat := fld l.sync.toNat 96 32

/-- Entry of group `g`. -/
def Launch.group (l : Launch) (g : Nat) : GroupDecl :=
  let e := fld l.sync.toNat (128 + 128 * g) 128
  { enable := bit e 0, childLinks := fld e 80 48, parentLink := fld e 74 6, hasParent := bit e 73, releasePeg := fld e 64 6,
    arrivePeg := fld e 58 6, chipWaitUs := fld e 20 20 }

/-- Whether a group spans chips (R266). -/
def GroupDecl.spans (d : GroupDecl) : Bool := d.hasParent || d.childLinks != 0

/-- The declaration of group `g` in the pass launched last, if it is enabled. -/
def State.groupDecl (s : State) (g : Nat) : Option GroupDecl :=
  match s.sync.last with
  | some (_, l) => if (l.group g).enable then some (l.group g) else none
  | none => none

/-- CORE_MASK of the pass launched last. -/
def State.runMask (s : State) : Nat := match s.sync.last with | some (m, _) => m.toNat | none => 0

/-- Cores of that pass in hand `h`. -/
def State.handCores (s : State) (h : Nat) : List Nat := (maskList 64 s.runMask).filter (fun c => s.handOf c == h)

/-- Hands that hold a core of that pass. -/
def State.passHands (s : State) : List Nat := (List.range 18).filter (fun h => !(s.handCores h).isEmpty)

/-- Group `g`'s episode state. -/
def Sync.group (y : Sync) (g : Nat) : GroupRun := Tbl.get {} g y.groups

/-- The group whose arrival peg is collector peg `p`. -/
def State.arriveGroup (s : State) (p : Nat) : Option Nat :=
  (List.range 7).find? (fun g => match s.groupDecl g with | some d => d.arrivePeg == p | none => false)

/-- An arrival (R268): the hand counts it under the core's present sense and sends a hand arrival when its cores are complete;
the core's sense flips. -/
def State.arrive (s : State) (c g : Nat) : State :=
  let sense := bit (s.core c).run.senses.toNat g
  let h := s.handOf c
  let key := (18 * g + h) * 2 + b2n sense
  let n := Tbl.get 0 key s.sync.handCnt + 1
  let s := s.modRun c (fun r => { r with senses := r.senses ^^^ BitVec.ofNat 7 (2 ^ g) })
  if n = (s.handCores h).length then
    s.modSync (fun y => { y with handCnt := Tbl.set 0 key 0 y.handCnt, handMsgs := y.handMsgs ++ [(h, g, sense)] })
  else s.modSync (fun y => { y with handCnt := Tbl.set 0 key n y.handCnt })

/-! Peg words (R93). -/

/-- The fields of a peg word. -/
structure PWord where
  op : Nat
  relq : Nat
  release : Nat
  pred : Nat
  value : Nat
  peg : Nat
  tcore : Nat
  tk : Nat
deriving DecidableEq, Repr

/-- Decoding of a peg word. -/
def PWord.decode (w : Nat) : PWord :=
  { op := wOp w, relq := fld w 60 5, release := fld w 57 3, pred := fld w 54 3, value := fld w 30 24, peg := fld w 24 6,
    tcore := fld w 18 6, tk := fld w 16 2 }

/-- The home a word names. -/
def homeOf (c tk tcore : Nat) : Home := if tk = 0 then .core c else if tk = 1 then .core tcore else .coll

/-- Values that R93 calls illegal (0x2130). -/
def PWord.illegal (x : PWord) : Bool :=
  decide (x.tk = 3 ∨ (16 ≤ x.relq ∧ x.relq ≤ 30) ∨ (x.tk ≤ 1 ∧ 48 ≤ x.peg) ∨ (2 ≤ x.op ∧ x.tk = 1) ∨ (x.op = 3 ∧ 4 ≤ x.pred))

/-- Misuse of a barrier peg (R270, 0x2731). -/
def State.barrierMisuse (s : State) (c : Nat) (x : PWord) : Bool :=
  x.tk == 2 && (s.peg .coll x.peg).barrier
    && (x.op != 1 || x.value != 1 || x.relq != 31 || !(bit s.runMask c))

/-- Whether a RELEASE condition is open (R93, R97). Array, decanter and SFU words have completed when the next word is decoded. -/
def CoreRun.releaseOpen (r : CoreRun) (x : PWord) : Bool := bit x.release 2 && r.streamsOpen

/-- The operation of a SET or ADD word. -/
def PWord.pegOp (x : PWord) : PegOp := if x.op = 0 then .set x.value else .add (signed 24 x.value)

/-- A SET or ADD at its home; an ADD to a barrier's arrival peg is an arrival. -/
def State.sendPeg (s : State) (c tk tcore p : Nat) (op : PegOp) : State :=
  let h := homeOf c tk tcore
  match h, s.arriveGroup p with
  | .coll, some g => if (s.peg .coll p).barrier then s.arrive c g else s.pegOp h p c op
  | _, _ => s.pegOp h p c op

/-- The checks of a peg word at decode. -/
def State.checkPeg (s : State) (c : Nat) (x : PWord) : Option Nat :=
  firstFault [(x.illegal, 0x2130), (s.barrierMisuse c x, 0x2731)]

/-- A SET or ADD word (R264): at issue, or behind what its stream queue holds. -/
def execPegSend (c : Fin 64) (w : Word) (s : State) : State :=
  let x := PWord.decode w.toNat
  let r := (s.core c).run
  let q := Tbl.get [] x.relq r.queues
  let ready := !r.releaseOpen x && (x.relq == 31 || decide (r.queueLoad < 16))
  s.runWord c w.toNat (s.checkPeg c x) {} ready (fun s =>
    if x.relq = 31 ∨ q = [] then s.sendPeg c x.tk x.tcore x.peg x.pegOp
    else s.modRun c (fun r => { r with queues := Tbl.set [] x.relq (q ++ [.peg x.tk x.tcore x.peg x.pegOp]) r.queues }))

/-- PEG_SET (R258). -/
def execPegSet (c : Fin 64) (w : Word) (s : State) : Host.Outcome State Fault Refusal :=
  coreWord (wIs 5 0 w.toNat) w.toNat (execPegSend c w s)

/-- PEG_ADD (R258, R268). -/
def execPegAdd (c : Fin 64) (w : Word) (s : State) : Host.Outcome State Fault Refusal :=
  coreWord (wIs 5 1 w.toNat) w.toNat (execPegSend c w s)

/-- A MONITOR or ACQUIRE word (R262): it completes at once on the core's own board where it can, and waits otherwise. -/
def execPegWait (c : Fin 64) (w : Word) (s : State) : State :=
  let x := PWord.decode w.toNat
  let r := (s.core c).run
  s.runWord c w.toNat (s.checkPeg c x) {} (!r.releaseOpen x) (fun s =>
    let acq := x.op == 2
    let v := s.peg (.core c) x.peg
    if x.tk = 0 ∧ acq = true ∧ 1 ≤ v.value then s.setPeg (.core c) x.peg v.claim.1
    else if x.tk = 0 ∧ acq = false ∧ predHolds x.pred v.value x.value = true then s
    else
      let wt : PegWait :=
        { acquire := acq, coll := x.tk == 2, peg := x.peg, pred := (if acq then 0 else x.pred), value := (if acq then 1 else x.value),
          started := s.time, limitUs := s.sync.pegWaitUs, word := w }
      s.modRun c (fun r => { r with wait := some wt }))

/-- ACQUIRE (R262). -/
def execAcquire (c : Fin 64) (w : Word) (s : State) : Host.Outcome State Fault Refusal :=
  coreWord (wIs 5 2 w.toNat) w.toNat (execPegWait c w s)

/-- MONITOR (R262). -/
def execMonitor (c : Fin 64) (w : Word) (s : State) : Host.Outcome State Fault Refusal :=
  coreWord (wIs 5 3 w.toNat) w.toNat (execPegWait c w s)

/-! Messages between cores and the collector (R263). -/

/-- Whether a registration, wake or claim of core `c` is on its way or held. -/
def Sync.engaged (y : Sync) (c : Nat) : Bool :=
  y.regs.any (fun r => r.core == c) || y.wakes.any (fun k => k.1 == c) || y.claims.any (fun k => k.1 == c)

/-- A registration: the predicate is tested at once (R263). -/
def State.register (s : State) (g : Registration) : State :=
  let v := (s.peg .coll g.peg).value
  if predHolds g.pred v g.value then s.modSync (fun y => { y with wakes := y.wakes ++ [(g.core, g.peg, v)] })
  else s.modSync (fun y => { y with regs := y.regs ++ [g] })

/-- PEG_REGISTER (R263): the registration of a core that has begun to wait on a collector peg. -/
def execPegRegister (c : Fin 64) (s : State) : Host.Outcome State Fault Refusal :=
  match (s.core c).run.wait with
  | some w =>
    if !s.alive || !w.coll || s.sync.engaged c then .next s
    else .next (s.register { core := c, peg := w.peg, acquire := w.acquire, pred := w.pred, value := w.value })
  | none => .next s

/-- PEG_WAKE (R262): before the wait's expiry (R276), a MONITOR completes when the delivered value meets its predicate, and an ACQUIRE sends a
claim. -/
def execPegWake (c : Fin 64) (s : State) : Host.Outcome State Fault Refusal :=
  match s.sync.wakes.find? (fun k => k.1 == c.val) with
  | none => .next s
  | some (k, p, v) =>
    if !s.alive then .next s
    else
      let s := s.modSync (fun y => { y with wakes := y.wakes.erase (k, p, v) })
      match (s.core c).run.wait with
      | some w =>
        if !w.coll || w.peg != p then .next s
        else if w.expired s.time then .next s
        else if w.acquire then .next (s.modSync (fun y => { y with claims := y.claims ++ [(c.val, p)] }))
        else if predHolds w.pred v w.value then .next (s.finishWait c)
        else .next s
      | none => .next s

/-- PEG_CLAIM (R258, R263): a claim at the collector succeeds and completes the ACQUIRE, which no expiry undoes (R276), or fails,
counts and registers the core again. -/
def execPegClaim (c : Fin 64) (s : State) : Host.Outcome State Fault Refusal :=
  match s.sync.claims.find? (fun k => k.1 == c.val) with
  | none => .next s
  | some (k, p) =>
    if !s.alive then .next s
    else
      let s := s.modSync (fun y => { y with claims := y.claims.erase (k, p) })
      let (v, ok) := (s.peg .coll p).claim
      let s := s.setPeg .coll p v
      if ok then
        let s := match (s.core c).run.wait with
          | some w => if w.coll && w.acquire && w.peg == p then s.finishWait c else s
          | none => s
        .next (s.testColl p)
      else .next (s.modSync (fun y => { y with regs := y.regs ++ [{ core := c, peg := p, acquire := true, pred := 0, value := 1 }] }))

/-- The peg that a device address names (R29). -/
def pegAt (a : Nat) : Option (Home × Nat) :=
  match region a with
  | .peg off =>
    if off % 8 ≠ 0 then none
    else if off < 0x40000 then (if off % 0x1000 < 0x180 then some (.core (off / 0x1000), off % 0x1000 / 8) else none)
    else some (.coll, (off - 0x40000) / 8)
  | _ => none

end Sys2Proof.Machine
end

