-- ==== Sys2Proof/Machine/LinkFrames.lean ====
section
/-! DEFINITION. The Yalast frame layer: frames, SEQ, ACK, credits and replay (R286–R292), hostile events and quarantine (R298), leaving
service (R297). -/

namespace Sys2Proof.Machine

/-- Link `l`. -/
def State.link (s : State) (l : Nat) : LinkSt := Tbl.get {} l s.links

/-- Link `l` changed by `f`. -/
def State.modLink (s : State) (l : Nat) (f : LinkSt → LinkSt) : State := { s with links := Tbl.upd {} l f s.links }

/-- The link global block changed by `f`. -/
def State.modLGlob (s : State) (f : LinkGlob → LinkGlob) : State := { s with lglob := f s.lglob }

/-- Security state changed by `f`. -/
def State.modSec (s : State) (f : Sec → Sec) : State := { s with sec := f s.sec }

/-- The next output of the random generator (R368). -/
def State.random (s : State) : BitVec 512 × State :=
  (Config.drbg s.sec.drbg, s.modSec (fun k => { k with drbg := k.drbg + 1 }))

/-- Counter numbers of R314. -/
def cntTx : Nat := 0
/-- FRAMES_RX. -/
def cntRx : Nat := 1
/-- FEC_CORR. -/
def cntCorr : Nat := 2
/-- FEC_UNCORR. -/
def cntFec : Nat := 3
/-- REPLAYS. -/
def cntReplay : Nat := 4
/-- BAD_TAG. -/
def cntTag : Nat := 5
/-- MALFORMED. -/
def cntMal : Nat := 6
/-- OUT_WINDOW. -/
def cntOut : Nat := 7

/-- A link counter raised by `v`. -/
def State.countLinkBy (s : State) (l n v : Nat) : State :=
  s.modLink l (fun k => { k with cnt := Tbl.upd 0 n (fun x => x + BitVec.ofNat 64 v) k.cnt })

/-- A link counter raised by 1. -/
def State.countLink (s : State) (l n : Nat) : State := s.countLinkBy l n 1

/-! Frame fields (R287, R288). -/

/-- MAGIC, TYPE, CLASS, ENC, KG, LEN, SEQ, ACK of a header. -/
structure Header where
  magic : Nat
  type : Nat
  cls : Nat
  enc : Bool
  kg : Nat
  len : Nat
  seq : Nat
  ack : Nat
  crSync : Nat
  crCtrl : Nat
  crBulk : Nat
  args : Nat
deriving DecidableEq, Repr

/-- Decoding of a header word. -/
def Frame.head (f : Frame) : Header :=
  let v := f.hdr.toNat
  { magic := fld v 0 8, type := fld v 8 8, cls := fld v 16 2, enc := bit v 18, kg := fld v 19 2, len := fld v 24 7, seq := fld v 32 64,
    ack := fld v 96 64, crSync := fld v 160 16, crCtrl := fld v 176 16, crBulk := fld v 192 16, args := fld v 256 256 }

/-- Payload bytes, least significant byte of each word first (R8). -/
def Frame.bytes (f : Frame) : List Nat := f.payload.flatMap (fun w => leBytes 64 w.toNat)

/-- LMAX at a rate code (R286). -/
def lmax (rate : Nat) : Nat := if rate = 0 then 64 else if rate = 1 then 32 else 16

/-- CLASS of a TYPE (R288): 0 SYNC, 1 CTRL, 2 BULK; none where no row lists the type. -/
def typeClass (t : Nat) : Option Nat :=
  if t = 0x20 ∨ t = 0x21 then some 0
  else if t = 0x10 ∨ t = 0x33 then some 2
  else if t ≤ 0x06 ∨ t = 0x08 ∨ t = 0x09 ∨ (0x11 ≤ t ∧ t ≤ 0x13) ∨ (0x30 ≤ t ∧ t ≤ 0x36) ∨ (0x40 ≤ t ∧ t ≤ 0x44) then some 1
  else none

/-- Whether a LEN suits a TYPE (R288, R310, R313). Objects span frames of 1 to LMAX words. -/
def typeLen (t n lm : Nat) : Bool :=
  if t = 0x01 ∨ t = 0x06 ∨ t = 0x09 ∨ t = 0x40 then n == 1
  else if t = 0x02 ∨ t = 0x03 ∨ t = 0x04 ∨ t = 0x05 ∨ t = 0x10 then decide (1 ≤ n ∧ n ≤ lm)
  else if t = 0x30 then n == 2
  else n == 0

/-- The ENC that a TYPE needs on a link (R288). -/
def encOk (k : LinkSt) (t : Nat) (enc : Bool) : Bool :=
  let live := k.state == .inService || k.state == .slow
  if t = 0x00 then enc == (live || k.shake.finish)
  else if t = 0x01 ∨ t = 0x02 ∨ t = 0x05 then !enc
  else if t = 0x03 ∨ t = 0x04 then enc == live
  else enc

/-- Whether the first row of R289 passes a frame. -/
def LinkSt.legal (k : LinkSt) (f : Frame) : Bool :=
  let h := f.head
  h.magic == 0x59 && typeClass h.type == some h.cls && decide (h.len ≤ lmax k.rate) && h.len == f.payload.length
    && typeLen h.type h.len (lmax k.rate) && encOk k h.type h.enc

/-! Sending (R289–R292). -/

/-- Words of a frame: header, payload and trailer. -/
def TxFrame.words (f : TxFrame) : Nat := f.payload.length / 64 + 2

/-- The class a frame is sent in. -/
def TxFrame.cls (f : TxFrame) : Nat := (typeClass f.type).getD 1

/-- Bytes held in the replay buffer of 512 KiB (R290). -/
def LinkSt.keptBytes (k : LinkSt) : Nat := (k.kept.map (fun f => 64 * f.words)).sum

/-- HELLOs that the partner's ACK has not covered (R292). -/
def LinkSt.hellosOpen (k : LinkSt) : Nat := (k.kept.filter (fun f => f.type == 1)).length

/-- Whether a TYPE stands in a handshake (R294, R297), or asks for a replay of it (R289). -/
def handshakeType (t : Nat) : Bool := decide (t ≤ 0x06 ∨ t = 0x08)

/-- Whether the class's credit allows a frame (R291); until the partner's HELLO only two open HELLOs go out, and their replays (R292). -/
def LinkSt.creditFor (k : LinkSt) (f : TxFrame) (fresh : Bool) : Bool :=
  match k.shake.peer with
  | none => k.state == .handshake && f.type == 1 && (!fresh || decide (k.hellosOpen < 2))
  | some _ => decide (Tbl.get 0 f.cls k.sent + f.words ≤ Tbl.get 0 f.cls k.buf + Tbl.get 0 f.cls k.credit)

/-- Whether a queued frame may be sent now: credit, room in the replay buffer (R290), and in HANDSHAKE a frame of the handshake (R297). -/
def LinkSt.maySend (k : LinkSt) (f : TxFrame) : Bool :=
  decide (k.keptBytes + 64 * f.words ≤ 524288) && k.creditFor f true && (k.state != .handshake || handshakeType f.type)

/-- ENC of a frame sent now (R288): that of NULL is 1 once FINISH has gone out. -/
def LinkSt.encTx (k : LinkSt) (t : Nat) : Bool :=
  let live := k.state == .inService || k.state == .slow
  if t = 0x00 then live || (k.shake.finSent && !k.queue.any (fun f => f.type == 6))
  else if t = 0x01 ∨ t = 0x02 ∨ t = 0x05 then false
  else if t = 0x03 ∨ t = 0x04 then live
  else true

/-- ACK (R287): the highest SEQ received in order, all ones before the first. -/
def LinkSt.ackNow (k : LinkSt) : Nat := if k.rxSeq = 0 then 2 ^ 64 - 1 else k.rxSeq - 1

/-- A frame as it goes out with SEQ `seq` (R286, R287, R294): its header word with ACK and the words freed, and where ENC is 1 the payload
encrypted and the tag, under this side's key and salt with SEQ as nonce and the header word authenticated; else a tag of zeros. -/
def LinkSt.dress (k : LinkSt) (f : TxFrame) (seq : Nat) : TxFrame :=
  let enc := k.encTx f.type
  let cr := fun c => Tbl.get 0 c k.freed % 65536
  let h := 0x59 + f.type * 2 ^ 8 + f.cls * 2 ^ 16 + b2n enc * 2 ^ 18 + k.kg % 4 * 2 ^ 19 + f.payload.length / 64 * 2 ^ 24 + seq * 2 ^ 32
    + k.ackNow * 2 ^ 96 + cr 0 * 2 ^ 160 + cr 1 * 2 ^ 176 + cr 2 * 2 ^ 192 + f.args * 2 ^ 256
  let key := (k.keys.drop (if k.initiator then 0 else 32)).take 32
  let salt := (k.keys.drop (if k.initiator then 64 else 68)).take 4
  let c := if enc then Config.gcmSeal key (salt ++ leBytes 8 seq) (leBytes 64 h) f.payload else (f.payload, 0)
  { f with seq := seq, kg := k.kg % 4, hdr := BitVec.ofNat 512 h, wire := c.1, tag := c.2 }

/-- What a frame sent now tells the partner. -/
def LinkSt.tell (k : LinkSt) : LinkSt := { k with toldSeq := k.rxSeq, told := k.freed }

/-- New keys in effect (R296): the key generation advances. -/
def LinkSt.newKeys (k : LinkSt) (keys : List Nat) (t : Nat) : LinkSt :=
  { k with keys := keys, kg := k.kg + 1, keyGen := satAdd 16 k.keyGen 1, keySince := t, keyFrames := 0, keyRx := 0, rekey := none, nextKeys := none }

/-- New keys that wait for this side's KEM_CT, once its last frame has left the queue. -/
def LinkSt.turnKeys (k : LinkSt) (t : Nat) : LinkSt :=
  match k.nextKeys with
  | some keys => if k.queue.any (fun f => f.type == 4) then k else k.newKeys keys t
  | none => k

/-- The bytes of a shipment's frame noted for its request (R361). -/
def State.noteBytes (s : State) (f : TxFrame) : State :=
  match f.rid with
  | some r => { s with pow := { s.pow with shipBytes := s.pow.shipBytes ++ [(r, 64 * f.words)] } }
  | none => s

/-- A frame sent: it takes the next SEQ and the present key generation, and is kept for replay. -/
def State.transmit (s : State) (l : Nat) (f : TxFrame) : State :=
  let k := s.link l
  let g := k.dress f k.txSeq
  ((s.modLink l (fun k => (({ k with
      txSeq := k.txSeq + 1, kept := k.kept ++ [g], keyFrames := k.keyFrames + b2n (k.encTx f.type)
      sent := Tbl.upd 0 f.cls (fun n => n + f.words) k.sent } : LinkSt).tell).turnKeys s.time)).countLink l cntTx).noteBytes f |>.emit (.frame l g)

/-- The frame that goes out next (R291): the first of a class that may be sent, SYNC before CTRL before BULK. -/
def LinkSt.nextTx (k : LinkSt) : Option TxFrame :=
  [0, 1, 2].findSome? (fun c => match k.queue.find? (fun f => f.cls == c) with
    | some f => if k.maySend f then some f else none
    | none => none)

/-- A kept frame sent again bit for bit; its words cost credit as those of any frame (R290, R291). -/
def State.repeatTx (s : State) (l : Nat) (f : TxFrame) : State :=
  ((s.modLink l (fun k => { k with again := k.again.tail, sent := Tbl.upd 0 f.cls (fun n => n + f.words) k.sent })).countLink l cntTx).noteBytes f |>.emit (.frame l f)

/-- Frames sent while they may be: those of a replay first, which stand before every new SEQ, then the queued ones. -/
def State.pump (l : Nat) : Nat → State → State
  | 0, s => s
  | n + 1, s =>
    let k := s.link l
    match k.again with
    | f :: _ => if k.creditFor f false then State.pump l n (s.repeatTx l f) else s
    | [] => match k.nextTx with
      | some f => State.pump l n ((s.modLink l (fun k => { k with queue := k.queue.erase f })).transmit l f)
      | none => s

/-- The stall times of a link brought up to date after it has sent what it may, `k0` before that (R297): a class whose frames wait for credit
keeps the time its stall began, unless it has had credit and sent since. -/
def LinkSt.noteStall (k k0 : LinkSt) (t : Nat) : LinkSt :=
  let waits := fun c => match (k.again ++ k.queue).find? (fun f => f.cls == c) with
    | some f => !k.creditFor f false
    | none => false
  let began := fun c => if waits c then
      (if Tbl.get 0 c k0.stall = 0 ∨ Tbl.get 0 c k0.sent ≠ Tbl.get 0 c k.sent then t + 1 else Tbl.get 0 c k0.stall) else 0
  { k with
    stall := [0, 1, 2].foldl (fun m c => Tbl.set 0 c (began c) m) k.stall
    clearSince := if [0, 1, 2].any (fun c => waits c || Tbl.get 0 c k0.stall != 0) then t else k.clearSince }

/-- Whether a link takes frames at all (R297). -/
def LinkSt.hears (k : LinkSt) : Bool := k.state == .handshake || k.state == .inService || k.state == .slow

/-- A NULL frame (R289, R291), which carries ACK and credits: it is not kept and costs no credit. -/
def State.sendNull (s : State) (l : Nat) : State :=
  let k := s.link l
  ((s.modLink l (fun k => { k.tell with nullTx := k.nullTx + 1 })).countLink l cntTx).emit
    (.frame l (k.dress { type := 0, args := 0, payload := [] } (2 ^ 63 + k.nullTx)))

/-- Whether ACK or a total of credit is new since the last frame sent. -/
def LinkSt.news (k : LinkSt) : Bool := k.rxSeq != k.toldSeq || [0, 1, 2].any (fun c => Tbl.get 0 c k.freed != Tbl.get 0 c k.told)

/-- Everything that may be sent is sent; then NULL, the last choice of R291, where it has news for the partner. The NULL frames that fill the
rest of the stream and tell nothing new are not listed (log entry 35). -/
def State.sendQueued (s : State) (l : Nat) : State :=
  let k0 := s.link l
  let s := (State.pump l (k0.again.length + k0.queue.length) s).modLink l (fun k => k.noteStall k0 s.time)
  let k := s.link l
  if k.hears && k.news then s.sendNull l else s

/-- A frame, of a shipment where `rid` names its request, queued for a link and sent as soon as it may be. -/
def State.sendFor (s : State) (rid : Option Nat) (l type args : Nat) (payload : List Nat) : State :=
  (s.modLink l (fun k => { k with queue := k.queue ++ [{ type := type, args := args, payload := payload, rid := rid }] })).sendQueued l

/-- A frame of no shipment sent. -/
def State.sendFrame (s : State) (l type args : Nat) (payload : List Nat) : State := s.sendFor none l type args payload

/-- Zero bytes up to a whole number of link words. -/
def padWords (bs : List Nat) : List Nat := bs ++ List.replicate ((64 - bs.length % 64) % 64) 0

/-- An object queued as consecutive frames, the first with its length (R287), and sent as far as it may be. -/
def State.sendObject (s : State) (l type : Nat) (bs : List Nat) : State :=
  let parts := chunks (64 * lmax (s.link l).rate) bs.length (padWords bs)
  let fs := parts.zipIdx.map (fun x => ({ type := type, args := if x.2 = 0 then bs.length else 0, payload := x.1 } : TxFrame))
  (s.modLink l (fun k => { k with queue := k.queue ++ fs })).sendQueued l

/-! Leaving service (R297). -/

/-- The windows of a link that left service: its bit leaves each mask, and a window of no link is free. -/
def LinkGlob.dropLink (g : LinkGlob) (l : Nat) : LinkGlob :=
  { g with windows := Tbl.mapVals {} (fun _ w =>
      let m := w.links &&& (2 ^ 48 - 1 - 2 ^ l)
      if bit w.links l then (if m = 0 then {} else { w with links := m, awaiting := w.awaiting &&& (2 ^ 48 - 1 - 2 ^ l) }) else w) g.windows }

/-- Whether a link carries everything. -/
def LinkSt.live (k : LinkSt) : Bool := k.state == .inService || k.state == .slow

/-! Pages on their way to a partner (R309, R312) and stripes from one (R313). -/

/-- The partner's links of a group that may carry a shipment: in service or SLOW with SHIP_RECEIVE. -/
def State.usable (s : State) (group partner : Nat) : List Nat :=
  (maskList 48 (Tbl.get 0 group s.lglob.groups)).filter (fun l =>
    let k := s.link l
    k.live && bit k.pcaps 1 && k.partnerId == partner)

/-- The bytes of a page as a shipment sends them: header and payload, then zeros up to the slot size. -/
def State.pageBytes (s : State) (p slotBytes : Nat) : List Nat :=
  let n := 128 + (s.model (s.page p).mslot).block.payload
  memGet s.mem (s.slotAddr p) n ++ List.replicate (slotBytes - n) 0

/-- Whether a page is free of poison, so that a link may send it (R393). -/
def State.pageClean (s : State) (p : Nat) : Bool := (s.poisonIn (s.slotAddr p) (128 + (s.model (s.page p).mslot).block.payload)).isNone

/-- Bytes sent as WRITE frames to a partner's window from an offset on, for the shipment of a request where `rid` names one. -/
def State.writesFor (s : State) (rid : Option Nat) (l window off : Nat) (bs : List Nat) : State :=
  let n := 64 * lmax (s.link l).rate
  (chunks n bs.length bs).zipIdx.foldl (fun s x => s.sendFor rid l 0x10 (window + (off + n * x.2) * 256) (padWords x.1)) s

/-- Bytes of no shipment sent as WRITE frames. -/
def State.sendWrites (s : State) (l window off : Nat) (bs : List Nat) : State := s.writesFor none l window off bs

/-- A shipment's record changed. -/
def State.modShip (s : State) (id : Nat) (f : Shipment → Shipment) : State :=
  s.modLGlob (fun g => { g with ships := g.ships.map (fun x => if x.id == id then f x else x) })

/-- Page `k` of a granted shipment sent on link `l`, with its PAGE_MARK. -/
def State.sendPage (s : State) (x : Shipment) (window off4k k l : Nat) : State :=
  match x.pages[k]? with
  | none => s
  | some p =>
    if !s.pageClean p then s
    else
      let bs := s.pageBytes p x.slotBytes
      let s := s.writesFor (some x.rid) l window (4096 * off4k + k * x.slotBytes) bs
      let s := s.sendFor (some x.rid) l 0x33 (x.id + k * 2 ^ 32 + crc32c bs * 2 ^ 64) []
      s.modShip x.id (fun x => { x with sentOn := Tbl.set 0 k (l + 1) x.sentOn })

/-- Pages of a granted shipment that no link carries sent round-robin on the partner's usable links. -/
def State.sendOpen (s : State) (x : Shipment) : State :=
  match x.granted with
  | none => s
  | some (_, window, off4k) =>
    let ls := s.usable x.group x.partner
    let open_ := (List.range x.pages.length).filter (fun k => Tbl.get 0 k x.sentOn == 0)
    if ls = [] then s else open_.foldl (fun s k => s.sendPage x window off4k k (ls.getD (k % ls.length) 0)) s

/-- Pages of shipments that were assigned to a lost link lose it, and stripes of a fetch are given once to another link. -/
def State.reassign (s : State) (l : Nat) : State :=
  let s := s.modLGlob (fun g => { g with ships := g.ships.map (fun x => { x with sentOn := x.sentOn.filter (fun kv => kv.2 != l + 1) }) })
  let s := s.lglob.ships.foldl State.sendOpen s
  match s.lglob.fetch with
  | none => s
  | some f =>
    let others := f.have_.filter (fun m => m != l && bit (Tbl.get {} f.window s.lglob.windows).links m)
    match others.head? with
    | none => s
    | some m =>
      let lost := f.stripes.filter (fun x => x.link == l && x.crc.isNone && !x.moved)
      let s := s.modLGlob (fun g => { g with fetch := some { f with
        stripes := f.stripes.map (fun x => if x.link == l && x.crc.isNone && !x.moved then { x with link := m, moved := true } else x) } })
      lost.foldl (fun s x => s.sendFrame m 0x44 (f.window + x.offset * 2 ^ 8 + x.len * 2 ^ 56) []) s

/-- A link's change of state away from its session: keys, queues and the partner's declarations end. -/
def LinkSt.toState (k : LinkSt) (st : LState) (cause t : Nat) : LinkSt :=
  { k with state := st, cause := cause, since := t, rate := 3, waitUntil := none, kept := [], queue := [], again := [], shake := {}, keys := [],
           rekey := none, nextKeys := none, accepts := [], granted := [], serves := none, latch := [], stall := [], syncOk := false, pcaps := 0 }

/-- A link leaves for state `st` with a CAUSE of R314: windows are revoked for it and its shipment pages lose their link. -/
def State.leaveTo (s : State) (l : Nat) (st : LState) (cause : Nat) : State :=
  let was := (s.link l).live
  let s := s.modLink l (fun k => k.toState st cause s.time)
  let s := s.modSec (fun k => { k with
    verQ := k.verQ.filter (fun j => match j with | .cert m _ => m != l | .auth m => m != l)
    signQ := k.signQ.filter (fun j => match j with | .auth m => m != l | _ => true) })
  if was then (s.modLGlob (fun g => g.dropLink l)).reassign l else s

/-- The rates a link may use, highest first: rate code 0 is the highest (R284). -/
def LinkSt.allowed (k : LinkSt) : List Nat := maskList 3 k.rates.toNat

/-- Training starts at the highest allowed rate (R285). A link that is allowed no rate stays where it is. -/
def State.train (s : State) (l cause : Nat) : State :=
  match (s.link l).allowed with
  | [] => s
  | r :: _ => (s.leaveTo l .training cause).modLink l (fun k => { k with trainRate := r })

/-- Whether a retrain has anything to train: a link that is in service or coming into it. -/
def LinkSt.mayTrainAgain (k : LinkSt) : Bool := k.live || k.state == .handshake || k.state == .training

/-- Training begun again. -/
def State.trainAgain (s : State) (l : Nat) : State := s.train l (s.link l).cause

/-! Hostile events (R298). -/

/-- A hostile event of a partner: counted in its half-open window; at QUAR_LIMIT the link is quarantined. -/
def State.hostile (s : State) (l : Nat) : State :=
  let k := s.link l
  let g := s.lglob
  let fresh := decide (k.hostCount = 0 ∨ k.hostStart + 100000 * g.quarWindowMs ≤ s.time)
  let n := if fresh then 1 else k.hostCount + 1
  let s := s.modLink l (fun k => { k with hostCount := n, hostStart := if fresh then s.time else k.hostStart })
  if g.quarLimit ≤ n then
    ((s.leaveTo l .quarantined 5).modLink l (fun k => { k with quars := satAdd 8 k.quars 1, hostCount := 0 })).report
      { code := 0x0812, kind := .link, unit := l }
  else s

/-- A malformed or unearned frame: MALFORMED and a hostile event (R269, R289). -/
def State.malformed (s : State) (l : Nat) : State := (s.countLink l cntMal).hostile l

/-! Receiving (R289). -/

/-- REPLAY_REQ for the expected SEQ; after a SEQ gap at most one in 2 µs. -/
def State.askReplay (s : State) (l : Nat) (limited : Bool) : State :=
  let k := s.link l
  let soon := match k.lastReplay with | some t => decide (s.time < t + 200) | none => false
  if limited && soon then s
  else (s.modLink l (fun k => { k with lastReplay := some s.time, replaysFor := k.replaysFor + 1 })).sendFrame l 0x08 k.rxSeq []

/-- A received total of credit taken unless older, modulo 2^16, than the latest (R290). The latest is held without wrapping. -/
def newerCredit (latest cr : Nat) : Nat :=
  let d := (cr + 65536 - latest % 65536) % 65536
  if d < 32768 then latest + d else latest

/-- ACK and credits of an accepted frame (R287, R290): acknowledged frames leave the replay buffer. -/
def LinkSt.takeAck (k : LinkSt) (h : Header) : LinkSt :=
  let a := if h.ack = 2 ^ 64 - 1 then k.ack else (match k.ack with | some x => some (max x h.ack) | none => some h.ack)
  let c := Tbl.set 0 2 (newerCredit (Tbl.get 0 2 k.credit) h.crBulk) (Tbl.set 0 1 (newerCredit (Tbl.get 0 1 k.credit) h.crCtrl)
    (Tbl.set 0 0 (newerCredit (Tbl.get 0 0 k.credit) h.crSync) k.credit))
  { k with ack := a, credit := c, kept := (match a with | some x => k.kept.filter (fun f => decide (x < f.seq)) | none => k.kept) }

/-- What becomes of a received frame (R289). -/
inductive Verdict where
  | malformed
  | replay
  | badTag
  | gap
  | dropped
  | accepted
deriving DecidableEq, Repr

/-- Words of a class's receive buffer that the device advertises (R291). -/
def ownBuf (cls : Nat) : Nat := if cls = 0 then 64 else if cls = 1 then 1024 else 8192

/-- Whether a data frame is longer than its class's credit allows the partner: the buffer and the CR total last sent, less what has come (R291). -/
def LinkSt.overCredit (k : LinkSt) (h : Header) : Bool :=
  decide (ownBuf h.cls + Tbl.get 0 h.cls k.told < Tbl.get 0 h.cls k.got + h.len + 2)

/-- The rows of R289 applied from the top, but that the FEC report classifies a frame first (R298); with R292 before the partner's HELLO, which
counts as the first row, and R296 for old key generations. -/
def LinkSt.judge (k : LinkSt) (f : Frame) : Verdict :=
  let h := f.head
  let null := h.type == 0
  let oldKey := h.enc && k.live && h.kg != k.kg % 4 && h.kg != (k.kg + 3) % 4
  if !f.fecOk then .replay
  else if !k.legal f || (!null && k.shake.peer.isNone && h.type != 1) then .malformed
  else if h.enc && !f.tagOk && !oldKey then .badTag
  else if !null && k.overCredit h then .malformed
  else if h.ack ≠ 2 ^ 64 - 1 ∧ k.txSeq ≤ h.ack then .malformed
  else if null then
    if oldKey then .dropped else (match k.nullRx with
     | some x => if h.seq % 2 ^ 63 ≤ x then .malformed else .accepted
     | none => .accepted)
  else if k.rxSeq < h.seq then .gap
  else if h.seq < k.rxSeq ∨ oldKey = true then .dropped
  else .accepted

/-- The words of a received data frame, accepted or discarded: they came out of their class's credit and are freed at once (R289, R291). -/
def LinkSt.took (k : LinkSt) (h : Header) : LinkSt :=
  if h.type = 0 ∨ 3 ≤ h.cls then k
  else { k with got := Tbl.upd 0 h.cls (fun n => n + h.len + 2) k.got, freed := Tbl.upd 0 h.cls (fun n => n + h.len + 2) k.freed }

/-- A received frame: discarded as R289 says, or accepted and given to `act`. Then what it freed is told. -/
def State.receive (s : State) (l : Nat) (f : Frame) (act : State → State) : State :=
  let k := s.link l
  let h := f.head
  if !s.alive || !k.hears then s
  else
    let v := k.judge f
    let s := (s.countLinkBy l cntCorr f.corr).modLink l (fun k => k.took h)
    let s := match v with
      | .malformed => s.malformed l
      | .replay => (s.countLink l cntFec).askReplay l false
      | .badTag => ((s.countLink l cntTag).askReplay l false).hostile l
      | .gap => s.askReplay l true
      | .dropped => s
      | .accepted =>
        act ((s.modLink l (fun k =>
          let k := k.takeAck h
          { k with
            lastAccept := s.time
            rxSeq := if h.type = 0 then k.rxSeq else k.rxSeq + 1
            keyRx := k.keyRx + b2n (h.enc && h.type != 0 && h.kg == k.kg % 4)
            replaysFor := if h.type = 0 then k.replaysFor else 0
            nullRx := if h.type = 0 then some (h.seq % 2 ^ 63) else k.nullRx })).countLink l cntRx)
    s.sendQueued l

/-- A command that carries a frame of one TYPE. -/
def frameCmd (type : Nat) (f : Frame) (after : State) : Host.Outcome State Fault Refusal :=
  if f.head.type = type then .next after else .fault .illFormed

/-- Types that stand in a handshake only: accepted in another state they are discarded as the first row of R289 says. -/
def State.receiveIn (s : State) (l : Nat) (f : Frame) (ok : LinkSt → Bool) (act : State → State) : State :=
  s.receive l f (fun s => if ok (s.link l) then act s else s.malformed l)

/-- NULL (R289): ACK and credits only. -/
def execNull (l : Fin 48) (f : Frame) (s : State) : Host.Outcome State Fault Refusal :=
  frameCmd 0x00 f (s.receive l f id)

/-- Frames of the replay buffer from SEQ `q` on, to be sent again in order before any other frame (R290). -/
def State.resend (s : State) (l q : Nat) : State :=
  (s.countLink l cntReplay).modLink l (fun k => { k with again := k.kept.filter (fun f => decide (q ≤ f.seq)) })

/-- REPLAY_REQ (R290). -/
def execReplayReq (l : Fin 48) (f : Frame) (s : State) : Host.Outcome State Fault Refusal :=
  let q := fld f.head.args 0 64
  frameCmd 0x08 f (s.receive l f (fun s =>
    (s.modLink l (fun k => { k with
      replayCount := if k.replayAsked = q then k.replayCount + 1 else 1, replayAsked := q })).resend l q))

end Sys2Proof.Machine
end

