-- ==== Sys2Proof/Machine/Handshake.lean ====
section
/-! DEFINITION. Link training (R285), the handshake and its certificates (R294, R295, R370–R373), rekeys (R296) and the states of a link
(R297–R299). -/

namespace Sys2Proof.Machine

/-! Certificates (R370). -/

/-- A certificate of a chain: body fields, body bytes, signature bytes and the whole. -/
structure Cert where
  subject : List Nat
  issuer : List Nat
  sigAlg : Nat
  kind : Nat
  version : Nat
  magic : Nat
  body : List Nat
  sig : List Nat
deriving DecidableEq, Repr

/-- Signature bytes by SIG_ALG. -/
def sigBytes (alg : Nat) : Nat := if alg = 1 then 29792 else 49856

/-- A certificate read from the front of a chain. -/
def Cert.ofBytes (bs : List Nat) : Cert :=
  let body := bs.take 256
  let v := ofLeBytes (body.take 16)
  let alg := fld v 20 4
  { subject := (body.drop 192).take 64, issuer := (body.drop 160).take 32, sigAlg := alg, kind := fld v 16 2, version := fld v 8 8,
    magic := fld v 0 8, body := body, sig := (bs.drop 256).take (sigBytes alg) }

/-- The certificates of a chain, at most `n`; none where bytes are left over or missing. -/
def certsOf : Nat → List Nat → Option (List Cert)
  | 0, bs => if bs = [] then some [] else none
  | n + 1, bs =>
    if bs = [] then some []
    else
      let c := Cert.ofBytes bs
      let len := 256 + sigBytes c.sigAlg
      if bs.length < len then none else (certsOf n (bs.drop len)).map (fun l => c :: l)

/-- Subject ID of a public key (R370). -/
def subjectId (key : List Nat) : List Nat := shake256 32 key

/-- Whether each certificate is issued by the next (R372). -/
def issuedByNext : List Cert → Bool
  | [] => true
  | [_] => true
  | a :: b :: t => a.issuer == subjectId b.subject && issuedByNext (b :: t)

/-- The checks of R372 other than the signatures. -/
def Sec.chainLegal (k : Sec) (cs : List Cert) : Bool :=
  (decide (1 ≤ cs.length ∧ cs.length ≤ 3))
    && cs.all (fun c => c.magic == 0x43 && c.version == 1 && (c.sigAlg == 1 || c.sigAlg == 2) && c.kind != 0)
    && (match cs with | [] => false | leaf :: rest => leaf.kind == 3 && rest.all (fun c => c.kind == 2))
    && issuedByNext cs
    && (match cs.getLast? with | some c => k.anchors.contains c.issuer | none => false)
    && cs.all (fun c => !k.deny.contains (subjectId c.subject))

/-- The key under which certificate `i` of a chain is signed. -/
def issuerKey (cs : List Cert) (i : Nat) : List Nat :=
  match cs[i + 1]? with
  | some c => c.subject
  | none => match cs[i]? with | some c => Config.keyOf c.issuer | none => []

/-- The cache entry of a certificate (R373): digest of the whole and the issuer's subject ID. -/
def Cert.mark (c : Cert) : List Nat × List Nat := (shake256 64 (c.body ++ c.sig), c.issuer)

/-- An entry put at the front of the cache of 64. -/
def Sec.remember (k : Sec) (c : Cert) : Sec := { k with cache := (c.mark :: k.cache.erase c.mark).take 64 }

/-- Whether a certificate is taken from the cache. -/
def Sec.knows (k : Sec) (c : Cert) : Bool := c.kind == 2 && k.cache.contains c.mark

/-- SK.seed, SK.prf and PK.seed of the device identity key (R366). -/
def dikSeeds : List Nat := shake256 96 (Config.fuseUds ++ ascii "SPRJ-DIK")

/-- The DIK's public key: PK.seed, then PK.root (R366, R370). -/
def dikPublic : List Nat := dikSeeds.drop 64 ++ Config.slhRoot dikSeeds

/-- Whether the module holds a device identity (R377). -/
def Sec.hasDik (k : Sec) : Bool := !k.udsKilled && (k.lifecycle == 1 || k.lifecycle == 2)

/-- A certificate of KIND `kind` with SIG_ALG 1 (R370): subject key, issuer's subject ID, name, and PRODUCT and SERIAL as one field. -/
def certBytes (kind subject issuer name serial : Nat) (sig : Nat → BitVec 8) : List Nat :=
  leBytes 256 (subject * 2 ^ 1536 + issuer * 2 ^ 1280 + name * 2 ^ 1024 + serial * 2 ^ 48 + 2 ^ 20 + kind * 2 ^ 16 + 2 ^ 8 + 0x43)
    ++ (List.range (sigBytes 1)).map (fun i => (sig i).toNat)

/-- The subject key that the device certificate names. -/
def deviceSubject : List Nat := leBytes 64 (Config.certSubject 0).toNat

/-- The device certificate (R371), issued by the product CA. -/
def deviceCert : List Nat :=
  certBytes 3 (Config.certSubject 0).toNat (ofLeBytes (subjectId (leBytes 64 (Config.certSubject 1).toNat))) (Config.certName 0).toNat
    (Config.fuseSerial.toNat * 2 ^ 16 + 0x9620) (Config.certSig 0)

/-- The product CA certificate (R371), issued by the Pytokai root. -/
def productCert : List Nat :=
  certBytes 2 (Config.certSubject 1).toNat Config.rootId.toNat (Config.certName 1).toNat Config.caSerial.toNat (Config.certSig 1)

/-- What the device sends in a CERT object: 60,096 bytes, never the root (R371). -/
def deviceChain : List Nat := deviceCert ++ productCert

/-! Leaving and entering states. -/

/-- A link put in QUARANTINED (R295, R298). -/
def State.quarantine (s : State) (l cause : Nat) : State :=
  ((s.leaveTo l .quarantined cause).modLink l (fun k => { k with quars := satAdd 8 k.quars 1, hostCount := 0 })).report
    { code := 0x0812, kind := .link, unit := l }

/-- A link put in FAULTY (R299): its self-test is due. -/
def State.faulty (s : State) (l cause : Nat) : State :=
  let s := s.leaveTo l .faulty cause
  s.modInteg (fun g => { g with tests := g.tests ++ [{ act := .linkTest l, kind := .link, unit := l, code := 0, addr := 0, seq := 0, detail := 0 }] })

/-- HELLO's payload word for a nonce (R291, R294): the device advertises 64, 1,024 and 8,192 words. -/
def helloWord (nonce caps : Nat) : List Nat :=
  leBytes 64 (nonce % 2 ^ 256 * 2 ^ 256 + 8192 * 2 ^ 208 + 1024 * 2 ^ 192 + 64 * 2 ^ 176 + caps * 2 ^ 168 + 2 ^ 8)

/-- CAPS that the device advertises on a link: SHIP_SEND always, SHIP_RECEIVE never, the others as the image allows (R294). -/
def LinkSt.ownCaps (k : LinkSt) : Nat := 1 + (k.caps.toNat &&& 0x1C)

/-- A HELLO with a fresh nonce. -/
def State.sendHello (s : State) (l : Nat) : State :=
  let (r, s) := s.random
  let nonce := r.toNat % 2 ^ 256
  let w := helloWord nonce (s.link l).ownCaps
  (s.modLink l (fun k => { k with shake := { k.shake with nonce := nonce, helloTx := w } })).sendFrame l 0x01 0 w

/-- SIGNAL_DETECT (R285, R297): an enabled link without signal begins training. -/
def execSignalDetect (l : Fin 48) (s : State) : Host.Outcome State Fault Refusal :=
  let k := s.link l
  if !s.alive || k.state != .absent || k.waitUntil.isSome then .next s else .next (s.train l k.cause)

/-- SIGNAL_LOSS (R297). A third quarantine holds on without signal (R298). -/
def execSignalLoss (l : Fin 48) (s : State) : Host.Outcome State Fault Refusal :=
  let k := s.link l
  if !s.alive || k.state == .disabled || k.state == .absent || k.state == .retired || (k.state == .quarantined && decide (3 ≤ k.quars)) then .next s
  else .next (s.leaveTo l .absent 1)

/-- TRAINING_TIMEOUT (R285): 500 ms without FEC lock: the next lower allowed rate, or a wait of 1 s. -/
def execTrainingTimeout (l : Fin 48) (s : State) : Host.Outcome State Fault Refusal :=
  let k := s.link l
  if !s.alive || k.state != .training || k.waitUntil.isSome || decide (s.time < k.since + 50000000) then .next s
  else match k.allowed.find? (fun r => decide (k.trainRate < r)) with
    | some r => .next (s.modLink l (fun k => { k with trainRate := r, since := s.time }))
    | none => .next (s.modLink l (fun k => { k with waitUntil := some (s.time + 100000000), cause := 2 }))

/-- TRAINING_RESTART (R285): after the wait, training starts again at the highest allowed rate. -/
def execTrainingRestart (l : Fin 48) (s : State) : Host.Outcome State Fault Refusal :=
  let k := s.link l
  match k.waitUntil with
  | some t => if !s.alive || k.state != .training || decide (s.time < t) then .next s else .next (s.train l k.cause)
  | none => .next s

/-- FEC_LOCK (R292, R294, R297): SEQ, credits and keys start anew, and HELLO goes out. -/
def execFecLock (l : Fin 48) (s : State) : Host.Outcome State Fault Refusal :=
  let k := s.link l
  if !s.alive || k.state != .training || k.waitUntil.isSome then .next s
  else
    let s := s.modLink l (fun k => { k with
      state := .handshake, since := s.time, rate := k.trainRate, txSeq := 0, rxSeq := 0, ack := none, nullRx := none, kept := [], queue := []
      again := [], nullTx := 0, toldSeq := 0, told := [], sent := [], got := [], freed := [], credit := [], buf := [], stall := [], clearSince := s.time, lastReplay := none, replaysFor := 0
      replayAsked := 0, replayCount := 0, lastAccept := s.time, kg := 0, keys := [], keySince := s.time, keyFrames := 0, keyRx := 0, rekey := none
      nextKeys := none
      shake := { start := s.time } })
    .next (s.sendHello l)

/-! The handshake (R294). -/

/-- Whether a partner's HELLO is refused (R291, R295). -/
def LinkSt.refusesHello (k : LinkSt) (w : Nat) : Bool :=
  let m := lmax k.rate
  let bulk := fld w 208 16
  let ctrl := fld w 192 16
  let sync := fld w 176 16
  let caps := fld w 168 8
  fld w 8 8 != 1 || decide (sync < 4 ∨ ctrl < 2 * (m + 2) ∨ bulk < m + 2 ∨ 32768 ≤ sync ∨ 32768 ≤ ctrl ∨ 32768 ≤ bulk)
    || decide (caps &&& k.reqCaps.toNat ≠ k.reqCaps.toNat)

/-- The partner's HELLO. -/
def State.takeHello (s : State) (l : Nat) (bs : List Nat) : State :=
  let k := s.link l
  let w := ofLeBytes bs
  let nonce := fld w 256 256
  if k.shake.peer.isSome then s.malformed l
  else if k.refusesHello w then
    ((s.leaveTo l .absent 3).modLink l (fun k => { k with waitUntil := some (s.time + 1000000000) })).report { code := 0x0813, kind := .link, unit := l }
  else
    let s := s.modLink l (fun k => { k with
      buf := [(0, fld w 176 16), (1, fld w 192 16), (2, fld w 208 16)]
      shake := { k.shake with helloRx := bs, pcaps := fld w 168 8, peer := if nonce = k.shake.nonce then none else some nonce } })
    if nonce = k.shake.nonce then s.sendHello l
    else
      let (r, s) := s.random
      let ek := Config.kemKey r
      let s := s.modLink l (fun k => { k with initiator := decide (nonce < k.shake.nonce), shake := { k.shake with myEk := ek, kemRand := r } })
      (s.sendObject l 0x02 deviceChain).sendObject l 0x03 ek

/-- HELLO (R294). -/
def execHello (l : Fin 48) (f : Frame) (s : State) : Host.Outcome State Fault Refusal :=
  frameCmd 0x01 f (s.receiveIn l f (fun k => k.state == .handshake) (fun s => s.takeHello l f.bytes))

/-- Whether a handshake has all that T covers. -/
def Shake.complete (k : Shake) : Bool := k.peer.isSome && k.chain.isSome && k.ek.isSome && k.ct.isSome && !k.myCt.isEmpty

/-- T (R294): HELLO, CERT, KEM_EK and KEM_CT, the initiator's first in each step. -/
def transcriptOf (k : LinkSt) : List Nat :=
  let h := k.shake
  let step := fun (mine theirs : List Nat) => if k.initiator then mine ++ theirs else theirs ++ mine
  shake256 64 (step h.helloTx h.helloRx ++ step deviceChain (h.chain.getD []) ++ step h.myEk (h.ek.getD []) ++ step h.myCt (h.ct.getD []))

/-- The 104 key bytes of a handshake (R294). -/
def keysOf (k : LinkSt) (t : List Nat) : List Nat :=
  let h := k.shake
  let si := if k.initiator then h.mySecret else h.peerSecret
  let sr := if k.initiator then h.peerSecret else h.mySecret
  shake256 104 (si ++ sr ++ t ++ ascii "YALAST1 KEYS")

/-- Once everything that T covers has been sent and received: T, the keys, and the AUTH signature queued. -/
def State.agree (s : State) (l : Nat) : State :=
  let k := s.link l
  if !k.shake.complete || !k.shake.transcript.isEmpty then s
  else
    let t := transcriptOf k
    (s.modLink l (fun k => { k with keys := keysOf k t, shake := { k.shake with transcript := t } })).modSec
      (fun q => { q with signQ := q.signQ ++ [.auth l] })

/-- A frame of an object (R287): the object when it is complete, none while it is not; `false` where its length is not legal. -/
def State.takeObject (s : State) (l type : Nat) (f : Frame) (legal : Nat → Bool) : Option (List Nat) × Bool × State :=
  let k := s.link l
  let (len, got) := Tbl.get (0, []) type k.shake.objs
  let len := if got = [] then fld f.head.args 0 32 else len
  let got := got ++ f.bytes
  if !legal len then (none, false, s)
  else if len ≤ got.length then
    (some (got.take len), true, s.modLink l (fun k => { k with shake := { k.shake with objs := Tbl.set (0, []) type (0, []) k.shake.objs } }))
  else (none, true, s.modLink l (fun k => { k with shake := { k.shake with objs := Tbl.set (0, []) type (len, got) k.shake.objs } }))

/-- An object frame: malformed by its length, unfinished, or complete. -/
def State.onObject (s : State) (l type : Nat) (f : Frame) (legal : Nat → Bool) (act : State → List Nat → State) : State :=
  match s.takeObject l type f legal with
  | (_, false, s) => s.malformed l
  | (none, true, s) => s
  | (some bs, true, s) => act s bs

/-- The partner's chain (R372): refused at once, or its signatures queued but for those in the cache. -/
def State.takeChain (s : State) (l : Nat) (bs : List Nat) : State :=
  match certsOf 3 bs with
  | none => s.quarantine l 4
  | some cs =>
    if !s.sec.chainLegal cs then s.quarantine l 4
    else
      let todo := (cs.zipIdx.filter (fun x => !s.sec.knows x.1)).map Prod.snd
      let s := s.modSec (fun k =>
        let k := cs.foldl (fun k c => if k.knows c then k.remember c else k) k
        { k with verQ := k.verQ ++ todo.map (fun i => .cert l i) })
      (s.modLink l (fun k => { k with shake := { k.shake with chain := some bs, chainOk := todo.isEmpty } })).agree l

/-- CERT (R294). -/
def execCert (l : Fin 48) (f : Frame) (s : State) : Host.Outcome State Fault Refusal :=
  frameCmd 0x02 f (s.receiveIn l f (fun k => k.state == .handshake && k.shake.chain.isNone)
    (fun s => s.onObject l 0x02 f (fun n => decide (0 < n ∧ n ≤ 150336)) (fun s bs => s.takeChain l bs)))

/-- The partner's encapsulation key in a handshake: the answer is KEM_CT. -/
def State.takeEk (s : State) (l : Nat) (bs : List Nat) : State :=
  let (r, s) := s.random
  let (ct, sec) := Config.kemEncaps bs r
  ((s.modLink l (fun k => { k with shake := { k.shake with ek := some bs, myCt := ct, mySecret := sec } })).sendObject l 0x04 ct).agree l

/-- The keys of a rekey (R296): from the new secret, the old rekey secret and T. -/
def LinkSt.rekeys (k : LinkSt) (secret : List Nat) : List Nat :=
  shake256 104 (secret ++ (k.keys.drop 72).take 32 ++ k.shake.transcript)

/-- KEM_EK (R294), or the start of a rekey at the responder (R296), whose new keys take effect behind its KEM_CT. -/
def execKemEk (l : Fin 48) (f : Frame) (s : State) : Host.Outcome State Fault Refusal :=
  frameCmd 0x03 f (s.receiveIn l f (fun k => (k.state == .handshake && k.shake.ek.isNone) || (k.live && !k.initiator && k.nextKeys.isNone))
    (fun s => s.onObject l 0x03 f (fun n => n == 1568) (fun s bs =>
      if (s.link l).live then
        let (r, s) := s.random
        let (ct, sec) := Config.kemEncaps bs r
        (s.modLink l (fun k => { k with rekey := some s.time, nextKeys := some (k.rekeys sec) })).sendObject l 0x04 ct
      else s.takeEk l bs)))

/-- KEM_CT (R294), or the answer of a rekey at the initiator (R296). -/
def execKemCt (l : Fin 48) (f : Frame) (s : State) : Host.Outcome State Fault Refusal :=
  frameCmd 0x04 f (s.receiveIn l f (fun k => (k.state == .handshake && k.shake.ct.isNone) || (k.live && k.initiator && k.rekey.isSome))
    (fun s => s.onObject l 0x04 f (fun n => n == 1568) (fun s bs =>
      let sec := Config.kemDecaps (s.link l).shake.kemRand bs
      if (s.link l).live then s.modLink l (fun k => k.newKeys (k.rekeys sec) s.time)
      else (s.modLink l (fun k => { k with shake := { k.shake with ct := some bs, peerSecret := sec } })).agree l)))

/-- The bytes that AUTH signs, by role (R294). -/
def authBytes (initiator : Bool) (t : List Nat) : List Nat := ascii "YALAST1" ++ [if initiator then 0x49 else 0x52] ++ t

/-- FINISH goes out once the own AUTH has been sent and the partner's has verified. -/
def State.sendFinish (s : State) (l : Nat) : State :=
  let k := s.link l
  if k.shake.authSent && k.shake.authOk && !k.shake.finSent then
    (s.modLink l (fun k => { k with shake := { k.shake with finSent := true } })).sendFrame l 0x06 0 k.shake.transcript
  else s

/-- The link enters service once FINISH was accepted and the partner's AUTH has verified (R285, R294, R297). -/
def State.enterService (s : State) (l : Nat) : State :=
  let k := s.link l
  if k.shake.finish && k.shake.authOk then
    let leaf := match certsOf 3 (k.shake.chain.getD []) with | some (c :: _) => c.subject | _ => []
    let s := s.modLink l (fun k => { k with
      state := .inService, since := s.time, lastAccept := s.time, pcaps := k.shake.pcaps
      syncOk := bit k.ownCaps 2 && bit k.shake.pcaps 2, keyGen := 0, keySince := s.time, partnerId := ofLeBytes (shake256 8 leaf) })
    let s := s.lglob.ships.foldl State.sendOpen s
    if k.allowed.head? = some k.rate then s else s.report { code := 0x0810, kind := .link, unit := l }
  else s

/-- AUTH_SIGNED (R294, R369): the job at the head of the signing queue is this link's, and leaves it; its signature goes out while the link still
shakes hands and the DIK is there (R386). -/
def execAuthSigned (l : Fin 48) (s : State) : Host.Outcome State Fault Refusal :=
  match s.sec.signQ with
  | .auth m :: rest =>
    if m ≠ l.val then .next s
    else if !s.alive || (s.link l).state != .handshake || !s.sec.hasDik then .next (s.modSec (fun k => { k with signQ := rest }))
    else
      let s := s.modSec (fun k => { k with signQ := rest })
      let (r, s) := s.random
      let k := s.link l
      let sig := Config.slhSign dikSeeds [] (authBytes k.initiator k.shake.transcript) r
      let s := s.sendObject l 0x05 sig
      .next ((s.modLink l (fun k => { k with shake := { k.shake with authSent := true } })).sendFinish l)
  | _ => .next s

/-- AUTH (R294): queued for verification. -/
def execAuth (l : Fin 48) (f : Frame) (s : State) : Host.Outcome State Fault Refusal :=
  frameCmd 0x05 f (s.receiveIn l f (fun k => k.state == .handshake && k.shake.auth.isNone && !k.shake.transcript.isEmpty)
    (fun s => s.onObject l 0x05 f (fun n => n == 49856) (fun s bs =>
      (s.modLink l (fun k => { k with shake := { k.shake with auth := some bs } })).modSec (fun q => { q with verQ := q.verQ ++ [.auth l] }))))

/-- FINISH (R294, R295): accepted only with the own T as payload. -/
def execFinish (l : Fin 48) (f : Frame) (s : State) : Host.Outcome State Fault Refusal :=
  frameCmd 0x06 f (s.receiveIn l f (fun k => k.state == .handshake && !k.shake.finish && !k.shake.transcript.isEmpty)
    (fun s =>
      if f.bytes = (s.link l).shake.transcript then
        (s.modLink l (fun k => { k with shake := { k.shake with finish := true } })).enterService l
      else s.quarantine l 4))

/-- A certificate of a chain whose signature was verified. -/
def State.certDone (s : State) (l i : Nat) : State :=
  let k := s.link l
  match certsOf 3 (k.shake.chain.getD []) with
  | none => s
  | some cs => match cs[i]? with
    | none => s
    | some c =>
      if Config.slhVerify (issuerKey cs i) (ascii "SPRJ-CERT") c.body c.sig then
        let s := if c.kind = 2 then s.modSec (fun q => q.remember c) else s
        let open_ := s.sec.verQ.any (fun j => match j with | .cert m _ => m == l | _ => false)
        s.modLink l (fun k => { k with shake := { k.shake with chainOk := !open_ } })
      else s.quarantine l 4

/-- The partner's AUTH whose signature was verified. -/
def State.authDone (s : State) (l : Nat) : State :=
  let k := s.link l
  let leaf := match certsOf 3 (k.shake.chain.getD []) with | some (c :: _) => c.subject | _ => []
  if k.shake.chainOk && Config.slhVerify leaf [] (authBytes (!k.initiator) k.shake.transcript) (k.shake.auth.getD []) then
    ((s.modLink l (fun k => { k with shake := { k.shake with authOk := true } })).sendFinish l).enterService l
  else s.quarantine l 4

/-- VERIFICATION_DONE (R369, R373): the job at the head of the verification queue. -/
def execVerificationDone (s : State) : Host.Outcome State Fault Refusal :=
  match s.sec.verQ with
  | [] => .next s
  | j :: rest =>
    if !s.alive || s.sec.token.isSome then .next s
    else
      let s := s.modSec (fun k => { k with verQ := rest })
      match j with
      | .cert l i => .next (s.certDone l i)
      | .auth l => .next (s.authDone l)

/-- HANDSHAKE_TIMEOUT (R295): 200 ms after the first HELLO. -/
def execHandshakeTimeout (l : Fin 48) (s : State) : Host.Outcome State Fault Refusal :=
  let k := s.link l
  if !s.alive || k.state != .handshake || decide (s.time < k.shake.start + 20000000) then .next s else .next (s.train l 7)

/-- HANDSHAKE_REFUSED_RETRY (R295): 10 s after 0x0813. -/
def execHandshakeRefusedRetry (l : Fin 48) (s : State) : Host.Outcome State Fault Refusal :=
  let k := s.link l
  match k.waitUntil with
  | some t => if !s.alive || k.state != .absent || decide (s.time < t) then .next s else .next (s.train l k.cause)
  | none => .next s

/-- REKEY_START (R296): 2^32 data frames in one direction or REKEY_S seconds under one key, at the initiator. -/
def execRekeyStart (l : Fin 48) (s : State) : Host.Outcome State Fault Refusal :=
  let k := s.link l
  let due := decide (2 ^ 32 ≤ max k.keyFrames k.keyRx ∨ k.keySince + 100000000 * s.lglob.rekeyS ≤ s.time)
  if !s.alive || !k.live || !k.initiator || k.rekey.isSome || !due then .next s
  else
    let (r, s) := s.random
    .next ((s.modLink l (fun k => { k with rekey := some s.time, shake := { k.shake with kemRand := r } })).sendObject l 0x03 (Config.kemKey r))

/-- REKEY_TIMEOUT (R296): not complete within 10 ms. -/
def execRekeyTimeout (l : Fin 48) (s : State) : Host.Outcome State Fault Refusal :=
  let k := s.link l
  match k.rekey with
  | some t => if !s.alive || !k.live || decide (s.time < t + 1000000) then .next s else .next (s.faulty l 6)
  | none => .next s

/-! Faults, SLOW and quarantine (R297–R299). -/

/-- LIVENESS_TIMEOUT (R299): no frame accepted for 100 µs. -/
def execLivenessTimeout (l : Fin 48) (s : State) : Host.Outcome State Fault Refusal :=
  let k := s.link l
  if !s.alive || !k.live || decide (s.time < k.lastAccept + 10000) then .next s else .next (s.faulty l 7)

/-- FEC_UNCORR_LIMIT (R299): `n` uncorrectable codewords in a window of 1 ms. -/
def execFecUncorrLimit (l : Fin 48) (n : Nat) (s : State) : Host.Outcome State Fault Refusal :=
  let k := s.link l
  if !s.alive || !k.live || decide (n < 16) then .next s else .next (s.faulty l 6)

/-- REPLAY_NO_PROGRESS (R299): three REPLAY_REQs for one SEQ, sent or received, without progress. -/
def execReplayNoProgress (l : Fin 48) (s : State) : Host.Outcome State Fault Refusal :=
  let k := s.link l
  if !s.alive || !k.live || decide (k.replaysFor < 3 ∧ k.replayCount < 3) then .next s else .next (s.faulty l 6)

/-- CREDIT_STALL (R297): a class with queued frames has had no credit for SLOW_US. -/
def execCreditStall (l : Fin 48) (cls : Fin 3) (s : State) : Host.Outcome State Fault Refusal :=
  let k := s.link l
  let t := Tbl.get 0 cls.val k.stall
  if !s.alive || k.state != .inService || t == 0 || decide (s.time < t - 1 + 100 * s.lglob.slowUs) then .next s
  else .next ((s.modLink l (fun k => { k with state := .slow })).report { code := 0x0811, kind := .link, unit := l })

/-- SLOW_EXIT (R297): every queued frame has been sent within its credit for 10 ms. -/
def execSlowExit (l : Fin 48) (s : State) : Host.Outcome State Fault Refusal :=
  let k := s.link l
  if !s.alive || k.state != .slow || !k.queue.isEmpty || !k.again.isEmpty || decide (s.time < k.clearSince + 1000000) then .next s
  else .next (s.modLink l (fun k => { k with state := .inService }))

/-- QUARANTINE_HOLD_EXPIRY (R297, R298): QUAR_HOLD_S, but not after the third quarantine. -/
def execQuarantineHoldExpiry (l : Fin 48) (s : State) : Host.Outcome State Fault Refusal :=
  let k := s.link l
  if !s.alive || k.state != .quarantined || decide (3 ≤ k.quars ∨ s.time < k.since + 100000000 * s.lglob.quarHoldS) then .next s
  else .next (s.train l k.cause)

/-- A retrain (R402, R403): with LINK(l) free it takes the key, which its end releases, and the link trains; one that meets the link's test is
dropped, and any other waits for the key. -/
def State.retrain (s : State) (l : Nat) : State :=
  let mine := fun (a : Activity) => a.groups.contains (84 + l)
  if s.integ.held.any (fun h => h.act == .linkTest l) then s
  else if s.integ.held.any (fun h => mine h.act) || s.integ.waiting.any mine then
    s.modInteg (fun g => { g with waiting := g.waiting ++ [.linkRetrain l] })
  else (s.modInteg (fun g => { g with held := g.held ++ [{ act := .linkRetrain l, since := s.time }] })).trainAgain l

/-- The link's register at 0x010 written with legal values (R297, R314, R402): ENABLE, RETRAIN, QUAR_RELEASE. A retrain during the
link's test is dropped (R403). -/
def State.linkControl (s : State) (l v : Nat) : State :=
  let k := s.link l
  let on := bit v 0
  if on = false then
    let s := s.modLink l (fun k => { k with enable := false })
    if k.state = .retired ∨ k.state = .disabled then s else s.leaveTo l .disabled 9
  else
    let s := s.modLink l (fun k => { k with enable := true, state := if k.state = .disabled then .absent else k.state })
    let k := s.link l
    if bit v 1 && k.state == .quarantined then s.train l k.cause
    else if bit v 2 && k.mayTrainAgain then s.retrain l
    else s

end Sys2Proof.Machine
end

