-- ==== Sys2Proof/Machine/Owners.lean ====
section
/-! DEFINITION. Resource owners at run time (R415, R416). -/

namespace Sys2Proof.Machine

/-- First 4 KiB unit of the interleaved view (R29). -/
def ilvUnit : Nat := 0x4000000

/-- Units of 4 KiB in a stack. -/
def stackUnits : Nat := 0x600000

/-- First unit of a stack's reserved top 8 MiB (R184). -/
def reservedUnit : Nat := 0x5FF800

/-- Where the run of owned units ends that holds unit `j` of stack `m`; none where the entry does not hold it. An interleaved granule g
is unit ⌊g/6⌋ of stack g mod 6. -/
def Owner.runEnd (o : Owner) (m j : Nat) : Option Nat :=
  if o.first < ilvUnit then
    let u := m * stackUnits + j
    if o.first ≤ u ∧ u < o.first + o.count then some (min stackUnits (o.first + o.count - m * stackUnits)) else none
  else
    let f := o.first - ilvUnit
    let g := 6 * j + m
    if f ≤ g ∧ g < f + o.count then some ((f + o.count - m + 5) / 6) else none

/-- The units of a stack that an HBM entry holds, as a half-open range (R415). -/
def Owner.span (o : Owner) (m : Nat) : Nat × Nat :=
  if o.first < ilvUnit then (max o.first (m * stackUnits) - m * stackUnits, min (o.first + o.count) ((m + 1) * stackUnits) - m * stackUnits)
  else
    let f := o.first - ilvUnit
    ((f + 5 - m) / 6, (f + o.count + 5 - m) / 6)

/-- The end of the units owned without a gap from unit `j` of stack `m` on. -/
def ownedTo (os : List Owner) (m : Nat) : Nat → Nat → Nat
  | 0, j => j
  | n + 1, j => match os.findSome? (fun o => o.runEnd m j) with
    | some e => ownedTo os m n e
    | none => j

/-- HBM owners of a feature and instance (KIND 1). -/
def State.hbmOwners (s : State) (feature index : Nat) : List Owner :=
  s.boot.owners.filter (fun o => o.kind == 1 && o.feature == feature && o.index == index)

/-- Whether `n` units from unit `j` of stack `m` belong to a list of owners. -/
def ownsUnits (os : List Owner) (m j n : Nat) : Bool := decide (j + n ≤ ownedTo os m (os.length + 1) j)

/-- Whether a byte range of the linear view belongs to a list of owners. -/
def ownsRange (os : List Owner) (a n : Nat) : Bool :=
  let m := a / stackBytes
  let j := a % stackBytes / 4096
  ownsUnits os m j (ceilDiv (a % 4096 + n) 4096)

/-- The first owned unit of a feature in a stack, by entry. -/
def Owner.firstIn (o : Owner) (m : Nat) : Option Nat :=
  if o.first < ilvUnit then
    if o.first / stackUnits = m then some (o.first % stackUnits)
    else if o.first < m * stackUnits ∧ m * stackUnits < o.first + o.count then some 0 else none
  else
    let j := (o.first - ilvUnit + 5 - m) / 6
    if (o.runEnd m j).isSome then some j else none

/-- Features of a KIND (R415). -/
def kindFeatures : Nat → Nat
  | 1 => 7 | 2 => 2 | 3 => 1 | 4 => 2 | 5 => 4 | 6 => 4 | _ => 0

/-- Whether collector peg `p` belongs to COLL (KIND 2); every other peg belongs to PROGRAM. -/
def State.collPeg (s : State) (p : Nat) : Bool :=
  s.boot.owners.any (fun o => o.kind == 2 && o.feature == 2 && decide (o.first ≤ p ∧ p < o.first + o.count))

/-- Whether link `l` has a YALAST owner (KIND 3). -/
def State.ownedLink (s : State) (l : Nat) : Bool :=
  s.boot.owners.any (fun o => o.kind == 3 && decide (o.first ≤ l ∧ l < o.first + o.count))

/-- Whether landing window `w` belongs to a feature (KIND 4: 1 MODEL_FETCH, 2 COLL). -/
def State.ownedWindow (s : State) (feature w : Nat) : Bool :=
  s.boot.owners.any (fun o => o.kind == 4 && o.feature == feature && decide (o.first ≤ w ∧ w < o.first + o.count))

/-- The owner of timer `t` (KIND 5) in a list, 0 where it has none. -/
def timerOwner (l : List Owner) (t : Nat) : Nat :=
  match l.find? (fun o => o.kind == 5 && decide (o.first ≤ t ∧ t < o.first + o.count)) with
  | some o => o.feature
  | none => 0

end Sys2Proof.Machine
end

