-- ==== Sys2Proof/Machine/StreamWords.lean ====
section
/-! DEFINITION. Stream words (R89) and stream descriptors (R106–R117, R128, R130): SUBMIT, KFETCH, CONVFEED, the movement of a
descriptor and its completion. -/

namespace Sys2Proof.Machine

/-! Legality of descriptors (R107–R109, R114, R117, R128). -/

/-- Whether a descriptor's runs go through page descriptor indices (R113), at the source or at the destination. -/
def SDesc.pagedSrc (d : SDesc) : Bool := d.kind == 2 && d.idxfmt == 2
/-- As `pagedSrc`, for a SCATTER. -/
def SDesc.pagedDst (d : SDesc) : Bool := d.kind == 3 && d.idxfmt == 2

/-- Whether a descriptor converts or transposes (R109). -/
def SDesc.changes (d : SDesc) : Bool := d.sfmt != d.dfmt || d.xpose

/-- B of R114. -/
def SDesc.block (d : SDesc) : Nat := if fmtWidth d.sfmt = 4 then 128 else 64

/-- Whether a descriptor's conversion may round by RND, which is then checked (R80): not where the formats are equal, not to FP32 but from
INT32, whose values FP32 may narrow (R115; log entry 23), and not where INT8 or INT4 widens to INT32. -/
def SDesc.rounds (d : SDesc) : Bool :=
  let (s, t) := (Fmt.ofCode d.sfmt, Fmt.ofCode d.dfmt)
  s != t && !(t == some .fp32 && s != some .int32) && !(t == some .int32 && (s == some .int8 || s == some .int4))

/-- Fields of a descriptor that R107, R108, R114, R117 and R128 call illegal. -/
def SDesc.illegal (d : SDesc) : Bool :=
  let ws := fmtWidth d.sfmt
  let wd := fmtWidth d.dfmt
  decide (d.kind = 0 ∨ 5 ≤ d.kind ∨ 3 ≤ d.idxfmt ∨ d.len0 = 0 ∨ d.cnt1 = 0 ∨ d.cnt2 = 0 ∨ d.cnt3 = 0)
  || (if d.kind = 4 then decide (d.dst ≠ 0 ∨ d.sfmt ≠ 0 ∨ d.dfmt ≠ 0 ∨ d.xpose = true ∨ d.dlq = true)
      else decide (9 ≤ d.sfmt ∨ 9 ≤ d.dfmt ∨ d.len0 * 8 % ws ≠ 0 ∨ d.len0 * wd % ws ≠ 0)
        || (d.rounds && d.rnd == 3)
        || (d.xpose && decide (d.ndim = 0 ∨ d.len0 * 8 ≠ d.block * ws ∨ d.cnt1 % d.block ≠ 0))
        || (d.sfmt != 5 && d.dfmt == 5 && decide (d.len0 * 8 / ws % 16 ≠ 0))
        || (d.dlq && decide (d.tile < 512 ∨ 16384 < d.tile ∨ d.tile % 512 ≠ 0)))

/-- Whether R109 forbids a run between two ends: one in register space or on a peg board, or a conversion that no press unit makes. -/
def SDesc.forbids (d : SDesc) (x y : End) : Bool :=
  let hosted := match x, y with | .host _, _ => true | _, .host _ => true | _, _ => false
  x == .unit || y == .unit || (d.changes && d.kind != 4 && (hosted || (x == .sram && y == .sram)))

/-- The end that a run's destination lies in: a DLQ run's and a SCALEFEED's is in the core itself. -/
def SDesc.dstEnd (d : SDesc) (a : Int) : End := if d.kind = 4 ∨ d.dlq then .sram else endOf a d.outLen

/-- Whether the engine refuses a descriptor with 0x2202 when it reads it (R134): by its fields, or by the ends that no index decides. -/
def SDesc.refused (d : SDesc) : Bool :=
  d.illegal || (d.runs []).any (fun r =>
    d.forbids (if d.kind = 2 then .hbm else endOf r.src d.len0) (if d.kind = 3 ∧ !d.dlq then .hbm else d.dstEnd r.dst)
      || (d.dlq && d.kind != 3 && decide (r.dst < 0)))

/-- End of a DLQ descriptor's output (R128). -/
def SDesc.extent (d : SDesc) (rs : List Run) : Nat := rs.foldl (fun m r => max m ((r.dst + Int.ofNat d.outLen).toNat)) 0

/-- Tiles of a DLQ descriptor (R128). -/
def SDesc.tiles (d : SDesc) (rs : List Run) : Nat := ceilDiv (d.extent rs) d.tile

/-- The place of a DLQ descriptor among the local queue's producers (R128): a SCATTER's indices decide its number of tiles, so that stays
open until the descriptor starts (R112). -/
def SDesc.lqEntry (d : SDesc) (index : Nat) : List (Nat × Option Nat) :=
  if !d.dlq then [] else [(index, if d.kind = 3 then none else some (d.tiles (d.runs [])))]

/-! SUBMIT. -/

/-- Effect of SUBMIT (R106): the engine reads the descriptor, which takes its place in the queue and among the local queue's producers
(R128). An illegal one stops the core with 0x2202 after the word has issued. -/
def State.runSubmit (s : State) (c w : Nat) : State :=
  let r := (s.core c).run
  let v := ofLeBytes (memGet s.mem (sramAddr c (64 * r.eff w .a (fld w 20 17)).toNat) 64)
  let d := SDesc.decode v
  let q := fld w 16 4
  if d.refused then (s.modRun c (CoreRun.issued w)).coreFault c 0x2202
  else s.modRun c (fun r => { r with
    queues := Tbl.set [] q (Tbl.get [] q r.queues ++ [.desc (BitVec.ofNat 512 v) (fld w 37 6) r.index.toNat false 0]) r.queues
    lqPlan := r.lqPlan ++ d.lqEntry r.index.toNat })

/-- SUBMIT (R89): DONE_PEG 48–62 is 0x2130. -/
def execSubmit (c : Fin 64) (w : Word) (s : State) : Host.Outcome State Fault Refusal :=
  let r := (s.core c).run
  let base := 64 * r.eff w.toNat .a (fld w.toNat 20 17)
  let foot : Footprint := { reads := [⟨base, 64⟩] }
  let dp := fld w.toNat 37 6
  let chk := firstFault [(decide (48 ≤ dp ∧ dp ≤ 62), 0x2130), (!foot.inWindow, 0x2132)]
  coreWord (wIs 4 0 w.toNat) w.toNat
    (s.runWord c w.toNat chk foot (decide (r.queueLoad < 16)) (fun s => s.runSubmit c w.toNat))

/-! KFETCH. -/

/-- Tiles of a kicker site's part (R130, R252): down matrix K/64, up matrix N/64. -/
def Kicker.part (k : Kicker) (site part : Nat) : Nat :=
  let x := k.dims.getD (site % 7) (0, 0)
  if part = 0 then x.1 else x.2

/-- Byte offset of a site's part in the kicker's store: earlier sites, then the down matrix (R252). -/
def Kicker.offset (k : Kicker) (bytes site part : Nat) : Nat :=
  let before := (k.sites.filter (fun x => decide (x < site))).foldl (fun n x => n + k.part x 0 + k.part x 1) 0
  bytes * (before + (if part = 1 then k.part site 0 else 0))

/-- The tile size of a kicker (R58, R252): K64 × N64 in its format. -/
def Kicker.tile (k : Kicker) : Nat := 4096 * fmtWidth k.fmt / 8

/-- Effect of KFETCH (R130): its tiles take their local-queue places, those of an unadapted site as zeros. -/
def State.runKfetch (s : State) (c w : Nat) : State :=
  let r := (s.core c).run
  let site := fld w 16 10
  let part := fld w 26 1
  match r.bindings[fld w 11 5]? with
  | none => s
  | some b => match Tbl.get none b.kicker s.serve.kickers with
    | none => s
    | some k =>
      let n := k.part site part
      let f : KFetch :=
        { index := r.index.toNat, count := n, bytes := k.tile
          addr := if k.sites.contains site then some (k.base + k.offset k.tile site part) else none }
      (s.modRun c (fun r => { r with lqPlan := r.lqPlan ++ [(r.index.toNat, some n)], kfetches := r.kfetches ++ [f] })).pumpKfetch c

/-- KFETCH (R89, R130): KB 16–31 is 0x2130, an absent binding 0x2135. -/
def execKfetch (c : Fin 64) (w : Word) (s : State) : Host.Outcome State Fault Refusal :=
  let r := (s.core c).run
  let kb := fld w.toNat 11 5
  let chk := firstFault [(decide (16 ≤ kb), 0x2130), (r.bindings[kb]?.isNone, 0x2135)]
  coreWord (wIs 4 1 w.toNat) w.toNat (s.runWord c w.toNat chk {} (decide (r.queueLoad < 16)) (fun s => s.runKfetch c w.toNat))

/-! CONVFEED. -/

/-- A convolution context (R91). -/
structure ConvCtx where
  kind : Nat
  efmt : Nat
  h : Nat
  w : Nat
  ch : Nat
  kh : Nat
  kw : Nat
  sh : Nat
  sw : Nat
  dh : Nat
  dw : Nat
  pt : Nat
  pb : Nat
  pl : Nat
  pr : Nat
  ho : Nat
  wo : Nat
  nimg : Nat
deriving DecidableEq, Repr

/-- Decoding of a convolution context. -/
def ConvCtx.decode (v : Nat) : ConvCtx :=
  { kind := fld v 0 8, efmt := fld v 8 4, h := fld v 16 16, w := fld v 32 16, ch := fld v 48 16, kh := fld v 64 8, kw := fld v 72 8,
    sh := fld v 80 4, sw := fld v 84 4, dh := fld v 88 4, dw := fld v 92 4, pt := fld v 96 8, pb := fld v 104 8, pl := fld v 112 8,
    pr := fld v 120 8, ho := fld v 128 16, wo := fld v 144 16, nimg := fld v 160 16 }

/-- The output size of R92 in one dimension. -/
def convOut (n p q dil k st : Nat) : Int :=
  (Int.ofNat (n + p + q) - Int.ofNat (dil * (k - 1)) - 1) / Int.ofNat st + 1

/-- Whether a context breaks R91 in a field other than EFMT (0x2133). -/
def ConvCtx.bad (x : ConvCtx) : Bool :=
  decide (x.h = 0 ∨ x.w = 0 ∨ x.ch = 0 ∨ x.kh = 0 ∨ x.kw = 0 ∨ x.sh = 0 ∨ x.sw = 0 ∨ x.dh = 0 ∨ x.dw = 0 ∨ x.nimg = 0)
    || decide (convOut x.h x.pt x.pb x.dh x.kh x.sh ≠ Int.ofNat x.ho ∨ convOut x.w x.pl x.pr x.dw x.kw x.sw ≠ Int.ofNat x.wo)

/-- Byte offset in the input of element (r, k) of the expanded matrix, in elements; none where R92 gives 0. With HO × WO = 0
no image has a row (DEDUCED, log entry 22). -/
def ConvCtx.source (x : ConvCtx) (r k : Nat) : Option Nat :=
  let hw := x.ho * x.wo
  let b := r / hw
  let q := r % hw
  let c := k % x.ch
  let t := k / x.ch
  let iy : Int := Int.ofNat (q / x.wo * x.sh + t / x.kw * x.dh) - Int.ofNat x.pt
  let ix : Int := Int.ofNat (q % x.wo * x.sw + t % x.kw * x.dw) - Int.ofNat x.pl
  if hw = 0 ∨ x.nimg ≤ b ∨ x.kh * x.kw * x.ch ≤ k ∨ iy < 0 ∨ Int.ofNat x.h ≤ iy ∨ ix < 0 ∨ Int.ofNat x.w ≤ ix then none
  else some (((b * x.h + iy.toNat) * x.w + ix.toNat) * x.ch + c)

/-- The fields of a CONVFEED word (R89). -/
structure CWord where
  cx : Nat
  kstep : Bool
  klvl : Nat
  row0 : Nat
  rows : Nat
  kt0 : Nat
  drs : Nat
  src : Int
  dst : Int
deriving DecidableEq, Repr

/-- Decoding of a CONVFEED word, with its effective addresses in bytes. -/
def CWord.decode (r : CoreRun) (w : Nat) : CWord :=
  { cx := fld w 11 4, kstep := bit w 15, klvl := fld w 16 2, row0 := fld w 52 20, rows := 4 * (fld w 72 12 + 1), kt0 := fld w 84 12,
    drs := fld w 96 10, src := 64 * r.eff w .a (fld w 18 17), dst := 64 * r.eff w .o (fld w 35 17) }

/-- First column of the tile in the expanded matrix (R92). -/
def CWord.k0 (x : CWord) (r : CoreRun) : Nat :=
  64 * (x.kt0 + (if x.kstep then ((r.level x.klvl).map (fun (l : Loop) => l.i)).getD 0 else 0))

/-- Bytes of an element of the context's format. -/
def ConvCtx.bytes (x : ConvCtx) : Nat := fmtWidth x.efmt / 8

/-- Where each element of the tile comes from: row, column and input byte. -/
def CWord.elems (x : CWord) (r : CoreRun) (cx : ConvCtx) : List (Nat × Nat × Option Int) :=
  (List.range x.rows).flatMap (fun m => (List.range 64).map (fun kk =>
    (m, kk, (cx.source (x.row0 + m) (x.k0 r + kk)).map (fun o => x.src + Int.ofNat (o * cx.bytes)))))

/-- What a CONVFEED touches. -/
def CWord.foot (x : CWord) (r : CoreRun) (cx : ConvCtx) : Footprint :=
  { reads := (x.elems r cx).filterMap (fun e => e.2.2.map (fun a => ⟨a, cx.bytes⟩))
    writes := (List.range x.rows).map (fun m => ⟨x.dst + 64 * Int.ofNat (x.drs * m), 64 * cx.bytes⟩) }

/-- Effect of CONVFEED (R92). -/
def State.runConvfeed (s : State) (c w : Nat) : State :=
  let r := (s.core c).run
  let x := CWord.decode r w
  let cx := ConvCtx.decode (Tbl.get (0 : BitVec 512) x.cx r.ctxs).toNat
  s.sramWrites c ((List.range x.rows).map (fun m =>
    ((x.dst + 64 * Int.ofNat (x.drs * m)).toNat, (List.range 64).flatMap (fun kk =>
      match cx.source (x.row0 + m) (x.k0 r + kk) with
      | some o => memGet s.mem (sramAddr c (x.src + Int.ofNat (o * cx.bytes)).toNat) cx.bytes
      | none => List.replicate cx.bytes 0))))

/-- CONVFEED (R92). -/
def execConvfeed (c : Fin 64) (w : Word) (s : State) : Host.Outcome State Fault Refusal :=
  let r := (s.core c).run
  let x := CWord.decode r w.toNat
  let cx := ConvCtx.decode (Tbl.get (0 : BitVec 512) x.cx r.ctxs).toNat
  let chk := firstFault [(cx.kind != 2, 0x2135), (x.kstep && (r.level x.klvl).isNone, 0x2135), (decide (9 ≤ cx.efmt), 0x2130),
    (!([0, 1, 2, 3, 4, 7].contains cx.efmt), 0x2131), (cx.bad, 0x2133), (decide (x.drs < cx.bytes), 0x2133)]
  let chk := match chk with
    | some e => some e
    | none => if (x.foot r cx).inWindow then none else some 0x2132
  coreWord (wIs 4 2 w.toNat) w.toNat
    (s.runWord c w.toNat chk (x.foot r cx) (decide (r.queueLoad < 16)) (fun s => s.runConvfeed c w.toNat))

/-! Movement of a descriptor. -/

/-- The device address of a run's end through a page descriptor index (R113): the page's slot plus the offset; the index takes the
place of the first dimension. -/
def pageEnd (s : State) (idx : Nat) (a : Int) (stride1 : Int) : Int :=
  Int.ofNat ((s.pages.desc idx).slot4k * 4096) + (a - Int.ofNat idx * stride1)

/-- Whether a page index may be used by the pass (R113): no request holds a pin on a FREE page. -/
def State.pageUsable (s : State) (tag p : Nat) : Bool := decide (p < 262144) && s.pages.pinnedBy p tag && (s.pages.desc p).state != .free

/-- Where a run's source and destination lie (R113): a page descriptor index names a place in its page's slot. -/
def State.placed (s : State) (d : SDesc) (idx : List Nat) (r : Run) : Run :=
  let i := idx.getD r.i1 0
  { r with src := (if d.pagedSrc then pageEnd s i r.src d.sstr1 else r.src), dst := (if d.pagedDst then pageEnd s i r.dst d.dstr1 else r.dst) }

/-- Whether a run goes through a page index that the pass may not use (R113). -/
def State.barred (s : State) (c : Nat) (d : SDesc) (idx : List Nat) (r : Run) : Bool :=
  (d.pagedSrc || d.pagedDst) && !s.pageUsable (s.core c).run.tag (idx.getD r.i1 0)

/-- Whether the engine refuses a descriptor with 0x2202 when it starts, by the runs that its indices give (R109, R128). -/
def State.runsRefused (s : State) (c : Nat) (d : SDesc) (idx : List Nat) : Bool :=
  (d.runs idx).any (fun r =>
    let x := s.placed d idx r
    (!s.barred c d idx r && d.forbids (endOf x.src d.len0) (d.dstEnd x.dst)) || (d.dlq && decide (r.dst < 0)))

/-- The bytes of a source run with their poison; the error code where the run is refused (R30, R113). -/
def State.readRun (s : State) (c : Nat) (d : SDesc) (idx : List Nat) (r : Run) : (List Nat × Option Nat) ⊕ Nat :=
  if d.pagedSrc && s.barred c d idx r then .inr 0x2203 else s.readAny (s.placed d idx r).src d.len0

/-- Whether a write would change a page that is not VAT (R186, R192). -/
def State.hitsClosedPage (s : State) (a : Int) (n : Nat) : Bool :=
  let ps := (canonPieces a.toNat n).getD []
  endOf a n == .hbm && s.pages.descs.any (fun kv =>
    let lo := 4096 * kv.2.slot4k
    kv.2.state != .free && kv.2.state != .vat &&
      ps.any (fun x => decide (x.1 < lo + 4096 * (s.model kv.2.mslot).block.slot4k ∧ lo < x.1 + x.2)))

/-- The bytes of a destination run written; the error code where the run is refused: a page index that the pass may not use (R113), a page
that is not VAT (R192), or an address that no range maps (R30). -/
def State.writeRun (s : State) (c : Nat) (d : SDesc) (idx : List Nat) (r : Run) (bs : List Nat) (poison : Option Nat) : State ⊕ Nat :=
  let a := (s.placed d idx r).dst
  if d.pagedDst && s.barred c d idx r then .inr 0x2203
  else if s.hitsClosedPage a bs.length then .inr 0x255A
  else s.writeAny a bs poison

/-- An element under conversion: its value with its fine scale applied, and whether a NaN was read (R115, V1, V10). -/
def SDesc.value (d : SDesc) (f : Fmt) (x : Nat) (scale : Option Nat) : Val × Nat :=
  let v := decodeVal f x
  let v := match d.sfmt, scale with
    | 5, some b => match v, decodeScale b with
      | .fin n m e, .fin _ k q => .fin n (m * k) (e + q)
      | _, _ => .nan
    | _, _ => v
  (v, if v.isNan then flNANIN else 0)

/-- The rounding of element `e` of run `ord` (R44). -/
def SDesc.roundAt (d : SDesc) (r : CoreRun) (index ord e : Nat) : Rnd :=
  rndOf d.rnd (rsrValue r.seed.toNat r.tag index (ord % 65536) (e % 65536))

/-- Conversion of a destination run (R115): bytes, scale bytes for an F4 destination, flags. -/
def SDesc.convertRun (d : SDesc) (r : CoreRun) (index ord : Nat) (df : Fmt) (vs : List (Val × Nat)) : List Nat × List Nat × Nat :=
  let fl := vs.foldl (fun a v => a ||| v.2) 0
  if df = .f4 then
    let rs := (List.range vs.length).map (d.roundAt r index ord)
    let blocks := (chunks 16 vs.length (vs.map Prod.fst)).zip (chunks 16 vs.length rs)
    let qs := blocks.map (fun b => quantF4 b.2 b.1)
    (packElems .f4 (qs.flatMap (fun q => q.2.1)), qs.map (fun q => q.1), qs.foldl (fun a q => a ||| q.2.2) fl)
  else
    let cs := vs.zipIdx.map (fun (v, e) => convert df (d.roundAt r index ord e) d.ovf v.1)
    (packElems df (cs.map Prod.fst), [], cs.foldl (fun a x => a ||| x.2) fl)

/-- A transposed block (R114): element `e` of source run `r` becomes element `r` of destination run `e`. -/
def transpose {α : Type} (dflt : α) (b : Nat) (rows : List (List α)) : List (List α) :=
  (List.range b).map (fun e => rows.map (fun r => r.getD e dflt))

/-- What a group of runs delivers: destination bytes per run, poison, scale bytes with the index of the first, flags. -/
structure Delivery where
  runs : List (Run × List Nat × Option Nat)
  scales : List (Nat × List Nat)
  flags : Nat
deriving DecidableEq, Repr

/-- The fine-scale bytes of a source run, from that of its first element on, with their poison (R115); the error code where a press unit's
read of SCL is refused (R30). -/
def State.runScales (s : State) (d : SDesc) (r : Run) : (List Nat × Option Nat) ⊕ Nat :=
  if d.sfmt ≠ 5 then .inl ([], none)
  else
    let lo := r.ord * d.elems / 16
    let n := ((r.ord + 1) * d.elems + 15) / 16 - lo
    match endOf (Int.ofNat (d.scl + lo)) n with
    | .sram | .hbm => match s.readDev (d.scl + lo) n with | some x => .inl x | none => .inr 0x2201
    | _ => .inr 0x2201

/-- Source runs read and turned into destination runs (R108, R114, R115). A group is one run, or B runs under XPOSE. -/
def State.deliver (s : State) (c index : Nat) (d : SDesc) (idx : List Nat) (rs : List Run) : Delivery ⊕ Nat :=
  let k := (s.core c).run
  let sf := (Fmt.ofCode d.sfmt).getD .fp32
  let df := (Fmt.ofCode d.dfmt).getD .fp32
  let n := d.len0 * 8 / sf.width
  let got := rs.map (s.readRun c d idx)
  match got.findSome? (fun x => match x with | .inr e => some e | .inl _ => none) with
  | some e => .inr e
  | none =>
    let srcs : List (List Nat × Option Nat) := got.filterMap (fun x => match x with | .inl y => some y | .inr _ => none)
    if !d.changes || d.kind = 4 then .inl { runs := (rs.zip srcs).map (fun x => (x.1, x.2.1, x.2.2)), scales := [], flags := 0 }
    else
      let pois := srcs.findSome? Prod.snd
      let codes := srcs.map (fun x => (List.range n).map (elemAt sf x.1))
      if sf = df then
        let out := if d.xpose then transpose 0 n codes else codes
        .inl { runs := (rs.zip out).map (fun x => (x.1, packElems df x.2, pois)), scales := [], flags := 0 }
      else
        let scl := rs.map (s.runScales d)
        match scl.findSome? (fun x => match x with | .inr e => some e | .inl _ => none) with
        | some e => .inr e
        | none =>
        let scales : List (List Nat × Option Nat) := scl.filterMap (fun x => match x with | .inl y => some y | .inr _ => none)
        let pois := match pois with | some p => some p | none => scales.findSome? Prod.snd
        let scaleAt := fun (r : Run) (sc : List Nat) (e : Nat) =>
          if d.sfmt = 5 then some (sc.getD ((r.ord * n + e) / 16 - r.ord * n / 16) 0) else none
        let vals := ((rs.zip codes).zip scales).map (fun x => x.1.2.zipIdx.map (fun y => d.value sf y.1 (scaleAt x.1.1 x.2.1 y.2)))
        let out := if d.xpose then transpose (Val.nan, 0) n vals else vals
        let done := (rs.zip out).map (fun x => (x.1, d.convertRun k index x.1.ord df x.2))
        .inl { runs := done.map (fun x => (x.1, x.2.1, pois)),
               scales := done.map (fun x => (x.1.ord * (n / 16), x.2.2.1)),
               flags := done.foldl (fun a x => a ||| x.2.2.2) 0 }

/-- The groups of a descriptor's runs: single runs, or blocks of B under XPOSE. -/
def SDesc.groups (d : SDesc) (rs : List Run) : List (List Run) := chunks (if d.xpose then d.block else 1) rs.length rs

/-- Scale bytes of an F4 destination written at SCL (R115); the error code where the write is refused (R30) or meets a page that is not
VAT (R192). -/
def State.putScales (d : SDesc) : List (Nat × List Nat) → State → State ⊕ Nat
  | [], s => .inl s
  | (o, bs) :: l, s =>
    let a := d.scl + o
    if bs = [] then State.putScales d l s
    else if s.hitsClosedPage (Int.ofNat a) bs.length then .inr 0x255A
    else match endOf (Int.ofNat a) bs.length with
      | .sram | .hbm => match s.writeDev a bs none with | some s => State.putScales d l s | none => .inr 0x2201
      | _ => .inr 0x2201

/-- A group delivered to its destination. -/
def State.landGroup (s : State) (c : Nat) (d : SDesc) (idx : List Nat) (v : Delivery) : State ⊕ Nat :=
  v.runs.foldl (fun (acc : State ⊕ Nat) x => match acc with
    | .inl s => s.writeRun c d idx x.1 x.2.1 x.2.2
    | .inr e => .inr e) (State.putScales d v.scales s)

/-- All groups of a descriptor moved in loop order (R108): the state, the flags, and the error that stopped it. -/
def State.moveGroups (c index : Nat) (d : SDesc) (idx : List Nat) : List (List Run) → State → Nat → State × Nat × Option Nat
  | [], s, fl => (s, fl, none)
  | g :: gs, s, fl => match s.deliver c index d idx g with
    | .inr e => (s, fl, some e)
    | .inl v => match s.landGroup c d idx v with
      | .inr e => (s, fl, some e)
      | .inl s' => State.moveGroups c index d idx gs s' (fl ||| v.flags)

/-- The whole output of a DLQ descriptor (R128): bytes, poison marks as offset and length, flags; or the error. -/
def State.dlqOutput (s : State) (c index : Nat) (d : SDesc) (idx : List Nat) (rs : List Run) :
    (List Nat × List (Nat × Nat × Nat) × Nat × List (Nat × List Nat)) ⊕ Nat :=
  (d.groups rs).foldl (fun acc g => match acc with
    | .inr e => .inr e
    | .inl (bs, ps, fl, sc) => match s.deliver c index d idx g with
      | .inr e => .inr e
      | .inl v => .inl (v.runs.foldl (fun bs x => bs.take x.1.dst.toNat ++ x.2.1 ++ bs.drop (x.1.dst.toNat + x.2.1.length)) bs,
          ps ++ v.runs.filterMap (fun x => x.2.2.map (fun code => (x.1.dst.toNat, x.2.1.length, code))), fl ||| v.flags, sc ++ v.scales))
    (.inl (List.replicate (d.extent rs) 0, [], 0, []))

/-- The head of a queue that is to start: the first descriptor not yet moved (R106). -/
def firstUnmoved : List SqEntry → Option (Nat × SqEntry)
  | [] => none
  | e :: es => match e with
    | .desc _ _ _ false _ => some (0, e)
    | _ => (firstUnmoved es).map (fun x => (x.1 + 1, x.2))

/-- Queue entry `i` of queue `q` replaced, or removed. -/
def CoreRun.setEntry (r : CoreRun) (q i : Nat) (e : Option SqEntry) : CoreRun :=
  let l := Tbl.get [] q r.queues
  { r with queues := Tbl.set [] q (match e with | some x => l.set i x | none => l.eraseIdx i) r.queues }

/-- The RELQ peg operations at the head of a queue leave it (R264). -/
def State.drainPegs (c q : Nat) : List SqEntry → State → State
  | .peg tk tcore p op :: es, s =>
    State.drainPegs c q es ((s.modRun c (fun r => { r with queues := Tbl.set [] q es r.queues })).sendPeg c tk tcore p op)
  | _, s => s

/-- The port whose racking windows refuse a run of the descriptor, or its index stream, if any (R325). -/
def State.windowRefuses (s : State) (d : SDesc) (rs : List Run) : Option Port :=
  let one := fun (a : Int) (n : Nat) (wr : Bool) => match endOf a n with
    | .host p => if ((s.port p).pieces (hostOffset a) n wr).isNone then some p else none
    | _ => none
  let idx := if d.idxBytes = 0 then none else one (Int.ofNat d.idx) d.idxBytes false
  idx.or (rs.findSome? (fun r => match one r.src d.len0 false with
    | some p => some p
    | none => if d.kind = 4 ∨ d.dlq then none else one r.dst d.outLen true))

/-- The end of a descriptor that the engine aborts: it leaves its queue, the peg operations behind it follow (R264), and its error stops the
core (R103). A window's refusal counts in the port's DMA_REFUSED (R335), and after a change of the windows it is R30's 0x2201 while the
pass's requests end with 0x2604 (R327). -/
def State.abortDesc (s : State) (c q i : Nat) (d : SDesc) (rs : List Run) (code : Nat) : State :=
  let s := match (if code = 0x2201 ∨ code = 0x2604 then s.windowRefuses d rs else none) with | some p => s.dmaRefuse p | none => s
  let s := if code = 0x2604 then s.report { code := 0x2201, kind := .coreSlot, unit := s.slotOf c } else s
  let s := s.modRun c (fun r => r.setEntry q i none)
  let s := if i = 0 then State.drainPegs c q (Tbl.get [] q (s.core c).run.queues) s else s
  s.coreFault c code

/-- One tile of a DLQ descriptor written whole into its slot (R128). -/
def State.putLqTile (s : State) (c : Nat) (t : Nat) (tile : Nat) (off : Nat) (bs : List Nat) (ps : List (Nat × Nat × Nat)) : State :=
  let dst := sramAddr c (64 * (s.core c).run.lqBase + t % 8 * 16384)
  let b := (bs.drop off).take tile
  let s := s.putMem dst (b ++ List.replicate (tile - b.length) 0)
  ps.foldl (fun s p =>
    let lo := max p.1 off
    let hi := min (p.1 + p.2.1) (off + tile)
    if lo < hi then s.markPoison (dst + (lo - off)) (hi - lo) p.2.2 else s) s

/-- A DLQ descriptor moves into the local-queue slots that are free (R124, R128). A SCATTER's number of tiles becomes known here. -/
def State.moveDlq (s : State) (c q i : Nat) (bits : BitVec 512) (donePeg index : Nat) : State :=
  let d := SDesc.decode bits.toNat
  let idx := s.indexList d
  let rs := d.runs idx
  let n := d.tiles rs
  let s := s.modRun c (fun r => { r with lqPlan := r.lqPlan.map (fun x => if x.1 = index then (index, some n) else x) })
  match (s.core c).run.lqFirst index with
  | none => s
  | some first => match s.dlqOutput c index d idx rs with
    | .inr e => s.abortDesc c q i d rs e
    | .inl (bs, ps, fl, sc) => match State.putScales d sc s with
      | .inr e => s.abortDesc c q i d rs e
      | .inl s =>
        let s := (List.range n).foldl (fun s k =>
          let r := (s.core c).run
          if k < r.progress index ∨ r.lqTaken + 8 ≤ first + k then s
          else (s.putLqTile c (first + k) d.tile (k * d.tile) bs ps).modRun c (fun r =>
            ({ r with lqFilled := r.lqFilled ++ [first + k] }).setProgress index (k + 1))) s
        s.modRun c (fun r => r.setEntry q i (some (.desc bits donePeg index (decide (n ≤ r.progress index)) fl)))

/-- A SCALEFEED appends what the FIFO has room for (R117). Poisoned scales stop the core as a feeder's read does (R393). -/
def State.moveScale (s : State) (c q i : Nat) (bits : BitVec 512) (donePeg index : Nat) : State :=
  let d := SDesc.decode bits.toNat
  let rs := d.runs []
  let got := rs.map (s.readRun c d [])
  match got.findSome? (fun x => match x with | .inr e => some e | .inl y => y.2) with
  | some e => s.abortDesc c q i d rs e
  | none =>
    let all := got.flatMap (fun x => match x with | .inl y => y.1 | .inr _ => [])
    s.modRun c (fun r =>
      let part := (all.drop (r.progress index)).take (8192 - r.scaleFifo.length)
      let done := r.progress index + part.length
      (({ r with scaleFifo := r.scaleFifo ++ part }).setProgress index done).setEntry q i
        (some (.desc bits donePeg index (decide (all.length ≤ done)) 0)))

/-- A COPY, GATHER or SCATTER to device or host addresses. -/
def State.moveDesc (s : State) (c q i : Nat) (bits : BitVec 512) (donePeg index : Nat) : State :=
  let d := SDesc.decode bits.toNat
  let idx := s.indexList d
  match State.moveGroups c index d idx (d.groups (d.runs idx)) s 0 with
  | (s, _, some e) => s.abortDesc c q i d (d.runs idx) e
  | (s, fl, none) => s.modRun c (fun r => r.setEntry q i (some (.desc bits donePeg index true fl)))

/-- What bars a descriptor from its start: an index stream that cannot be read or holds poison (R30, R112, R393), or runs that R109 and R128
forbid. -/
def State.startError (s : State) (c : Nat) (d : SDesc) : Option Nat :=
  match (if d.idxBytes = 0 then .inl ([], none) else s.readAny (Int.ofNat d.idx) d.idxBytes : (List Nat × Option Nat) ⊕ Nat) with
  | .inr e => some e
  | .inl (_, some e) => some e
  | .inl (_, none) => if s.runsRefused c d (s.indexList d) then some 0x2202 else none

/-- Start of the next descriptor of queue `q`, of kind `kind` (R106). It waits for every earlier-issued stream word that touches the same
lines of the core's SRAM (R56, R110). -/
def State.startStream (s : State) (c q kind : Nat) : State :=
  let r := (s.core c).run
  if !s.alive || !r.active then s
  else match firstUnmoved (Tbl.get [] q r.queues) with
    | some (i, .desc bits donePeg index _ _) =>
      let d := SDesc.decode bits.toNat
      if d.kind ≠ kind ∨ s.streamConflict c (fun n => decide (n < index)) { s.descFootprint c d with slots := r.dlqSlots index d } = true then s
      else match s.startError c d with
        | some e => s.abortDesc c q i d [] e
        | none =>
          (if d.kind = 4 then s.moveScale c q i bits donePeg index
          else if d.dlq then s.moveDlq c q i bits donePeg index
          else s.moveDesc c q i bits donePeg index).pumpKfetch c
    | _ => s

/-- A byte that a host stored where a window maps an offset of the device's view of its memory. -/
def State.hostByte (s : State) (p : Port) (off v : Nat) : State :=
  ((s.port p).translate off 1 false).elim s (fun h => s.hostPut p h [v])

/-- The bytes the hosts stored in the memory that a descriptor may read, told by their device addresses in the host windows. -/
def State.hostSeen (s : State) (host : Cells) : State :=
  host.foldl (fun s kv => match region kv.1 with | .host p o => s.hostByte p o kv.2.toNat | _ => s) s

/-- STREAM_COPY (R106–R111). -/
def execStreamCopy (c : Fin 64) (q : Fin 16) (host : Cells) (s : State) : Host.Outcome State Fault Refusal :=
  .next ((s.hostSeen host).startStream c q 1)

/-- STREAM_GATHER (R112). -/
def execStreamGather (c : Fin 64) (q : Fin 16) (host : Cells) (s : State) : Host.Outcome State Fault Refusal :=
  .next ((s.hostSeen host).startStream c q 2)

/-- STREAM_SCATTER (R112). -/
def execStreamScatter (c : Fin 64) (q : Fin 16) (host : Cells) (s : State) : Host.Outcome State Fault Refusal :=
  .next ((s.hostSeen host).startStream c q 3)

/-- SCALEFEED (R117). -/
def execScalefeed (c : Fin 64) (q : Fin 16) (host : Cells) (s : State) : Host.Outcome State Fault Refusal :=
  .next ((s.hostSeen host).startStream c q 4)

/-- DESCRIPTOR_COMPLETE (R111): the queue's first descriptor has moved; its flags enter STREAM_FLAGS, its DONE_PEG takes +1, and the
peg operations behind it leave. -/
def execDescriptorComplete (c : Fin 64) (q : Fin 16) (s : State) : Host.Outcome State Fault Refusal :=
  let l := Tbl.get [] q.val (s.core c).run.queues
  match l with
  | .desc _ donePeg index true fl :: es =>
    if !s.alive || !(s.core c).run.active then .next s
    else
      let s := s.modCore c (fun k => { k with
        regs := k.regs.raiseStream fl
        run := { k.run with queues := Tbl.set [] q.val es k.run.queues, lqDone := k.run.lqDone.filter (fun x => x.1 != index) } })
      let s := if donePeg < 48 then s.pegOp (.core c) donePeg c (.add 1) else s
      .next (State.drainPegs c q es s)
  | _ => .next s

end Sys2Proof.Machine
end

