-- ==== Sys2Proof/WellFormed.lean ====
section
/-! DEFINITION. Well-formed commands: the operands that an event of its kind can carry. A command that is not well formed is no event of
the hardware. -/

namespace Sys2Proof

open Machine

/-- Whether a word has a CLASS and OP (R77). -/
def coreOwn (cls op : Nat) (w : Word) : Bool := fld w.toNat 0 4 == cls && fld w.toNat 4 3 == op

/-- The number of ops of a class (R77): a class without ops is illegal. -/
def classOps : Nat → Nat
  | 0 => 5 | 1 => 2 | 2 => 2 | 3 => 5 | 4 => 3 | 5 => 4 | _ => 0

/-- Whether a word's class or op is illegal (R77, R102). -/
def coreIllegal (w : Word) : Bool := decide (classOps (fld w.toNat 0 4) ≤ fld w.toNat 4 3)

/-- Whether a word may stand under the core-word command of a CLASS and OP: a word of that class and op, or an illegal one (log entry 7). -/
def coreWordFits (cls op : Nat) (w : Word) : Bool := coreOwn cls op w || coreIllegal w

/-- Whether a word may stand under ROWSTAT (FUNC not 1) or ROWSTAT_COMBINE (FUNC 1), R152, R155. -/
def rowstatFits (combine : Bool) (w : Word) : Bool := (coreOwn 3 2 w && (fld w.toNat 16 8 == 1) == combine) || coreIllegal w

/-- The TYPE of a frame (R286). -/
def frameFits (type : Nat) (f : Frame) : Bool := fld f.hdr.toNat 8 8 == type

/-- The OPCODE of an intake entry (R222). -/
def entryFits (op : Nat) (e : BitVec 256) : Bool := fld e.toNat 240 8 == op

/-- The opcodes of R224. -/
def entryOpcodes : List Nat := [0x01, 0x02, 0x10, 0x11, 0x12, 0x20, 0x21, 0x30, 0x31, 0x40, 0x41]

/-- Rates and widths of R318: 2.5 GT/s to 32 GT/s as 1 to 5, ×1, ×2, ×4, ×8 and ×16. -/
def rateFits (speed : Fin 6) (width : Fin 17) : Bool :=
  decide (1 ≤ speed.val) && [1, 2, 4, 8, 16].contains width.val

/-- The contained codes of the code table (R405). -/
def containedCode (c : Nat) : Bool :=
  [(0x2122, 0x2122), (0x2130, 0x2136), (0x2201, 0x2204), (0x2330, 0x2333), (0x2442, 0x2444), (0x2554, 0x2558), (0x255A, 0x255A), (0x2601, 0x260C),
    (0x2720, 0x2722), (0x2730, 0x2731), (0x2816, 0x2817), (0x2901, 0x2902), (0x2B20, 0x2B20), (0x2C20, 0x2C25)].any
    (fun r => decide (r.1 ≤ c ∧ c ≤ r.2))

/-- The check of each command's operands. -/
def Instr.wf : Instr → Bool
  | .nop _ w => coreWordFits 0 0 w
  | .endPart _ w => coreWordFits 0 1 w
  | .loop _ w => coreWordFits 0 2 w
  | .setc _ w => coreWordFits 0 3 w
  | .ldcx _ w => coreWordFits 0 4 w
  | .mm _ w => coreWordFits 1 0 w
  | .mmw _ w => coreWordFits 1 1 w
  | .decanterForward _ w => coreWordFits 2 0 w
  | .decanterRecompute _ w => coreWordFits 2 1 w
  | .map _ w => coreWordFits 3 0 w
  | .episet _ w => coreWordFits 3 1 w
  | .rowstat _ w => rowstatFits false w
  | .rowstatCombine _ w => rowstatFits true w
  | .rownorm _ w => coreWordFits 3 3 w
  | .tbload _ w => coreWordFits 3 4 w
  | .submit _ w => coreWordFits 4 0 w
  | .kfetch _ w => coreWordFits 4 1 w
  | .convfeed _ w => coreWordFits 4 2 w
  | .pegSet _ w => coreWordFits 5 0 w
  | .pegAdd _ w => coreWordFits 5 1 w
  | .acquire _ w => coreWordFits 5 2 w
  | .monitor _ w => coreWordFits 5 3 w
  | .stewardPegSet _ _ store => decide (fld store.data.toNat 56 3 ≠ 1)
  | .stewardPegAdd _ _ store => decide (fld store.data.toNat 56 3 ≠ 0)
  | .request _ _ e _ => entryFits 0x01 e
  | .cancel _ _ e _ => entryFits 0x02 e
  | .stakeLoad _ _ e _ => entryFits 0x10 e
  | .domainLoad _ _ e _ => entryFits 0x11 e
  | .domainPurge _ _ e => entryFits 0x12 e
  | .modelLoad _ _ e _ => entryFits 0x20 e
  | .modelUnload _ _ e => entryFits 0x21 e
  | .kickerLoad _ _ e _ _ => entryFits 0x30 e
  | .kickerDrop _ _ e => entryFits 0x31 e
  | .sessionClose _ _ e => entryFits 0x40 e
  | .sessionQuery _ _ e => entryFits 0x41 e
  | .intakeIllegalOpcode _ _ e => !entryOpcodes.contains (fld e.toNat 240 8)
  | .syncArrive _ f => frameFits 0x20 f
  | .syncRelease _ f => frameFits 0x21 f
  | .shipGrant _ f => frameFits 0x31 f
  | .shipRefuse _ f => frameFits 0x32 f
  | .shipNack _ f => frameFits 0x34 f
  | .shipDone _ f => frameFits 0x35 f
  | .shipAbort _ f => frameFits 0x36 f
  | .shipOffer _ f => frameFits 0x30 f
  | .accept _ f => frameFits 0x09 f
  | .write _ f => frameFits 0x10 f
  | .revokeAck _ f => frameFits 0x13 f
  | .modelReq _ f => frameFits 0x40 f
  | .modelStripe _ f => frameFits 0x44 f
  | .modelHave _ f => frameFits 0x41 f
  | .modelNone _ f => frameFits 0x42 f
  | .modelDone _ f => frameFits 0x43 f
  | .null _ f => frameFits 0x00 f
  | .hello _ f => frameFits 0x01 f
  | .cert _ f => frameFits 0x02 f
  | .kemEk _ f => frameFits 0x03 f
  | .kemCt _ f => frameFits 0x04 f
  | .auth _ f => frameFits 0x05 f
  | .finish _ f => frameFits 0x06 f
  | .replayReq _ f => frameFits 0x08 f
  | .windowGrant _ f => frameFits 0x11 f
  | .linkEnable _ _ v => bit v.toNat 0
  | .linkDisable _ _ v => !bit v.toNat 0
  | .retrain _ _ v => bit v.toNat 2
  | .quarRelease _ _ v => bit v.toNat 1
  | .rackingWindowEnable _ _ _ v => bit v.toNat 0
  | .ringEnable _ _ _ v => bit v.toNat 0
  | .ringDisable _ _ _ v => !bit v.toNat 0
  | .zeroise _ v => bit v.toNat 1
  | .attestationGo _ v => bit v.toNat 0
  | .passAbort _ code => containedCode code.toNat
  | .rescueNext _ v => bit v.toNat 1
  | .rescueGo _ v _ => bit v.toNat 0
  | .registerWrite (.port _) _ _ _ => true
  | .registerWrite _ (.bar0 _) _ _ => true
  | .registerWrite _ (.seat _ _) _ _ => false
  | .registerWrite _ (.bar4 _) _ _ => false
  | .registerWrite _ (.msixControl _) _ _ => false
  | .pcieLinkUp _ speed width => rateFits speed width
  | .rateWidthChange _ speed width => rateFits speed width
  | .pegRegister _ => true
  | .pegWake _ => true
  | .pegClaim _ => true
  | .streamCopy _ _ _ => true
  | .streamGather _ _ _ => true
  | .streamScatter _ _ _ => true
  | .scalefeed _ _ _ => true
  | .descriptorComplete _ _ => true
  | .weightRoundRequest _ => true
  | .weightRoundStart => true
  | .passLaunch _ _ => true
  | .completionSlotWrite _ => true
  | .passCommit _ _ => true
  | .rackComplete _ _ => true
  | .passRetry _ => true
  | .drainLimitExpiry _ => true
  | .pegWaitExpiry _ => true
  | .passWatchdogExpiry _ => true
  | .chipBarrierExpiry _ => true
  | .stewardWatchdogExpiry _ => true
  | .kick _ _ => true
  | .handArrival _ _ _ => true
  | .modelDrained _ => true
  | .modelDrainTimeout _ => true
  | .modelPartitionsSet _ _ _ => true
  | .vineWalk _ _ => true
  | .stakeIntervalStart _ => true
  | .pruneRound _ _ => true
  | .unrack _ _ => true
  | .rackExpiry _ => true
  | .completionRecordWrite _ _ => true
  | .cqHeadWrite _ _ _ _ => true
  | .shipOfferTimeout _ => true
  | .shipLimitExpiry _ => true
  | .windowRevoke _ => true
  | .revokeGraceExpiry _ => true
  | .modelReplyTimeout _ => true
  | .modelLimitExpiry _ => true
  | .signalDetect _ => true
  | .signalLoss _ => true
  | .trainingTimeout _ => true
  | .trainingRestart _ => true
  | .fecLock _ => true
  | .linkFrameMalformed _ _ => true
  | .handshakeTimeout _ => true
  | .handshakeRefusedRetry _ => true
  | .rekeyStart _ => true
  | .rekeyTimeout _ => true
  | .livenessTimeout _ => true
  | .fecUncorrLimit _ _ => true
  | .replayNoProgress _ => true
  | .creditStall _ _ => true
  | .slowExit _ => true
  | .quarantineHoldExpiry _ => true
  | .perstAssert _ => true
  | .perstDeassert _ => true
  | .dataLinkDown _ _ => true
  | .hotReset _ => true
  | .pfFlr _ => true
  | .pfBmeClear _ => true
  | .vfEnableClear _ _ => true
  | .seatFlr _ _ => true
  | .seatBmeClear _ _ => true
  | .d3hotEntry _ _ => true
  | .quiesceDone _ _ => true
  | .busMasterEnableSet _ _ => true
  | .estimateIntervalEnd _ => true
  | .pmbusCalibration _ => true
  | .boostEntry => true
  | .boostPowerGood => true
  | .temperatureReading _ => true
  | .hbmTemperatureReading _ => true
  | .coolantOkFall => true
  | .coolantOkRise => true
  | .coolantStop => true
  | .vrAlertAssert => true
  | .vrStatusRead _ => true
  | .fallbackWindowExpiry => true
  | .readyIdleEntry => true
  | .readyIdleWake => true
  | .rootPllLoss => true
  | .dbgChal => true
  | .dbgToken _ => true
  | .tokenVerified => true
  | .unlockLockoutExpiry => true
  | .dbgStatus _ => true
  | .dbgAccess _ => true
  | .dbgScan _ _ => true
  | .extest _ => true
  | .samplePreload _ => true
  | .idcode => true
  | .clamp _ => true
  | .highz _ => true
  | .bypass => true
  | .zeroisationComplete => true
  | .attestationSigned => true
  | .rngHealthFail => true
  | .drbgReseed => true
  | .uncorrectableDetect _ => true
  | .poisonConsume _ _ => true
  | .ceLimitReached _ _ => true
  | .cellarKeyRequest _ => true
  | .cellarKeyRelease _ => true
  | .targetedTestVerdict _ _ _ => true
  | .compaction _ _ => true
  | .hbmPatrolScrub _ _ _ => true
  | .sramPatrolScrub _ _ _ => true
  | .supply52vApply => true
  | .resetInAssert _ => true
  | .resetInDeassert _ => true
  | .firmwareReady => true
  | .loaderReboot => true
  | .rescueInstallDone _ => true
  | .readId => true
  | .readStatus => true
  | .readPower => true
  | .readTrip => true
  | .readLog _ => true
  | .readRepair _ => true
  | .readTime => true
  | .zarm => true
  | .zarmExpiry => true
  | .smbZeroise _ => true
  | .smbRescue _ => true
  | .enMate => true
  | .powerOnResetEnd => true
  | .enBreak => true
  | .inputLockout => true
  | .circuitBreakerTrip => true
  | .localTimeLowRead _ => true
  | .ctrClear _ _ _ => true
  | .refclkDetect _ => true
  | .pcieCompletionTimeout _ _ => true
  | .vfEnableSet _ _ => true
  | .vectorUnmask _ _ _ => true
  | .returnToD0 _ _ => true
  | .aspmL1Entry _ => true
  | .aspmL1Exit _ => true
  | .vrAlertDeassert => true
  | .returnToGated _ => true
  | .authSigned _ => true
  | .verificationDone => true
  | .unrackComplete _ _ => true

end Sys2Proof
end

