-- ==== Sys2Proof/Machine/SyncOps.lean ====
section
/-! DEFINITION. Barriers (R266–R270), the weight plan's rounds (R120–R127), the completion collector (R272–R274), watchdogs and the
abort of a pass (R275–R277, R467). -/

namespace Sys2Proof.Machine

/-- Pass table `t`. -/
def State.table (s : State) (t : Nat) : PassTable := Tbl.get {} t s.sync.tables

/-- Pass table `t` changed by `f`. -/
def State.modTable (s : State) (t : Nat) (f : PassTable → PassTable) : State :=
  s.modSync (fun y => { y with tables := Tbl.upd {} t f y.tables })

/-- Rows by which a pass's energy is shared (R361). -/
def PassTable.rowCount (x : PassTable) : Nat := max 1 (x.items.map (fun i => i.rows)).sum

/-- A table's pass as it counts for energy (R361); none where no pass was launched in it. -/
def PassTable.run (x : PassTable) : List PassRun :=
  if x.launch.isNone then []
  else [{ cores := popCount 64 x.mask.toNat, since := x.launchedAt, ended := x.closedAt, rows := x.rowCount
          shares := x.items.map (fun i => (i.rid, i.rows)) }]

/-- Table `t` freed (R273); what its pass drew in the present interval is still to be shared (R361). -/
def State.dropTable (s : State) (t : Nat) : State :=
  let ran := s.pow.ran ++ (s.table t).run
  { (s.modSync (fun y => { y with tables := Tbl.set {} t {} y.tables })) with pow := { s.pow with ran := ran } }

/-- Group `g` changed by `f`. -/
def State.modGroup (s : State) (g : Nat) (f : GroupRun → GroupRun) : State :=
  s.modSync (fun y => { y with groups := Tbl.upd {} g f y.groups })

/-! Barriers. -/

/-- Child links whose arrival of a sense has come, as a mask. -/
def GroupRun.child (x : GroupRun) (sense : Bool) : Nat := if sense then x.child1 else x.child0

/-- When the die phase of a sense completed, while its release is open. -/
def GroupRun.die (x : GroupRun) (sense : Bool) : Option Nat := if sense then x.die1 else x.die0

/-- Hand arrivals of a sense. -/
def GroupRun.hand (x : GroupRun) (sense : Bool) : Nat := if sense then x.hand1 else x.hand0

/-- The state of one sense replaced. -/
def GroupRun.setSense (x : GroupRun) (sense : Bool) (child hand : Nat) (die : Option Nat) : GroupRun :=
  if sense then { x with child1 := child, hand1 := hand, die1 := die } else { x with child0 := child, hand0 := hand, die0 := die }

/-- ARGS of a sync frame (R288). -/
def syncArgs (g : Nat) (sense : Bool) : Nat := g + 8 * b2n sense

/-- Whether sync frames travel on a link: in service with SYNC_OK (R297, R303). -/
def LinkSt.syncs (k : LinkSt) : Bool := k.live && k.syncOk

/-- A release of group `g` and sense `sense` (R269): frames to the children, +1 on every core's release peg, one more episode. -/
def State.releaseGroup (s : State) (g : Nat) (d : GroupDecl) (sense : Bool) : State :=
  let s := ((maskList 48 d.childLinks).filter (fun l => (s.link l).syncs)).foldl (fun s l => s.sendFrame l 0x21 (syncArgs g sense) []) s
  let s := s.modGroup g (fun x => { (x.setSense sense 0 0 none) with
    episodes := (x.episodes + 1) % 2 ^ 24, sense := !sense, upSent := x.upSent.erase sense })
  s.passHands.foldl (fun s h => (s.handCores h).foldl (fun s c => s.pegOp (.core c) d.releasePeg (96 + h) (.add 1)) s) s

/-- The chip phase of R268: with the die phase and every child's arrival complete, the root releases and another chip arrives at its
parent. Where the parent's link carries no sync frame the barrier waits for its watchdog (R297). -/
def State.chipPhase (s : State) (g : Nat) (d : GroupDecl) (sense : Bool) : State :=
  let x := s.sync.group g
  if (x.die sense).isNone ∨ x.child sense ≠ d.childLinks ∨ x.upSent.contains sense then s
  else if d.hasParent then
    if (s.link d.parentLink).syncs then
      (s.modGroup g (fun x => { x with upSent := x.upSent ++ [sense] })).sendFrame d.parentLink 0x20 (syncArgs g sense) []
    else s
  else s.releaseGroup g d sense

/-- HAND_ARRIVAL (R268): the collector counts a hand; with the last one the die phase is complete and the arrival peg reads 0. -/
def execHandArrival (h : Fin 18) (g : Fin 7) (sense : Bool) (s : State) : Host.Outcome State Fault Refusal :=
  match s.groupDecl g with
  | none => .next s
  | some d =>
    if !s.alive || !(s.sync.handMsgs.contains (h.val, g.val, sense)) then .next s
    else
      let s := s.modSync (fun y => { y with handMsgs := y.handMsgs.erase (h.val, g.val, sense) })
      let x := s.sync.group g
      let n := x.hand sense + 1
      if n = s.passHands.length then
        let s := s.setPeg .coll d.arrivePeg { (s.peg .coll d.arrivePeg) with value := 0 }
        let s := s.modGroup g (fun x => x.setSense sense (x.child sense) 0 (some s.time))
        .next (s.chipPhase g d sense)
      else
        let s := s.setPeg .coll d.arrivePeg { (s.peg .coll d.arrivePeg) with value := n }
        .next (s.modGroup g (fun x => x.setSense sense (x.child sense) n (x.die sense)))

/-- A child chip's arrival applied to the running pass (R268); one that is not earned is dropped as malformed (R269). -/
def State.childArrival (s : State) (l g : Nat) (sense : Bool) : State :=
  match s.groupDecl g with
  | some d =>
    let x := s.sync.group g
    if !(bit d.childLinks l) || bit (x.child sense) l || sense != x.sense then s.malformed l
    else (s.modGroup g (fun x => x.setSense sense (x.child sense ||| 2 ^ l) (x.hand sense) (x.die sense))).chipPhase g d sense
  | none => s.malformed l

/-- SYNC_ARRIVE (R268, R303): while no pass runs, the latch holds one arrival per group and sense. -/
def execSyncArrive (l : Fin 48) (f : Frame) (s : State) : Host.Outcome State Fault Refusal :=
  let g := fld f.head.args 0 3
  let sense := bit f.head.args 3
  frameCmd 0x20 f (s.receiveIn l f LinkSt.syncOk (fun s =>
    if s.running.isSome then s.childArrival l g sense
    else if (s.link l).latch.contains (g, sense) then s.malformed l
    else s.modLink l (fun k => { k with latch := k.latch ++ [(g, sense)] })))

/-- SYNC_RELEASE (R269): earned when this chip's arrival of that sense stands at the parent. -/
def execSyncRelease (l : Fin 48) (f : Frame) (s : State) : Host.Outcome State Fault Refusal :=
  let g := fld f.head.args 0 3
  let sense := bit f.head.args 3
  frameCmd 0x21 f (s.receiveIn l f LinkSt.syncOk (fun s => match s.groupDecl g with
    | some d => if d.hasParent && d.parentLink == l.val && (s.sync.group g).upSent.contains sense then s.releaseGroup g d sense
                else s.malformed l
    | none => s.malformed l))

/-! The weight plan. -/

/-- Rounds of the plan (R120). -/
def WeightSeq.roundCount (q : WeightSeq) : Nat := ceilDiv q.ntiles 6

/-- Cores of the running pass. -/
def State.passCores (s : State) : List Nat := maskList 64 s.runMask

/-- The last request of a round when core `c` requests it at time `t`: core and time. Of requests in one CTRL cycle, here those at one value
of the counter, the lowest-numbered core (R133; log entry 45). -/
def lastRequest (t c : Nat) (old : Nat × Nat) : Nat × Nat := if old.2 = t ∧ old.1 < c then old else (c, t)

/-- WEIGHT_ROUND_REQUEST (R123, R133): rounds 0–3 from pass start, round j once the slots of round j - 4 are free. -/
def execWeightRoundRequest (c : Fin 64) (s : State) : Host.Outcome State Fault Refusal :=
  let r := (s.core c).run
  let j := r.roundsReq
  if !s.alive || !r.active || r.stopped.isSome || !s.sync.seq.active || decide (s.sync.seq.roundCount ≤ j)
      || !(decide (j < 4) || decide (6 * (j - 3) ≤ r.cursor)) then .next s
  else
    .next ((s.modRun c (fun r => { r with roundsReq := j + 1 })).modSync (fun y => { y with
      seq := { y.seq with late := Tbl.set (64, 0) j (lastRequest s.time c.val (Tbl.get (64, 0) j y.seq.late)) y.seq.late } }))

/-- Bytes of a plan tile and of its fine scales (R58, R119). -/
def Seg.sizes (g : Seg) : Nat × Nat :=
  let f := (Fmt.ofCode g.fmt).getD .fp32
  let k := if g.k128 then 128 else 64
  (k * 64 * f.width / 8, if g.fs then (if f = .f4 then 512 else 128) else 0)

/-- Bytes carried into a queue slot with their poison; a refused read gives zeros marked as R30 marks them. -/
def State.carry (s : State) (src n dst : Nat) : State :=
  match s.readDev src n, canonPieces src n with
  | some (bs, _), some ps =>
    let s' := s.putMem dst bs
    (ps.foldl (fun (acc : State × Nat) p =>
      ((List.range p.2).foldl (fun t i => match s.poisonIn (p.1 + i) 1 with
        | some code => t.markPoison (dst + acc.2 + i) 1 code
        | none => t) acc.1, acc.2 + p.2)) (s', 0)).1
  | _, _ => (s.putMem dst (List.replicate n 0)).markPoison dst n 0x2201

/-- Plan tile `t` delivered to the ring queue of core `c` (R120, R124). Where its fine scales lie in the slot is the model's choice: directly
behind the weight bytes, as R128 has it for the local queue (DESIGN CHOICE, log entry 42). -/
def State.deliverTile (s : State) (t c : Nat) : State :=
  match planTile s.sync.seq.segs t with
  | none => s
  | some (g, k) =>
    let r := (s.core c).run
    let dst := sramAddr c (64 * r.rqBase + t % 24 * (512 * r.rqLines))
    let (n, m) := g.sizes
    let s := s.carry (g.base + k * n) n dst
    if m = 0 then s else s.carry (g.scaleBase + k * m) m (dst + n)

/-- Cores that plan tile `t` reaches: a drop tile those of the pass, a ring tile every ENABLED stop (R120, R121), with a ring queue only where
its core has had a launch. -/
def State.tileCores (s : State) (t : Nat) : List Nat :=
  if t % 6 = 5 then (List.range 64).filter (fun c => decide (s.slotOf c < 72 ∧ 0 < (s.core c).run.rqLines)) else s.passCores

/-- WEIGHT_ROUND_START (R120, R121, R123, R133): a round goes out once every core of the pass has requested it. When ACTIVE falls the spec does
not say: it falls with the start of the last round, or as the pass closes or is aborted (DESIGN CHOICE, log entry 45). -/
def execWeightRoundStart (s : State) : Host.Outcome State Fault Refusal :=
  let q := s.sync.seq
  let j := q.started
  if !s.alive || !q.active || decide (q.roundCount ≤ j) || !(s.passCores.all (fun c => decide (j < (s.core c).run.roundsReq))) then .next s
  else
    let tiles := (List.range 6).filterMap (fun i => if 6 * j + i < q.ntiles then some (6 * j + i) else none)
    let s := tiles.foldl (fun s t => (s.tileCores t).foldl (fun s c => s.deliverTile t c) s) s
    .next (s.modSync (fun y => { y with seq := { y.seq with
      started := j + 1, rounds := y.seq.rounds + 1, active := decide (j + 1 < y.seq.roundCount)
      lateCore := (Tbl.get (64, 0) j y.seq.late).1, late := Tbl.set (64, 0) j (64, 0) y.seq.late } }))

/-! Aborts (R101, R103, R127, R467). -/

/-- Whether a code stands for a program fault, which no retry can cure (R103, R134, R160, R179, R270). -/
def programFault (code : Nat) : Bool :=
  decide ((0x2130 ≤ code ∧ code ≤ 0x2136) ∨ (0x2201 ≤ code ∧ code ≤ 0x2204) ∨ (0x2330 ≤ code ∧ code ≤ 0x2333)
    ∨ (0x2442 ≤ code ∧ code ≤ 0x2444) ∨ code = 0x255A ∨ code = 0x2730 ∨ code = 0x2731)

/-- A core told of the abort of pass table `t`: it stops at the next word boundary and abandons a wait (R101). -/
def CoreRun.abort (t : Nat) (r : CoreRun) : CoreRun :=
  if r.active && r.table == t then { r with stopped := (match r.stopped with | some x => some x | none => some (2, 0)), wait := none } else r

/-- BARRIER of every collector peg cleared as the pass ends (R257). -/
def Sync.endBarriers (y : Sync) : Sync := { y with pegs := Tbl.mapVals {} (fun _ v => { v with barrier := false }) y.pegs }

/-- The first fault among the slots of a pass, by the lowest core (R103, R272): core and code. -/
def PassTable.slotFault (x : PassTable) : Option (Nat × Nat) :=
  (maskList 64 x.mask.toNat).findSome? (fun c =>
    let v := Tbl.get 0 c x.slots
    if bit x.present.toNat c && fld v 640 16 != 0 then some (c, fld v 640 16) else none)

/-- Whether the steward can still abort a pass: it runs, or it has closed and one of its slots shows a fault (R103). -/
def PassTable.abortable (x : PassTable) : Bool := x.state == .running || (x.state == .closed && x.slotFault.isSome)

/-- The steward aborts the pass of table `t` with `code`. -/
def State.abortPass (s : State) (t code : Nat) : State :=
  let x := s.table t
  if !x.abortable then s
  else
    let s := s.modTable t (fun x => { x with
      state := .aborting, abortAt := s.time, abortCode := code, mayRetry := !programFault code && !x.retried })
    let s := (maskList 64 x.mask.toNat).foldl (fun s c => s.modRun c (CoreRun.abort t)) s
    let s := if x.state = .running then s.modSync (fun y => { y.endBarriers with seq := { y.seq with active := false } }) else s
    s.count (fun k => { k with passesAborted := k.passesAborted + 1 })

/-- How many requests an abort with a code ends (R394): all of the pass where no retry follows (R103, R233), none where they ride the retry. -/
def PassTable.endedBy (x : PassTable) (code : Nat) : Nat :=
  if programFault code || x.retried then (x.items.map (fun i => i.rid)).eraseDups.length else 0

/-- The abort with its log entry. -/
def State.abortLogged (s : State) (t : Nat) (r : Report) : State :=
  if !(s.table t).abortable then s
  else (s.abortPass t r.code).report { r with detail := (s.table t).tag, reqs := (s.table t).endedBy r.code }

/-- The abort with a log entry and a test for each late core (R277, R396); one plain entry where none is late. -/
def State.abortCores (s : State) (t : Nat) (r : Report) (late : List Nat) : State :=
  if late = [] ∨ (s.table t).abortable = false then s.abortLogged t r
  else
    let x := s.table t
    late.foldl (fun s c => s.reportTest { r with detail := x.tag, reqs := x.endedBy r.code, kind := .coreSlot, unit := s.slotOf c }
      (.coreTest (s.slotOf c))) (s.abortPass t r.code)

/-- The code of the lowest-numbered core of the pass whose part met a fault (R103): in its slot, or where it has none yet, in its sequencer. -/
def State.coreFaultCode (s : State) (t : Nat) : Option (Nat × Nat) :=
  (s.table t).slotFault.or ((maskList 64 (s.table t).mask.toNat).findSome? (fun c =>
    let r := (s.core c).run
    match r.stopped with
    | some (_, code) => if code = 0 ∨ r.active = false ∨ r.table ≠ t then none else some (c, code)
    | none => none))

/-- PASS_ABORT (R101, R103): the steward aborts the pass with a core's fault code where one stands, else with its own, which is one of the
contained codes of R405. -/
def execPassAbort (t : Fin 4) (code : BitVec 16) (s : State) : Host.Outcome State Fault Refusal :=
  if containedCode code.toNat = false then .fault .illFormed
  else if !s.alive then .next s
  else match s.coreFaultCode t with
    | some (c, k) => .next (s.abortLogged t { code := k, kind := .coreSlot, unit := s.slotOf c })
    | none => .next (s.abortLogged t { code := code.toNat })

/-! The completion slot (R272, R273). -/

/-- SFU_BANK (R159). -/
def CoreRegs.sfuBank (r : CoreRegs) : Nat := r.sfuEpoch.toNat * 2 ^ 32 + r.sfuLoading.toNat * 2 ^ 16 + r.sfuCustom.toNat

/-- Decanter register 0x000 (R177). -/
def CoreRegs.decRows (r : CoreRegs) : Nat := r.nanRows % 2 ^ 32 * 2 ^ 32 + r.maskedRows % 2 ^ 32

/-- The slot of a core that ended with `cause` and `fault` (R272). -/
def Core.slotBits (k : Core) (cause fault : Nat) : Nat :=
  let r := k.regs
  k.run.index.toNat * 2 ^ 672 + cause % 256 * 2 ^ 664 + fault % 2 ^ 16 * 2 ^ 640 + r.pegStatus.bits * 2 ^ 576 + r.decRows * 2 ^ 512
    + r.sfuBank * 2 ^ 448 + r.streamFlags.toNat * 2 ^ 384 + r.inv3.bits * 2 ^ 320 + r.inv2.bits * 2 ^ 256 + r.inv1.bits * 2 ^ 192
    + r.inv0.bits * 2 ^ 128 + r.numStatus.toNat

/-- Registers cleared when they have been copied (R50, R132, R177, R279). -/
def CoreRegs.clearCopied (r : CoreRegs) : CoreRegs :=
  { r with numStatus := 0, inv0 := {}, inv1 := {}, inv2 := {}, inv3 := {}, nanRows := 0, maskedRows := 0, pegStatus := {}, streamFlags := 0 }

/-- The feed mode taken at a pass boundary, the launch or the end of a pass (R65, R73; log entry 41): the lowest cause that holds is
reported. -/
def CoreRegs.boundary (r : CoreRegs) (retry : Bool) : CoreRegs :=
  { r with
    forced := r.forceBcast
    feed := (retry && r.retryBcast) || r.forceBcast
    bcastCause := if retry && r.retryBcast then 3 else if r.forceBcast then 4 else 0 }

/-- Broadcast feed for the cube vectors of a targeted self-test (R65, R73). -/
def CoreRegs.selfTest (r : CoreRegs) : CoreRegs := { r with feed := true, bcastCause := 2 }

/-- Whether the test of a core error runs cube vectors (R396): those of the suits and of the whole core do, a bank's and the SFU's do not. -/
def cubeTest (code : Nat) : Bool := code == 0x2122 || code == 0x2720 || code == 0x2721

/-- The feed mode of a core that no pass uses (R65): a self-test with cube vectors that holds the core's key broadcasts, else the boundary's
causes stand. -/
def State.idleFeed (s : State) (c : Nat) (r : CoreRegs) : CoreRegs :=
  let a := Activity.coreTest (s.slotOf c)
  if s.integ.held.any (fun h => h.act == a && !h.suspended) && (s.integ.tests.find? (fun t => t.act == a)).any (fun t => cubeTest t.code)
  then r.selfTest else r.boundary false

/-- Whether a core's issued words and peg operations have completed (R97, R272). -/
def CoreRun.drained (r : CoreRun) : Bool := r.queues.all (fun kv => kv.2.isEmpty) && !r.kfetchOpen && !r.underWay

/-- The OR of a slot's clamp bits with the collector's record, whose other fields stand where the core has none (R279). -/
def mergeClamp (v : Nat) (coll : ClampRec) : Nat :=
  let p := fld v 576 64
  let c := coll.bits
  let hi := if bit p 63 then fld p 2 62 else fld c 2 62
  setFld v 576 64 (hi * 4 + (fld p 0 2 ||| fld c 0 2))

/-- The close of a pass whose slots are all present (R273): a running pass becomes CLOSED, and no barrier group is enabled any more (R303). -/
def State.closePass (s : State) (t : Nat) : State :=
  let x := s.table t
  if x.present ≠ x.mask then s
  else
    let s := if x.state = .running then s.modSync (fun y => { y.endBarriers with last := none, seq := { y.seq with active := false } }) else s
    s.modTable t (fun x => { x with
    slots := Tbl.mapVals 0 (fun _ v => mergeClamp v s.sync.collStatus) x.slots
    closedAt := some s.time
    state := if x.state = .running then .closed else x.state })

/-- A slot committed in the table of core `c`'s pass. -/
def State.commitSlot (s : State) (t c v : Nat) : State :=
  (s.modTable t (fun x => { x with
    present := x.present ||| BitVec.ofNat 64 (2 ^ c), slots := Tbl.set 0 c v x.slots })).closePass t

/-- COMPLETION_SLOT_WRITE (R272): a core that has stopped and drained, no claim of it on its way, writes its slot, clears what it copied and
is free. -/
def execCompletionSlotWrite (c : Fin 64) (s : State) : Host.Outcome State Fault Refusal :=
  let k := s.core c
  match k.run.stopped with
  | none => .next s
  | some (cause, fault) =>
    if !s.alive || !k.run.active || !k.run.drained || s.sync.claims.any (fun x => x.1 == c.val) then .next s
    else
      let s := s.modCore c (fun k => { k with
        regs := s.idleFeed c k.regs.clearCopied, run := { k.run with active := false } })
      .next (s.commitSlot k.run.table c (k.slotBits cause fault))

/-- DRAIN_LIMIT_EXPIRY (R467): a core that has not drained 1 ms after the abort is stopped by force. -/
def execDrainLimitExpiry (c : Fin 64) (s : State) : Host.Outcome State Fault Refusal :=
  let t := (s.core c).run.table
  let x := s.table t
  if !s.alive || !(s.core c).run.active || decide (x.state ≠ .aborting) || !(bit x.mask.toNat c) || bit x.present.toNat c
      || decide (s.time < x.abortAt + 100000) then .next s
  else
    let n := s.slotOf c
    let s := s.modCore c (fun k => { k with regs := s.idleFeed c k.regs.clearCopied, run := {} })
    let s := s.modSync (fun y => { y with missing := y.missing ||| BitVec.ofNat 64 (2 ^ c.val) })
    let s := s.commitSlot t c (3 * 2 ^ 664 + 0x2721 * 2 ^ 640)
    .next (s.reportTest { code := 0x2721, detail := x.tag, kind := .coreSlot, unit := n } (.coreTest n))

/-! Watchdogs (R275–R277). -/

/-- Cores whose arrival of a group's current sense is absent (R277). -/
def State.laggards (s : State) (g : Nat) : List Nat :=
  s.passCores.filter (fun c => bit (s.core c).run.senses.toNat g == (s.sync.group g).sense)

/-- The group whose release peg a waiting ACQUIRE names. -/
def State.releaseGroupOf (s : State) (w : PegWait) : Option Nat :=
  if w.acquire && !w.coll then
    (List.range 7).find? (fun g => match s.groupDecl g with | some d => d.releasePeg == w.peg | none => false)
  else none

/-- PEG_WAIT_EXPIRY (R275): the waiting word is abandoned with ENDCAUSE 3, LAGGARDS are recorded and the pass is aborted. -/
def execPegWaitExpiry (c : Fin 64) (s : State) : Host.Outcome State Fault Refusal :=
  match (s.core c).run.wait with
  | none => .next s
  | some w =>
    if !s.alive || !w.expired s.time then .next s
    else
      let s := match s.releaseGroupOf w with
        | some g => s.modSync (fun y => { y with laggards := BitVec.ofNat 64 (maskOf (s.laggards g)) })
        | none => s
      let s := s.modRun c (fun r => { r with wait := none, stopped := some (3, 0) })
      let s := s.modSync (fun y => { y with pegExp := satAdd 16 y.pegExp 1 })
      let late := match s.releaseGroupOf w with | some g => s.laggards g | none => []
      .next (s.abortCores (s.core c).run.table { code := 0x2720, kind := .coreSlot, unit := s.slotOf c } late)

/-- PASS_WATCHDOG_EXPIRY (R275, R277). -/
def execPassWatchdogExpiry (t : Fin 4) (s : State) : Host.Outcome State Fault Refusal :=
  let x := s.table t
  if !s.alive || decide (x.state ≠ .running) || decide (s.time < x.launchedAt + 100 * x.limitUs) then .next s
  else
    let s := s.modSync (fun y => { y with passExp := satAdd 16 y.passExp 1, missing := x.mask &&& ~~~x.present })
    .next (s.abortCores t { code := 0x2721 } (maskList 64 (x.mask &&& ~~~x.present).toNat))

/-- The link that keeps a group's chip phase open: its lowest child whose arrival is missing, else its parent, which has not released or
could not be reached. -/
def State.lateLink (s : State) (g : Nat) (d : GroupDecl) (sense : Bool) : Nat :=
  let x := s.sync.group g
  if x.upSent.contains sense then d.parentLink
  else ((maskList 48 d.childLinks).find? (fun l => !(bit (x.child sense) l))).getD d.parentLink

/-- CHIP_BARRIER_EXPIRY (R275): CHIP_WAIT_US after a die phase whose release is still open; the late link is named. -/
def execChipBarrierExpiry (g : Fin 7) (s : State) : Host.Outcome State Fault Refusal :=
  match s.running, s.groupDecl g with
  | some (t, _), some d =>
    let x := s.sync.group g
    let late := [false, true].find? (fun b => match x.die b with | some t0 => decide (t0 + 100 * d.chipWaitUs ≤ s.time) | none => false)
    match late with
    | none => .next s
    | some sense =>
      if !s.alive || !d.spans then .next s
      else
        let s := s.modSync (fun y => { y with chipExp := satAdd 16 y.chipExp 1 })
        let l := s.lateLink g d sense
        .next ((s.abortPass t 0x2722).reportTest
          { code := 0x2722, detail := (s.table t).tag, reqs := (s.table t).endedBy 0x2722, kind := .link, unit := l } (.linkTest l))
  | _, _ => .next s

/-- Whether the stewards run their firmware, so that their watchdogs count: from stage FIRMWARE on, in service or without (R275, R419, R420). -/
def State.firmwareRuns (s : State) : Bool :=
  s.alive && (s.pow.mstate == .active || s.pow.mstate == .readyIdle) && [0x0B, 0x0C, 0x0D].contains s.boot.stage

/-- STEWARD_WATCHDOG_EXPIRY (R275): all service stops. The watchdog is stopped after an entry to L2 or L3 (R379). -/
def execStewardWatchdogExpiry (n : Fin 4) (s : State) : Host.Outcome State Fault Refusal :=
  if !s.firmwareRuns || s.sec.invaded || decide (s.time < Tbl.get 0 n.val s.sync.kicks + 100000 * s.sync.stwKickMs) then .next s
  else .next (s.report { code := 0x3723, kind := .steward, unit := n.val })

/-! Steward accesses (R260). -/

/-- A write to a peg from outside the cores (R260), with the report of a refused one. Every bit outside OP and the operand must be 0, and
the access is of 8 bytes; a refused write is R30's device-fatal 0x3001. An operation on a barrier's arrival peg is misuse: it changes no
peg and aborts the pass (R103, R270). -/
def State.pegAccess (s : State) (src bytes addr data : Nat) (r : Report) : State :=
  let legal := decide (bytes = 8 ∧ fld data 59 5 = 0 ∧ fld data 24 32 = 0 ∧ fld data 56 3 ≤ 1)
  match pegAt addr, legal with
  | some (h, p), true =>
    if h = .coll ∧ (s.peg .coll p).barrier = true then
      match s.running with
      | some (t, _) => s.abortLogged t { r with code := 0x2731 }
      | none => s.report { r with code := 0x2731 }
    else s.pegOp h p src (if fld data 56 3 = 0 then .set (fld data 0 24) else .add (signed 24 (fld data 0 24)))
  | _, _ => s.report { r with code := 0x3001 }

/-- A steward's write to a peg (R260). -/
def State.stewardPeg (s : State) (n : Fin 4) (bytes addr data : Nat) : State :=
  if !s.alive then s else s.pegAccess (64 + n.val) bytes addr data { code := 0, addr := addr, kind := .steward, unit := n.val }

/-- A steward's read of a peg (R257, R260): 8 bytes at its address return its word; any other read is refused as R30 has it. -/
def State.stewardPegRead (s : State) (n : Fin 4) (bytes addr : Nat) : State :=
  if !s.alive then s
  else match pegAt addr, decide (bytes = 8) with
    | some (h, p), true => s.emit (.readData (.steward n) (s.peg h p).bits)
    | _, _ => s.report { code := 0x3001, addr := addr, kind := .steward, unit := n.val }

/-- A steward's access of either kind. -/
def State.stewardAccess (s : State) (n : Fin 4) (addr : Nat) (x : PegStore) : State :=
  if x.read then s.stewardPegRead n x.bytes addr else s.stewardPeg n x.bytes addr x.data.toNat

/-- STEWARD_PEG_SET (R260). -/
def execStewardPegSet (n : Fin 4) (addr : BitVec 48) (store : PegStore) (s : State) : Host.Outcome State Fault Refusal :=
  if fld store.data.toNat 56 3 = 1 then .fault .illFormed else .next (s.stewardAccess n addr.toNat store)

/-- STEWARD_PEG_ADD (R260). -/
def execStewardPegAdd (n : Fin 4) (addr : BitVec 48) (store : PegStore) (s : State) : Host.Outcome State Fault Refusal :=
  if fld store.data.toNat 56 3 = 0 then .fault .illFormed else .next (s.stewardAccess n addr.toNat store)

end Sys2Proof.Machine
end

