-- ==== Sys2Proof/Machine/Power.lean ====
section
/-! DEFINITION. The power manager (13_power_thermal.md): estimates, the cap, rails, boost, temperature, coolant and regulators. -/

namespace Sys2Proof.Machine

/-- Power-manager state changed by `f`. -/
def State.modPow (s : State) (f : Power → Power) : State := { s with pow := f s.pow }

/-- Domain `d`'s state; an unlisted domain is OFF. -/
def Power.dom (p : Power) (d : Nat) : Dom := Tbl.get .off d p.doms

/-- Domain `d`'s state at counter value `t`: after a wake from READY_IDLE the HBM domains are ON after 2.0 µs, and each pair of hands, 250 ns
after the pair before it, 1.0 µs after its own wake began (R345). -/
def Power.domAt (p : Power) (t d : Nat) : Dom :=
  let late := if d < 18 then 25 * (d / 2) + 100 else if d < 24 then 200 else 0
  if p.wokeAt ≠ 0 ∧ p.dom d = .on ∧ t < p.wokeAt + late then .low else p.dom d

/-- Domains of a range put in a state. -/
def Power.setDoms (p : Power) (ds : List Nat) (x : Dom) : Power := { p with doms := ds.foldl (fun t d => Tbl.set .off d x t) p.doms }

/-- PD00–PD17. -/
def handDoms : List Nat := List.range 18
/-- PD18–PD23. -/
def hbmDoms : List Nat := (List.range 6).map (fun i => 18 + i)

/-- The end of some work counts as activity for READY_IDLE (R341). -/
def State.noteActivity (s : State) : State := s.modPow (fun p => { p with lastActivity := s.time })

/-- The effective skip level (R349, R357, R358). -/
def Power.skip (p : Power) : Nat := if p.stopAll then 15 else max (max p.sCap p.sRail) (max p.sTherm p.sAlert)

/-- The cap in effect in mW (R350). -/
def Power.cap (p : Power) : Nat :=
  let c := 500 + 25 * p.capOn.toNat
  1000 * (if p.fallback then min c (500 + 25 * p.fallbackCode) else c)

/-- The end of boost or of its entry (R354); the divider follows at the next alignment point (R26). -/
def Power.endBoost (p : Power) : Power := { p with boosting := false, boostPending := false, powerGoodAt := none, boostHold := 0 }

/-- Hardware limits of R352: I_PK and I_SUS in A. -/
def railMax (r : Nat) : Nat × Nat :=
  match r with | 0 => (1800, 1500) | 1 => (420, 340) | 2 => (160, 130) | 3 => (200, 160) | _ => (180, 150)

/-- A rail with its reset limits, the hardware values. -/
def railReset (r : Nat) : Rail := { ipk := BitVec.ofNat 16 (railMax r).1, isus := BitVec.ofNat 16 (railMax r).2 }

/-- Rail `r`. -/
def Power.rail (p : Power) (r : Nat) : Rail := Tbl.get (railReset r) r p.rails

/-- Rail `r` replaced. -/
def Power.setRail (p : Power) (r : Nat) (x : Rail) : Power := { p with rails := Tbl.set (railReset r) r x p.rails }

/-- Rail voltage in mV (R352). -/
def Power.railMv (p : Power) (r : Nat) : Nat :=
  match r with | 0 => if p.boosting || p.boostPending || p.div8 then 750 else 680 | 1 => 750 | 2 => 1100 | 3 => 400 | _ => 900

/-- Mean of the first `n` values of a list. -/
def meanOf (n : Nat) (l : List Nat) : Nat := (l.take n).sum / max 1 (min n l.length)

/-- Dynamic power in mW of a rail in an interval (R346): pJ per 2 µs are 1/2000 mW. -/
def Power.dynMw (p : Power) (r : Nat) (a : Activity2us) : Nat :=
  ((a.counts.zipIdx.map (fun x => (x.1.zipIdx.map (fun y => Config.eventPj p.energy r x.2 y.2 * y.1)).sum)).sum) / 2000

/-- A rail's estimate in mW (R346, R347): leakage of the 34 domains and the fabric, dynamic power, and the offset. -/
def Power.railMw (p : Power) (r : Nat) (a : Activity2us) : Nat :=
  (Int.ofNat (((List.range 35).map (fun d => Config.leakMw p.energy r d p.temps (p.railMv r))).sum + p.dynMw r a) + (p.rail r).offset).toNat

/-- A rail after an interval with estimate `mw`: its current enters the windows and exceeded limits are counted (R352, R353). -/
def Rail.step (x : Rail) (mw mv : Nat) : Rail :=
  let h := (mw * 1000 / mv :: x.hist).take 2000
  { x with
    hist := h, est := (mw :: x.est).take 500
    pkHits := if x.ipk.toNat * 1000 < meanOf 10 h then satAdd 32 x.pkHits 1 else x.pkHits
    susHits := if x.isus.toNat * 1000 < meanOf 2000 h then satAdd 32 x.susHits 1 else x.susHits }

/-- Whether a window of a rail exceeds its limit. -/
def Rail.exceeds (x : Rail) : Bool := decide (x.ipk.toNat * 1000 < meanOf 10 x.hist ∨ x.isus.toNat * 1000 < meanOf 2000 x.hist)

/-- Whether both windows lie below 95 % of their limits. -/
def Rail.calm (x : Rail) : Bool := decide (meanOf 10 x.hist < x.ipk.toNat * 950 ∧ meanOf 2000 x.hist < x.isus.toNat * 950)

/-- The cap controller of R351, on the interval's P and the mean of the last 8, in mW. A negative excess lowers the rise, never
below 0 (DEDUCED, log entry 10). -/
def Power.capStep (p : Power) (pn avg8 : Nat) : Power :=
  let c := p.cap
  if p.boosting && decide (95 * c < 100 * avg8 ∨ c < pn) then p.endBoost
  else if 110 * c < 100 * pn ∨ c < avg8 then
    let x : Int := Int.ofNat p.sCap + 1 + (16 * (Int.ofNat avg8 - Int.ofNat c)) / Int.ofNat (max 1 avg8)
    { p with sCap := min 15 x.toNat, sinceRaise := 0 }
  else if 100 * avg8 < 95 * c ∧ 16 ≤ p.sinceRaise then { p with sCap := p.sCap - 1 }
  else p

/-- Whether the conditions of R354 other than the dwell hold. -/
def Power.boostOk (p : Power) (avg8 dyn0 : Nat) : Bool :=
  !p.fixed && p.boostEn && p.skip == 0 && !p.fallback && !p.throttle && decide (p.tjMax < 95)
    && (List.range 5).all (fun r => decide (meanOf 2000 (p.rail r).hist < (p.rail r).isus.toNat * 900))
    && decide (100 * (1000 * avg8 + 369 * dyn0) ≤ 95 * 1000 * p.cap)

/-- The rails' part of an interval's end (R353). -/
def Power.railStep (p : Power) (a : Activity2us) : Power :=
  let p := (List.range 5).foldl (fun p r => p.setRail r ((p.rail r).step (p.railMw r a) (p.railMv r))) p
  let above := (List.range 5).any (fun r => (p.rail r).exceeds)
  let calm := (List.range 5).all (fun r => (p.rail r).calm)
  let q := if calm then p.railQuiet + 1 else 0
  { p with
    railOver := above
    sRail := if above then min 15 (p.sRail + 2) else if 16 ≤ q then p.sRail - 1 else p.sRail
    railQuiet := if 16 ≤ q then 0 else q }

/-- SLOW cycles in which a pass ran of the interval that ended last before counter value `t`: interval n is [200n, 200n + 200) (R15, R361). -/
def PassRun.cyclesIn (x : PassRun) (t : Nat) : Nat :=
  let e := t / 200 * 200
  (match x.ended with | some c => min c e | none => e) - max x.since (e - 200)

/-- Energy added to a request charged by mode 0. -/
def Serve.charge (v : Serve) (rid nj : Nat) : Serve :=
  { v with reqs := v.reqs.map (fun r => if r.rid = rid ∧ r.attrMode = 0 then { r with energy := r.energy + nj } else r) }

/-- Mode 0 of R361 for one interval: link power to shipments by bytes, the rest to passes by cores and cycles and to their requests by
rows, what remains to IDLE_ENERGY. -/
def State.attribute (s : State) (chipNj linkNj : Nat) : State :=
  let ships := s.pow.shipBytes
  let total := (ships.map Prod.snd).sum
  let linkShare := if total = 0 then 0 else linkNj
  let s := ships.foldl (fun s x => s.modServe (fun v => v.charge x.1 (linkShare * x.2 / max 1 total))) s
  let rest := chipNj - linkShare
  let runs := s.pow.ran ++ (List.range 4).flatMap (fun t => (s.table t).run)
  let share := fun (x : PassRun) => rest * (x.cores * x.cyclesIn s.time) / 12800
  let s := runs.foldl (fun s x => x.shares.foldl (fun s i => s.modServe (fun v => v.charge i.1 (share x * i.2 / x.rows))) s) s
  let used := (runs.map share).sum
  s.modPow (fun p => { p with chipNj := p.chipNj + chipNj, idleNj := p.idleNj + (rest - used), shipBytes := [], ran := p.ran.filter (fun x => match x.ended with | some c => decide (s.time / 200 * 200 < c) | none => true) })

/-- Whether an estimate interval has ended at counter value `t` that has not been handled: interval n is [200n, 200n + 200) (R15, R346). -/
def Power.intervalDue (p : Power) (t : Nat) : Bool := decide (p.ended < t / 200)

/-- Under FIXED, the running pass marked where S is above 0 (R355). -/
def State.noteSkip (s : State) : State :=
  match s.running with
  | some (t, x) =>
    if s.pow.fixed && decide (0 < s.pow.skip) && !x.skipSeen then s.modTable t (fun x => { x with skipSeen := true }) else s
  | none => s

/-- ESTIMATE_INTERVAL_END (R346, R351, R353, R361). -/
def execEstimateIntervalEnd (a : Activity2us) (s : State) : Host.Outcome State Fault Refusal :=
  if s.pow.mstate = .standby ∨ s.pow.mstate = .tripped ∨ s.pow.intervalDue s.time = false then .next s
  else
    let s := s.modPow (fun p => { p with ended := s.time / 200 })
    let mw := ((List.range 5).map (fun r => s.pow.railMw r a)).sum
    let linkMw := ((List.range 5).map (fun r => ((List.range 6).map (fun i => Config.leakMw s.pow.energy r (24 + i) s.pow.temps (s.pow.railMv r))).sum
      + s.pow.dynMw r { counts := a.counts.zipIdx.map (fun x => if 24 ≤ x.2 ∧ x.2 ≤ 29 then x.1 else []) })).sum
    let s := s.modPow (fun p => { p with hist := (mw :: p.hist).take 500, sinceRaise := p.sinceRaise + 1 })
    let avg8 := meanOf 8 s.pow.hist
    let s := s.modPow (fun p => (if p.fixed then { p with sCap := 0 } else p.capStep mw avg8).railStep a)
    let s := s.modPow (fun p =>
      if p.boostOk avg8 (p.dynMw 0 a) then { p with boostHold := p.boostHold + 1 }
      else if p.boosting || p.boostPending then p.endBoost else { p with boostHold := 0 })
    let s := (s.attribute (2 * mw) (2 * linkMw)).modPow (fun p => { p with capOn := p.capCode })
    let s := s.noteSkip
    let r0 := s.pow.rail 0
    let due := s.pow.railOver && (match r0.lastEvent with | some t => decide (t + 100000000 ≤ s.time) | none => true)
    if due then
      let r := ((List.range 5).find? (fun r => (s.pow.rail r).exceeds)).getD 0
      .next ((s.modPow (fun p => p.setRail 0 { r0 with lastEvent := some s.time })).report { code := 0x1A21, kind := .rail, unit := r })
    else .next s

/-- PMBUS_CALIBRATION (R347): measured power in mW per rail over the last 500 intervals, once 500 have ended since the calibration before. -/
def execPmbusCalibration (readings : List Nat) (s : State) : Host.Outcome State Fault Refusal :=
  if s.pow.mstate = .standby ∨ s.pow.mstate = .tripped ∨ (s.pow.rail 0).est.length < 500 then .next s
  else
  .next (s.modPow (fun p => (List.range 5).foldl (fun p r =>
    let x := p.rail r
    match readings[r]? with
    | some m =>
      let d : Int := (Int.ofNat m - Int.ofNat (meanOf 500 x.est)) / 8
      p.setRail r { x with est := [], offset := max (-50000) (min 50000 (x.offset + d)) }
    | none => p) p))

/-- BOOST_ENTRY (R354): conditions held for 500 intervals and the dwell has passed; VDD_ARRAY is commanded to 0.75 V. -/
def execBoostEntry (s : State) : Host.Outcome State Fault Refusal :=
  let p := s.pow
  if !s.alive || p.boosting || p.boostPending || p.fixed || !p.boostEn || decide (p.boostHold < 500 ∨ s.time < p.divAt + 1000000) then .next s
  else .next (s.modPow (fun p => { p with boostPending := true }))

/-- BOOST_POWER_GOOD (R354): 50 µs later divider 8 is taken, at the next alignment point (R26). -/
def execBoostPowerGood (s : State) : Host.Outcome State Fault Refusal :=
  if s.pow.boostPending && s.pow.powerGoodAt.isNone then .next (s.modPow (fun p => { p with powerGoodAt := some s.time })) else .next s

/-- All domains but PD33 switched off and the module TRIPPED (R27, R357–R359): no core, link or port keeps working, and HBM and SRAM contents
are lost, so they read as at power-on (log entry 12). A zeroisation that it interrupts is left to the next boot (R385). -/
def State.trip (s : State) (cause : Nat) (r : Report) : State :=
  let s := (s.report r).modSec (fun k => { k with zstate := if k.zstate = 1 then 3 else k.zstate })
  let s : State := { s with mem := [], integ := { s.integ with poison := [] }, serve := { s.serve with overlay := [] } }
  s.modPow (fun p => { (p.endBoost.setDoms (List.range 33) .off) with
    mstate := .tripped, tripAt := s.time, stopAll := true, div8 := false, tripCause := if p.tripCause = 0 then cause else min p.tripCause cause })

/-- Whether THERM_TRIP# is low: after a thermal trip, and in TRIPPED by a regulator fault, which R457 does not except as R27 and R358 except the
other causes (DEDUCED, log entry 12). -/
def Power.tripLow (p : Power) : Bool := p.thermTrip || (p.mstate == .tripped && p.tripCause == 4)

/-- A thermal trip (R357). -/
def State.thermalTrip (s : State) (cause : Nat) : State :=
  (s.trip cause { code := 0x3A30 }).modPow (fun p => { p with thermTrip := true })

/-- A cause other than a thermal trip that meets a module TRIPPED already: in the SLOW cycle of the trip it is logged too, and TRIP_CAUSE keeps the
lowest (R360, R460). -/
def State.tripTogether (s : State) (cause : Nat) (r : Report) : State :=
  if s.pow.tripAt = s.time ∧ s.pow.tripCause ≠ cause then s.trip cause r else s

/-- The entry of a thermal trip that comes in the SLOW cycle of a coolant stop: it stands before the stop's (R360). -/
def State.logTripFirst (s : State) : State :=
  let s := s.modInteg (fun g => { g with log := Tbl.upd {} ((g.nextSeq - 1) % 1024) (fun e => { e with code := 0x3A30 }) g.log })
  (s.modGlob (fun g => { g with firstFatal := g.firstFatal.map (fun x =>
    if x = (0x3A31, (s.integ.nextSeq + 2 ^ 32 - 1) % 2 ^ 32) then (0x3A30, x.2) else x) })).report { code := 0x3A31 }

/-- A thermal trip of a module TRIPPED already (R356, R358): THERM_TRIP# is asserted, where it is not yet, and the trip logged; TRIP_CAUSE keeps the
lowest of the causes of one SLOW cycle (R460). -/
def State.thermalAgain (s : State) (cause : Nat) : State :=
  let now := s.pow.tripAt = s.time
  let stop := now ∧ s.integ.newest.map (fun e => e.code) = some 0x3A31
  let s := if s.pow.thermTrip then s else if stop then s.logTripFirst else s.report { code := 0x3A30 }
  s.modPow (fun p => { p with thermTrip := true, tripCause := if now then min p.tripCause cause else p.tripCause })

/-- What a reading of 100 °C or more sets (R356). -/
def Power.hot (p : Power) (tj : Nat) : Power :=
  { p.endBoost with
    throttle := true, throttles := if p.throttle then p.throttles else satAdd 16 p.throttles 1
    sTherm := (if 105 ≤ tj then 15 else min 15 (p.sTherm + 1)), hot105 := decide (105 ≤ tj) }

/-- TEMPERATURE_READING (R356): the 26 junction sensors in °C. A reading that enters THROTTLE at 105 °C is one event, reported in the higher
class (R13). In STANDBY the management block's own sensor may trip again (R464). -/
def execTemperatureReading (temps : List Nat) (s : State) : Host.Outcome State Fault Refusal :=
  let tj := temps.foldl max 0
  if s.pow.mstate = .tripped then .next (if 115 ≤ tj then s.thermalAgain 1 else s)
  else if s.pow.mstate = .standby then .next (if 115 ≤ tj then s.thermalTrip 1 else s)
  else
    let p := s.pow
    let s := s.modPow (fun p => { p with tjMax := min tj 255, temps := temps })
    if 115 ≤ tj then .next ((s.modPow (fun p => p.hot tj)).thermalTrip 1)
    else if 100 ≤ tj then
      let s := s.modPow (fun p => p.hot tj)
      .next (if 105 ≤ tj ∧ p.hot105 = false then s.report { code := 0x1A23 } else if p.throttle then s else s.report { code := 0x0A10 })
    else if 97 ≤ tj then .next (s.modPow (fun p => { p with hot105 := false }))
    else
      let v := if p.hbmHot then max 8 (p.sTherm - 1) else p.sTherm - 1
      .next (s.modPow (fun p => { p with hot105 := false, sTherm := v, throttle := p.throttle && decide (0 < v) }))

/-- HBM_TEMPERATURE_READING (R356): the six stacks in °C. A stack at 95 °C holds S_THERM at 8 or more until a reading shows none. -/
def execHbmTemperatureReading (t : List Nat) (s : State) : Host.Outcome State Fault Refusal :=
  let m := t.foldl max 0
  if s.pow.mstate = .tripped then .next (if 105 ≤ m ∧ s.pow.tripAt = s.time then s.thermalAgain 2 else s)
  else if s.pow.mstate = .standby then .next s
  else
    let s := s.modPow (fun p => { p with
      thbmMax := min m 255, hbmHot := decide (95 ≤ m), sTherm := if 95 ≤ m then max 8 p.sTherm else p.sTherm
      refresh2 := BitVec.ofNat 6 (maskOf ((List.range 6).filter (fun i => decide (85 ≤ t.getD i 0)))) })
    .next (if 105 ≤ m then s.thermalTrip 2 else s)

/-- COOLANT_STOP (R358): COOLANT_OK low for 100 µs without a break, once POWER has begun (R421). The stop ends that low, which stops once. -/
def execCoolantStop (s : State) : Host.Outcome State Fault Refusal :=
  match s.pow.coolantLowAt with
  | some t => if s.pow.coolantOk || decide (s.time < t + 10000) then .next s
              else
                let u := s.modPow (fun p => { p with coolantLowAt := none })
                if s.pow.mstate = .tripped then .next (u.tripTogether 3 { code := 0x3A31 })
                else if s.pow.dom 32 == .off then .next s
                else .next (u.trip 3 { code := 0x3A31 })
  | none => .next s

/-- COOLANT_OK_FALL (R358). -/
def execCoolantOkFall (s : State) : Host.Outcome State Fault Refusal :=
  .next (s.modPow (fun p => if p.coolantOk then { p with coolantOk := false, coolantLowAt := some s.time } else p))

/-- VR_ALERT_ASSERT (R359). -/
def execVrAlertAssert (s : State) : Host.Outcome State Fault Refusal :=
  .next (s.modPow (fun p => { p.endBoost with vrAlert := true, vrRead := true, sAlert := 8, alertEndAt := none }))

/-- VR_STATUS_READ (R359): what the regulators answered. A read that shows no warning ends as one that shows warnings only (R453). -/
def execVrStatusRead (st : List VrFinding) (s : State) : Host.Outcome State Fault Refusal :=
  if !s.pow.vrRead || (s.pow.dom 32 == .off && s.pow.mstate != .tripped) then .next s
  else
  let s := s.modPow (fun p => { p with vrRead := false })
  if s.pow.mstate = .tripped then .next (if st.contains .fault then s.tripTogether 4 { code := 0x3A32 } else s)
  else
  if st.contains .fault then .next (s.trip 4 { code := 0x3A32 })
  else
    let fall := fun (p : Power) => { p with fallback := true, fallbacks := if p.fallback then p.fallbacks else satAdd 16 p.fallbacks 1 }
    if st.contains .silent then
      .next ((s.modPow (fun p => { (fall p) with fallbackHeld := true })).report { code := 0x1A22 })
    else .next ((s.modPow (fun p => { (fall p) with sAlert := 0 })).report { code := 0x1A20 })

/-- VR_ALERT_DEASSERT (R359). -/
def execVrAlertDeassert (s : State) : Host.Outcome State Fault Refusal :=
  .next (s.modPow (fun p => if p.vrAlert then { p with vrAlert := false, alertEndAt := some s.time } else p))

/-- FALLBACK_WINDOW_EXPIRY (R359): VR_ALERT# deasserted for 1 s. -/
def execFallbackWindowExpiry (s : State) : Host.Outcome State Fault Refusal :=
  match s.pow.alertEndAt with
  | some t => if s.pow.vrAlert || s.pow.fallbackHeld || decide (s.time < t + 100000000) then .next s
              else .next (s.modPow (fun p => { p with fallback := false, alertEndAt := none }))
  | none => .next s

/-- Whether work is under way that keeps the module ACTIVE (R341, R343). -/
def State.busy (s : State) : Bool :=
  s.running.isSome || (List.range 4).any (fun t => (s.table t).state != .free) || !s.lglob.ships.isEmpty || !s.integ.held.isEmpty
    || !s.serve.reqs.isEmpty || s.serve.sessions.any (fun kv => kv.2.state == .racking || kv.2.state == .unracking)
    || s.pages.parts.any (fun kv => kv.2.pruning) || s.lglob.fetch.isSome || (List.range 4).any (fun k => (s.model k).state == .loading)

/-- READY_IDLE_ENTRY (R341): hands gate, HBM domains go to self-refresh. -/
def execReadyIdleEntry (s : State) : Host.Outcome State Fault Refusal :=
  if !s.alive || s.busy || decide (s.pow.mstate ≠ .active ∨ s.pow.commitAt = some s.time ∨ s.pow.readyIdleMs = 0 ∨ s.time < s.pow.lastActivity + 100000 * s.pow.readyIdleMs)
  then .next s
  else .next (s.modPow (fun p => { (p.setDoms (handDoms ++ hbmDoms) .low) with mstate := .readyIdle, idleAt := some s.time }))

/-- The wake of R345. In the SLOW cycle that entered READY_IDLE the module stays ACTIVE instead (R360). -/
def State.wake (s : State) : State :=
  if s.pow.mstate = .readyIdle then
    s.modPow (fun p => { (p.setDoms (handDoms ++ hbmDoms) .on) with
      mstate := .active, wokeAt := if p.idleAt = some s.time then p.wokeAt else s.time, lastActivity := s.time, touched := [] })
  else s

/-- READY_IDLE_WAKE (R345). -/
def execReadyIdleWake (s : State) : Host.Outcome State Fault Refusal := .next s.wake

/-- RETURN_TO_GATED (R437): 1 µs after the last access, a domain woken for it returns to its low state. -/
def execReturnToGated (d : Fin 34) (s : State) : Host.Outcome State Fault Refusal :=
  match s.pow.touched.find? (fun kv => kv.1 == d.val) with
  | some (_, t) =>
    if decide (s.time < t + 100) then .next s
    else .next (s.modPow (fun p => { (if p.mstate = .readyIdle then p.setDoms [d.val] .low else p) with
      touched := p.touched.filter (fun kv => kv.1 != d.val) }))
  | none => .next s

/-- ROOT_PLL_LOSS (R27): clocks stop, domains off, TRIPPED. -/
def execRootPllLoss (s : State) : Host.Outcome State Fault Refusal :=
  if s.pow.mstate = .tripped then .next (s.tripTogether 5 { code := 0x3D20 })
  else if s.pow.mstate = .standby then .next s else .next (s.trip 5 { code := 0x3D20 })

end Sys2Proof.Machine
end

