-- ==== Sys2Proof/Machine/Sessions.lean ====
section
/-! DEFINITION. Completion records (R242, R243, R329), stakes (R245), sessions (R227, R228), racking (R216–R219, R248), pre-emption (R247)
and the end of a request. -/

namespace Sys2Proof.Machine

/-! Rings and records. -/

/-- The key of ring `n` of a port. -/
def ringKey (p : Port) (n : Nat) : Nat := 16 * p.num + n

/-- Ring `n` of port `p`. -/
def State.ring (s : State) (p : Port) (n : Nat) : Ring := Tbl.get {} (ringKey p n) s.serve.rings

/-- Ring `n` of port `p` changed by `f`. -/
def State.modRing (s : State) (p : Port) (n : Nat) (f : Ring → Ring) : State :=
  s.modServe (fun v => { v with rings := Tbl.upd {} (ringKey p n) f v.rings })

/-- The function that owns ring `n` (R221). -/
def State.ringFn (s : State) (p : Port) (n : Nat) : Nat := if (s.port p).seatMode then n else 0

/-- The ring's vector sent (R329). -/
def State.ringVector (s : State) (p : Port) (n : Nat) : State := s.sendVector p (s.ringFn p n) (s.ring p n).vector.toNat

/-- Whether the completion ring has room (R242). -/
def Ring.room (r : Ring) : Bool := decide ((r.cqTail - r.cqHead).toNat < 2 ^ r.log2cq.toNat)

/-- A record written at CQ_TAIL, with its vector; one whose place no window covers any more is dropped (R327). -/
def State.putRecord (s : State) (c : CompRec) : State :=
  let r := s.ring c.port c.ring
  let fn := s.ringFn c.port c.ring
  let size := 2 ^ r.log2cq.toNat
  let a := r.cqBase.toNat + 128 * (r.cqTail.toNat % size)
  let next := fun (s : State) => s.modRing c.port c.ring (fun r => { r with
    cqTail := r.cqTail + 1, cqPhase := if (r.cqTail + 1).toNat % size = 0 then !r.cqPhase else r.cqPhase })
  if (s.port c.port).grants fn a 128 true then
    let us := min ((s.time - c.tCommit) / 100) (2 ^ 32 - 1)
    let v := setFld (setFld c.bits 512 32 us) 1023 1 (b2n r.cqPhase)
    let s := (next (s.hostPut c.port a (leBytes 128 v))).count (fun k => { k with records := k.records + 1 })
    if r.armed then (s.ringVector c.port c.ring).modRing c.port c.ring (fun r => { r with armed := false }) else s
  else
    (next (s.modPort c.port (fun q => { q with cqDrop := q.cqDrop + 1 }))).report
      { code := 0x0912, detail := c.ring, kind := .port, unit := c.port.num, func := fn, ports := 2 ^ c.port.num }

/-- A record: written where its ring has room and no earlier record of the ring waits, else it waits (R242). -/
def State.record (s : State) (c : CompRec) : State :=
  if (s.ring c.port c.ring).room && !(s.serve.records.any (fun x => x.port == c.port && x.ring == c.ring)) then s.putRecord c
  else s.modServe (fun v => { v with records := v.records ++ [c] })

/-- COMPLETION_RECORD_WRITE (R242): the oldest waiting record of a ring. -/
def execCompletionRecordWrite (p : Port) (n : Fin 16) (s : State) : Host.Outcome State Fault Refusal :=
  match s.serve.records.find? (fun x => x.port == p && x.ring == n.val) with
  | some c => if !s.alive || !(s.ring p n).room then .next s
              else .next ((s.modServe (fun v => { v with records := v.records.erase c })).putRecord c)
  | none => .next s

/-- A KIND 1 record (R242) with an outcome and PAYLOAD bits. -/
def State.adminRecord (s : State) (a : AdminReply) (outcome payload : Nat) : State :=
  s.record { port := a.port, ring := a.ring, tCommit := a.tCommit
             bits := 2 ^ 1020 + outcome % 2 ^ 16 * 2 ^ 816 + a.cookie.toNat * 2 ^ 448 + payload % 2 ^ 448 }

/-! Stakes (R244, R245). -/

/-- The stake entry in force. -/
def Serve.stake (v : Serve) (k : Nat) : StakeEntry := Tbl.get {} k v.stakes

/-- A stake's run. -/
def Serve.run (v : Serve) (k : Nat) : StakeRun := Tbl.get {} k v.stakeRuns

/-- The interval of a stake at counter value `t`. -/
def StakeRun.now (r : StakeRun) (e : StakeEntry) (t : Nat) : Nat := (t - r.t0) / max 1 (e.len * 100000)

/-- USED in the present interval. -/
def StakeRun.usedAt (r : StakeRun) (e : StakeEntry) (t : Nat) : Nat := if r.now e t = r.interval then r.used else 0

/-- USED of stake `k` moved by `d` in the present interval. -/
def State.moveUsed (s : State) (k : Nat) (d : Int) : State :=
  let e := s.serve.stake k
  let r := s.serve.run k
  let u := (Int.ofNat (r.usedAt e s.time) + d).toNat
  s.modServe (fun v => { v with stakeRuns := Tbl.set {} k { r with interval := r.now e s.time, used := u } v.stakeRuns })

/-- A charge in sixteenths rounded up to whole units. -/
def stakeUnits (e : StakeEntry) (computed vine tokens : Nat) : Nat := ceilDiv (16 * computed + e.vineWt * vine + e.genWt * tokens) 16

/-- An adjustment of R245: it acts only while the interval of admission is current. -/
def State.adjust (s : State) (r : Req) (goal : Nat) : State :=
  let k := r.desc.stake
  let u := s.serve.run k
  if u.t0 = r.stakeT0 ∧ u.now (s.serve.stake k) s.time = r.stakeInterval then s.moveUsed k (Int.ofNat goal - Int.ofNat r.reserved) else s

/-! Requests. -/

/-- Request `rid`. -/
def State.req (s : State) (rid : Nat) : Option Req := s.serve.reqs.find? (fun r => r.rid == rid)

/-- Request `rid` changed by `f`. -/
def State.modReq (s : State) (rid : Nat) (f : Req → Req) : State :=
  s.modServe (fun v => { v with reqs := v.reqs.map (fun r => if r.rid == rid then f r else r) })

/-- An information code added to a request. -/
def Req.note (r : Req) (code : Nat) : Req := if r.info.contains code then r else { r with info := sortBy (fun a b => decide (a ≤ b)) (r.info ++ [code]) }

/-- Session `i`. -/
def State.sess (s : State) (i : Nat) : Session := s.serve.session i

/-- Session `i` changed by `f`. -/
def State.modSess (s : State) (i : Nat) (f : Session → Session) : State :=
  s.modSessions (Tbl.upd {} i f)

/-- The handle of session `i` (09_serving.md, Session table). -/
def State.handle (s : State) (i : Nat) : Nat := (s.sess i).hgen * 65536 + i

/-- Microseconds from a commit, saturating. -/
def usFrom (t0 t : Nat) : Nat := min ((t - t0) / 100) (2 ^ 32 - 1)

/-- Codes of R52 that a numeric summary shows. -/
def numCodes (ns : Nat) : List Nat :=
  let f := fld ns 0 6 ||| fld ns 6 6
  (if bit f 0 then [0x0110] else []) ++ (if bit f 1 then [0x0111] else []) ++ (if bit f 4 || bit f 5 then [0x0112] else [])
    ++ (if bit f 3 then [0x0113] else [])

/-- Whether a request was admitted (its session taken). -/
def Req.admitted (r : Req) : Bool := r.phase != .waitStake && r.phase != .waitModel

/-- The charge C of R245. -/
def Req.charge (r : Req) : Nat := if r.admitted then stakeUnits r.stakeEntry r.computed r.vine r.answer.length else 0

/-- The record of a request (R242). -/
def Req.toRecord (r : Req) (outcome handle tail : Nat) : CompRec :=
  let info := (numCodes r.numsum.toNat).foldl (fun l c => if l.contains c then l else l ++ [c]) r.info
  let info := sortBy (fun a b => decide (a ≤ b)) info
  let i := fun n => info.getD n 0
  { port := r.port, ring := r.ring, tCommit := r.tCommit
    bits := r.stop % 8 * 2 ^ 1017 + b2n (decide (4 < info.length)) * 2 ^ 1016 + min r.preempts 255 * 2 ^ 1008
      + r.stakeEpoch % 256 * 2 ^ 1000 + r.attrMode % 4 * 2 ^ 998 + min ((r.energy + 500000) / 1000000) (2 ^ 32 - 1) * 2 ^ 960
      + r.numsum.toNat * 2 ^ 896 + (i 0 + i 1 * 2 ^ 16 + i 2 * 2 ^ 32 + i 3 * 2 ^ 48) * 2 ^ 832 + outcome % 2 ^ 16 * 2 ^ 816
      + r.answer.length % 2 ^ 16 * 2 ^ 800 + min r.steps 65535 * 2 ^ 784 + handle % 2 ^ 32 * 2 ^ 736 + tail % 2 ^ 32 * 2 ^ 704
      + r.computed % 2 ^ 32 * 2 ^ 672 + r.vine % 2 ^ 32 * 2 ^ 640 + r.charge % 2 ^ 32 * 2 ^ 608
      + (if r.admitted then usFrom r.tCommit r.tAdmit else 0) * 2 ^ 576
      + (match r.tFirst with | some t => usFrom r.tCommit t | none => 0) * 2 ^ 544 + r.cookie.toNat * 2 ^ 448 }

/-- A KIND 2 event record for the ring that owns session `i` (R242, R247). -/
def State.eventRecord (s : State) (i code : Nat) : State :=
  let x := s.sess i
  s.record { port := x.port, ring := x.ring, tCommit := s.time
             bits := 2 * 2 ^ 1020 + s.handle i % 2 ^ 32 * 2 ^ 736 + x.tail % 2 ^ 32 * 2 ^ 704 + code % 2 ^ 16 * 2 ^ 432 }

/-- A kicker version freed once no request holds it and its name has left it (R251). -/
def kickerKeep (k : Option Kicker) : Option Kicker :=
  match k with
  | some x => if x.refs = 0 ∧ x.current = false then none else some x
  | none => none

/-- A request's reference on its kicker version ends. -/
def State.dropKicker (s : State) (k : Option Nat) : State :=
  match k with
  | some n => s.modServe (fun v => { v with
      kickers := Tbl.upd none n (fun x => kickerKeep (x.map (fun y => { y with refs := y.refs - 1 }))) v.kickers })
  | none => s

/-! Sessions (R227, R228). -/

/-- Pages of a list, holes left out. -/
def Session.held (x : Session) : List Nat := x.pages.filter (fun p => p != noIndex)

/-- Closing (R228): every page released, the entry freed with its generation raised. -/
def State.closeSess (s : State) (i : Nat) : State :=
  let x := s.sess i
  let s := (x.rackHeld ++ x.held).foldl State.release s
  let s := match x.rackEpoch with | some e => s.retireEpoch e | none => s
  s.modSessions (Tbl.set {} i { hgen := (x.hgen + 1) % 65536 })

/-- Closing of the vat (R194): VAT pages without tokens are released, the others become PRIVATE. Where a released page held no place at the end
but one below TAIL, that of a hole of an unrack (R219), the hole stands again, so that every entry keeps its positions (R190). -/
def State.closeVat (s : State) (i : Nat) : State :=
  let x := s.sess i
  let empty := x.pages.filter (fun p => p != noIndex && (s.page p).state == .vat && (s.page p).ntok == 0)
  let s := x.held.foldl (fun s p => if (s.page p).state = .vat ∧ (s.page p).ntok ≠ 0 then s.modPage p (fun d => { d with state := .priv }) else s) s
  let s := empty.foldl State.release s
  s.modSess i (fun x => { x with pages := x.pages.zipIdx.filterMap (fun y =>
    if !empty.contains y.1 then some y.1 else if 16 * y.2 < x.tail then some noIndex else none) })

/-- Whether a session lies free. -/
def State.sessFree (s : State) (i : Nat) : Bool := (s.sess i).state == .free

/-- The lowest free index of the session table (R227). -/
def State.freeSess (s : State) : Option Nat := (List.range (min 49152 (s.serve.sessions.length + 1))).find? s.sessFree

/-! Racking (R216–R218). -/

/-- A reference taken on every page of a list; none where one is refused (R205). -/
def State.takeAll (s : State) (ps : List Nat) : Option State := ps.foldl (fun (o : Option State) p => o.bind (fun s => s.take p)) (some s)

/-- The epoch of a rack copy drawn, and its pages pinned; it waits while R203 allows no tag (log entry 24). -/
def State.rackTag (s : State) (i : Nat) : State :=
  if s.pages.mayDraw then
    let s := s.drawEpoch
    let e := s.pages.newest
    let s := (s.sess i).held.foldl (fun s p => s.pin p e) s
    s.modSess i (fun x => { x with rackEpoch := some e })
  else s

/-- A rack starts: a reference on every page, none where one is refused (R205), an epoch, the session RACKING. -/
def State.startRack (s : State) (i why : Nat) : Option State :=
  let ps := (s.sess i).held
  (s.takeAll ps).map (fun s => (s.modSess i (fun x => { x with state := .racking, rackWhy := why, rackHeld := ps })).rackTag i)

/-- Offsets of a rack area in 4 KiB units: the first copy, and the units of one copy of a model. -/
def rackFirst (n : Nat) : Nat := ceilDiv (64 + 32 * n) 4096

/-- Bytes of the copies and of the whole area of a session's rack. -/
def State.rackBytes (s : State) (i : Nat) : Nat :=
  let x := s.sess i
  let n := (x.held.filter (fun p => (s.page p).state != .vine)).length
  4096 * (rackFirst x.pages.length + n * (s.model x.mslot).block.slot4k)

/-- The entry of the page of position `pos0`, with the offset that the next copy takes (R216). A hole that still stands, which has neither node nor
copy, is written as a KIND 1 entry of VKEY 0, so that the unrack meets a hole there again (DESIGN CHOICE, log entry 26). -/
def State.rackEntry (s : State) (p pos0 off : Nat) : Nat × Nat :=
  let d := s.page p
  let n := 128 + (s.model d.mslot).block.payload
  if p = noIndex then (pos0 % 2 ^ 32 * 2 ^ 64 + 16 * 2 ^ 8 + 1, off)
  else if d.state = .vine then
    ((s.header p).vkey * 2 ^ 128 + d.pos0 % 2 ^ 32 * 2 ^ 64 + d.ntok * 2 ^ 8 + 1, off)
  else
    (crc32c (memGet s.mem (s.slotAddr p) n) * 2 ^ 96 + d.pos0 % 2 ^ 32 * 2 ^ 64 + off * 2 ^ 24 + d.ntok * 2 ^ 8 + 2,
      off + (s.model d.mslot).block.slot4k)

/-- The copies and the record of a rack written to host memory, the header last. -/
def State.writeRack (s : State) (i : Nat) : State :=
  let x := s.sess i
  let n := x.pages.length
  let es := (x.pages.foldl (fun (acc : List (Nat × Nat) × Nat) p =>
    let (e, off) := s.rackEntry p (16 * acc.1.length) acc.2
    (acc.1 ++ [(e, acc.2)], off)) ([], rackFirst n)).1
  let s' := (x.pages.zip es).foldl (fun (t : State) y =>
    if fld y.2.1 0 2 = 2 then
      t.hostPut x.port (x.rack + 4096 * y.2.2) (memGet s.mem (s.slotAddr y.1) (128 + (s.model x.mslot).block.payload))
    else t) s
  let body := (es.map (fun y => leBytes 32 y.1)).flatten
  let s' := s'.hostPut x.port (x.rack + 64) body
  s'.hostPut x.port x.rack (leBytes 64
    (crc32c body * 2 ^ 480 + n * 2 ^ 448 + x.tail * 2 ^ 416 + (s.model x.mslot).gen % 65536 * 2 ^ 400 + x.domain * 2 ^ 386 + x.mslot * 2 ^ 384
      + 2 ^ 8 + 0x4B))

/-! The end of a request. -/

/-- What is left when the session has been seen to: the stake, the kicker, the counters, the record (R234, R245, R442). -/
def State.finishReq (s : State) (r : Req) (code handle tail : Nat) : State :=
  let s := if r.admitted then s.adjust r r.charge else s
  let s := s.dropKicker r.kicker
  let s := s.modServe (fun v => { v with reqs := v.reqs.filter (fun x => x.rid != r.rid) })
  let s := if r.admitted then
      s.count (fun k => { k with
        reqOk := if code = 0 ∧ r.silent = false then k.reqOk + 1 else k.reqOk
        reqErr := if code = 0 ∧ r.silent = false then k.reqErr else k.reqErr + 1
        posComputed := k.posComputed + BitVec.ofNat 64 r.computed, posVine := k.posVine + BitVec.ofNat 64 r.vine })
    else s
  let s := if code / 256 = 0x25 ∧ r.silent = false then s.report { code := code, ports := 2 ^ r.port.num, func := s.ringFn r.port r.ring, reqs := 1 } else s
  if r.silent then s.modFunc r.port (s.ringFn r.port r.ring) (fun f => { f with ended := f.ended + 1 })
  else s.record (r.toRecord code handle tail)

/-- Pages already taken released after a refused unrack; the session stays racked. -/
def State.dropUnrack (s : State) (i : Nat) : State :=
  let s := (s.sess i).held.foldl State.release s
  s.modSess i (fun x => { x with pages := [], state := .racked })

/-- The vat of a session whose request ends closed (R194); an unrack under way is given up, and the session stays racked. -/
def State.settleVat (s : State) (i : Nat) : State :=
  if (s.sess i).state = .racked then s else if (s.sess i).state = .unracking then s.dropUnrack i else s.closeVat i

/-- The end of request `r` with an outcome: its session follows END (R228); a lost or shipped session is closed. Where pre-emption is racking the
session (R247), that one rack goes on: for END 1 as the request's own, for END 0 as that of an IDLE session. -/
def State.endReq (s : State) (r : Req) (code : Nat) (closeIt : Bool) : State :=
  if !r.admitted then s.finishReq r code r.desc.session 0
  else
    let i := r.sess
    let h := s.handle i
    let s := s.settleVat i
    let tail := (s.sess i).tail
    let s := s.modSess i (fun x => { x with lastUse := now32 s.time, preempts := 0 })
    if closeIt || r.silent || r.desc.endMode == 2 then (s.closeSess i).finishReq r code h tail
    else if (s.sess i).state = .racking then
      if r.desc.endMode = 1 then
        (s.modSess i (fun x => { x with rackWhy := 0 })).modReq r.rid (fun x => { r with phase := .ending, endCode := some code, inPass := x.inPass })
      else (s.modSess i (fun x => { x with rackWhy := 1 })).finishReq r code h tail
    else if r.desc.endMode = 1 ∧ (s.sess i).rack ≠ 0 ∧ (s.sess i).state ≠ .racked then
      match s.startRack i 0 with
      | none => (s.modSess i (fun x => { x with state := .idle })).finishReq r 0x2555 h tail
      | some s => s.modReq r.rid (fun x => { r with phase := .ending, endCode := some code, inPass := x.inPass })
    else
      (s.modSess i (fun x => { x with state := if x.state = .busy then .idle else x.state })).finishReq r code h tail

/-- The end of a request that kept its session: where END does not close it, the closing row comes first (R228). -/
def State.closeWith (s : State) (r : Req) (code : Nat) : State :=
  if r.desc.endMode = 2 ∨ r.silent = true ∨ r.answer = [] then s.endReq r code false
  else s.modReq r.rid (fun _ => { r with phase := .closing, closeCode := code, waitSince := s.time })

/-- The request that holds session `i`. -/
def State.reqOf (s : State) (i : Nat) : Option Req := s.serve.reqs.find? (fun r => r.admitted && r.sess == i)

/-- Counter value at which a rack of the session expires, if it has a time to live (R218). -/
def State.rackExpiry (s : State) (i : Nat) : Option Nat :=
  let x := s.sess i
  if x.rackTtl = 0 then none else some (s.time + 100000 * x.rackTtl)

/-- RACK_COMPLETE (R217): of a copy that still waits for its tag, the start; else the host writes have ended. A failed write, or an area that no window covers or that is too small, leaves the
session resident with 0x2557. -/
def execRackComplete (i : Nat) (ok : Bool) (s : State) : Host.Outcome State Fault Refusal :=
  let x := s.sess i
  match x.rackEpoch with
  | none => .next (if s.alive && x.state == .racking then s.rackTag i else s)
  | some e =>
    if !s.alive || x.state != .racking then .next s
    else
      let fn := s.ringFn x.port x.ring
      let open_ := (s.port x.port).grantsBoth fn x.rack (4096 * x.rack4k) && ((s.port x.port).func fn).bme
      let good := ok && open_ && decide (s.rackBytes i ≤ 4096 * x.rack4k)
      let s := if open_ then s else s.dmaRefuse x.port
      let why := x.rackWhy
      let s := s.modPow (fun p => { p with lastActivity := s.time })
      if good then
        let s := s.writeRack i
        let s := (x.rackHeld ++ x.held).foldl State.release s
        let s := s.modSess i (fun x => { x with
          state := .racked, pages := [], rackHeld := [], rackEpoch := none, expiry := s.rackExpiry i, preempts := if why = 2 then satAdd 8 x.preempts 1 else x.preempts })
        let s := s.retireEpoch e
        if why = 1 then .next (s.eventRecord i 0x0614)
        else match s.reqOf i with
          | some r =>
            if why = 0 then .next (s.finishReq r (r.endCode.getD 0) (s.handle i) x.tail)
            else .next (s.modReq r.rid (fun r => { r.note 0x0611 with preempts := r.preempts + 1 }))
          | none => .next s
      else
        let s := x.rackHeld.foldl State.release s
        let s := (s.modSess i (fun x => { x with state := (if why = 2 then .busy else .idle), rackEpoch := none, rackHeld := [] })).retireEpoch e
        let rep : Report := { code := 0x2557, ports := 2 ^ x.port.num, func := fn }
        match s.reqOf i with
        | some r => if why = 0 then .next (s.finishReq r 0x2557 (s.handle i) x.tail) else .next (s.report rep)
        | none => .next (s.report rep)

/-- RACK_EXPIRY (R218, R248): an expired rack is dropped with 0x0553; a generating session's request ends with 0x2557. -/
def execRackExpiry (i : Nat) (s : State) : Host.Outcome State Fault Refusal :=
  let x := s.sess i
  match x.expiry with
  | some t =>
    if !s.alive || x.state != .racked || decide (s.time < t) then .next s
    else
      let s := s.report { code := 0x0553, ports := 2 ^ x.port.num, func := s.ringFn x.port x.ring }
      match s.reqOf i with
      | some r => .next (s.endReq r 0x2557 true)
      | none => .next (s.closeSess i)
  | none => .next s

/-! Unracking (R219, R248). -/

/-- The rack area of the latest request that named one (R227). -/
def Session.named (x : Session) (d : Desc) : Session :=
  if d.rack = 0 then x else { x with rack := d.rack, rack4k := d.rack4k, rackTtl := d.rackTtl }

/-- Host bytes read through the windows of the session's function; none where a window does not grant the read. -/
def State.hostRead (s : State) (p : Port) (fn a n : Nat) : Option (List Nat) :=
  if (s.port p).grants fn a n false && ((s.port p).func fn).bme then some (s.hostGet p a n) else none

/-- A host read counted in DMA_REFUSED where the windows refuse it (R325, R335). -/
def State.countRead (s : State) (p : Port) (fn a n : Nat) : State := if (s.hostRead p fn a n).isSome then s else s.dmaRefuse p

/-- The reads of a session's rack record counted: its header, then its entries. -/
def State.countRecord (s : State) (i : Nat) : State :=
  let x := s.sess i
  let fn := s.ringFn x.port x.ring
  match s.hostRead x.port fn x.rack 64 with
  | none => s.dmaRefuse x.port
  | some hb => s.countRead x.port fn (x.rack + 64) (32 * fld (ofLeBytes hb) 448 32)

/-- The reads of the copies of KIND 2 entries counted, up to the first that is refused. -/
def State.countCopies (s : State) (i : Nat) (es : List Nat) : State :=
  let x := s.sess i
  match es.find? (fun e => fld e 0 2 == 2 &&
      (s.hostRead x.port (s.ringFn x.port x.ring) (x.rack + 4096 * fld e 24 40) (128 + (s.model x.mslot).block.payload)).isNone) with
  | some _ => s.dmaRefuse x.port
  | none => s

/-- The record of a session's rack, once its header passes the checks of R219 in order: NTOKENS and the entries. -/
def State.rackRecord (s : State) (i : Nat) : Option (Nat × List Nat) :=
  let x := s.sess i
  let fn := s.ringFn x.port x.ring
  match s.hostRead x.port fn x.rack 64 with
  | none => none
  | some hb =>
    let h := ofLeBytes hb
    let n := fld h 448 32
    match s.hostRead x.port fn (x.rack + 64) (32 * n) with
    | none => none
    | some eb =>
      if fld h 0 8 = 0x4B ∧ fld h 8 8 = 1 ∧ fld h 480 32 = crc32c eb ∧ fld h 384 2 = x.mslot ∧ fld h 386 14 = x.domain
          ∧ fld h 400 16 = (s.model x.mslot).gen ∧ n ≤ 16384 then some (fld h 416 32, (chunks 32 n eb).map ofLeBytes)
      else none

/-- What a KIND 1 entry gives: the page taken, a miss, or a take that REFS refuses (R205). -/
inductive Walk1 where
  | page (p : Nat) (s : State)
  | miss (s : State)
  | refused (s : State)

/-- A KIND 1 entry walked as in R199 with the tokens that its header names, chained from the entry before. -/
def State.unrackWalk (s : State) (e pos0 k dom parent : Nat) : Walk1 :=
  let key := fld e 128 128
  let gen := (s.model k).gen
  let (v, s) := s.lookup key k dom gen
  match v with
  | none => .miss s
  | some v =>
    let toks := (s.header v.pdi).tokens
    let pk := if parent = noIndex then 0 else (s.header parent).vkey
    if vkey pk toks k dom ≠ key ∨ s.verify v.pdi toks pos0 k dom gen key parent = false then .miss (s.verifyFailed v.pdi)
    else match s.takeIfVine v.pdi gen with
      | .taken s => .page v.pdi (s.modPages (fun g => { g with hits := g.hits + 1 }))
      | .removed => .miss s
      | .refused => .refused s

/-! Pre-emption (R247). -/

/-- The order within a class of R247. -/
def State.evictsBefore (s : State) (a b : Nat) : Bool :=
  let x := s.sess a
  let y := s.sess b
  let t := fun (z : Session) => (now32 s.time + 2 ^ 32 - z.lastUse) % 2 ^ 32
  decide (x.prio < y.prio) || (x.prio == y.prio && (decide (t y < t x) || (t x == t y && decide (a < b))))

/-- Sessions of model slot `k` that a test picks, first victim first. -/
def State.victims (s : State) (k : Nat) (f : Nat → Session → Bool) : Option Nat :=
  leastBy s.evictsBefore ((s.serve.sessions.filter (fun kv => kv.2.mslot == k && f kv.1 kv.2)).map Prod.fst)

/-- Whether session `i` is generating and in no launched pass. -/
def State.restsGenerating (s : State) (i : Nat) : Bool :=
  match s.reqOf i with
  | some r => (r.phase == .generating || r.phase == .waitGen) && !r.inPass
  | none => false

/-- A page wanted by a request: allocated, still awaited (a rack must end first), or not to be had, with the code that ends the request. -/
inductive Want where
  | got (p : Nat) (s : State)
  | wait (s : State)
  | fail (code : Nat) (s : State)

/-- The rack of a pre-empted session begun; a take that REFS refuses aborts the request that asked for the room (R205). -/
def State.preemptRack (s : State) (v why : Nat) : Want :=
  match s.startRack v why with
  | some s => .wait s
  | none => .fail 0x2555 s

/-- The page for position `pos0` of session `i`, with pruning and pre-emption (R189, R247). -/
def State.wantPage (i k dom pos0 prio : Nat) : Nat → State → Want
  | 0, s => .fail 0x2554 s
  | n + 1, s =>
    match s.alloc i k dom pos0 with
    | (some p, s) => .got p s
    | (none, s) =>
      if s.serve.sessions.any (fun kv => kv.2.mslot == k && kv.2.state == .racking) then .wait s
      else match s.victims k (fun _ x => x.state == .idle && x.rack != 0) with
        | some v => s.preemptRack v 1
        | none => match s.victims k (fun _ x => x.state == .idle) with
          | some v => State.wantPage i k dom pos0 prio n ((s.eventRecord v 0x0613).closeSess v)
          | none => match s.victims k (fun j x => x.state == .busy && x.rack != 0 && decide (x.prio < prio) && s.restsGenerating j) with
            | some v => (s.closeVat v).preemptRack v 2
            | none => .fail 0x2554 s

/-! Unracking, entry by entry (R219). -/

/-- Restoring an unrack's entries in order: the list so far, whether the pages of a KIND 2 entry must wait for a rack to end (R247), and the
code that refuses the unrack. -/
structure Unracked where
  pages : List Nat := []
  waits : Bool := false
  stop : Option Nat := none
  s : State

/-- One entry restored: a walked node, a fresh page for a copy (R189, R247), or a hole, which every KIND 1 entry behind a hole is too. -/
def Unracked.entry (i k dom : Nat) (u : Unracked) (e : Nat) : Unracked :=
  let pos0 := 16 * u.pages.length
  let put := fun (p : Nat) (s : State) => { u with pages := u.pages ++ [p], s := s }
  if u.waits || u.stop.isSome then u
  else if fld e 64 32 ≠ pos0 then { u with stop := some 0x2557 }
  else if fld e 0 2 = 1 then
    if u.pages.contains noIndex then put noIndex u.s
    else match u.s.unrackWalk e pos0 k dom (u.pages.getLast?.getD noIndex) with
      | .page p s => put p s
      | .miss s => put noIndex s
      | .refused s => { u with stop := some 0x2555, s := s }
  else if fld e 0 2 = 2 then
    match State.wantPage i k dom pos0 (u.s.sess i).prio (u.s.serve.sessions.length + 2) u.s with
    | .got p s => put p s
    | .wait s => { u with waits := true, s := s }
    | .fail code s => { u with stop := some code, s := s }
  else { u with stop := some 0x2557 }

/-- A refused unrack (0x2557): the request ends, and the session stays racked. -/
def State.refuseUnrack (s : State) (i code : Nat) : State :=
  let s := (s.dropUnrack i).noteActivity
  match s.reqOf i with
  | some r => s.endReq r code false
  | none => s

/-- Whether a racked session is due: a new request always; a pre-empted generating one when FREE exceeds LOW_WATER by its page count,
over the six stacks (R248, DEDUCED, log entry 26). -/
def State.unrackDue (s : State) (i n : Nat) : Bool :=
  let x := s.sess i
  if x.rackWhy ≠ 2 then true
  else
    let free := ((List.range 6).map (fun m => s.pages.freeIn m x.mslot)).sum
    let low := ((List.range 6).map (fun m => (s.pages.part m x.mslot).low.toNat)).sum
    decide (low + n ≤ free)

/-- Whether a session may go on with its unrack now: a racked one that is awaited, due and not expired, or one whose pages waited (R247). -/
def State.unracks (s : State) (i n : Nat) : Bool :=
  let x := s.sess i
  if x.state = .unracking then decide (x.pages.length < n) else s.unrackDue i n

/-- UNRACK (R219): the checks, the walk of KIND 1 entries and the pages for KIND 2 entries; the session is UNRACKING. Where a page must wait
for another session's rack to end, the entries so far stand and the next UNRACK goes on behind them. -/
def execUnrack (i : Nat) (host : Cells) (s : State) : Host.Outcome State Fault Refusal :=
  let x := s.sess i
  let s := s.hostStore x.port host
  if !s.alive || (x.state != .racked && x.state != .unracking) || (s.reqOf i).isNone then .next s
  else if x.state == .racked && (match x.expiry with | some t => decide (t ≤ s.time) | none => false) then .next (s.refuseUnrack i 0x2557)
  else match s.rackRecord i with
    | none => .next ((s.countRecord i).refuseUnrack i 0x2557)
    | some (n, es) =>
      if !s.unracks i es.length then .next s
      else
        let u := (es.drop x.pages.length).foldl (Unracked.entry i x.mslot x.domain) { pages := x.pages, s := s }
        let s := u.s.modSess i (fun x => { x with pages := u.pages, tail := n, state := .unracking })
        match u.stop with
        | some code => .next (s.refuseUnrack i code)
        | none => .next s

/-- The copy of one KIND 2 entry checked against DCRC and its header fields, and written into its page. -/
def State.restorePage (s : State) (i p e : Nat) : Option State :=
  let x := s.sess i
  let n := 128 + (s.model x.mslot).block.payload
  match s.hostRead x.port (s.ringFn x.port x.ring) (x.rack + 4096 * fld e 24 40) n with
  | none => none
  | some bs =>
    let h := PageHdr.ofBytes (bs.take 128)
    if crc32c bs = fld e 96 32 ∧ h.magic = 0xB7 ∧ h.pos0 = fld e 64 32 ∧ h.ntok = fld e 8 5 ∧ h.mslot = x.mslot ∧ h.domain = x.domain
        ∧ h.modelGen = (s.model x.mslot).gen ∧ h.kvfmt = (s.model x.mslot).block.kvfmt then
      let s := s.putMem (s.slotAddr p) bs
      some (s.modPage p (fun d => { d with ntok := h.ntok, state := .priv }))
    else none

/-- Positions that the request's token array covers. -/
def Req.covers (r : Req) (pos : Nat) : Bool := decide (r.desc.basepos ≤ pos ∧ pos < r.desc.basepos + r.desc.ntok)

/-- UNRACK_COMPLETE (R219, R248): the copies are checked and written; holes are reported with 0x0552 and computed from the request's
tokens where these cover them. -/
def execUnrackComplete (i : Nat) (host : Cells) (s : State) : Host.Outcome State Fault Refusal :=
  let x := s.sess i
  let s := s.hostStore x.port host
  if !s.alive || x.state != .unracking then .next s
  else match s.rackRecord i with
    | none => .next ((s.countRecord i).refuseUnrack i 0x2557)
    | some (_, es) =>
      if x.pages.length < es.length then .next s
      else
        let copied := (x.pages.zip es).foldl (fun (o : Option State) y =>
          if fld y.2 0 2 = 2 then o.bind (fun s => s.restorePage i y.1 y.2) else o) (some s)
        match copied with
        | none => .next ((s.countCopies i es).refuseUnrack i 0x2557)
        | some s =>
          let s := s.modSess i (fun x => { x with state := .busy, expiry := none, rackWhy := 0 })
          let s := match s.reqOf i with | some r => s.modSess i (fun x => x.named r.desc) | none => s
          let s := s.modPow (fun p => { p with lastActivity := s.time })
          match s.reqOf i, x.pages.findIdx? (fun p => p == noIndex) with
          | some r, some d =>
            let s := (s.report { code := 0x0552, detail := 16 * d, ports := 2 ^ x.port.num, func := s.ringFn x.port x.ring }).modReq r.rid
              (fun r => r.note 0x0552)
            let open_ := (x.pages.zipIdx.filter (fun y => y.1 == noIndex)).map (fun y => 16 * y.2)
            if open_.all (fun a => (List.range 16).all (fun t => decide (x.tail ≤ a + t) || r.covers (a + t))) then .next s
            else .next (s.endReq r 0x2557 false)
          | _, _ => .next s

end Sys2Proof.Machine
end

