-- ==== Sys2Proof/Machine/Links.lean ====
section
/-! DEFINITION. Landing windows (R301, R302, R306), shipments (R308–R312) and model fetch over links (R313). -/

namespace Sys2Proof.Machine

/-! Landing windows. -/

/-- Landing window `w`. -/
def State.landing (s : State) (w : Nat) : Landing := Tbl.get {} w s.lglob.windows

/-- Landing window `w` changed by `f`. -/
def State.modLanding (s : State) (w : Nat) (f : Landing → Landing) : State :=
  s.modLGlob (fun g => { g with windows := Tbl.upd {} w f g.windows })

/-- Whether window `x` takes `n` bytes at `off` from link `l` (R301). -/
def Landing.takes (x : Landing) (l off n : Nat) : Bool :=
  x.state == 1 && bit x.links l && off % 64 == 0 && decide (off + n ≤ 4096 * x.size4k)

/-- Whether a write to a window under revocation is dropped without a count (R302). -/
def Landing.grace (x : Landing) (l t : Nat) : Bool := x.state == 2 && bit x.awaiting l && decide (t < x.revokedAt + 100000)

/-- A write outside the windows: counted and hostile. -/
def State.outWindow (s : State) (l : Nat) : State := (s.countLink l cntOut).hostile l

/-- COUNT of a COLL window after `n` bytes, and its completion peg: ADD +1 each time the count, surplus included, reaches EXPECT (R306). -/
def State.collCount (s : State) (w l n : Nat) : State :=
  let x := s.landing w
  if x.kind ≠ 2 then s
  else
    let c := x.count + n
    if x.expect ≠ 0 ∧ x.expect ≤ c then
      let s := s.modLanding w (fun x => { x with count := c % x.expect })
      if x.pegEn then (List.range (c / x.expect)).foldl (fun s _ => s.pegOp .coll x.peg (120 + l / 8) (.add 1)) s else s
    else s.modLanding w (fun x => { x with count := c })

/-- A WRITE frame's payload put where its window leads. -/
def State.landWrite (s : State) (l w off : Nat) (bs : List Nat) : State :=
  let x := s.landing w
  if x.takes l off bs.length then
    match s.wake.writeDev (x.base4k * 4096 + off) bs none with
    | some s => s.collCount w l bs.length
    | none => s.outWindow l
  else if x.grace l s.time then s
  else s.outWindow l

/-- WRITE (R301, R302). -/
def execWrite (l : Fin 48) (f : Frame) (s : State) : Host.Outcome State Fault Refusal :=
  let a := f.head.args
  frameCmd 0x10 f (s.receiveIn l f LinkSt.live (fun s => s.landWrite l (fld a 0 8) (fld a 8 48) f.bytes))

/-- A window revoked on every live link of its mask (R302); without one it is free at once. -/
def State.revoke (s : State) (w : Nat) : State :=
  let x := s.landing w
  if x.state ≠ 1 then s
  else
    let ls := (maskList 48 x.links).filter (fun l => (s.link l).live)
    let s := s.modLanding w (fun x => if ls = [] then {} else { x with state := 2, revokedAt := s.time, awaiting := maskOf ls })
    ls.foldl (fun s l => s.sendFrame l 0x12 w []) s

/-- WINDOW_REVOKE (R302). -/
def execWindowRevoke (id : BitVec 8) (s : State) : Host.Outcome State Fault Refusal :=
  if s.alive then .next (s.revoke id.toNat) else .next s

/-- WINDOW_GRANT sent on a link, which from then on may name the window (R298). -/
def State.tellGrant (s : State) (l w kind size : Nat) : State :=
  (s.modLink l (fun k => { k with offered := if k.offered.contains w then k.offered else k.offered ++ [w] })).sendFrame l 0x11
    (w + kind * 2 ^ 8 + size * 2 ^ 16) []

/-- A partner's REVOKE_ACK; one for a window that was never granted to the link is hostile (R298), one that no revocation awaits is ignored. -/
def State.revokeAck (s : State) (l w : Nat) : State :=
  let x := s.landing w
  if !(s.link l).offered.contains w then s.hostile l
  else if x.state = 2 ∧ bit x.awaiting l = true then
    let m := x.awaiting - 2 ^ l
    s.modLanding w (fun x => if m = 0 then {} else { x with awaiting := m })
  else s

/-- REVOKE_ACK (R302). -/
def execRevokeAck (l : Fin 48) (f : Frame) (s : State) : Host.Outcome State Fault Refusal :=
  frameCmd 0x13 f (s.receiveIn l f LinkSt.live (fun s => s.revokeAck l (fld f.head.args 0 8)))

/-- REVOKE_GRACE_EXPIRY (R302): 1 ms after the WINDOW_REVOKE the window is free. -/
def execRevokeGraceExpiry (id : BitVec 8) (s : State) : Host.Outcome State Fault Refusal :=
  let x := s.landing id.toNat
  if !s.alive || decide (x.state ≠ 2 ∨ s.time < x.revokedAt + 100000) then .next s
  else .next (s.modLanding id.toNat (fun _ => {}))

/-- WINDOW_REVOKE from the partner (R288, R302): the device writes no more to the window, and REVOKE_ACK follows every WRITE it has sent. -/
def State.partnerRevoke (s : State) (l w : Nat) : State :=
  (s.modLink l (fun k => { k with
    granted := k.granted.filter (fun x => x.1 != w)
    queue := k.queue.filter (fun f => !(f.type == 0x10 && fld f.args 0 8 == w)) })).sendFrame l 0x13 w []

/-- A window that the partner granted, in place of an earlier one of its number. -/
def LinkSt.grant (k : LinkSt) (w kind size : Nat) : LinkSt :=
  { k with granted := k.granted.filter (fun x => x.1 != w) ++ [(w, kind, size)] }

/-- WINDOW_GRANT (R288, R313): a window of the partner that the device may write. -/
def execWindowGrant (l : Fin 48) (f : Frame) (s : State) : Host.Outcome State Fault Refusal :=
  let a := f.head.args
  frameCmd 0x11 f (s.receiveIn l f LinkSt.live (fun s => s.modLink l (fun k => k.grant (fld a 0 8) (fld a 8 8) (fld a 16 36))))

/-! COLL windows (R301, R306, R307). -/

/-- Whether a COLL window may lie at a base (R301, R416, R427): in one core's backed SRAM, or in one stack of the HBM linear view outside its
reserved top, every page partition and the units of every other feature. -/
def State.collPlace (s : State) (base n : Nat) : Bool :=
  let m := base / stackUnits
  let j := base % stackUnits
  let meets := fun (a e : Nat) => decide (max a j < min e (j + n))
  match region (4096 * base) with
  | .sram _ off => decide (0 < n ∧ off + 4096 * n ≤ 0x600000)
  | .hbm _ => decide (0 < n ∧ base < 6 * stackUnits ∧ j + n ≤ reservedUnit)
      && (s.boot.owners.filter (fun o => o.kind == 1 && o.feature != 7)).all (fun o => !meets (o.span m).1 (o.span m).2)
      && (List.range 4).all (fun k =>
        let q := s.pages.part m k
        !q.enable || !meets q.base4k (q.base4k + q.count * q.slot4k))
  | _ => false

/-- Links of a COLL window's mask that can carry it: in service with COLL on both sides. -/
def State.collLinks (s : State) (mask : Nat) : List Nat :=
  (maskList 48 mask).filter (fun l => let k := s.link l; k.live && bit k.ownCaps 4 && bit k.pcaps 4)

/-- Whether STW3 may grant a COLL window (R301, R416): a number and a peg of COLL, links of one group, a legal place. -/
def State.collLegal (s : State) (g : CollGrant) : Bool :=
  let ls := maskList 48 g.links.toNat
  s.ownedWindow 2 g.window && (match g.peg with | some p => s.collPeg p | none => true)
    && (match ls with | [] => false | l :: _ => ls.all (fun m => m / 8 == l / 8))
    && s.collPlace g.base4k g.size4k && decide (g.size4k < 2 ^ 24)

/-- A COLL window granted, with a WINDOW_GRANT on each of its links; one that stands already stays. An illegal one is refused with 0x0004. -/
def State.grantColl (s : State) (g : CollGrant) : State :=
  if !s.collLegal g then s.report { code := 0x0004 }
  else
    let ls := s.collLinks g.links.toNat
    if (s.landing g.window).state ≠ 0 ∨ ls = [] then s
    else
      let s := s.modLanding g.window (fun _ => {
        kind := 2, size4k := g.size4k, base4k := g.base4k, pegEn := g.peg.isSome, peg := (g.peg.getD 0).val, links := maskOf ls
        expect := g.expect.toNat, state := 1 })
      ls.foldl (fun s l => s.tellGrant l g.window 2 g.size4k) s

/-! ACCEPT and the choice of a partner (R308, R309). -/

/-- A declaration taken; MAX_PAGES 0 withdraws the model. -/
def LinkSt.takeAccept (k : LinkSt) (a : Accept) : LinkSt :=
  let rest := k.accepts.filter (fun x => x.model != a.model)
  { k with accepts := if a.maxPages = 0 then rest else rest ++ [a] }

/-- ACCEPT (R308): it holds for the partner, whichever of its links carried it. -/
def execAccept (l : Fin 48) (f : Frame) (s : State) : Host.Outcome State Fault Refusal :=
  let v := ofLeBytes f.bytes
  frameCmd 0x09 f (s.receiveIn l f LinkSt.live (fun s =>
    (List.range 48).foldl (fun t m => if (s.link m).partnerId = (s.link l).partnerId ∧ (m = l.val ∨ (s.link m).live = true) then
      t.modLink m (fun k => k.takeAccept { model := fld v 256 256, maxPages := fld v 224 32, slotBytes := fld v 192 32 }) else t) s))

/-- Whether partner `id` holds an ACCEPT for a shipment. -/
def State.accepts (s : State) (id model n bytes : Nat) : Bool :=
  (List.range 48).any (fun l =>
    let k := s.link l
    k.live && k.partnerId == id && k.accepts.any (fun a => a.model == model && decide (n ≤ a.maxPages) && a.slotBytes == bytes))

/-- Links of a group over which a partner could take a shipment, in ascending order. -/
def State.takers (s : State) (group model n bytes : Nat) : List Nat :=
  (maskList 48 (Tbl.get 0 group s.lglob.groups)).filter (fun l =>
    let k := s.link l
    k.live && bit k.pcaps 1 && s.accepts k.partnerId model n bytes)

/-- Pages outstanding at a partner. -/
def State.outstanding (s : State) (id : Nat) : Nat :=
  ((s.lglob.ships.filter (fun x => x.partner == id && (x.offer.isSome || x.granted.isSome))).map (fun x => x.pages.length)).sum

/-- The link of the offer (R309): the partner with the fewest pages outstanding, on a tie the lowest link; links that are SLOW only where
no other is left (R297). -/
def State.chooseTaker (s : State) (group model n bytes : Nat) (tried : List Nat) : Option Nat :=
  let ls := (s.takers group model n bytes).filter (fun l => !tried.contains (s.link l).partnerId)
  let fast := ls.filter (fun l => (s.link l).state == .inService)
  leastBy (fun a b => decide (s.outstanding (s.link a).partnerId < s.outstanding (s.link b).partnerId)
    || (s.outstanding (s.link a).partnerId == s.outstanding (s.link b).partnerId && decide (a < b))) (if fast = [] then ls else fast)

/-- MODEL_ID and slot bytes of a model slot. -/
def ModelSlot.slotBytes (m : ModelSlot) : Nat := 4096 * m.block.slot4k

/-- Whether group `g` can take the session of a request (R239, R308). -/
def State.canTake (s : State) (r : Req) : Bool :=
  let m := s.model r.desc.mslot
  !(s.takers r.desc.partner m.modelId (s.sess r.sess).pages.length m.slotBytes).isEmpty

/-! Shipments (R309–R312). -/

/-- The two payload words of SHIP_OFFER (R310). -/
def State.offerBytes (s : State) (x : Shipment) (r : Req) : List Nat :=
  let m := s.model r.desc.mslot
  let d := r.desc
  leBytes 128 (m.modelId % 2 ^ 256 * 2 ^ 768 + r.cookie.toNat * 2 ^ 704 + x.id % 2 ^ 32 * 2 ^ 672 + x.pages.length % 2 ^ 32 * 2 ^ 640
    + (s.sess r.sess).tail % 2 ^ 32 * 2 ^ 608 + x.slotBytes % 2 ^ 32 * 2 ^ 576 + m.block.nl % 2 ^ 32 * 2 ^ 544 + m.block.nh % 2 ^ 16 * 2 ^ 528
    + m.block.d % 2 ^ 16 * 2 ^ 512 + r.answer.getLast?.getD 0 % 2 ^ 32 * 2 ^ 480 + d.temp % 2 ^ 32 * 2 ^ 448
    + ((d.stops.zipIdx.map (fun y => y.1 % 2 ^ 32 * 2 ^ (32 * y.2))).sum) * 2 ^ 320 + d.seed % 2 ^ 64 * 2 ^ 256
    + (d.maxNew - r.answer.length) % 2 ^ 16 * 2 ^ 240 + d.topK % 2 ^ 8 * 2 ^ 232 + m.block.kvfmt % 16 * 2 ^ 228 + d.prio % 8 * 2 ^ 225
    + d.domain % 2 ^ 14 * 2 ^ 211 + d.stake % 2 ^ 12 * 2 ^ 199)

/-- Shipment `id`. -/
def State.ship (s : State) (id : Nat) : Option Shipment := s.lglob.ships.find? (fun x => x.id == id)

/-- An open shipment ended: SHIP_ABORT with a REASON where one is given, on a link of its partner that is in service, its references and epoch given back, the counters of R315. -/
def State.dropShip (s : State) (x : Shipment) (ok : Bool) (reason : Option Nat) : State :=
  let s := match reason with
    | some n =>
      let own := match x.granted with | some (ls, _, _) => ls | none => x.offer.toList
      match if own = [] then none else (own ++ s.usable x.group x.partner).find? (fun l => (s.link l).live && (s.link l).partnerId == x.partner) with
      | some l => s.sendFrame l 0x36 (x.id + n * 2 ^ 32) []
      | none => s
    | none => s
  let s := s.modLGlob (fun g => { g with
    ships := g.ships.filter (fun y => y.id != x.id)
    shipOk := if ok then satAdd 32 g.shipOk 1 else g.shipOk, shipFail := if ok then g.shipFail else satAdd 32 g.shipFail 1 })
  let s := x.held.foldl State.release s
  (match x.epoch with | some e => s.retireEpoch e | none => s).noteActivity

/-- The end of a shipment and of its request (R240, R312). A session that no partner took follows END; every other is closed. -/
def State.endShip (s : State) (x : Shipment) (code : Nat) (reason : Option Nat) : State :=
  let s := s.dropShip x (code == 0) reason
  match s.req x.rid with
  | some r =>
    if code = 0x2607 then s.closeWith r code
    else s.endReq { r with stop := if code = 0 then 3 else r.stop } code true
  | none => s

/-! Poison that a link meets (R393). -/

/-- The model slot in whose weights a linear HBM address lies. -/
def State.weightsOf (s : State) (a : Nat) : Option Nat :=
  (List.range 4).find? (fun k => ownsRange (s.hbmOwners 1 k) a 1 && (s.model k).state != .empty)

/-- The live page whose slot holds a linear HBM address. -/
def State.pageAt (s : State) (a : Nat) : Option Nat :=
  (s.pages.descs.find? (fun kv => kv.2.state != .free && decide (4096 * kv.2.slot4k ≤ a
    ∧ a < 4096 * (kv.2.slot4k + (s.model kv.2.mslot).block.slot4k)))).map Prod.fst

/-- A request ended at its next pass boundary; at once where it is in no launched pass. A shipment is aborted (R312); a request whose session is
being racked at its end writes its record with the code when the rack has ended, unless it ends with an error already. -/
def State.endSoon (s : State) (r : Req) (code : Nat) : State :=
  if r.phase = .ending then s.modReq r.rid (fun r => { r with endCode := if r.endCode.getD 0 = 0 then some code else r.endCode })
  else if r.phase = .shipping then
    match s.lglob.ships.find? (fun x => x.rid == r.rid) with
    | some x => s.endShip x code (some (if code = 0x2609 then 2 else 0))
    | none => s
  else if r.inPass then s.modReq r.rid (fun r => { r with endCode := match r.endCode with | some c => some c | none => some code })
  else s.endReq r code false

/-- The requests that a poisoned address ends, and the state after the further effect of R393's table. -/
def State.owners (s : State) (a : Nat) : List Nat × State :=
  let inPass := (s.serve.reqs.filter (fun r => r.inPass)).map (fun r => r.rid)
  if 0x2400000000 ≤ a then (inPass, s)
  else match s.pageAt a with
    | some p =>
      let mine := (s.serve.reqs.filter (fun r => r.admitted && (s.sess r.sess).pages.contains p)).map (fun r => r.rid)
      (mine, if (s.page p).state = .vine then s.removeNode p else s)
    | none => match s.weightsOf a with
      | some k => (((s.serve.reqs.filter (fun r => r.inPass && r.desc.mslot == k)).map (fun r => r.rid)),
          s.modInteg (fun g => { g with poisonedSlots := if g.poisonedSlots.contains k then g.poisonedSlots else g.poisonedSlots ++ [k] }))
      | none => (inPass, s)

/-- Requests ended by consumed poison: those of the aborted pass at its end, the others at their next boundary. -/
def State.endOwners (s : State) (t : Option Nat) (rids : List Nat) (code : Nat) : State :=
  rids.foldl (fun s rid => match s.req rid, t with
    | some r, some t =>
      if r.inPass && (s.table t).items.any (fun i => i.rid == rid) then
        s.modTable t (fun x => { x with victims := x.victims ++ [(rid, code)] })
      else s.endSoon r code
    | some r, none => s.endSoon r code
    | none, _ => s) s

/-- The address of the first poisoned byte of a device range. -/
def State.firstPoison (s : State) (a n : Nat) : Nat :=
  (((canonPieces a n).bind (fun ps => ps.findSome? (fun x => s.poisonAt x.1 x.2))).map Prod.fst).getD 0

/-- Poison that link `l` meets in what it has to send (R393): a link never sends it. The requests that own the address end, and the consumption is
logged; poison of a refused access (0x2201) is reported only where R30 reports it. -/
def State.linkPoison (s : State) (l a code : Nat) : State :=
  let (rids, s) := s.owners a
  let s := s.endOwners none rids code
  if code = 0x2201 then s else s.report { code := code, addr := a, kind := .link, unit := l, reqs := rids.length }

/-! Transfers of collectives (R307). -/

/-- Whether a collective's transfer is due: its peg holds the value, its link carries COLL and the partner has granted the window. -/
def State.collReady (s : State) (x : CollSend) : Bool :=
  let k := s.link x.link
  decide (x.value ≤ (s.peg .coll x.peg).value) && k.live
    && k.granted.any (fun g => g.1 == x.window && g.2.1 == 2 && decide (x.offset + x.bytes ≤ 4096 * g.2.2))

/-- The transfers that are due sent as WRITE frames; the others go on waiting. One whose bytes are poisoned is not sent: its link has consumed
the poison (R393). -/
def State.sendColls (s : State) : State :=
  s.sync.colls.foldl (fun s x =>
    if !s.collReady x then s
    else
      let t := s.modSync (fun y => { y with colls := y.colls.erase x })
      match s.readDev x.addr x.bytes with
      | some (bs, none) => t.sendWrites x.link x.window x.offset bs
      | some (_, some code) => t.linkPoison x.link (s.firstPoison x.addr x.bytes) code
      | none => s) s

/-- The offer sent to the next partner; with none left the request ends with 0x2607. -/
def State.offerNext (s : State) (x : Shipment) : State :=
  match s.req x.rid with
  | none => s.dropShip x false none
  | some r =>
    match s.chooseTaker x.group (s.model r.desc.mslot).modelId x.pages.length x.slotBytes x.tried with
    | none => s.endShip x 0x2607 none
    | some l =>
      let x' := { x with offer := some l, offerAt := s.time, partner := (s.link l).partnerId }
      (s.modShip x.id (fun _ => x')).sendFor (some x.rid) l 0x30 x.id (s.offerBytes x' r)

/-- A shipment's epoch drawn, its pages pinned and its first offer sent, with which its limit starts (R312); it waits while R203 allows no tag (log entry
24). -/
def State.tagShip (s : State) (x : Shipment) : State :=
  if s.pages.mayDraw then
    let s := s.drawEpoch
    let e := s.pages.newest
    let x' := { x with epoch := some e, startAt := s.time }
    ((x.held.foldl (fun s p => s.pin p e) s).modShip x.id (fun _ => x')).offerNext x'
  else s

/-- A shipment of a request's session begun (R309): references, the next SHIP_ID, an epoch, pins and the first offer. -/
def State.startShip (s : State) (r : Req) : State :=
  let s := s.closeVat r.sess
  let ps := (s.sess r.sess).held
  match s.takeAll ps with
  | none => s.endReq r 0x2555 true
  | some s =>
    let id := s.lglob.nextShip
    let x : Shipment := {
      id := id, rid := r.rid, group := r.desc.partner, pages := (s.sess r.sess).pages, offer := none, offerAt := s.time, startAt := s.time,
      held := ps, epoch := none, slotBytes := (s.model r.desc.mslot).slotBytes, partner := 0 }
    let s := s.modLGlob (fun g => { g with nextShip := (id + 1) % 2 ^ 32, ships := g.ships ++ [x], moved := g.moved.filter (fun y => y.1 != id) })
    (s.modReq r.rid (fun _ => { r with phase := .shipping })).tagShip x

/-- Whether the shipment's limit, which runs from its offer, has passed (R312). -/
def State.shipExpired (s : State) (x : Shipment) : Bool := x.epoch.isSome && decide (x.startAt + 100000 * s.lglob.shipLimitMs.toNat ≤ s.time)

/-- The first poison of a shipment's pages, if any: its address and code. -/
def State.shipPoison (s : State) (x : Shipment) : Option (Nat × Nat) :=
  x.pages.findSome? (fun p => s.poisonAt (s.slotAddr p) (128 + (s.model (s.page p).mslot).block.payload))

/-- A shipment message that names an open shipment offered to this link's partner. One that names an ID never drawn, or another partner's
shipment, is hostile; one about a shipment that has ended is ignored (log entry 28). -/
def State.shipMsg (s : State) (l id : Nat) (act : State → Shipment → Bool → State) : State :=
  match s.ship id with
  | some x =>
    let p := (s.link l).partnerId
    let now := x.partner == p && (x.offer.isSome || x.granted.isSome)
    if now || x.tried.contains p then act s x now else s.hostile l
  | none => if id < s.lglob.nextShip then s else s.hostile l

/-- A frame of a shipment. -/
def shipCmd (type : Nat) (l : Fin 48) (f : Frame) (s : State) (act : State → Shipment → Bool → State) : Host.Outcome State Fault Refusal :=
  frameCmd type f (s.receiveIn l f LinkSt.live (fun s => s.shipMsg l (fld f.head.args 0 32) act))

/-- LINK_FRAME_MALFORMED (R289): a frame that the first row discards; also a legal frame of the two TYPEs that have no row in the table, a
partner's WINDOW_REVOKE, and its PAGE_MARK, which only the device sends (log entry 35). -/
def execLinkFrameMalformed (l : Fin 48) (f : Frame) (s : State) : Host.Outcome State Fault Refusal :=
  let t := f.head.type
  if (s.link l).legal f then
    if t = 0x12 then .next (s.receiveIn l f LinkSt.live (fun s => s.partnerRevoke l (fld f.head.args 0 8)))
    else if t = 0x33 then .next (s.receiveIn l f LinkSt.live (fun s => s.shipMsg l (fld f.head.args 0 32) (fun s _ _ => s)))
    else .next s
  else .next (s.receive l f id)

/-- SHIP_GRANT of shipment `id` from the partner of link `l` (R309, R312): the pages go out. A late grant, whose offer has moved to another partner, is
answered with SHIP_ABORT, though the shipment may have ended since. A shipment that meets poison ends (R393). -/
def State.shipGrant (s : State) (l id window off4k : Nat) : State :=
  if s.lglob.moved.contains (id, (s.link l).partnerId) then s.sendFrame l 0x36 id []
  else s.shipMsg l id (fun s x now =>
    if !now || x.granted.isSome then s
    else
      let x' := { x with granted := some (s.usable x.group x.partner, window, off4k) }
      let s := s.modShip x.id (fun _ => x')
      match s.shipPoison x' with
      | some (a, code) => s.linkPoison l a code
      | none => s.sendOpen x')

/-- SHIP_GRANT (R309, R312). -/
def execShipGrant (l : Fin 48) (f : Frame) (s : State) : Host.Outcome State Fault Refusal :=
  let a := f.head.args
  frameCmd 0x31 f (s.receiveIn l f LinkSt.live (fun s => s.shipGrant l (fld a 0 32) (fld a 32 8) (fld a 40 40)))

/-- The offer moved on from the partner that holds it. -/
def State.moveOffer (s : State) (x : Shipment) : State :=
  (s.modLGlob (fun g => { g with moved := g.moved ++ [(x.id, x.partner)] })).offerNext { x with tried := x.tried ++ [x.partner], offer := none }

/-- SHIP_REFUSE (R309). -/
def execShipRefuse (l : Fin 48) (f : Frame) (s : State) : Host.Outcome State Fault Refusal :=
  shipCmd 0x32 l f s (fun s x now => if now && x.granted.isNone then s.moveOffer x else s)

/-- SHIP_OFFER_TIMEOUT (R309): no answer within 1 ms. A shipment that still waits for its tag makes its first offer. -/
def execShipOfferTimeout (id : BitVec 32) (s : State) : Host.Outcome State Fault Refusal :=
  match s.ship id.toNat with
  | some x =>
    if s.alive && x.epoch.isNone then .next (s.tagShip x)
    else if !s.alive || x.granted.isSome || x.offer.isNone || decide (s.time < x.offerAt + 100000) then .next s else .next (s.moveOffer x)
  | none => .next s

/-- SHIP_NACK (R309, R312): the page again, at most twice. -/
def execShipNack (l : Fin 48) (f : Frame) (s : State) : Host.Outcome State Fault Refusal :=
  let k := fld f.head.args 32 32
  shipCmd 0x34 l f s (fun s x now =>
    match x.granted with
    | none => s
    | some (_, window, off4k) =>
      if !now || decide (x.pages.length ≤ k) then s
      else
        let n := Tbl.get 0 k x.nacks + 1
        if 3 ≤ n then s.endShip x 0x2816 (some 4)
        else
          let x' := { x with nacks := Tbl.set 0 k n x.nacks, sentOn := Tbl.set 0 k 0 x.sentOn }
          let s := s.modShip x.id (fun _ => x')
          match s.shipPoison x', s.usable x.group x.partner with
          | some (a, code), _ => s.linkPoison l a code
          | none, m :: _ => s.sendPage x' window off4k k m
          | none, [] => s)

/-- SHIP_DONE (R309, R312). -/
def execShipDone (l : Fin 48) (f : Frame) (s : State) : Host.Outcome State Fault Refusal :=
  shipCmd 0x35 l f s (fun s x now =>
    if !now || x.granted.isNone then s
    else if s.shipExpired x then s.endShip x 0x2608 (some 1)
    else s.endShip x (if fld f.head.args 32 8 = 0 then 0 else 0x2816) none)

/-- SHIP_ABORT from the partner (R312). -/
def execShipAbort (l : Fin 48) (f : Frame) (s : State) : Host.Outcome State Fault Refusal :=
  shipCmd 0x36 l f s (fun s x now => if now then s.endShip x 0x2816 none else s)

/-- SHIP_OFFER (R311): the device receives no shipment. -/
def execShipOffer (l : Fin 48) (f : Frame) (s : State) : Host.Outcome State Fault Refusal :=
  frameCmd 0x30 f (s.receiveIn l f LinkSt.live (fun s => s.sendFrame l 0x32 (fld f.head.args 0 32 + 2 ^ 32) []))

/-- SHIP_LIMIT_EXPIRY (R312). -/
def execShipLimitExpiry (id : BitVec 32) (s : State) : Host.Outcome State Fault Refusal :=
  match s.ship id.toNat with
  | some x => if s.alive && s.shipExpired x then .next (s.endShip x 0x2608 (some 1)) else .next s
  | none => .next s

/-! Model fetch (R313). -/

/-- Links of a group whose partner serves models. -/
def State.servers (s : State) (group : Nat) : List Nat :=
  (maskList 48 (Tbl.get 0 group s.lglob.groups)).filter (fun l => (s.link l).live && bit (s.link l).pcaps 3)

/-- Whether `n` units from unit `j` of stack `m` are free for a landing window (R301, R416). -/
def State.landingFree (s : State) (m j n : Nat) : Bool :=
  ownsUnits (s.hbmOwners 7 0) m j n && decide (j + n ≤ reservedUnit)
    && s.lglob.windows.all (fun kv => decide (kv.2.state = 0 ∨ kv.2.base4k + kv.2.size4k ≤ stack4k m + j ∨ stack4k m + j + n ≤ kv.2.base4k))
    && (List.range 4).all (fun k =>
      let q := s.pages.part m k
      !q.enable || decide (q.base4k + q.count * q.slot4k ≤ j ∨ j + n ≤ q.base4k))

/-- The base of a new window of `n` units: the lowest start of a LANDING entry or end of a window where it fits. -/
def State.landingPlace (s : State) (n : Nat) : Option Nat :=
  (List.range 6).findSome? (fun m =>
    let starts := (s.hbmOwners 7 0).filterMap (fun o => o.firstIn m)
    let ends := s.lglob.windows.filterMap (fun kv => if kv.2.base4k / stackUnits = m then some ((kv.2.base4k + kv.2.size4k) % stackUnits) else none)
    (leastBy (fun a b => decide (a < b)) ((starts ++ ends).filter (fun j => s.landingFree m j n))).map (fun j => stack4k m + j))

/-- The end of a load that answers its entry: the slot becomes EMPTY and its waiting requests fail with 0x2605. A refused geometry or
partition is also logged (R215, R250, log entry 28). -/
def State.failLoad (s : State) (k code : Nat) : State :=
  let m := s.model k
  let s := s.modModel k (fun m => { m with state := .empty, next := none, reply := none, written := false })
  let s := (s.serve.reqs.filter (fun r => r.phase == .waitModel && r.desc.mslot == k)).foldl
    (fun s r => s.finishReq r 0x2605 r.desc.session 0) s
  let s := if code / 256 = 0x25 then
      s.report { code := code, ports := (match m.reply with | some a => 2 ^ a.port.num | none => 3) }
    else s
  match m.reply with
  | some a => s.adminRecord a code 0
  | none => s

/-- A fetch begun for slot `k` (R313): the window, its grants and the requests; 0x2817 where no window or server is to be had. -/
def State.beginFetch (s : State) (k : Nat) : State :=
  let m := s.model k
  let n := ceilDiv m.block.pkgBytes 4096
  let ls := s.servers m.block.pgroup
  let w := (List.range 256).find? (fun w => s.ownedWindow 1 w && (s.landing w).state == 0)
  match w, s.landingPlace n with
  | some w, some base =>
    if ls = [] then s.failLoad k 0x2817
    else
      let s := s.modLanding w (fun _ => { kind := 1, size4k := n, base4k := base, links := maskOf ls, state := 1 })
      let s := s.modLGlob (fun g => { g with fetch := some { 
        mslot := k, modelId := m.modelId, bytes := m.block.pkgBytes, window := w, start := s.time, asked := ls } })
      ls.foldl (fun s l => (s.tellGrant l w 1 n).sendFrame l 0x40 0
        (leBytes 64 (m.modelId % 2 ^ 256 * 2 ^ 256))) s
  | _, _ => (s.report { code := 0x0004 }).failLoad k 0x2817

/-- Waiting fetches begun until one is under way. -/
def State.nextFetch : Nat → State → State
  | 0, s => s
  | n + 1, s => match s.lglob.fetch, s.lglob.fetchQ with
    | none, k :: rest => State.nextFetch n ((s.modLGlob (fun g => { g with fetchQ := rest })).beginFetch k)
    | _, _ => s

/-- A fetch put in the queue of fetches: one runs at a time, as its answers name no model (log entry 29). -/
def State.queueFetch (s : State) (k : Nat) : State :=
  State.nextFetch 1 (s.modLGlob (fun g => { g with fetchQ := g.fetchQ ++ [k] }))

/-- The fetch under way ended: its window is revoked, and the next begins. -/
def State.endFetch (s : State) (ok : Bool) : State :=
  match s.lglob.fetch with
  | none => s
  | some f =>
    let s := (s.modLGlob (fun g => { g with fetch := none })).revoke f.window
    let s := if ok then s.modModel f.mslot (fun m => { m with written := true }) else s.failLoad f.mslot 0x2817
    State.nextFetch (s.lglob.fetchQ.length) s

/-- The stripes of a package over the links that have it, 4 KiB-aligned and equal but for the last. -/
def stripesOf (bytes : Nat) (ls : List Nat) : List Stripe :=
  let size := 4096 * ceilDiv (ceilDiv bytes 4096) (max 1 ls.length)
  (ls.zipIdx.map (fun x => ({ link := x.1, offset := size * x.2, len := min size (bytes - size * x.2) } : Stripe))).filter (fun x => x.len != 0)

/-- Once every asked partner has answered, the stripes are assigned, to the links that have stayed in service since they were asked: a link that
left lost the window (R297). With none left the load waits for its limit. -/
def State.assignStripes (s : State) (f : Fetch) : State :=
  if !(f.asked.all (fun l => f.have_.contains l || f.none_.contains l)) || !f.stripes.isEmpty then
    s.modLGlob (fun g => { g with fetch := some f })
  else
    let ls := f.asked.filter (fun l => f.have_.contains l && bit (s.landing f.window).links l)
    if f.have_ ≠ [] ∧ ls = [] then s.modLGlob (fun g => { g with fetch := some f })
    else if ls = [] then (s.modLGlob (fun g => { g with fetch := some f })).endFetch false
    else
      let xs := stripesOf f.bytes ls
      let s := s.modLGlob (fun g => { g with fetch := some { f with stripes := xs } })
      xs.foldl (fun s x => s.sendFrame x.link 0x44 (f.window + x.offset * 2 ^ 8 + x.len * 2 ^ 56) []) s

/-- A partner's answer to MODEL_REQ. -/
def State.modelAnswer (s : State) (l : Nat) (has : Bool) : State :=
  match s.lglob.fetch with
  | some f =>
    if !f.asked.contains l || f.have_.contains l || f.none_.contains l then s
    else s.assignStripes (if has then { f with have_ := f.have_ ++ [l] } else { f with none_ := f.none_ ++ [l] })
  | none => s

/-- MODEL_HAVE (R313). -/
def execModelHave (l : Fin 48) (f : Frame) (s : State) : Host.Outcome State Fault Refusal :=
  frameCmd 0x41 f (s.receiveIn l f LinkSt.live (fun s => s.modelAnswer l true))

/-- MODEL_NONE (R313). -/
def execModelNone (l : Fin 48) (f : Frame) (s : State) : Host.Outcome State Fault Refusal :=
  frameCmd 0x42 f (s.receiveIn l f LinkSt.live (fun s => s.modelAnswer l false))

/-- MODEL_REPLY_TIMEOUT (R313): no answer within 1 ms. -/
def execModelReplyTimeout (l : Fin 48) (s : State) : Host.Outcome State Fault Refusal :=
  match s.lglob.fetch with
  | some f => if !s.alive || decide (s.time < f.start + 100000) then .next s else .next (s.modelAnswer l false)
  | none => .next s

/-- Bytes of a fetch's window. -/
def State.fetched (s : State) (f : Fetch) (off n : Nat) : List Nat := s.devBytes ((s.landing f.window).base4k * 4096 + off) n

/-- A stripe reported written: its CRC is checked, and with the last one the digest. -/
def State.stripeDone (s : State) (l w off crc : Nat) : State :=
  if !(s.link l).offered.contains w then s.hostile l
  else match s.lglob.fetch with
  | none => s
  | some f =>
    if f.window ≠ w then s
    else match f.stripes.find? (fun x => x.link == l && x.offset == off && x.crc.isNone) with
      | none => s
      | some x =>
        if crc32c (s.fetched f off x.len) ≠ crc then s.endFetch false
        else
          let f' := { f with stripes := f.stripes.map (fun y => if y == x then { y with crc := some crc } else y) }
          let s := s.modLGlob (fun g => { g with fetch := some f' })
          if f'.stripes.all (fun y => y.crc.isSome) then
            s.endFetch (ofLeBytes (shake256 32 (s.fetched f 0 f.bytes)) == f.modelId)
          else s

/-- MODEL_DONE (R313). -/
def execModelDone (l : Fin 48) (f : Frame) (s : State) : Host.Outcome State Fault Refusal :=
  let a := f.head.args
  frameCmd 0x43 f (s.receiveIn l f LinkSt.live (fun s => s.stripeDone l (fld a 0 8) (fld a 8 48) (fld a 56 32)))

/-- MODEL_LIMIT_EXPIRY (R313). -/
def execModelLimitExpiry (k : Fin 4) (s : State) : Host.Outcome State Fault Refusal :=
  match s.lglob.fetch with
  | some f =>
    if !s.alive || decide (f.mslot ≠ k ∨ s.time < f.start + 100000 * s.lglob.modelLimitMs) then .next s else .next (s.endFetch false)
  | none => .next s

/-- MODEL_REQ (R313): with MODEL_SERVE, HAVE for a READY slot's model, else NONE. -/
def execModelReq (l : Fin 48) (f : Frame) (s : State) : Host.Outcome State Fault Refusal :=
  let id := fld (ofLeBytes f.bytes) 256 256
  frameCmd 0x40 f (s.receiveIn l f LinkSt.live (fun s =>
    let slot := (List.range 4).find? (fun k => (s.model k).state == .ready && (s.model k).modelId == id)
    match slot with
    | some k =>
      if bit (s.link l).ownCaps 3 then (s.modLink l (fun q => { q with serves := some k })).sendFrame l 0x41 0 []
      else s.sendFrame l 0x42 0 []
    | none => s.sendFrame l 0x42 0 []))

/-- A stripe served from the weights of a READY slot (R313, log entry 29): WRITE frames and MODEL_DONE. A stripe that holds
poison is not sent (R393). -/
def State.serveStripe (s : State) (l w off n : Nat) : State :=
  let k := s.link l
  match k.serves with
  | none => s
  | some m =>
    if (s.model m).state ≠ .ready || !k.granted.any (fun x => x.1 == w && x.2.1 == 1 && decide (off + n ≤ 4096 * x.2.2)) then s
    else match (s.hbmOwners 1 m).head? with
      | none => s
      | some o => match s.readDev (4096 * o.first + off) n with
        | some (bs, none) => (s.wake.sendWrites l w off bs).sendFrame l 0x43 (w + off * 2 ^ 8 + crc32c bs * 2 ^ 56) []
        | some (_, some code) => s.wake.linkPoison l (s.firstPoison (4096 * o.first + off) n) code
        | none => s

/-- MODEL_STRIPE (R313). -/
def execModelStripe (l : Fin 48) (f : Frame) (s : State) : Host.Outcome State Fault Refusal :=
  let a := f.head.args
  frameCmd 0x44 f (s.receiveIn l f LinkSt.live (fun s => s.serveStripe l (fld a 0 8) (fld a 8 48) (fld a 56 48)))

end Sys2Proof.Machine
end

