-- ==== Sys2Proof/Machine/Clock.lean ====
section
/-! DEFINITION. What one SLOW cycle of 10 ns does while no command waits (R14, R131, R133, R349, R363; log entry 13). -/

namespace Sys2Proof.Machine

/-- Whether a prefetched round of a running plan waits for a request (R123, R133). -/
def WeightSeq.gated (q : WeightSeq) (requests : Nat) : Bool :=
  q.active && decide (q.started < ceilDiv q.ntiles 6) && decide (requests ≤ q.started)

/-- The fewest rounds that a core of a running pass has requested. -/
def State.leastRequested (s : State) : Nat :=
  (s.cores.filter (fun kv => kv.2.run.active)).foldl (fun n kv => min n kv.2.run.roundsReq) (2 ^ 32)

/-- ARRAY pulses of a SLOW cycle in thirty-seconds that skip level `lvl` drops: S of 16 of 12 pulses, or of 13.5 at divider 8 (R349). -/
def skip32 (boosting : Bool) (lvl : Nat) : Nat := (if boosting then 27 else 24) * lvl

/-- ARRAY pulses of a SLOW cycle in thirty-seconds, 12 or 13.5 at divider 8 (R25). -/
def array32 (boosting : Bool) : Nat := if boosting then 432 else 384

/-- Whether the entry of boost has waited its 50 µs after power-good when counter value `t` is reached (R354). -/
def Power.boostReady (p : Power) (t : Nat) : Bool :=
  p.boostPending && (match p.powerGoodAt with | some g => decide (g + 5000 ≤ t) | none => false)

/-- The SLOW cycle that begins at counter value `t`, while the root PLL runs: its pulses by the divider and the skip level in effect, and at
its end, where every second cycle ends at an alignment point, the requested ones taken (R25, R26, R348). Which cycles these are the spec does
not say: those of an odd counter value (DESIGN CHOICE, log entry 45). -/
def Power.tick (p : Power) (t : Nat) : Power :=
  let p := { p with
    boostTicks := p.boostTicks + (if p.div8 then 1 else 0)
    skipped32 := p.skipped32 + skip32 p.div8 p.level
    pulses32 := p.pulses32 + (array32 p.div8 - skip32 p.div8 p.level) }
  if t % 2 = 0 then p
  else
    let p := if p.boostReady (t + 1) then { p with boosting := true, boostPending := false, powerGoodAt := none } else p
    { p with div8 := p.boosting, level := p.skip, divAt := if p.div8 = p.boosting then p.divAt else t + 1 }

/-- `n` suit-cycles shared out: each cause takes its count while some are left, and one more cause takes the rest. -/
def splitCycles (n : Nat) : List Nat → List Nat
  | [] => [n]
  | q :: l => min q n :: splitCycles (n - min q n) l

/-- Suit-cycles asked for by the causes BUSY to FEED of R131. BCAST counts in broadcast feed alone. -/
def suitCauses (feed : Bool) (l : List Nat) : List Nat := (List.range 8).map (fun k => if k == 1 && !feed then 0 else l.getD k 0)

/-- `n` suit-cycles of a core whose part of a pass runs: each adds 1 to one of the counters but IDLE (R131). -/
def CoreRegs.countSuits (r : CoreRegs) (n : Nat) (l : List Nat) : CoreRegs :=
  let add := fun (t : Tbl (BitVec 64)) (x : Nat × Nat) => Tbl.set 0 x.2 (Tbl.get 0 x.2 t + BitVec.ofNat 64 x.1) t
  { r with stall := (splitCycles n (suitCauses r.feed l)).zipIdx.foldl add r.stall }

/-- The cause that holds a core's suits, where State fixes it (R131; log entry 40): of HAZARD, WSUPPLY, FEED and ISSUE, counters 3, 5, 7 and 8,
the highest of the table that holds for the word at the sequencer's position; HAZARD counts a read that waits, and a word of which only a
write waits has no cause in State. No suit word there leaves the suit queues empty; a suit word
that may issue has no cause in State. -/
def State.suitHold (s : State) (c : Nat) : Option Nat :=
  let r := (s.core c).run
  if r.dec.isSome then (if r.blockHere then none else some 5)
  else match (if r.wait.isSome then none else s.fetchWord c) with
    | none => some 8
    | some w =>
      if wClass w = 1 then
        let a := AWord.decode w
        firstFault [(s.readHazard c (a.foot r w), 3), (!s.tilesHere c a, 5), (!a.scalesHere r, 7), (!s.fenceOpen c w, 8)]
      else if wClass w = 2 then
        firstFault [(s.readHazard c (s.decFoot c w), 3), (!r.blockHere, 5), (!s.fenceOpen c w, 8)]
      else some 8

/-- `n` ARRAY cycles counted by a core's four suits, under the cause that holds them or as the free list shares them. With no pass, or with
its part ended, all count as IDLE. -/
def Core.countSuits (k : Core) (n : Nat) (hold : Option Nat) (l : List Nat) : Core :=
  if k.run.active && (k.run.stopped.isNone || k.run.underWay) then
    { k with regs := k.regs.countSuits (4 * n) (match hold with | some q => List.replicate q 0 ++ [4 * n] | none => l) }
  else k

/-- Whether the root PLL runs: after stage FUSES of boot, in ACTIVE and READY_IDLE (R27, R341, R419). -/
def State.clocked (s : State) : Bool := (s.pow.mstate == .active || s.pow.mstate == .readyIdle) && s.boot.stage != 1

/-- What a SLOW cycle, 9 CTRL cycles, counts while the root PLL runs. -/
def State.clocks (s : State) : State :=
  if s.clocked then
    let pow := s.pow.tick s.time
    let n := pow.arrayCycles - s.pow.arrayCycles
    let s := s.noteSkip
    { s with
      pow := pow
      cores := s.cores.map (fun kv => (kv.1, kv.2.countSuits n (s.suitHold kv.1) (Config.suitCycles kv.1 s.time)))
      sync := { s.sync with seq := { s.sync.seq with
        gateWait := s.sync.seq.gateWait + (if s.sync.seq.gated s.leastRequested then 9 else 0) } } }
  else s

/-- One SLOW cycle: its counts, and the transfers of collectives that have become due (R307; log entry 44). The local counter runs whenever
auxiliary power is good (R407). -/
def State.tick (s : State) : State :=
  if s.board.aux then
    let s := if s.alive then s.sendColls else s
    { s.clocks with time := s.time + 1 }
  else s

end Sys2Proof.Machine
end

