-- ==== Sys2Proof/Machine/Intake.lean ====
section
/-! DEFINITION. Intake entries: requests, cancellation, stakes, domains and sessions (R221–R229, R244–R246, R253, R254, R337), and the vine
walk of an admitted request (R199, R229). -/

namespace Sys2Proof.Machine

/-! Entries (R222, R223). -/

/-- OPCODE of an entry. -/
def opcodeOf (e : BitVec 256) : Nat := fld e.toNat 240 8
/-- COOKIE of an entry. -/
def cookieOf (e : BitVec 256) : BitVec 64 := BitVec.ofNat 64 (fld e.toNat 128 64)
/-- ARG of an entry. -/
def argOf (e : BitVec 256) : Nat := fld e.toNat 64 64
/-- DESC of an entry. -/
def descOf (e : BitVec 256) : Nat := fld e.toNat 0 64
/-- PHASE of an entry. -/
def phaseOf (e : BitVec 256) : Bool := bit e.toNat 255

/-- Opcodes of R224. -/
def opcodes : List Nat := [0x01, 0x02, 0x10, 0x11, 0x12, 0x20, 0x21, 0x30, 0x31, 0x40, 0x41]

/-- Opcodes that need a ring open to administration (R224; the session opcodes act on the ring's own sessions, log entry 27). -/
def isAdmin (op : Nat) : Bool := decide (0x10 ≤ op ∧ op < 0x40)

/-- Requests of ring `n` that were admitted and have not ended (R336 INFLIGHT). -/
def State.inflight (s : State) (p : Port) (n : Nat) : Nat :=
  (s.serve.reqs.filter (fun r => r.port == p && r.ring == n && r.admitted)).length

/-- The seat registers of seat `n`. -/
def PortSt.seat (q : PortSt) (n : Nat) : SeatRegs := Tbl.get {} n q.seats

/-- Whether the function of ring `n` exists (R320). -/
def PortSt.hasFn (q : PortSt) (n : Nat) : Bool := !q.seatMode || decide (n ≤ q.numVf)

/-- Whether a seat's ring is passed over (R337). -/
def State.seatFull (s : State) (p : Port) (n : Nat) : Bool :=
  (s.port p).seatMode && n != 0 && decide (((s.port p).seat n).maxInflight.toNat ≤ s.inflight p n)

/-- Whether a ring is held back by a request that waits for its stake (R245). -/
def State.paused (s : State) (p : Port) (n : Nat) : Bool :=
  s.serve.reqs.any (fun r => r.port == p && r.ring == n && r.phase == .waitStake)

/-- Whether the intake watcher answers entries with 0x2B20 (R377, R384, R420). -/
def State.answersOnly (s : State) : Bool := s.glob.service == 2 || (s.glob.fatal && s.sec.zstate == 2)

/-- Whether the intake watcher reads ring `n` of port `p` now. -/
def State.watches (s : State) (p : Port) (n : Nat) : Bool :=
  (s.serving || s.answersOnly) && (s.ring p n).enable && ((s.port p).func (s.ringFn p n)).bme && (s.port p).hasFn n

/-- The phase expected of the entry `ahead` places behind CONS (R223). -/
def Ring.expects (r : Ring) (ahead : Nat) : Bool :=
  let size := 2 ^ r.log2ent.toNat
  if (r.cons.toNat % size + ahead) / size % 2 = 0 then r.inPhase else !r.inPhase

/-- An entry stored in its BAR2 place `ahead` behind CONS. -/
def Ring.store (r : Ring) (ahead : Nat) (e : BitVec 256) : Ring :=
  { r with area := Tbl.set 0 ((r.cons.toNat + ahead) % 2 ^ r.log2ent.toNat) e r.area }

/-- CONS past one entry; it wraps at the ring's size, and the expected phase flips there (R223). -/
def Ring.advance (r : Ring) : Ring :=
  let next := (r.cons.toNat + 1) % 2 ^ r.log2ent.toNat
  { r with cons := BitVec.ofNat 16 next, inPhase := if next = 0 then !r.inPhase else r.inPhase, handled := r.handled.erase r.cons.toNat }

/-- The reply address of an entry. -/
def State.reply (s : State) (p : Port) (n : Nat) (e : BitVec 256) : AdminReply :=
  { port := p, ring := n, cookie := cookieOf e, tCommit := s.time }

/-- An entry that the watcher reads (R223, R224, R229): stored, CONS past it, and then its effect. -/
def State.intake (s : State) (p : Port) (n : Nat) (e : BitVec 256) (act : State → State) : State :=
  let r := s.ring p n
  if !s.watches p n || s.paused p n || s.seatFull p n || phaseOf e != r.inPhase then s
  else
    let done := r.handled.contains r.cons.toNat
    let s := s.modRing p n (fun r => (r.store 0 e).advance)
    if done then s
    else if s.answersOnly then s.adminRecord (s.reply p n e) 0x2B20 0
    else if isAdmin (opcodeOf e) && !(s.port p).adminRings.getLsbD n then s.adminRecord (s.reply p n e) 0x260B 0
    else act (s.wake.modPow (fun p => { p with commitAt := some s.time }))

/-- A command that is an entry of one opcode. -/
def entryCmd (op : Nat) (e : BitVec 256) (after : State) : Host.Outcome State Fault Refusal :=
  if opcodeOf e = op then .next after else .fault .illFormed

/-- INTAKE_ILLEGAL_OPCODE (R224). -/
def execIntakeIllegalOpcode (p : Port) (n : Fin 16) (e : BitVec 256) (s : State) : Host.Outcome State Fault Refusal :=
  if opcodes.contains (opcodeOf e) then .fault .illFormed
  else .next (s.intake p n e (fun s => s.adminRecord (s.reply p n e) 0x260B 0))

/-! The request descriptor (R225, R226). -/

/-- Decoding of a request descriptor. -/
def Desc.ofBytes (bs : List Nat) : Desc :=
  let v := ofLeBytes bs
  { tokens := fld v 960 64, pour := fld v 896 64, rack := fld v 832 64, rack4k := fld v 800 32, rackTtl := fld v 768 32, session := fld v 736 32,
    parent := fld v 704 32, ntok := fld v 672 32, basepos := fld v 640 32, shareLen := fld v 608 32, kicker := fld v 576 32,
    temp := fld v 544 32, stops := (List.range 4).map (fun i => fld v (416 + 32 * i) 32), seed := fld v 352 64, maxNew := fld v 336 16,
    topK := fld v 328 8, partner := fld v 320 8, lookupN := fld v 316 4, ncand := fld v 312 4, handoff := fld v 310 2, endMode := fld v 308 2,
    pourPhase := bit v 307, fork := bit v 306, prio := fld v 303 3, domain := fld v 286 14, stake := fld v 274 12, mslot := fld v 272 2,
    version := fld v 8 8, magic := fld v 0 8 }

/-- The first row of R226: a field value or an alignment that R225 does not give, and FORK together with a SESSION (log entry 27). -/
def Desc.illegal (d : Desc) : Bool :=
  decide (d.tokens % 4 ≠ 0 ∨ d.pour % 8 ≠ 0 ∨ d.rack % 4096 ≠ 0 ∨ d.magic ≠ 0x51 ∨ d.version ≠ 1 ∨ 64 < d.topK ∨ 7 < d.ncand ∨ 8 < d.lookupN ∨ d.handoff = 3 ∨ d.endMode = 3 ∨ d.ntok = 0
    ∨ 262144 < d.ntok ∨ d.maxNew = 0 ∨ fld d.temp 23 8 = 255 ∨ (bit d.temp 31 = true ∧ fld d.temp 0 31 ≠ 0)
    ∨ (d.fork = true ∧ d.session ≠ noIndex))

/-- A session that its ring may name (R228): the index, when the handle is not stale and the owner is right. -/
def State.named (s : State) (p : Port) (n handle : Nat) : Option Nat :=
  let i := handle % 65536
  let x := s.sess i
  if i < 49152 ∧ handle < 2 ^ 32 ∧ x.hgen = handle / 65536 ∧ x.state ≠ .free ∧ x.port = p ∧ x.ring = n then some i else none

/-- Whether a session may take a request: IDLE, or RACKED and not already awaited. -/
def State.restful (s : State) (i : Nat) : Bool :=
  (s.sess i).state == .idle || ((s.sess i).state == .racked && (s.reqOf i).isNone)

/-- The session that a descriptor continues or forks. -/
def Desc.base (d : Desc) : Option Nat := if d.fork then some d.parent else if d.session = noIndex then none else some d.session

/-- TAIL of the session that a descriptor continues or forks, 0 for a new one. -/
def State.baseTail (s : State) (p : Port) (n : Nat) (d : Desc) : Nat :=
  match d.base with
  | some h => match s.named p n h with | some i => (s.sess i).tail | none => 0
  | none => 0

/-- The kicker slot of a name's current version. -/
def Serve.kickerOf (v : Serve) (name : Nat) : Option (Nat × Kicker) :=
  (List.range 1024).findSome? (fun n => match Tbl.get none n v.kickers with
    | some k => if k.name = name ∧ k.current = true then some (n, k) else none
    | none => none)

/-- Requests that wait for model slot `k` (R250). -/
def Serve.waiters (v : Serve) (k : Nat) : List Req := v.reqs.filter (fun r => r.phase == .waitModel && r.desc.mslot == k)

/-- Sessions that a ring's seat holds (R336). -/
def State.sessionsOf (s : State) (p : Port) (n : Nat) : Nat :=
  (s.serve.sessions.filter (fun kv => kv.2.state != .free && kv.2.port == p && kv.2.ring == n)).length

/-- The checks of R226 in the table's order, with R246 and R337; none where the descriptor passes. -/
def State.checkDesc (s : State) (p : Port) (n : Nat) (d : Desc) (queued : Bool) : Option Nat :=
  let q := s.port p
  let fn := s.ringFn p n
  let seat := q.seat n
  let inSeat := q.seatMode && n != 0
  let domBad := inSeat && !decide (seat.domBase.toNat ≤ d.domain ∧ d.domain ≤ seat.domBase.toNat + seat.domCnt.toNat)
  let tail := s.baseTail p n d
  let known := match d.base with | some h => (s.named p n h).isSome | none => false
  let last := d.basepos + d.ntok
  let opens := d.base.isNone || d.fork
  let posBad := (opens && decide (d.basepos ≠ 0)) || (known && decide (tail < d.basepos ∨ last ≤ tail))
  let hostBad := !q.grants fn d.tokens (4 * d.ntok) false || !q.grants fn d.pour (8 * d.maxNew) true
    || (d.rack != 0 && !q.grantsBoth fn d.rack (4096 * d.rack4k))
  let sessBad := match d.base with
    | some h => match s.named p n h with
      | some i => !(if d.fork then (s.sess i).state == .idle else s.restful i) || (s.sess i).domain != d.domain || (s.sess i).mslot != d.mslot
      | none => true
    | none => false
  let m := s.model d.mslot
  let kickBad := d.kicker != noIndex && (match s.serve.kickerOf d.kicker with | some (_, k) => k.mslot != d.mslot | none => true)
  firstFault [
    (d.illegal || domBad || !(Tbl.get {} d.domain s.serve.doms).enable, 0x2601),
    (d.handoff == 1 && decide (256 < d.maxNew), 0x2601),
    (posBad, 0x2601),
    (decide (262144 < last), 0x2556),
    (hostBad, 0x2604),
    (sessBad, 0x2602),
    (m.state == .empty || (m.state != .ready && !queued && decide (1024 ≤ (s.serve.waiters d.mslot).length)), 0x2605),
    (s.integ.poisonedSlots.contains d.mslot, 0x2C20),
    (kickBad, 0x2606),
    (opens && (s.freeSess.isNone || (inSeat && decide (seat.maxSessions.toNat ≤ s.sessionsOf p n))), 0x260A)]

/-! Admission (R229, R245, R251). -/

/-- A request refused before admission. -/
def State.refuseReq (s : State) (r : Req) (code : Nat) : State := s.finishReq { r with phase := .waitStake } code r.desc.session 0

/-- The session of an admitted request: opened, forked or continued; none where a fork's take is refused (R205, R228). -/
def State.openSession (s : State) (r : Req) : Option (Nat × State) :=
  let d := r.desc
  let fresh : Session := { state := .busy, port := r.port, ring := r.ring, domain := d.domain, mslot := d.mslot, stake := d.stake, prio := d.prio }
  match d.base with
  | none => s.freeSess.map (fun i =>
      (i, s.modSess i (fun x => { fresh with hgen := x.hgen }.named d)))
  | some h => match s.named r.port r.ring h with
    | none => none
    | some j =>
      if d.fork then
        match s.freeSess, s.takeAll (s.sess j).held with
        | some i, some s' => some (i, s'.modSess i (fun x => { fresh with hgen := x.hgen, pages := (s.sess j).pages, tail := (s.sess j).tail }.named d))
        | _, _ => none
      else if (s.sess j).state = .racked then
        some (j, s.modSess j (fun x => { x with stake := d.stake, prio := d.prio, preempts := 0, rackWhy := 0 }))
      else some (j, s.modSess j (fun x => { x with state := .busy, stake := d.stake, prio := d.prio, preempts := 0 }.named d))

/-- The request put into its stake's queue. -/
def Req.waits (r : Req) : Req := { r with phase := .waitStake }

/-- Steps 2–4 of R229 for a checked request whose model slot is READY. -/
def State.letIn (s : State) (r : Req) : State :=
  let k := r.desc.stake
  let e := s.serve.stake k
  let run := s.serve.run k
  let d := { r.desc with prio := min r.desc.prio e.maxPrio }
  let tail := s.baseTail r.port r.ring d
  let res := stakeUnits e (d.basepos + d.ntok - tail) 0 d.maxNew
  let used := run.usedAt e s.time
  if e.enable = false ∨ e.budget < res then s.refuseReq r 0x2603
  else if e.budget < used + res then
    if e.defer then s.modServe (fun v => { v with reqs := v.reqs.filter (fun x => x.rid != r.rid) ++ [(r.note 0x0610).waits] })
    else s.refuseReq r 0x2603
  else match s.openSession { r with desc := d } with
    | none => s.refuseReq r 0x2555
    | some (i, t) =>
      let t := t.moveUsed k (Int.ofNat res)
      let kick := if d.kicker = noIndex then none else (t.serve.kickerOf d.kicker).map Prod.fst
      let t := match kick with
        | some c => t.modServe (fun v => { v with kickers := Tbl.upd none c (Option.map (fun (y : Kicker) => { y with refs := y.refs + 1 })) v.kickers })
        | none => t
      let walks := (d.base.isNone || d.fork) && tail == 0
      let r' : Req := {
        r with
        desc := d, sess := i, phase := (if walks then .walk else .prefill), tAdmit := t.time, stakeEntry := e, stakeEpoch := t.serve.stakeEpoch.toNat,
        stakeInterval := run.now e t.time, stakeT0 := run.t0, reserved := res, kicker := kick, nextPos := tail, firstPos := tail,
        attrMode := t.pow.attrMode.toNat }
      (t.modServe (fun v => { v with reqs := v.reqs.filter (fun x => x.rid != r.rid) ++ [r'] })).count
        (fun c => { c with reqAdmitted := c.reqAdmitted + 1 })

/-- A request that has passed its checks: it waits for its model slot or is admitted (R250). -/
def State.enter (s : State) (r : Req) : State :=
  if (s.model r.desc.mslot).state = .ready then s.letIn r
  else s.modServe (fun v => { v with reqs := v.reqs.filter (fun x => x.rid != r.rid) ++ [{ r with phase := .waitModel }] })

/-- A REQUEST entry read by STW0. -/
def State.readRequest (s : State) (p : Port) (n : Nat) (e : BitVec 256) : State :=
  let fn := s.ringFn p n
  let raw := s.hostRead p fn (descOf e) 128
  let d := match raw with | some bs => Desc.ofBytes bs | none => { session := noIndex }
  let d := if (s.port p).seatMode && n != 0 then { d with stake := ((s.port p).seat n).stake.toNat } else d
  let r : Req := { rid := s.serve.nextRid, port := p, ring := n, cookie := cookieOf e, desc := d, tokens := [], phase := .waitModel, tCommit := s.time }
  let s := s.modServe (fun v => { v with nextRid := v.nextRid + 1 })
  if raw.isNone then s.refuseReq r 0x2604
  else match s.checkDesc p n d false with
    | some code => s.refuseReq r code
    | none => s.enter { r with tokens := words32 (s.hostGet p d.tokens (4 * d.ntok)) }

/-- REQUEST (R229). -/
def execRequest (p : Port) (n : Fin 16) (e : BitVec 256) (host : Cells) (s : State) : Host.Outcome State Fault Refusal :=
  entryCmd 0x01 e ((s.hostStore p host).intake p n e (fun s => s.readRequest p n e))

/-- Waiting requests checked again and let in, in arrival order (R245, R250). -/
def State.recheck (s : State) (l : List Req) : State :=
  l.foldl (fun s r => match s.checkDesc r.port r.ring r.desc true with
    | some code => s.refuseReq r code
    | none => s.enter r) s

/-- STAKE_INTERVAL_START (R245): USED is 0 from the start of an interval, and waiting requests are checked again. -/
def execStakeIntervalStart (k : BitVec 12) (s : State) : Host.Outcome State Fault Refusal :=
  let e := s.serve.stake k.toNat
  let r := s.serve.run k.toNat
  if !s.serving || !e.enable || decide (r.now e s.time = r.interval) then .next s
  else
    let s := s.modServe (fun v => { v with stakeRuns := Tbl.set {} k.toNat { r with interval := r.now e s.time, used := 0 } v.stakeRuns })
    .next (s.recheck (s.serve.reqs.filter (fun x => x.phase == .waitStake && x.desc.stake == k.toNat)))

/-! The vine walk (R199, R229). -/

/-- VINE_WALK (R199): the walk of the admitted request that holds session `i`, over every full page of its prompt. Where the pages cover the
whole prompt the last one is given back, since the row of the prompt's last position must be computed: its logits give the first token
(DEDUCED, log entry 25). -/
def execVineWalk (i : Nat) (ahead : Fin 16) (s : State) : Host.Outcome State Fault Refusal :=
  match s.reqOf i with
  | none => .next s
  | some r =>
    if !s.alive || r.phase != .walk then .next s
    else
      let d := r.desc
      let w := State.walk d.mslot d.domain (s.model d.mslot).gen ahead (pageGroups (d.ntok / 16) r.tokens) 0 0 noIndex s.wake
      let all := decide (16 * w.pages.length = d.ntok)
      let kept := if all then w.pages.dropLast else w.pages
      let t := 16 * kept.length
      let s := (w.pages.drop kept.length).foldl State.release w.s
      let s := s.modSess i (fun x => { x with pages := kept, tail := t })
      if w.refused then .next (s.endReq { r with vine := t } 0x2555 false)
      else
        let res := stakeUnits r.stakeEntry (d.basepos + d.ntok - t) t d.maxNew
        let s := s.adjust r res
        .next (s.modReq r.rid (fun r => { r with vine := t, reserved := res, phase := .prefill, nextPos := t, firstPos := t }))

/-! Cancellation (R253, R254). -/

/-- Whether a request is one that a cancel can find by its cookie. -/
def Req.isNamed (r : Req) (p : Port) (n arg : Nat) : Bool := r.port == p && r.ring == n && r.cookie.toNat == arg

/-- A CANCEL that takes effect. -/
def State.cancel (s : State) (p : Port) (n : Nat) (e : BitVec 256) : State :=
  match s.serve.reqs.find? (fun r => r.isNamed p n (argOf e)) with
  | some r => if r.admitted then s.endSoon r 0x2609 else s.refuseReq r 0x2609
  | none => s.adminRecord (s.reply p n e) 0 0

/-- CANCEL: the entry at CONS, or, `ahead` places behind a request that waits for its stake, an entry that names it. -/
def execCancel (p : Port) (n : Fin 16) (e : BitVec 256) (ahead : Nat) (s : State) : Host.Outcome State Fault Refusal :=
  if ahead = 0 then entryCmd 0x02 e (s.intake p n e (fun s => s.cancel p n e))
  else
    let r := s.ring p n
    let k := ahead - 1
    let idx := (r.cons.toNat + k) % 2 ^ r.log2ent.toNat
    let waiting := s.serve.reqs.find? (fun x => x.port == p && x.ring == n.val && x.phase == .waitStake)
    entryCmd 0x02 e (match waiting with
      | some x =>
        if !s.watches p n || phaseOf e != r.expects k || r.handled.contains idx || decide (2 ^ r.log2ent.toNat ≤ k) || !x.isNamed p n (argOf e) then s
        else (s.modRing p n (fun r => { (r.store k e) with handled := r.handled ++ [idx] })).refuseReq x 0x2609
      | none => s)

/-! Administrative tables (R244, R246). -/

/-- The `n` entries of `w` bytes of a block at DESC whose trailing CRC-32C is right: the values, or an outcome. -/
def State.readTable (s : State) (p : Port) (fn a w n : Nat) : Except Nat (List Nat) :=
  match s.hostRead p fn a (w * n + 4) with
  | none => .error 0x2604
  | some bs =>
    if crc32c (bs.take (w * n)) = ofLeBytes (bs.drop (w * n)) then .ok ((chunks w n bs).map ofLeBytes) else .error 0x260B

/-- A list of values as a table without its defaults. -/
def tableOf {α : Type} [DecidableEq α] (d : α) (l : List α) : Tbl α := (l.zipIdx.filter (fun x => x.1 ≠ d)).map (fun x => (x.2, x.1))

/-- A stake entry decoded. -/
def StakeEntry.ofNat (v : Nat) : StakeEntry :=
  { budget := fld v 96 32, len := fld v 64 32, genWt := fld v 56 8, vineWt := fld v 48 8, maxPrio := fld v 37 3, defer := bit v 36, enable := bit v 0 }

/-- The runs after a switch (R245): a stake that became enabled or whose LEN changed starts at the switch. -/
def Serve.switchRuns (v : Serve) (new : Tbl StakeEntry) (t : Nat) : Tbl StakeRun :=
  new.foldl (fun runs kv =>
    let old := v.stake kv.1
    if kv.2.enable && (!old.enable || old.len != kv.2.len) then Tbl.set {} kv.1 { t0 := t } runs else runs) v.stakeRuns

/-- Whether a switch from `old` to `new` sets a stake's T0, which starts an interval, or ends what the stake admits (R244, R245). -/
def StakeEntry.restarts (new old : StakeEntry) : Bool := !new.enable || !old.enable || old.len != new.len

/-- STAKE_LOAD (R244). Requests that wait for a stake whose T0 the switch sets, or which it disables, are checked again (R245, log entry 27). -/
def execStakeLoad (p : Port) (n : Fin 16) (e : BitVec 256) (host : Cells) (s : State) : Host.Outcome State Fault Refusal :=
  entryCmd 0x10 e ((s.hostStore p host).intake p n e (fun s =>
    match s.readTable p (s.ringFn p n) (descOf e) 16 4096 with
    | .error c => s.adminRecord (s.reply p n e) c 0
    | .ok l =>
      let l := l.map StakeEntry.ofNat
      if l.any (fun x => x.enable && x.len == 0) then s.adminRecord (s.reply p n e) 0x260B 0
      else
        let new := tableOf {} l
        let t := (s.modServe (fun v => { v with
          stakeRuns := v.switchRuns new s.time, stakes := new, stakesShadow := v.stakes, stakeEpoch := v.stakeEpoch + 1 })).adminRecord
          (s.reply p n e) 0 0
        t.recheck (t.serve.reqs.filter (fun x => x.phase == .waitStake
          && (t.serve.stake x.desc.stake).restarts (s.serve.stake x.desc.stake)))))

/-- A domain entry decoded. -/
def DomEntry.ofNat (v : Nat) : DomEntry := { cap := fld v 12 20, enable := bit v 3, pri := fld v 0 3 }

/-- DOMAIN_LOAD (R246). -/
def execDomainLoad (p : Port) (n : Fin 16) (e : BitVec 256) (host : Cells) (s : State) : Host.Outcome State Fault Refusal :=
  entryCmd 0x11 e ((s.hostStore p host).intake p n e (fun s =>
    match s.readTable p (s.ringFn p n) (descOf e) 4 16384 with
    | .error c => s.adminRecord (s.reply p n e) c 0
    | .ok l => (s.modServe (fun v => { v with doms := tableOf {} (l.map DomEntry.ofNat), domsShadow := v.doms })).adminRecord (s.reply p n e) 0 0))

/-- DOMAIN_PURGE (R210, R246). -/
def execDomainPurge (p : Port) (n : Fin 16) (e : BitVec 256) (s : State) : Host.Outcome State Fault Refusal :=
  entryCmd 0x12 e (s.intake p n e (fun s =>
    (s.purge (fun d => d.domain == argOf e % 16384)).adminRecord (s.reply p n e) 0 0))

/-! Session entries (R227, R228). -/

/-- SESSION_CLOSE (R228). -/
def execSessionClose (p : Port) (n : Fin 16) (e : BitVec 256) (s : State) : Host.Outcome State Fault Refusal :=
  entryCmd 0x40 e (s.intake p n e (fun s =>
    match s.named p n (argOf e % 2 ^ 32) with
    | some i => if s.restful i then (s.closeSess i).adminRecord (s.reply p n e) 0 0 else s.adminRecord (s.reply p n e) 0x2602 0
    | none => s.adminRecord (s.reply p n e) 0x2602 0))

/-- SESSION_QUERY (R227): bits [447:0] of the entry. -/
def execSessionQuery (p : Port) (n : Fin 16) (e : BitVec 256) (s : State) : Host.Outcome State Fault Refusal :=
  entryCmd 0x41 e (s.intake p n e (fun s =>
    match s.named p n (argOf e % 2 ^ 32) with
    | some i => s.adminRecord (s.reply p n e) 0 (s.sess i).bits
    | none => s.adminRecord (s.reply p n e) 0x2602 0))

end Sys2Proof.Machine
end

