-- ==== Sys2Proof/Machine/Ports.lean ====
section
/-! DEFINITION. The host ports: PCIe events, the loss of a host and its clean-up (R331–R338), racking windows (R324, R325), rings (R221,
R328–R330) and seats (R336). -/

namespace Sys2Proof.Machine

/-! Port state. -/

/-- Whether the selected reference clock is present (R28, R319). -/
def PortSt.clocked (q : PortSt) : Bool := q.refclkSel || q.refclkOk

/-- Functions that exist on a port (R320). -/
def PortSt.fns (q : PortSt) : List Nat := if q.seatMode then List.range (q.numVf + 1) else [0]

/-- Whether some function's clean-up is still running (R332, R335). -/
def PortSt.quiescing (q : PortSt) : Bool := q.funcs.any (fun kv => kv.2.quiesce)

/-- TotalVFs, First VF Offset and VF Stride of a PF in seat mode (R320). -/
def sriov : Nat × Nat × Nat := (15, 1, 1)

/-- Device ID of function `n` (R320): the PF's, and the seats'. -/
def deviceId (n : Nat) : Nat := if n = 0 then 0x9620 else 0x9621

/-- Class code of every function: processing accelerator (R320). -/
def classCode : Nat := 0x120000

/-- The routing ID of seat `n`, counted from its PF's (R320). -/
def seatRouting (n : Nat) : Nat := sriov.2.1 + (n - 1) * sriov.2.2

/-- STATE of R335. -/
def PortSt.stateCode (q : PortSt) : Nat :=
  match q.link with
  | .up => 2
  | .training => if q.quiescing then 3 else 1
  | .down => if q.quiescing then 3 else 0

/-- Whether function `n` exists and its port is up. -/
def PortSt.serves (q : PortSt) (n : Nat) : Bool := q.link == .up && q.fns.contains n

/-- Whether function `n` takes configuration requests: before its port block is ready they meet Configuration Request Retry Status (R334). -/
def PortSt.configures (q : PortSt) (n : Nat) : Bool := q.serves n && q.ready

/-- The power domain of a port (R341). -/
def portDom (p : Port) : Nat := 30 + p.num

/-! The loss of a host (R331, R332). -/

/-- Rings of a function. -/
def State.fnRings (s : State) (p : Port) (fn : Nat) : List Nat := (List.range 16).filter (fun n => s.ringFn p n == fn)

/-- Whether a request, session or reply belongs to a function. -/
def State.belongs (s : State) (p : Port) (fn : Nat) (q : Port) (ring : Nat) : Bool := q == p && s.ringFn p ring == fn

/-- The configuration of a function reset: Bus Master Enable, power state and MSI-X (R331, R332, R338). -/
def Func.resetConfig (f : Func) : Func :=
  { f with bme := false, d3hot := false, msixEn := false, msixMask := false, vectors := [], unmasked := [], pba := [] }

/-- The function's state after a loss: generation raised, its configuration at reset, clean-up due. -/
def Func.lose (f : Func) (wide : Bool) : Func :=
  { f.resetConfig with gen := (f.gen + 1) % 65536, quiesce := true, lossPort := wide }

/-- Rings, windows, waiting records and replies of a function dropped. -/
def State.dropFn (s : State) (p : Port) (fn : Nat) : State :=
  let rs := s.fnRings p fn
  let s := rs.foldl (fun s n => s.modRing p n (fun r => { r with enable := false })) s
  let s := s.modPort p (fun q => { q with
    windows := q.windows.filter (fun kv => q.winOwner kv.1 != fn)
    past := q.past ++ (q.windows.filter (fun kv => q.winOwner kv.1 == fn && kv.2.en)).map Prod.snd })
  s.modServe (fun v => { v with
    records := v.records.filter (fun c => !(c.port == p && rs.contains c.ring))
    models := Tbl.mapVals {} (fun _ m => { m with
      reply := match m.reply with | some a => if a.port == p && rs.contains a.ring then none else some a | none => none }) v.models })

/-- A silent request's end outside a pass. -/
def State.endLost (s : State) (r : Req) : State :=
  if !r.admitted then s.finishReq r 0x2901 r.desc.session 0
  else match s.lglob.ships.find? (fun x => x.rid == r.rid) with
    | some x => s.endShip x 0x2901 (some 2)
    | none => s.endReq r 0x2901 true

/-- An attestation report that port `p` waits for is lost (R376). -/
def State.dropReport (s : State) (p : Port) : State :=
  let mine := fun (j : SignJob) => match j with | .report q _ _ => q == p | .auth _ => false
  if s.sec.signQ.any mine then s.modSec (fun k => { k with signQ := k.signQ.filter (fun j => !mine j), attStatus := 4 }) else s

/-- A request of a lost host: it writes nothing more, and in a launched pass it ends at that pass's boundary (R332). -/
def Req.loses (r : Req) : Req :=
  { r with silent := true, endCode := if r.inPass && r.endCode.isNone then some 0x2901 else r.endCode }

/-- Steps 1 to 3 of R332: a function's configuration, generation, rings, windows and what waits for it. -/
def State.clearFn (s : State) (p : Port) (wide : Bool) (fn : Nat) : State :=
  let s := (s.modFunc p fn (fun f => f.lose wide)).dropFn p fn
  if fn = 0 then s.dropReport p else s

/-- The clean-up of R332 that is done at once: a function's requests end, those in a launched pass at its boundary, and its sessions close. -/
def State.endFn (s : State) (p : Port) (fn : Nat) : State :=
  let mine := fun (r : Req) => s.belongs p fn r.port r.ring
  let s := s.modServe (fun v => { v with reqs := v.reqs.map (fun r => if mine r then r.loses else r) })
  let s := (s.serve.reqs.filter (fun r => mine r && !r.inPass)).foldl State.endLost s
  let open_ := (s.serve.sessions.filter (fun kv => kv.2.state != .free && s.belongs p fn kv.2.port kv.2.ring)).map Prod.fst
  (open_.filter (fun i => (s.reqOf i).isNone)).foldl State.closeSess s

/-- What a function's loss does at once (R332). -/
def State.loseFn (s : State) (p : Port) (wide : Bool) (fn : Nat) : State := (s.clearFn p wide fn).endFn p fn

/-- A loss counted (R335). -/
def State.countLoss (s : State) (p : Port) (cause : Nat) : State :=
  s.modPort p (fun q => { q with losses := satAdd 8 q.losses 1, lastLoss := cause })

/-- Every function of a port that is up loses its host. -/
def State.losePort (s : State) (p : Port) (cause : Nat) : State :=
  if (s.port p).link ≠ .up then s else (s.port p).fns.foldl (fun s n => s.loseFn p true n) (s.countLoss p cause)

/-- A port's link put in a state other than UP: every function's configuration is reset, and L1 is left (R343). -/
def State.linkAway (s : State) (p : Port) (x : PortLink) : State :=
  (s.modPort p (fun q => { q with
    link := x, width := 0, speed := 0, numVf := 0, ready := false, l1 := false
    funcs := Tbl.mapVals {} (fun _ f => f.resetConfig) q.funcs })).modPow
      (fun w => if w.dom (portDom p) = .low then w.setDoms [portDom p] .on else w)

/-- PERST_ASSERT (R331, R343). -/
def execPerstAssert (p : Port) (s : State) : Host.Outcome State Fault Refusal :=
  let s := (s.losePort p 1).linkAway p .down
  .next ((s.modPort p (fun q => { q with perst := true })).modPow (fun w => w.setDoms [portDom p] .off))

/-- Whether the module's ports may work: neither STANDBY nor TRIPPED (R341), boot past FUSES and not HALTED (R409, R419). -/
def State.powered (s : State) : Bool :=
  (s.pow.mstate == .active || s.pow.mstate == .readyIdle) && s.boot.stage != 0x01 && s.boot.stage != 0x0F

/-- Training of a port begun where its clock is present (R28, R334). -/
def State.trainPort (s : State) (p : Port) : State :=
  if (s.port p).perst || !(s.port p).clocked || (s.port p).link != .down then s
  else s.modPort p (fun q => { q with link := .training })

/-- PERST_DEASSERT (R334, R343). -/
def execPerstDeassert (p : Port) (s : State) : Host.Outcome State Fault Refusal :=
  let s := s.modPort p (fun q => { q with perst := false })
  if s.powered then .next ((s.modPow (fun w => w.setDoms [portDom p] .on)).trainPort p) else .next s

/-- DATA_LINK_DOWN (R319, R331): `refclkLost` says that the selected REFCLK went away. -/
def execDataLinkDown (p : Port) (refclkLost : Bool) (s : State) : Host.Outcome State Fault Refusal :=
  let lost := refclkLost && !(s.port p).refclkSel
  let s := (s.losePort p (if lost then 6 else 2)).linkAway p .down
  .next (if lost then s.modPort p (fun q => { q with refclkOk := false }) else s)

/-- HOT_RESET (R331): the link trains again. -/
def execHotReset (p : Port) (s : State) : Host.Outcome State Fault Refusal :=
  if (s.port p).link ≠ .up then .next s else .next (((s.losePort p 3).linkAway p .down).trainPort p)

/-- PF_FLR (R338): the PF and every seat; VF Enable is cleared. -/
def execPfFlr (p : Port) (s : State) : Host.Outcome State Fault Refusal :=
  if !(s.port p).configures 0 then .next s else .next ((s.losePort p 4).modPort p (fun q => { q with numVf := 0 }))

/-- PF_BME_CLEAR (R331). In D3hot Bus Master Enable is 0 already. -/
def execPfBmeClear (p : Port) (s : State) : Host.Outcome State Fault Refusal :=
  if !(s.port p).configures 0 || ((s.port p).func 0).d3hot then .next s else .next (s.losePort p 4)

/-- Seats above `n` cease to exist. -/
def State.lowerVfs (s : State) (p : Port) (n : Nat) : State :=
  let gone := (s.port p).fns.filter (fun k => decide (n < k))
  (gone.foldl (fun s k => s.loseFn p false k) s).modPort p (fun q => { q with numVf := min q.numVf n })

/-- VF_ENABLE_CLEAR (R331): VF Enable cleared, or NumVFs lowered to `numVf`. -/
def execVfEnableClear (p : Port) (numVf : Fin 16) (s : State) : Host.Outcome State Fault Refusal :=
  if !(s.port p).configures 0 then .next s else .next (s.lowerVfs p numVf)

/-- A seat that loses its host alone. -/
def State.loseSeat (s : State) (p : Port) (n : Nat) : State :=
  if n ≠ 0 ∧ (s.port p).configures n = true then s.loseFn p false n else s

/-- SEAT_FLR (R338). -/
def execSeatFlr (p : Port) (n : Fin 16) (s : State) : Host.Outcome State Fault Refusal := .next (s.loseSeat p n)

/-- SEAT_BME_CLEAR (R331). In D3hot Bus Master Enable is 0 already. -/
def execSeatBmeClear (p : Port) (n : Fin 16) (s : State) : Host.Outcome State Fault Refusal :=
  .next (if ((s.port p).func n).d3hot then s else s.loseSeat p n)

/-- D3HOT_ENTRY (R331). -/
def execD3hotEntry (p : Port) (n : Fin 16) (s : State) : Host.Outcome State Fault Refusal :=
  if !(s.port p).configures n || ((s.port p).func n).d3hot then .next s
  else .next (((s.countLoss p 5).loseFn p (n.val == 0) n).modFunc p n (fun f => { f with d3hot := true }))

/-- RETURN_TO_D0 (R331): the function is reset; the PF's reset ends its seats. -/
def execReturnToD0 (p : Port) (n : Fin 16) (s : State) : Host.Outcome State Fault Refusal :=
  if !(s.port p).configures n || !((s.port p).func n).d3hot then .next s
  else
    let s := s.modFunc p n Func.resetConfig
    .next (if n.val = 0 then s.lowerVfs p 0 else s)

/-- Whether requests of a lost host are still to end. -/
def State.lingers (s : State) (p : Port) (fn : Nat) : Bool := s.serve.reqs.any (fun r => r.silent && s.belongs p fn r.port r.ring)

/-- QUIESCE_DONE (R332): the clean-up's report, once per function. -/
def execQuiesceDone (p : Port) (n : Fin 16) (s : State) : Host.Outcome State Fault Refusal :=
  let f := (s.port p).func n
  if !s.alive || !f.quiesce || s.lingers p n then .next s
  else
    .next ((s.modFunc p n (fun f => { f with quiesce := false, ended := 0 })).report
      { code := if f.lossPort then 0x2901 else 0x2902, kind := .port, unit := p.num, func := n, ports := 2 ^ p.num, reqs := f.ended })

/-- BUS_MASTER_ENABLE_SET (R332). -/
def execBusMasterEnableSet (p : Port) (n : Fin 16) (s : State) : Host.Outcome State Fault Refusal :=
  if !(s.port p).configures n || ((s.port p).func n).d3hot then .next s else .next (s.modFunc p n (fun f => { f with bme := true }))

/-- Whether the module has booted far enough for a port to be ready (R334, R420, R423): it serves, has no service, has stopped, or runs the loader. -/
def State.booted (s : State) : Bool := decide (1 ≤ s.glob.service ∧ s.glob.service ≤ 4)

/-- PCIE_LINK_UP (R317, R334). -/
def execPcieLinkUp (p : Port) (speed : Fin 6) (width : Fin 17) (s : State) : Host.Outcome State Fault Refusal :=
  let q := s.port p
  if !Sys2Proof.rateFits speed width then .fault .illFormed
  else if !s.powered || q.perst || !q.clocked || q.link == .up then .next s
  else
    let s := s.modPort p (fun q => { q with link := .up, speed := speed, width := width, ready := s.booted })
    .next (if speed.val < 5 ∨ width.val < 16 then s.report { code := 0x0911, kind := .port, unit := p.num, ports := 2 ^ p.num } else s)

/-- REFCLK_DETECT (R28). -/
def execRefclkDetect (p : Port) (s : State) : Host.Outcome State Fault Refusal :=
  let s := s.modPort p (fun q => { q with refclkOk := true })
  .next (if s.powered then s.trainPort p else s)

/-- RATE_WIDTH_CHANGE (R318): no loss. -/
def execRateWidthChange (p : Port) (speed : Fin 6) (width : Fin 17) (s : State) : Host.Outcome State Fault Refusal :=
  if !Sys2Proof.rateFits speed width then .fault .illFormed
  else .next (s.modPort p (fun q => if q.link = .up then { q with speed := speed, width := width } else q))

/-- VF_ENABLE_SET (R320). -/
def execVfEnableSet (p : Port) (numVf : Fin 16) (s : State) : Host.Outcome State Fault Refusal :=
  let q := s.port p
  if !q.seatMode || !q.configures 0 || (q.func 0).d3hot then .next s
  else .next (s.modPort p (fun q => { q with numVf := max q.numVf numVf }))

/-- The mask bit of vector `vec` of function `n` written (R330): unmasking sends a message that its PBA bit holds. -/
def State.maskVector (s : State) (p : Port) (n vec : Nat) (mask : Bool) : State :=
  let held := ((s.port p).func n).pba.contains vec
  let s := s.modFunc p n (fun f => { f with unmasked := f.unmasked.filter (fun v => v != vec) ++ (if mask then [] else [vec]) })
  if !mask && held then (s.modFunc p n (fun f => { f with pba := f.pba.erase vec })).sendVector p n vec else s

/-- VECTOR_UNMASK (R330): a message that waited is sent. -/
def execVectorUnmask (p : Port) (n : Fin 16) (vec : Fin 64) (s : State) : Host.Outcome State Fault Refusal :=
  let q := s.port p
  let f := q.func n
  if !q.serves n || f.d3hot || decide (q.vectors n ≤ vec) then .next s else .next (s.maskVector p n vec false)

/-- A write of `size` bytes to offset `off` of function `n`'s MSI-X table (R321, R323): of each 16-byte entry, the message address, the message
data and the vector control word with its mask bit, in the layout of the PCI Express standard (PRESUMED, log entry 30). -/
def State.writeVectors (s : State) (p : Port) (n off size v : Nat) : State :=
  let k := off / 16
  let o := off % 16
  let set := fun (f : VecEntry → VecEntry) (s : State) => s.modFunc p n (fun x => { x with vectors := Tbl.upd {} k f x.vectors })
  if (s.port p).vectors n ≤ k ∨ ¬ (size = 4 ∨ size = 8) ∨ off % size ≠ 0 then s
  else if o = 0 then
    set (fun x => { x with addr := BitVec.ofNat 64 (if size = 8 then v else x.addr.toNat / 2 ^ 32 * 2 ^ 32 + v % 2 ^ 32) }) s
  else if o = 4 then set (fun x => { x with addr := BitVec.ofNat 64 (x.addr.toNat % 2 ^ 32 + v % 2 ^ 32 * 2 ^ 32) }) s
  else if o = 8 then
    let s := set (fun x => { x with data := BitVec.ofNat 32 v }) s
    if size = 8 then s.maskVector p n k (bit v 32) else s
  else s.maskVector p n k (bit v 0)

/-- Eight bytes read at offset `off` of a function's MSI-X table (R321, R323). -/
def Func.readVectors (f : Func) (off : Nat) : Nat :=
  let x := Tbl.get {} (off / 16) f.vectors
  if off % 16 < 8 then x.addr.toNat else x.data.toNat + b2n (!f.unmasked.contains (off / 16)) * 2 ^ 32

/-- The PBA of a function (R330). -/
def Func.pbaBits (f : Func) : Nat := maskOf f.pba

/-- Eight bytes read from a PF's BAR4 (R321): the MSI-X table at 0x0000, the PBA at 0x8000. -/
def State.readBar4 (s : State) (p : Port) (off : Nat) : Nat :=
  let q := s.port p
  if off < 16 * q.vectors 0 then (q.func 0).readVectors off else if off = 0x8000 then (q.func 0).pbaBits else 0

/-- A write to function `n`'s MSI-X Message Control (R330): MSI-X Enable in bit 15, Function Mask in bit 14. -/
def State.writeMsix (s : State) (p : Port) (n v : Nat) : State :=
  s.modFunc p n (fun f => { f with msixEn := bit v 15, msixMask := bit v 14 })

/-- ASPM_L1_ENTRY (R343). -/
def execAspmL1Entry (p : Port) (s : State) : Host.Outcome State Fault Refusal :=
  if (s.port p).link ≠ .up then .next s
  else .next ((s.modPort p (fun q => { q with l1 := true })).modPow (fun w => w.setDoms [portDom p] .low))

/-- ASPM_L1_EXIT (R343). -/
def execAspmL1Exit (p : Port) (s : State) : Host.Outcome State Fault Refusal :=
  if (s.port p).l1 then .next ((s.modPort p (fun q => { q with l1 := false })).modPow (fun w => w.setDoms [portDom p] .on)) else .next s

/-! Racking windows (R324, R325). -/

/-- Window `w` of a port replaced; what it was is kept for R327. -/
def State.setWin (s : State) (p : Port) (w : Nat) (x : RackWindow) : State :=
  s.modPort p (fun q => { q with windows := Tbl.set {} w x q.windows, past := q.past ++ (if (q.win w).en then [q.win w] else []) })

/-- Whether a window may be enabled. -/
def PortSt.winLegal (q : PortSt) (w : Nat) (x : RackWindow) : Bool :=
  decide (x.size4k ≠ 0 ∧ x.dev4k.toNat + x.size4k.toNat ≤ 2 ^ 34 ∧ (x.base4k.toNat + x.size4k.toNat) * 4096 ≤ 2 ^ 64)
    && (List.range 64).all (fun v =>
      let y := q.win v
      v == w || !y.en || decide (y.dev4k.toNat + y.size4k.toNat ≤ x.dev4k.toNat ∨ x.dev4k.toNat + x.size4k.toNat ≤ y.dev4k.toNat))

/-- A write to a window's first register. -/
def State.writeWin0 (s : State) (p : Port) (w v : Nat) : State :=
  let q := s.port p
  let x := q.win w
  let y : RackWindow := { x with wr := bit v 2, rd := bit v 1, base4k := if x.en then x.base4k else BitVec.ofNat 52 (v / 4096) }
  s.setWin p w { y with en := bit v 0 && (x.en || q.winLegal w y) }

/-- A write to SIZE_4K. -/
def State.writeWin1 (s : State) (p : Port) (w v : Nat) : State :=
  let x := (s.port p).win w
  if x.en then s else s.setWin p w { x with size4k := BitVec.ofNat 35 v }

/-- A write to DEV_4K. -/
def State.writeWin2 (s : State) (p : Port) (w v : Nat) : State :=
  let x := (s.port p).win w
  if x.en then s else s.setWin p w { x with dev4k := BitVec.ofNat 34 v }

/-! Rings (R221, R326, R328–R330). -/

/-- Whether ENABLE of a ring may become 1. -/
def State.ringLegal (s : State) (p : Port) (n : Nat) (r : Ring) : Bool :=
  let fn := s.ringFn p n
  decide (6 ≤ r.log2ent.toNat ∧ r.log2ent.toNat ≤ 12 ∧ 6 ≤ r.log2cq.toNat ∧ r.log2cq.toNat ≤ 14 ∧ r.vector.toNat < (s.port p).vectors fn)
    && (s.port p).grants fn r.cqBase.toNat (128 * 2 ^ r.log2cq.toNat) true

/-- A ring as its enabling leaves it. -/
def Ring.start (r : Ring) : Ring :=
  { r with enable := true, area := [], cons := 0, cqTail := 0, inPhase := true, cqPhase := true, armed := true, handled := [] }

/-- A write to a ring's first register. -/
def State.writeRing0 (s : State) (p : Port) (n v : Nat) : State :=
  let r := s.ring p n
  if r.enable then s.modRing p n (fun r => { r with enable := bit v 0 })
  else
    let r := { r with vector := BitVec.ofNat 8 (v / 256), log2ent := BitVec.ofNat 4 (v / 16) }
    s.modRing p n (fun _ => if bit v 0 && s.ringLegal p n r then r.start else r)

/-- A write to CQ_BASE. -/
def State.writeRing1 (s : State) (p : Port) (n v : Nat) : State :=
  s.modRing p n (fun r => if r.enable then r else { r with cqBase := BitVec.ofNat 64 v })

/-- A host write to CQ_HEAD (R329, R330). -/
def State.writeHead (s : State) (p : Port) (n v : Nat) : State :=
  let r := s.ring p n
  let h : BitVec 16 := BitVec.ofNat 16 v
  if (h - r.cqHead).toNat ≤ (r.cqTail - r.cqHead).toNat then
    if h = r.cqTail then s.modRing p n (fun r => { r with cqHead := h, armed := true })
    else (s.modRing p n (fun r => { r with cqHead := h })).ringVector p n
  else s.report { code := 0x0913, detail := n, kind := .port, unit := p.num, func := s.ringFn p n, ports := 2 ^ p.num }

/-- A write to a ring's third register. -/
def State.writeRing2 (s : State) (p : Port) (n v : Nat) : State :=
  (s.modRing p n (fun r => if r.enable then r else { r with log2cq := BitVec.ofNat 4 v })).writeHead p n (fld v 32 16)

/-! Seats (R336). -/

/-- A write to a seat's limits. -/
def State.writeSeat (s : State) (p : Port) (n v : Nat) : State :=
  if 16383 < fld v 14 14 + fld v 0 14 then s
  else
    let x : SeatRegs := {
      maxSessions := BitVec.ofNat 16 (v / 2 ^ 48), maxInflight := BitVec.ofNat 8 (v / 2 ^ 40), stake := BitVec.ofNat 12 (v / 2 ^ 28)
      domBase := BitVec.ofNat 14 (v / 2 ^ 14), domCnt := BitVec.ofNat 14 v }
    s.modPort p (fun q => { q with seats := Tbl.set {} n x q.seats })

end Sys2Proof.Machine
end

