-- ==== Sys2Proof/Machine/Models.lean ====
section
/-! DEFINITION. Model swap (R249, R250, R416) and kickers (R251, R252). -/

namespace Sys2Proof.Machine

/-! Model load blocks (R249). -/

/-- Decoding of a model load block. -/
def ModelBlock.ofBytes (bs : List Nat) : ModelBlock :=
  let v := ofLeBytes bs
  { pkg := fld v 448 64, pkgBytes := fld v 384 64, eos := (List.range 4).map (fun i => fld v (256 + 32 * i) 32), nl := fld v 224 32,
    nh := fld v 208 16, d := fld v 192 16, kvfmt := fld v 188 4, pgroup := fld v 176 8, force := bit v 169, source := fld v 168 1,
    mslot := fld v 166 2, magic := fld v 0 8 }

/-- Whether a geometry is refused (R181, R250). -/
def ModelBlock.refused (b : ModelBlock) : Bool :=
  b.nl == 0 || b.nh == 0 || b.d == 0 || kvBits b.kvfmt == 0 || decide (4095 < b.slot4k)

/-- The slot's IDLE sessions closed with event 0x0613 (R250). -/
def State.closeIdle (s : State) (k : Nat) : State :=
  ((s.serve.sessions.filter (fun kv => kv.2.state == .idle && kv.2.mslot == k)).map Prod.fst).foldl
    (fun s i => (s.eventRecord i 0x0613).closeSess i) s

/-- Step 1 of R250: sessions closed and the slot's nodes removed. -/
def State.clearSlot (s : State) (k : Nat) : State := (s.closeIdle k).purge (fun d => d.mslot == k)

/-- A load begun in a slot that holds nothing in use (R250): its geometry, and its package or the fetch of it. -/
def State.startLoad (s : State) (k : Nat) (b : ModelBlock) (id : Nat) (a : Option AdminReply) : State :=
  let s := s.clearSlot k
  let s := s.modModel k (fun m => { m with state := .loading, block := b, next := none, reply := a, written := false, modelId := id })
  if b.refused then s.failLoad k 0x2558
  else if b.source = 1 then s.queueFetch k
  else match a with
    | some r => match s.hostRead r.port (s.ringFn r.port r.ring) b.pkg b.pkgBytes with
      | some bs => s.modModel k (fun m => { m with written := true, modelId := ofLeBytes (shake256 32 bs) })
      | none => s.failLoad k 0x2604
    | none => s.failLoad k 0x2604

/-- A load or an unload taken up: a READY slot drains first. -/
def State.takeModel (s : State) (k : Nat) (next : Option ModelBlock) (id : Nat) (a : AdminReply) : State :=
  s.modModel k (fun m => { m with state := .draining, next := next, nextId := id, drainStart := s.time, reply := some a })

/-- MODEL_LOAD (R249, R250, R339). -/
def execModelLoad (p : Port) (n : Fin 16) (e : BitVec 256) (host : Cells) (s : State) : Host.Outcome State Fault Refusal :=
  entryCmd 0x20 e ((s.hostStore p host).intake p n e (fun s =>
    let fn := s.ringFn p n
    let a := s.reply p n e
    match s.hostRead p fn (descOf e) 64 with
    | none => s.adminRecord a 0x2604 0
    | some bs =>
      let b := ModelBlock.ofBytes bs
      let k := b.mslot
      let x := (s.model k).state
      if b.magic ≠ 0x4D ∨ x = .loading ∨ x = .draining then s.adminRecord a 0x260B 0
      else
        let id := if b.source = 1 then s.hostRead p fn (descOf e + 64) 32 else some []
        match id with
        | none => s.adminRecord a 0x2604 0
        | some id =>
          if x = .ready then s.takeModel k (some b) (ofLeBytes id) a else s.startLoad k b (ofLeBytes id) (some a)))

/-- MODEL_UNLOAD (R250). -/
def execModelUnload (p : Port) (n : Fin 16) (e : BitVec 256) (s : State) : Host.Outcome State Fault Refusal :=
  entryCmd 0x21 e (s.intake p n e (fun s =>
    let k := argOf e % 4
    let a := s.reply p n e
    match (s.model k).state with
    | .ready => s.takeModel k none 0 a
    | .empty => s.adminRecord a 0 0
    | _ => s.adminRecord a 0x260B 0))

/-- Admitted requests of a slot. -/
def State.slotReqs (s : State) (k : Nat) : List Req := s.serve.reqs.filter (fun r => r.admitted && r.desc.mslot == k)

/-- MODEL_DRAINED (R250): the slot's admitted requests have ended. -/
def execModelDrained (k : Fin 4) (s : State) : Host.Outcome State Fault Refusal :=
  let m := s.model k
  if !s.alive || m.state != .draining || !(s.slotReqs k).isEmpty then .next s
  else match m.next with
    | some b => .next (s.wake.startLoad k b m.nextId m.reply)
    | none => .next ((s.wake.clearSlot k).failLoad k 0)

/-- MODEL_DRAIN_TIMEOUT (R250): with FORCE 1 the remaining requests end with 0x2605 after DRAIN_MAX. -/
def execModelDrainTimeout (k : Fin 4) (s : State) : Host.Outcome State Fault Refusal :=
  let m := s.model k
  let force := match m.next with | some b => b.force | none => false
  if !s.alive || m.state != .draining || !force || decide (s.time < m.drainStart + 100000 * s.serve.params.drainMaxMs) then .next s
  else .next ((s.slotReqs k).foldl (fun s r => s.endSoon r 0x2605) s)

/-- Whether every page of a slot is FREE. -/
def Pages.slotFree (g : Pages) (k : Nat) : Bool := g.descs.all (fun kv => kv.2.state == .free || kv.2.mslot != k)

/-- Whether a partition may be set (R188, R416): its slot size is R181's, and it overlaps no other model's. -/
def State.partLegal (s : State) (k slot4k : Nat) (d : PartDecl) : Bool :=
  let n := d.count * slot4k
  d.slot4k == slot4k && ownsUnits ((s.hbmOwners 2 d.stack).filter (fun o => decide (o.first < ilvUnit))) d.stack d.base4k n && decide (d.base4k + n ≤ reservedUnit)
    && (List.range 4).all (fun j =>
      let q := s.pages.part d.stack j
      j == k || !q.enable || decide (q.base4k + q.count * q.slot4k ≤ d.base4k ∨ d.base4k + n ≤ q.base4k))

/-- Whether a list of partitions may be set for slot `k`: each by itself, and one in each stack, whose register PART_k holds one. -/
def State.partsLegal (s : State) (k slot4k : Nat) (ds : List PartDecl) : Bool :=
  ds.all (s.partLegal k slot4k) && decide (ds.map (fun d => d.stack)).Nodup

/-- Whether every byte of a package's weights lies in MODEL(k) (R416). -/
def State.weightsLegal (s : State) (k : Nat) (ws : Cells) : Bool := ws.all (fun kv => ownsRange (s.hbmOwners 1 k) kv.1 1)

/-- The partitions of slot `k` set: one in each named stack, none in the others; water marks stay, and are compared (R207). -/
def State.setParts (s : State) (k slot4k : Nat) (ds : List PartDecl) : State :=
  let s := (List.range 6).foldl (fun s m => s.modPart m k (fun q => { q with enable := false, base4k := 0, count := 0, slot4k := 0, pruning := false, idle := 0 })) s
  ds.foldl (fun s d =>
    (s.modPart d.stack k (fun q => { q with enable := true, base4k := d.base4k, count := d.count, slot4k := slot4k })).startPruning d.stack k) s

/-- MODEL_PARTITIONS_SET (R250): steps 2 to 4. The weights are written; then, once every page of the slot is FREE, the partitions are set,
GEN[k] rises, and the slot is READY. Sent again while pages are held, it writes the same weights again. -/
def execModelPartitionsSet (k : Fin 4) (parts : List PartDecl) (weights : Cells) (s : State) : Host.Outcome State Fault Refusal :=
  let m := s.model k
  if !s.alive || m.state != .loading || !m.written then .next s
  else
    let s := s.wake.closeIdle k
    let s := if s.weightsLegal k weights then weights.foldl (fun s kv => s.putMem kv.1 [kv.2.toNat]) s else s
    if !s.pages.slotFree k then .next s
    else if !s.partsLegal k m.block.slot4k parts || !s.weightsLegal k weights then .next (s.failLoad k 0x2558)
    else
      let s := s.setParts k m.block.slot4k parts
      let s := s.modModel k (fun m => { m with state := .ready, gen := (m.gen + 1) % 65536, slot4k := m.block.slot4k, reply := none, written := false })
      let s := s.modInteg (fun g => { g with poisonedSlots := g.poisonedSlots.filter (fun j => j != k.val) })
      let s := match m.reply with | some a => s.adminRecord a 0 0 | none => s
      .next (s.recheck (s.serve.waiters k))

/-! Kickers. -/

/-- Bytes of a kicker's matrices (R252). -/
def KickerBlock.bytes (k : KickerBlock) : Nat :=
  let w := (Fmt.ofCode k.fmt).getD .fp32
  (k.sites.map (fun i => let d := k.dims.getD (i % 7) (0, 0); (d.1 + d.2) * (4096 * w.width / 8))).sum

/-- Whether the fields of a kicker block pass for the model in its slot (R252): a model is there, and each site names a matrix of its layers. -/
def KickerBlock.legal (k : KickerBlock) (m : ModelSlot) : Bool :=
  m.state != .empty && k.sites.all (fun i => decide (i < 7 * m.block.nl)) && decide (1 ≤ k.rank ∧ k.rank ≤ 64) && k.fmt == k.modelFmt
    && (Fmt.ofCode k.fmt == some .e4m3 || Fmt.ofCode k.fmt == some .e5m2 || Fmt.ofCode k.fmt == some .bf16)

/-- Versions held. -/
def Serve.versions (v : Serve) : List Kicker := v.kickers.filterMap Prod.snd

/-- Where `n` bytes fit in the kicker pool (R416): first fit, by entry and after the versions held. -/
def State.poolPlace (s : State) (n : Nat) : Option Nat :=
  let os := s.boot.owners.filter (fun o => o.kind == 1 && o.feature == 3)
  let starts := os.map (fun o => 4096 * o.first) ++ s.serve.versions.map (fun x => x.base + x.bytes)
  leastBy (fun a b => decide (a < b)) (starts.filter (fun a =>
    os.any (fun o => decide (4096 * o.first ≤ a ∧ a + n ≤ 4096 * (o.first + o.count)))
      && s.serve.versions.all (fun x => decide (x.base + x.bytes ≤ a ∨ a + n ≤ x.base))))

/-- The lowest free kicker slot. -/
def Serve.kickerSlot (v : Serve) : Option Nat := (List.range 1024).find? (fun n => (Tbl.get none n v.kickers).isNone)

/-- The name taken from its current version, which is freed with its last reference. -/
def Serve.dropName (v : Serve) (name : Nat) : Serve :=
  match v.kickerOf name with
  | some (n, _) => { v with kickers := Tbl.upd none n (fun x => kickerKeep (x.map (fun (y : Kicker) => { y with current := false }))) v.kickers }
  | none => v

/-- KICKER_LOAD (R251, R252): a version put in a free slot, and the name switched to it. -/
def execKickerLoad (p : Port) (n : Fin 16) (e : BitVec 256) (host : Cells) (k : KickerBlock) (s : State) : Host.Outcome State Fault Refusal :=
  entryCmd 0x30 e ((s.hostStore p host).intake p n e (fun s =>
    let a := s.reply p n e
    match s.hostRead p (s.ringFn p n) (descOf e) k.len, s.hostRead p (s.ringFn p n) k.addr.toNat k.bytes with
    | none, _ | _, none => s.adminRecord a 0x2604 0
    | some _, some bs =>
      if !k.legal (s.model k.mslot) then s.adminRecord a 0x2606 0
      else match s.serve.kickerSlot, s.poolPlace k.bytes with
        | some i, some base => match s.writeDev base bs none with
          | some s =>
            let x : Kicker := { name := k.name, mslot := k.mslot, rank := k.rank, fmt := k.fmt, sites := k.sites, dims := k.dims, base := base, bytes := k.bytes }
            (s.modServe (fun v => let v := v.dropName k.name; { v with kickers := Tbl.set none i (some x) v.kickers })).adminRecord a 0 0
          | none => s.adminRecord a 0x2606 0
        | _, _ => s.adminRecord a 0x2606 0))

/-- KICKER_DROP (R251). -/
def execKickerDrop (p : Port) (n : Fin 16) (e : BitVec 256) (s : State) : Host.Outcome State Fault Refusal :=
  entryCmd 0x31 e (s.intake p n e (fun s =>
    let a := s.reply p n e
    match s.serve.kickerOf (argOf e % 2 ^ 32) with
    | some _ => (s.modServe (fun v => v.dropName (argOf e % 2 ^ 32))).adminRecord a 0 0
    | none => s.adminRecord a 0x2606 0))

end Sys2Proof.Machine
end

