-- ==== Sys2Proof/Machine/Sampling.lean ====
section
/-! DEFINITION. Candidates, sampling and acceptance of tokens (R235–R237). -/

namespace Sys2Proof.Machine

/-- FP32 −∞ and +∞. -/
def negInf32 : Nat := 0xFF800000

/-- A logit's code as FP32; a NaN is treated as −∞ (R237). -/
def logit32 (fmt code : Nat) : Nat :=
  let z := (rne32 (decodeVal ((Fmt.ofCode fmt).getD .fp32) code)).1
  if (v32 z).isNan then negInf32 else z

/-- The order of FP32 numbers that are no NaN; both zeros are equal. -/
def key32 (x : Nat) : Int := if x < 2 ^ 31 then Int.ofNat x else -(Int.ofNat (x - 2 ^ 31))

/-- The largest of identified values, the lowest ID on a tie. -/
def argmax (l : List (Nat × Nat)) : Option Nat :=
  (leastBy (fun a b => decide (key32 b.2 < key32 a.2) || (key32 a.2 == key32 b.2 && decide (a.1 < b.1))) l).map Prod.fst

/-- The inverse temperature of R237: round(1.442695 / TEMP), the constant read as an exact decimal (DEDUCED, log entry 32). -/
def invTemp (temp : Nat) : Nat :=
  match v32 temp with
  | .fin _ m e => if m = 0 then 0x7F800000 else (rne32Rat 1442695 (1000000 * m) (-e)).1
  | _ => 0x7F800000

/-- The candidates C of R237 in ascending ID: all, or the TOP_K largest with the lower ID first on a tie. -/
def topK (k : Nat) (l : List (Nat × Nat)) : List (Nat × Nat) :=
  if k = 0 then l
  else
    let best := (sortBy (fun a b => decide (key32 b.2 < key32 a.2) || (key32 a.2 == key32 b.2 && decide (a.1 ≤ b.1))) l).take k
    sortBy (fun a b => decide (a.1 ≤ b.1)) best

/-- The first ID whose running sum exceeds `thr`. -/
def firstAbove (thr : Nat) : Nat → List (Nat × Nat) → Option Nat
  | _, [] => none
  | sum, (i, w) :: rest =>
    let sum := (add32 sum w).1
    if key32 thr < key32 sum then some i else firstAbove thr sum rest

/-- A draw among candidates with finite maximum (R237). -/
def drawToken (table : List Nat) (k seed q : Nat) (c : List (Nat × Nat)) : Option Nat :=
  let zmax := (c.map Prod.snd).foldl (fun a b => if key32 a < key32 b then b else a) negInf32
  let u := (rne32 (.fin false (fld (mix (mix seed ^^^ q)) 40 24) (-24))).1
  let w := c.map (fun x => (x.1, (exp2 table (mul32 (sub32 x.2 zmax).1 k).1).1))
  let total := w.foldl (fun a x => (add32 a x.2).1) 0
  let thr := (mul32 u total).1
  match firstAbove thr 0 w with
  | some t => some t
  | none => ((w.filter (fun x => decide (0 < key32 x.2))).getLast?).map Prod.fst

/-- The token that a row of FP32 logits chooses for position `q` (R237); none where every logit is −∞. -/
def sampleToken (table : List Nat) (temp topk seed q : Nat) (z : List Nat) : Option Nat :=
  let l := z.zipIdx.map (fun x => (x.2, x.1))
  if z.all (fun x => x == negInf32) then none
  else
    let k := invTemp temp
    if temp % 2 ^ 31 = 0 ∨ topk = 1 ∨ k = 0x7F800000 then argmax l
    else
      let c := topK topk l
      match c.find? (fun x => x.2 == 0x7F800000) with
      | some x => some x.1
      | none => drawToken table k seed q c

/-- The token of pass row `row` for position `q`, from the rows of logits that the pass computed. -/
def sampleRow (table : List Nat) (rows : List LogitRow) (temp topk seed row q : Nat) : Option Nat :=
  match rows.find? (fun x => x.row == row) with
  | some x => sampleToken table temp topk seed q (x.codes.map (logit32 x.fmt))
  | none => none

/-- Acceptance of R236 from row `i` on: `rest` are the candidates behind row `i`'s, `left` the tokens still allowed. The tokens, and
whether a needed row had no usable logit. -/
def acceptFrom (sampleAt : Nat → Option Nat) (stops : Nat → Bool) : Nat → Nat → List Nat → List Nat × Bool
  | i, left, rest =>
    match sampleAt i with
    | none => ([], true)
    | some t =>
      if stops t || decide (left ≤ 1) then ([t], false)
      else match rest with
        | [] => ([t], false)
        | c :: cs =>
          if c = t then
            let (ts, bad) := acceptFrom sampleAt stops (i + 1) (left - 1) cs
            (t :: ts, bad)
          else ([t], false)
termination_by structural _ _ rest => rest

/-- Whether the `n` last tokens of `pat`'s length occur in `seq` at `i`. -/
def occursAt (seq pat : List Nat) (i : Nat) : Bool := (seq.drop i).take pat.length == pat

/-- The candidates of a step (R235): the last token, and up to `ncand` tokens that followed the latest earlier occurrence of the last
`n` tokens of `seq`. -/
def candidates (seq : List Nat) (n ncand : Nat) : List Nat :=
  let last := seq.getLast?.getD 0
  if n = 0 ∨ seq.length ≤ n then [last]
  else
    let pat := seq.drop (seq.length - n)
    match ((List.range (seq.length - n)).reverse).find? (occursAt seq pat) with
    | some i => last :: (seq.drop (i + n)).take ncand
    | none => [last]

end Sys2Proof.Machine
end

