-- ==== Sys2Proof/Machine/Passes.lean ====
section
/-! DEFINITION. Passes of serving: selection and row placement (R230–R232), launch (R190, R191, R233, R261, R266, R267, R118, R119), commit
(R193, R195, R202, R234–R241, R51), and the retry of an aborted pass (R233, R277). -/

namespace Sys2Proof.Machine

/-! What waits (R230–R232). -/

/-- Whether a request may enter a pass now. -/
def State.mayRide (s : State) (r : Req) : Bool := !r.inPass && r.endCode.isNone && (s.sess r.sess).state == .busy

/-- Whether entry `j` of a page list, which holds `p`, is a hole of an unrack (R219): no page, or the VAT page of a launch that has not committed it. -/
def State.holeAt (s : State) (x : Session) (p j : Nat) : Bool :=
  p == noIndex || ((s.page p).state == .vat && (s.page p).ntok == 0 && decide (16 * j < x.tail))

/-- The first run of holes in a page list: its first entry and its length. -/
def State.hole (s : State) (x : Session) : Option (Nat × Nat) :=
  match x.pages.zipIdx.dropWhile (fun y => !s.holeAt x y.1 y.2) with
  | [] => none
  | y :: l => some (y.2, ((y :: l).takeWhile (fun y => s.holeAt x y.1 y.2)).length)

/-- The end of the next chunk of a request in prefill (R231). -/
def Req.chunkEnd (r : Req) (cm : Nat) : Nat :=
  let e := min (r.desc.basepos + r.desc.ntok) (r.firstPos + ((r.nextPos - r.firstPos) / max 1 cm + 1) * max 1 cm)
  if r.nextPos < r.desc.shareLen ∧ r.desc.shareLen < e then r.desc.shareLen else e

/-- The next prompt chunk of a request, position and length: holes of an unrack first (R248), then the prompt. -/
def State.nextChunk (s : State) (r : Req) : Option (Nat × Nat) :=
  let x := s.sess r.sess
  let cm := s.serve.params.chunkMax
  if r.phase = .prefill ∨ r.phase = .waitGen ∨ r.phase = .generating ∨ r.phase = .closing then
    match s.hole x with
    | some (d, n) => some (16 * d, min (min (16 * n) cm) (x.tail - 16 * d))
    | none => if r.phase = .prefill then some (r.nextPos, r.chunkEnd cm - r.nextPos) else none
  else none

/-- Admitted requests of slot `k` in admission order. -/
def Serve.ofSlot (v : Serve) (k : Nat) : List Req := v.reqs.filter (fun r => r.admitted && r.desc.mslot == k)

/-- Ready chunks of slot `k`, oldest admission first. A chunk of fewer than 256 tokens is padded to 256 rows (R231), and the padding rows count
as the request's own wherever the spec speaks of its rows, as R361 has it for energy: for the locator of R51 that is the model's choice
(DESIGN CHOICE, log entry 42). -/
def State.chunkItems (s : State) (k : Nat) : List PassItem :=
  ((s.serve.ofSlot k).filter s.mayRide).filterMap (fun r => (s.nextChunk r).map (fun c =>
    { rid := r.rid, kind := .chunk c.1 c.2, row0 := 0, rows := max 256 c.2 }))

/-- A step or closing row of a request. -/
def Req.stepItem (r : Req) : PassItem :=
  let cs := candidates (r.tokens ++ r.answer) r.desc.lookupN r.desc.ncand
  if r.phase = .closing then { rid := r.rid, kind := .closing, row0 := 0, rows := 1 }
  else { rid := r.rid, kind := .step cs, row0 := 0, rows := cs.length }

/-- Requests of slot `k` with a step or closing row waiting, oldest wait first. -/
def State.stepReqs (s : State) (k : Nat) : List Req :=
  sortBy (fun a b => decide (a.waitSince ≤ b.waitSince))
    ((s.serve.ofSlot k).filter (fun r => s.mayRide r && (r.phase == .generating || r.phase == .closing) && (s.nextChunk r).isNone))

/-- The kicker version of an item's request. -/
def State.itemKicker (s : State) (i : PassItem) : Option Nat := (s.req i.rid).bind (fun r => r.kicker)

/-- Items placed at consecutive rows from `row`. -/
def placeFrom : Nat → List PassItem → List PassItem
  | _, [] => []
  | row, i :: is => { i with row0 := row } :: placeFrom (row + i.rows) is

/-- Rows placed (R232): rows of one kicker version are contiguous and form one binding, which starts at a multiple of 4. -/
structure Placement where
  items : List PassItem := []
  bindings : List Binding := []
  rows : Nat := 0
deriving DecidableEq, Repr

/-- The placement of chosen items, kicker versions in order of first appearance. -/
def State.place (s : State) (l : List PassItem) : Placement :=
  ((l.map s.itemKicker).eraseDups).foldl (fun p k =>
    let mine := l.filter (fun i => s.itemKicker i == k)
    let n := (mine.map (fun i => i.rows)).sum
    let r0 := if k.isSome then 4 * ceilDiv p.rows 4 else p.rows
    { items := p.items ++ placeFrom r0 mine
      bindings := match k with | some c => p.bindings ++ [{ r0 := r0, n := n, kicker := c }] | none => p.bindings
      rows := r0 + n }) {}

/-- Rows of prompt chunks. -/
def promptRows (l : List PassItem) : Nat :=
  (l.map (fun i => match i.kind with | .chunk _ _ => i.rows | _ => 0)).sum

/-- Whether items fit one pass (R230, R232). -/
def State.fits (s : State) (rotation : Bool) (l : List PassItem) : Bool :=
  let p := s.place l
  decide (p.bindings.length ≤ 16 ∧ promptRows l ≤ 8192 ∧ p.rows ≤ (if rotation then 11264 else 1024))

/-- Items taken in order while they fit; one that does not fit waits (log entry 31). -/
def State.takeItems (s : State) (rotation : Bool) (l : List PassItem) (cands : List PassItem) : List PassItem :=
  cands.foldl (fun acc i => if s.fits rotation (acc ++ [i]) then acc ++ [i] else acc) l

/-- next_pass(k) of R232: whether it is a rotation pass, and its items; none where slot `k` has no pass. -/
def State.nextPass (s : State) (k : Nat) : Option (Bool × List PassItem) :=
  let w := s.stepReqs k
  let cs := s.chunkItems k
  let late := match w with | r :: _ => decide (r.waitSince + 100 * s.serve.params.genWaitMaxUs ≤ s.time) | [] => false
  if w ≠ [] ∧ (cs = [] ∨ late = true) then some (false, s.takeItems false [] (w.map Req.stepItem))
  else if cs ≠ [] then some (true, s.takeItems true (s.takeItems true [] cs) (w.map Req.stepItem))
  else none

/-- Requests that wait for a generation slot let in while one is free, in admission order (R239). -/
def State.promote (s : State) : State :=
  s.serve.reqs.foldl (fun s r =>
    if r.phase = .waitGen ∧ (s.serve.reqs.filter (fun x => x.phase == .generating)).length < s.serve.params.genSlots then
      s.modReq r.rid (fun r => { r with phase := .generating, waitSince := s.time })
    else s) s

/-! Pages of an item (R190, R191, R194, R206). -/

/-- What the preparation of an item's pages gives: ready, a rack must end first, or the request ends with a code. -/
inductive Prep where
  | ok (s : State)
  | wait (s : State)
  | fail (code : Nat) (s : State)

/-- Page `j` of session `i` put into the list. -/
def State.putPage (s : State) (i j p : Nat) : State :=
  s.modSess i (fun x => { x with pages := if j < x.pages.length then x.pages.set j p else x.pages ++ [p] })

/-- Entry `j` of the session's list made a VAT page: a new page, the page itself, or its copy (R191, R194, R206). A page in a withdrawn
slot is moved at its next write (R401). -/
def State.prepPage (s : State) (r : Req) (j : Nat) : Prep :=
  let i := r.sess
  let p := (s.sess i).pages.getD j noIndex
  let fresh := State.wantPage i r.desc.mslot r.desc.domain (16 * j) r.desc.prio (s.serve.sessions.length + 2) s
  if p = noIndex then
    match fresh with
    | .got q s => .ok (s.putPage i j q)
    | .wait s => .wait s
    | .fail code s => .fail code s
  else if (s.page p).state = .vat ∧ s.pages.isWithdrawn p = false then .ok s
  else if (s.page p).refs = 1 ∧ s.pages.isWithdrawn p = false then .ok (s.modPage p (fun d => { d with state := .vat }))
  else
    match fresh with
    | .got q s => .ok ((s.cowInto p q).putPage i j q)
    | .wait s => .wait s
    | .fail code s => .fail code s

/-- Pages of a list of entries. -/
def State.prepPages (r : Req) : List Nat → State → Prep
  | [], s => .ok s
  | j :: js, s =>
    match s.prepPage r j with
    | .ok s => State.prepPages r js s
    | x => x

/-- Token IDs written into the headers for positions from `a` on (R191). -/
def State.writeTokens (s : State) (i a : Nat) (toks : List Nat) : State :=
  (toks.zipIdx.foldl (fun s x => s.writeToken ((s.sess i).pages.getD ((a + x.2) / 16) 0) ((a + x.2) % 16) x.1) s)

/-- First position and tokens that an item writes. -/
def State.itemTokens (s : State) (r : Req) (i : PassItem) : Nat × List Nat :=
  match i.kind with
  | .chunk a n => (a, (r.tokens.drop (a - r.desc.basepos)).take n)
  | .step cs => ((s.sess r.sess).tail, cs)
  | .closing => ((s.sess r.sess).tail, [r.answer.getLast?.getD 0])

/-- Whether a chunk's positions lie outside its request's token array, which only those of a hole do (R248). -/
def Req.lacks (r : Req) (i : PassItem) : Bool :=
  match i.kind with | .chunk a n => decide (a < r.desc.basepos ∨ r.desc.basepos + r.desc.ntok < a + n) | _ => false

/-- An item prepared: the limits of R190 and R191, the vat extended, token IDs written, MARK of a step (R195). -/
def State.prepItem (s : State) (i : PassItem) : Prep :=
  match s.req i.rid with
  | none => .fail 0x2601 s
  | some r =>
    let (a, toks) := s.itemTokens r i
    let js := (List.range ((a + toks.length + 15) / 16)).drop (a / 16)
    let x := s.sess r.sess
    let vat := (x.pages.zipIdx.filter (fun y => y.1 != noIndex && (s.page y.1).state == .vat && !js.contains y.2)).length
    if r.lacks i then .fail 0x2557 s
    else if 262144 < a + toks.length ∨ 520 < vat + js.length then .fail 0x2556 s
    else match State.prepPages r js s with
      | .ok s =>
        let s := s.writeTokens r.sess a toks
        .ok (match i.kind with | .step _ => s.modSess r.sess (fun x => { x with mark := x.tail }) | _ => s)
      | p => p

/-- Items prepared in order: those that are ready, and whether the launch waits for a rack. -/
def State.prepItems : List PassItem → State → List PassItem × Bool × State
  | [], s => ([], false, s)
  | i :: is, s =>
    match s.prepItem i with
    | .ok s =>
      let (l, w, s) := State.prepItems is s
      (i :: l, w, s)
    | .wait s => ([], true, s)
    | .fail code s =>
      let s := match s.req i.rid with | some r => s.endReq r code false | none => s
      State.prepItems is s

/-! Checks at launch. -/

/-- Whether a link can carry a group's sync frames (R267). -/
def State.syncLink (s : State) (l : Nat) : Bool :=
  ((s.link l).state == .inService || (s.link l).state == .slow) && (s.link l).syncOk

/-- Enabled groups of a launch. -/
def Launch.groups (l : Launch) : List GroupDecl := ((List.range 7).map l.group).filter (fun d => d.enable)

/-- A group that R267 refuses by itself, an ARRIVE_PEG that is no PROGRAM peg included (R416). -/
def State.groupBad (s : State) (d : GroupDecl) : Bool :=
  decide (48 ≤ d.releasePeg) || s.collPeg d.arrivePeg || bit d.childLinks d.parentLink
    || (maskList 48 d.childLinks).any (fun l => !s.syncLink l) || (d.hasParent && !s.syncLink d.parentLink)
    || (d.spans && d.chipWaitUs == 0)

/-- Whether the sync block is refused (R267). -/
def State.syncRefused (s : State) (l : Launch) : Bool :=
  let gs := l.groups
  decide (l.coreMask = 0 ∨ ¬ (maskList 64 l.coreMask).all (fun c => bit l.runs.toNat c) = true)
    || gs.any s.groupBad || decide (¬ (gs.map (fun d => d.arrivePeg)).Nodup ∨ ¬ (gs.map (fun d => d.releasePeg)).Nodup)

/-- A plan segment decoded (R119). -/
def Seg.ofBytes (bs : List Nat) : Seg :=
  let v := ofLeBytes bs
  { base := fld v 0 48, fmt := fld v 48 4, fs := bit v 52, k128 := bit v 53, ntiles := fld v 56 32, scaleBase := fld v 88 48 }

/-- Errors of a segment (R119). -/
def Seg.bad (g : Seg) : Bool :=
  match Fmt.ofCode g.fmt with
  | none => true
  | some .int32 => true
  | some f =>
    (f == .f4 && !(g.fs && g.k128)) || (g.fs && f != .f4 && f != .e4m3 && f != .e5m2) || (g.k128 && f != .f4 && f != .int4)
      || g.ntiles == 0 || g.base % (if g.sizes.1 = 2048 then 2048 else 4096) != 0

/-- The plan that a launch runs, or why there is none (R118). -/
inductive Plan where
  | ok (segs : List Seg)
  | bad
  | poisoned (code : Nat)
deriving DecidableEq, Repr

/-- Fields of the weight block. -/
def Launch.lqBase (l : Launch) : Nat := fld l.weights.toNat 23 17
/-- RQ_BASE. -/
def Launch.rqBase (l : Launch) : Nat := fld l.weights.toNat 0 17
/-- RQ_LINES. -/
def Launch.rqLines (l : Launch) : Nat := fld l.weights.toNat 17 6
/-- NSEG. -/
def Launch.nseg (l : Launch) : Nat := fld l.weights.toNat 112 16
/-- PLAN. -/
def Launch.planAt (l : Launch) : Nat := fld l.weights.toNat 64 48

/-- Whether every byte of a range lies in HBM outside the reserved tops. -/
def inHbm (a n : Nat) : Bool :=
  (pieces (n / 4096 + 2) a n).all (fun x => match region x.1, region (x.1 + x.2 - 1) with | .hbm _, .hbm _ => true | _, _ => false)

/-- The weight block read at launch (R118, R119). A slot must hold a tile with its fine scales: that the scales count in the largest tile is the
model's choice (DESIGN CHOICE, log entry 42). -/
def State.plan (s : State) (l : Launch) : Plan :=
  let outside := decide (l.lqBase % 8 ≠ 0 ∨ (l.nseg ≠ 0 ∧ l.rqBase % 8 ≠ 0) ∨ 0x600000 < 64 * l.lqBase + 8 * 16384 ∨ 0x600000 < 64 * l.rqBase + 24 * 512 * l.rqLines)
  if outside then .bad
  else if l.nseg = 0 then .ok []
  else if !inHbm l.planAt (32 * l.nseg) then .bad
  else match s.readDev l.planAt (32 * l.nseg) with
    | none => .bad
    | some (_, some code) => .poisoned code
    | some (bs, none) =>
      let gs := (chunks 32 l.nseg bs).map Seg.ofBytes
      if gs.any Seg.bad || gs.any (fun g => decide (512 * l.rqLines < g.sizes.1 + g.sizes.2)) || decide (l.rqLines < 8 ∨ 32 < l.rqLines) then .bad
      else .ok gs

/-- The code with which a launch is refused, if it is. -/
def State.launchCode (s : State) (l : Launch) : Option Nat :=
  if s.syncRefused l then some 0x2730
  else match s.plan l with
    | .ok _ => none
    | .bad => some 0x2204
    | .poisoned code => some code

/-- Requests ended by a refused launch, with its entry; poison in a plan also marks the slot (R118, R393). -/
def State.refuseLaunch (s : State) (k : Nat) (l : Launch) (code : Nat) (rids : List Nat) : State :=
  let poison := match s.plan l with | .poisoned _ => code != 0x2730 | _ => false
  let s := if poison then s.modInteg (fun g => { g with
      poisonedSlots := if g.poisonedSlots.contains k then g.poisonedSlots else g.poisonedSlots ++ [k] }) else s
  let s := s.report { code := code, addr := if poison then l.planAt else 0, reqs := rids.length }
  rids.foldl (fun s rid => match s.req rid with | some r => s.endReq { r with inPass := false } code false | none => s) s

/-! The start of a pass. -/

/-- A core at the start of a pass (R100, R145, R261), which is a pass boundary for its feed mode (R65; log entry 41). Every core of the pass
starts the launch's program with all the kicker bindings of the pass: R76 has cores differ through their rows and bindings and does not say
how a pass's are divided (DESIGN CHOICE, log entry 45). -/
def Core.start (k : Core) (t : Nat) (l : Launch) (tag : Nat) (seed : BitVec 64) (bs : List Binding) (retryBcast : Bool) : Core :=
  let regs := { k.regs with sfuEpoch := 0, sfuLoading := 0, sfuCustom := 0 }
  { k with
    regs := regs.boundary retryBcast
    run := { active := true, table := t, prog := l.program, tag := tag, seed := seed, bindings := bs, lqBase := l.lqBase, rqBase := l.rqBase
             rqLines := l.rqLines }
    pegs := [], tables := [], shadow := [] }

/-- Collector pegs at a launch (R261): zero, with BARRIER on the arrival pegs of enabled groups. -/
def Launch.collPegs (l : Launch) : Tbl Peg :=
  (List.range 64).foldl (fun t p =>
    if l.groups.any (fun d => d.arrivePeg == p) then Tbl.set {} p { barrier := true } t else t) []

/-- Synchronisation state at a launch: collector pegs and barrier state zero, no registration, the plan at tile 0. -/
def Sync.start (y : Sync) (l : Launch) (segs : List Seg) : Sync :=
  let n := (segs.map (fun g => g.ntiles)).sum
  { y with
    last := some (BitVec.ofNat 64 l.coreMask, l), pegs := l.collPegs, regs := [], wakes := [], claims := [], groups := [], colls := l.sends, handCnt := [], handMsgs := []
    seq := { y.seq with segs := segs, ntiles := n, started := 0, active := decide (0 < n), late := [] } }

/-- Arrivals that the link groups' latches hold, presented to the pass (R303). -/
def State.presentLatches (s : State) : State :=
  (List.range 48).foldl (fun s l =>
    let held := (s.link l).latch
    let s := if held = [] then s else s.modLink l (fun k => { k with latch := [] })
    held.foldl (fun s x => s.childArrival l x.1 x.2) s) s

/-- The pass of table `t` starts (R100, R261, R303); 0x0120 is reported once where a core runs forced (R73). -/
def State.startPass (s : State) (t : Nat) (x : PassTable) (l : Launch) (segs : List Seg) : State :=
  let x := { x with
    state := .running, mask := BitVec.ofNat 64 l.coreMask, present := 0, slots := [], launch := some l, launchedAt := s.time, closedAt := none
    limitUs := if l.passLimitUs = 0 then s.sync.passDefaultUs else l.passLimitUs }
  let s := l.grants.foldl State.grantColl s
  let s := (s.modPort .A (fun q => { q with past := [] })).modPort .B (fun q => { q with past := [] })
  let s := s.modSync (fun y => { (y.start l segs) with tables := Tbl.set {} t x y.tables })
  let s := (maskList 64 l.coreMask).foldl (fun s c =>
    s.modCore c (fun k => k.start t l x.tag x.seed x.bindings (x.arrayCores.contains c))) s
  let s := s.presentLatches
  let s := x.items.foldl (fun s i => s.modReq i.rid (fun r => { r with inPass := true })) s
  let s := s.count (fun k => { k with passesLaunched := k.passesLaunched + 1 })
  if (maskList 64 l.coreMask).any (fun c => (s.core c).regs.forced) then s.report { code := 0x0120, detail := x.tag } else s

/-- Whether the hands of a launch's cores and the HBM domains are ON; a rotation pass needs every hand (R345). -/
def State.awake (s : State) (mask : Nat) (rotation : Bool) : Bool :=
  let hands := if rotation then handDoms else (maskList 64 mask).map (fun c => s.slotOf c / 4)
  (hands ++ hbmDoms).all (fun d => s.pow.domAt s.time d != .low)

/-- Whether a core of a mask is kept from a launch by a test or a replacement (R396). -/
def State.blocked (s : State) (mask : Nat) : Bool :=
  (maskList 64 mask).any (fun c =>
    let n := s.slotOf c
    decide (72 ≤ n) || s.integ.tests.any (fun x => x.act == .coreTest n || x.act.groups.contains n)
      || s.integ.held.any (fun h => (h.act.groups.contains n) && (match h.act with | .sramScrub _ => false | _ => true))
      || (s.slot n).fuse)

/-- The lowest free pass table (R273). -/
def State.freeTable (s : State) : Option Nat := (List.range 4).find? (fun t => (s.table t).state == .free)

/-- Whether a pass runs or is being aborted (R274). -/
def State.passBusy (s : State) : Bool :=
  (List.range 4).any (fun t => (s.table t).state == .running || (s.table t).state == .aborting)

/-- Whether it is slot `k`'s turn: no slot before it has a pass (R232). -/
def State.turnOf (s : State) (k : Nat) : Bool :=
  ((List.range 4).map (fun j => (s.serve.turn + j) % 4)).find? (fun j => (s.nextPass j).isSome) == some k

/-- Pages of the items' sessions pinned for an epoch (R191, R204). -/
def State.pinItems (s : State) (e : Nat) (items : List PassItem) : State :=
  items.foldl (fun s i => match s.req i.rid with
    | some r => (s.sess r.sess).held.foldl (fun s p => s.pin p e) s
    | none => s) s

/-! Stacked sessions (R238). -/

/-- The page list of an item's session. -/
def State.itemPages (s : State) (i : PassItem) : List Nat := match s.req i.rid with | some r => (s.sess r.sess).pages | none => []

/-- What sessions of a stack have in common: the share domain and the first 64 pages. -/
def State.stackKey (s : State) (i : PassItem) : Option (Nat × List Nat) :=
  let ps := (s.itemPages i).take 64
  if ps.length = 64 ∧ ps.contains noIndex = false then (s.req i.rid).map (fun r => ((s.sess r.sess).domain, ps)) else none

/-- How many leading entries two lists have in common. -/
def commonLen : List Nat → List Nat → Nat
  | x :: xs, y :: ys => if x = y then commonLen xs ys + 1 else 0
  | _, _ => 0

/-- Items taken in order while their rows fit the 1,024 rows and the 256 length-table entries of one decanter word (R163). -/
def stackFit (heads : Nat) (l : List PassItem) : List PassItem :=
  l.foldl (fun acc i =>
    if ((acc ++ [i]).map (fun x => x.rows)).sum * heads ≤ 1024 ∧ acc.length < 256 then acc ++ [i] else acc) []

/-- The stacks of a step pass (R238): of each share domain, 8 or more sessions whose first 64 pages are the same, over the pages that the
stacked ones have in common. -/
def State.stackSessions (s : State) (heads : Nat) (items : List PassItem) : List Stack :=
  ((items.filterMap s.stackKey).eraseDups).filterMap (fun k =>
    let mine := items.filter (fun i => s.stackKey i == some k)
    if mine.length < 8 then none
    else
      let fit := stackFit heads mine
      let lists := fit.map s.itemPages
      some { rids := fit.map (fun i => i.rid), pages := lists.foldl (fun n l => min n (commonLen (lists.headD []) l)) 16384 })

/-- The launch proper: pages, tag, seed, pins and start (R191, R233, R261). -/
def State.launch (s : State) (k t : Nat) (l : Launch) (segs : List Seg) (rotation : Bool) (items : List PassItem) : State :=
  let (ready, waits, s) := State.prepItems items s
  if waits ∨ ready = [] then s
  else
    let p := s.place ready
    let s := s.drawEpoch
    let tag := s.pages.newest
    let (v, s) := s.random
    let s := s.pinItems tag p.items
    let s := s.modServe (fun v => { v with turn := (k + 1) % 4 })
    s.startPass t { tag := tag, seed := BitVec.ofNat 64 (v.toNat % 2 ^ 64), mslot := k, rotation := rotation, items := p.items
                    bindings := p.bindings, stacked := if rotation then [] else s.stackSessions l.heads p.items } l segs

/-- PASS_LAUNCH (R230–R233, R266, R267, R118): the pass that R232 picks for slot `k`, with the launch that its package gives. -/
def execPassLaunch (k : Fin 4) (l : Launch) (s : State) : Host.Outcome State Fault Refusal :=
  if !s.serving || s.passBusy then .next s
  else
    let s := s.promote
    let m := (s.model k).state
    match s.freeTable, s.nextPass k with
    | some t, some (rotation, items) =>
      if (m != .ready && m != .draining) || !s.turnOf k then .next s
      else
        let s := s.wake
        if s.awake l.coreMask rotation = false ∨ (s.pow.sRail = 15 ∧ s.pow.railOver = true) ∨ s.blocked l.coreMask = true ∨ s.pages.mayDraw = false then .next s
        else match s.launchCode l, s.plan l with
          | some code, _ => .next (s.refuseLaunch k l code (items.map (fun i => i.rid)))
          | none, .ok segs => .next (s.launch k t l segs rotation items)
          | none, _ => .next s
    | _, _ => .next s

/-! Commit (R234). -/

/-- The session committed to `n` positions (R193): NTOK of its vat pages, and the flush of full ones. -/
def State.commitTail (s : State) (i n : Nat) : State :=
  let s := s.modSess i (fun x => { x with tail := n })
  (s.sess i).held.foldl (fun s p =>
    let d := s.page p
    if d.state ≠ .vat then s
    else
      let k := min 16 (n - d.pos0)
      (s.modPage p (fun d => { d with ntok := k, state := if k = 16 then .priv else .vat })).writeHeader p 0) s

/-- accept(s, n) of R195 over the pages of positions `a` to `a + c - 1`, last first. -/
def State.accept (s : State) (i a c n : Nat) : State :=
  let t := (s.sess i).mark + n
  let js := ((List.range ((a + c + 15) / 16)).drop (a / 16)).reverse
  let s := js.foldl (fun s j =>
    let p := (s.sess i).pages.getD j noIndex
    if p = noIndex then s
    else
      let d := s.page p
      let keep := min 16 (t - d.pos0)
      let s := if keep < d.ntok then
          (if d.refs ≠ 1 then s.brokenPage p else (s.modPage p (fun d => { d with ntok := keep, state := .vat })).writeHeader p 0)
        else s
      if keep = 0 ∧ t < d.pos0 then
        (s.release p).modSess i (fun x => { x with pages := x.pages.filter (fun q => q != p) })
      else s) s
  s.modSess i (fun x => { x with tail := t })

/-- The slots of a closed pass with their cores, ascending. -/
def PassTable.coreSlots (x : PassTable) : List (Nat × Nat) := (maskList 64 x.mask.toNat).map (fun c => (c, Tbl.get 0 c x.slots))

/-- The OR of a field over the slots. -/
def PassTable.orField (x : PassTable) (lo w : Nat) : Nat := x.coreSlots.foldl (fun a c => a ||| fld c.2 lo w) 0

/-- The first locator whose row lies in an item's rows: core, suit and value (R51). -/
def PassTable.locatorOf (x : PassTable) (i : PassItem) : Option (Nat × Nat × Nat) :=
  x.coreSlots.findSome? (fun c => (List.range 4).findSome? (fun q =>
    let v := fld c.2 (128 + 64 * q) 64
    if bit v 63 = true ∧ i.row0 ≤ fld v 16 16 ∧ fld v 16 16 < i.row0 + i.rows then some (c.1, q, v) else none))

/-- The numeric summary with a pass folded in (R51). -/
def PassTable.foldNum (x : PassTable) (i : PassItem) (n : Nat) : Nat :=
  let ns := x.orField 0 32
  let arr := fld ns 0 6 ||| fld ns 6 6 ||| fld ns 12 6 ||| fld ns 18 6
  let n := n ||| arr ||| (fld ns 24 6 * 2 ^ 6)
  if bit n 63 then n
  else match x.locatorOf i with
    | some (c, q, v) => n ||| (2 ^ 63 + c * 2 ^ 57 + q * 2 ^ 55 + fld v 32 24 * 2 ^ 31 + fld v 16 16 * 2 ^ 15)
    | none => n

/-- Information codes that a pass gives its requests (R115, R178, R280, R355). -/
def PassTable.codes (x : PassTable) : List Nat :=
  let f := x.orField 384 6
  let has := fun (b : Bool) (c : Nat) => if b then [c] else []
  has (bit f 0) 0x0210 ++ has (bit f 1) 0x0211 ++ has (bit f 4 || bit f 5) 0x0212 ++ has (bit f 3) 0x0213
    ++ has (x.orField 512 32 != 0) 0x0440 ++ has (x.orField 544 32 != 0) 0x0441
    ++ has (bit (x.orField 576 2) 0) 0x0710 ++ has (bit (x.orField 576 2) 1) 0x0711 ++ has x.skipSeen 0x0A11

/-- A request with a pass's slots folded in (R51, R115, R178, R280): of every pass it took part in, an aborted one too. -/
def PassTable.foldSlots (x : PassTable) (i : PassItem) (r : Req) : Req :=
  { x.codes.foldl Req.note r with numsum := BitVec.ofNat 64 (x.foldNum i r.numsum.toNat) }

/-- A request with a committed pass's slots folded in, and its mode 1 energy (R361). -/
def PassTable.foldReq (x : PassTable) (energy : List Nat) (i : PassItem) (tail : Nat) (r : Req) : Req :=
  { x.foldSlots i r with
    inPass := false
    energy := if r.attrMode = 1 then r.energy + Config.modelNj energy i.rows tail x.rowCount else r.energy
    steps := match i.kind with | .step _ => r.steps + 1 | _ => r.steps }

/-- Step 1 of R234 for one item: the commit of its session, and what the pass adds to its request. -/
def State.commitItem (s : State) (x : PassTable) (i : PassItem) : State :=
  match s.req i.rid with
  | none => s
  | some r =>
    let tail := (s.sess r.sess).tail
    let s := s.modReq i.rid (x.foldReq s.pow.energy i tail)
    match i.kind with
    | .chunk a n =>
      (s.commitTail r.sess (max tail (a + n))).modReq i.rid (fun r => { r with
        computed := r.computed + n, nextPos := if a = r.nextPos then a + n else r.nextPos })
    | .step cs => s.commitTail r.sess ((s.sess r.sess).mark + cs.length)
    | .closing => s.commitTail r.sess (tail + 1)

/-- Whether a token ends the request (R236). -/
def State.stopToken (s : State) (r : Req) (t : Nat) : Bool :=
  t != noIndex && (r.desc.stops.contains t || (s.model r.desc.mslot).block.eos.contains t)

/-- What a pass produced for a request: tokens in order, and whether a needed row had no usable logit. -/
structure Produced where
  rid : Nat
  tokens : List Nat
  bad : Bool
deriving DecidableEq, Repr

/-- Tokens left to MAX_NEW. -/
def Req.left (r : Req) : Nat := r.desc.maxNew - r.answer.length

/-- Step 2 of R234 for one item: sampling and acceptance (R236, R237). A request that ends at this boundary samples nothing and keeps
candidate 0; after a row without a usable logit the candidates before it stay (log entry 32). -/
def State.sampleItem (s : State) (rows : List LogitRow) (i : PassItem) : Produced × State :=
  let nothing : Produced := { rid := i.rid, tokens := [], bad := false }
  match s.req i.rid with
  | none => (nothing, s)
  | some r =>
    let d := r.desc
    let at_ := fun (row q : Nat) => sampleRow s.expTable rows d.temp d.topK d.seed row q
    match i.kind with
    | .closing => (nothing, s)
    | .chunk a n =>
      if r.endCode.isSome || r.silent || r.phase != .prefill || a + n != d.basepos + d.ntok then (nothing, s)
      else match at_ (i.row0 + n - 1) (a + n) with
        | some t => ({ nothing with tokens := [t] }, s)
        | none => ({ nothing with bad := true }, s)
    | .step cs =>
      let m := (s.sess r.sess).mark
      if r.endCode.isSome || r.silent then (nothing, s.accept r.sess m cs.length 1)
      else
        let (ts, bad) := acceptFrom (fun j => at_ (i.row0 + j) (m + j + 1)) (s.stopToken r) 0 r.left cs.tail
        ({ nothing with tokens := ts, bad := bad }, s.accept r.sess m cs.length (if bad then ts.length + 1 else ts.length))

/-- Sampling of every item. -/
def State.sampleAll (rows : List LogitRow) : List PassItem → State → List Produced × State
  | [], s => ([], s)
  | i :: is, s =>
    let (p, s) := s.sampleItem rows i
    let (ps, s) := State.sampleAll rows is s
    (p :: ps, s)

/-- Step 3 of R234 for one request: its shareable pages inserted in depth order (R202). -/
def State.insertAll (s : State) (rid : Nat) : State :=
  match s.req rid with
  | none => s
  | some r =>
    let n := min (s.sess r.sess).pages.length (r.desc.shareLen / 16)
    (List.range n).foldl (fun s d =>
      let ps := (s.sess r.sess).pages
      let p := ps.getD d noIndex
      let parent := if d = 0 then noIndex else ps.getD (d - 1) noIndex
      if p ≠ noIndex ∧ (s.page p).state = .priv ∧ (s.page p).ntok = 16
          ∧ (d = 0 ∨ (parent ≠ noIndex ∧ (s.page parent).state = .vine)) then
        let x := s.insertPage p d r.desc.mslot r.desc.domain parent
        x.s.putPage r.sess d x.page
      else s) s

/-- What follows a request's first token (R239). -/
inductive Handoff where
  | finish | local_ | wait | ship | noPartner
deriving DecidableEq, Repr

/-- The hand-off decision after token `t` (R239). -/
def State.handoff (s : State) (r : Req) (t : Nat) : Handoff :=
  let d := r.desc
  let free := decide ((s.serve.reqs.filter (fun x => x.phase == .generating)).length < s.serve.params.genSlots)
  if d.maxNew = 1 ∨ s.stopToken r t = true then .finish
  else if d.handoff = 1 then .local_
  else if d.handoff = 2 then (if s.canTake r then .ship else .noPartner)
  else if d.maxNew ≤ s.serve.params.localMax ∧ free = true then .local_
  else if s.canTake r then .ship
  else if d.maxNew ≤ 256 then .wait
  else .noPartner

/-- A pour entry (R241). -/
def pourBits (d : Desc) (last stop shipped : Bool) (index token : Nat) : Nat :=
  b2n d.pourPhase * 2 ^ 63 + b2n last * 2 ^ 62 + b2n stop * 2 ^ 61 + b2n shipped * 2 ^ 60 + index % 2 ^ 16 * 2 ^ 32 + token % 2 ^ 32

/-- Tokens poured in order: how many were written, and whether every write found its window (R241, R327); a refused one counts in
DMA_REFUSED (R325, R335, log entry 30). -/
def State.pour (r : Req) (last shipped : Bool) : List Nat → Nat → State → Nat × Bool × State
  | [], _, s => (0, true, s)
  | t :: ts, idx, s =>
    let fn := s.ringFn r.port r.ring
    let a := r.desc.pour + 8 * idx
    if (s.port r.port).grants fn a 8 true && ((s.port r.port).func fn).bme then
      let v := pourBits r.desc (last && ts.isEmpty) (s.stopToken r t) (shipped && idx == 0) idx t
      let (n, ok, s) := State.pour r last shipped ts (idx + 1) (s.hostPut r.port a (leBytes 8 v))
      (n + 1, ok, s)
    else (0, false, s.dmaRefuse r.port)

/-- What a request does after its pours. -/
inductive After where
  | none
  | goOn (phase : Phase)
  | ship
  | finish (stop code : Nat)
  /-- ends at once, without a closing row -/
  | fail (code : Nat)
deriving DecidableEq, Repr

/-- STOP of a request whose last token is `t`. -/
def State.stopOf (s : State) (r : Req) (t : Nat) : Nat := if s.stopToken r t then 1 else 2

/-- Whether no further token follows here. -/
def After.last : After → Bool
  | .goOn _ => false
  | .none => false
  | _ => true

/-- The decision that follows a request's tokens (R236, R239). -/
def State.afterTokens (s : State) (r : Req) (ts : List Nat) (bad : Bool) : After :=
  match ts.getLast? with
  | none => if bad then .fail 0x260C else .none
  | some t =>
    if bad then .fail 0x260C
    else if r.phase = .prefill then
      match s.handoff r t with
      | .finish => .finish (s.stopOf r t) 0
      | .local_ => .goOn .generating
      | .wait => .goOn .waitGen
      | .ship => .ship
      | .noPartner => .finish 0 0x2607
    else if s.stopToken r t = true ∨ r.left ≤ ts.length then .finish (s.stopOf r t) 0
    else .goOn .generating

/-- Step 4 of R234 for one request: the pours, and what follows them. A request that goes on counts as generating from here (R239). -/
def State.pourItem (s : State) (p : Produced) : After × State :=
  match s.req p.rid with
  | none => (.none, s)
  | some r =>
    let next := s.afterTokens r p.tokens p.bad
    let (n, ok, s) := State.pour r next.last (next == .ship) p.tokens r.answer.length s
    let s := s.modReq p.rid (fun r => { r with
      answer := r.answer ++ p.tokens.take n, tFirst := if r.tFirst.isSome ∨ n = 0 then r.tFirst else some s.time
      phase := match next with | .goOn ph => ph | _ => r.phase })
    let s := s.count (fun k => { k with tokens := k.tokens + BitVec.ofNat 64 n })
    (if ok then next else .fail 0x2604, s)

/-- Pours of every item. -/
def State.pourAll : List Produced → State → List (Nat × After) × State
  | [], s => ([], s)
  | p :: ps, s =>
    let (a, s) := s.pourItem p
    let (l, s) := State.pourAll ps s
    ((p.rid, a) :: l, s)

/-- Step 6 of R234 for one request: it goes on, ships, takes its closing row, or ends. -/
def State.settle (s : State) (i : PassItem) (a : After) : State :=
  match s.req i.rid with
  | none => s
  | some r =>
    match r.endCode with
    | some code => s.endReq { r with endCode := none } code false
    | none =>
      if i.kind = .closing then s.endReq r r.closeCode false
      else match a with
        | .none => s
        | .goOn ph => s.modReq r.rid (fun r => { r with phase := ph, waitSince := s.time })
        | .ship => s.startShip r
        | .finish stop code => s.closeWith { r with stop := stop } code
        | .fail code => s.endReq r code false

/-- PASS_COMMIT (R234): commit, sampling and acceptance, insertion, pours, the epoch, then records. A closed pass with a fault in a slot is
aborted in its place (R103). -/
def execPassCommit (t : Fin 4) (logits : List LogitRow) (s : State) : Host.Outcome State Fault Refusal :=
  let x := s.table t
  if !s.alive || x.state != .closed then .next s
  else match x.slotFault with
  | some (c, code) => .next (s.abortLogged t { code := code, kind := .coreSlot, unit := s.slotOf c })
  | none =>
    let s := x.items.foldl (fun s i => s.commitItem x i) s
    let (ps, s) := State.sampleAll logits x.items s
    let s := x.items.foldl (fun s i => s.insertAll i.rid) s
    let (as, s) := State.pourAll ps s
    let s := s.retireEpoch x.tag
    let s := (x.items.zip as).foldl (fun s y => s.settle y.1 y.2.2) s
    .next ((s.dropTable t.val).promote.noteActivity)

/-! The retry decision (R233, R277, R393, R397). -/

/-- The code with which an item's request ends at the abort, if it does not ride the retry. -/
def State.victimCode (s : State) (x : PassTable) (i : PassItem) : Option Nat :=
  match x.victims.find? (fun v => v.1 == i.rid) with
  | some v => some v.2
  | none => (s.req i.rid).bind (fun r => r.endCode)

/-- A request of an aborted pass ended. -/
def State.endAborted (s : State) (rid code : Nat) : State :=
  match s.req rid with
  | some r => s.endReq { r with inPass := false, endCode := none } code false
  | none => s

/-- The pass given up: its requests end and its epoch retires. -/
def State.abandon (s : State) (x : PassTable) (code : Nat) : State :=
  let s := x.items.foldl (fun s i => s.endAborted i.rid ((s.victimCode x i).getD code)) s
  (s.retireEpoch x.tag).noteActivity

/-- Whether a pass of another table runs or is being aborted (R274). -/
def State.otherPass (s : State) (t : Nat) : Bool :=
  (List.range 4).any (fun u => u != t && ((s.table u).state == .running || (s.table u).state == .aborting))

/-- Whether the test that an aborted pass's error started has not given its verdict (R397). -/
def State.awaits (s : State) (x : PassTable) : Bool := s.integ.tests.any (fun y => y.code == x.abortCode && y.detail == x.tag)

/-- PASS_RETRY: the retry decision on an aborted pass that has drained, once the tests of its error are over and no other pass runs. A pass that may be retried runs
again in a fresh table with its tag, seed, program and placement, without the requests that end; otherwise all its requests end. -/
def execPassRetry (t : Fin 4) (s : State) : Host.Outcome State Fault Refusal :=
  let x := s.table t
  if !s.alive || x.state != .aborting || x.present != x.mask || s.blocked x.mask.toNat || s.otherPass t || s.awaits x then .next s
  else
    let s := s.dropTable t.val
    let s := x.items.foldl (fun s i => s.modReq i.rid (x.foldSlots i)) s
    let keep := x.items.filter (fun i => (s.victimCode x i).isNone && (s.req i.rid).isSome)
    match x.launch, s.freeTable with
    | some l, some t' =>
      if x.mayRetry = false ∨ keep = [] then .next (s.abandon x x.abortCode)
      else match s.launchCode l, s.plan l with
        | none, .ok segs =>
          let s := x.items.foldl (fun s i => match s.victimCode x i with | some code => s.endAborted i.rid code | none => s) s
          let s := s.count (fun k => { k with passesRetried := k.passesRetried + 1 })
          .next (s.startPass t' { x with items := keep, retried := true, mayRetry := false, abortCode := 0, victims := [], customSeen := false
                                         skipSeen := false } l segs)
        | some code, _ => .next (s.abandon x code)
        | none, _ => .next (s.abandon x x.abortCode)
    | _, _ => .next (s.abandon x x.abortCode)

end Sys2Proof.Machine
end

