-- ==== Sys2Proof/Machine/Integrity.lean ====
section
/-! DEFINITION. Integrity: detected and consumed errors (R392, R393), corrected errors (R404), cellar keys (R402, R403), targeted tests and their
verdicts (R396–R398, R71, R299), row repair (R399–R401) and the patrol scrubs (R402). -/

namespace Sys2Proof.Machine

/-! Places. -/

/-- Whether a linear HBM address lies in the tables of R392: a reserved top, the session table or the page lists. -/
def State.inTables (s : State) (a : Nat) : Bool :=
  decide (reservedOff ≤ a % stackBytes) || (tableOff s.serve.params.sessBase sessTableBytes a).isSome
    || (tableOff s.serve.params.listBase pageListBytes a).isSome

/-- The logical core on a slot. -/
def State.logicalOn (s : State) (n : Nat) : Option Nat := if (s.slot n).state = .enabled then some (s.slot n).logical else none

/-! Cellar keys (R402, R403). -/

/-- Whether two activities touch a common group. -/
def Activity.overlaps (a b : Activity) : Bool := a.groups.any (fun g => b.groups.contains g)

/-- What R403 says where an activity arrives at a held group. -/
inductive Meet where
  | run | yield | wait
deriving DecidableEq, Repr

/-- The table of R403: holder, then arrival. Beside a withdrawal one compaction runs, its own; a second one meets the first and waits. -/
def meet : Activity → Activity → Meet
  | .hbmScrub _, .compaction _ => .run
  | .compaction _, .hbmScrub _ => .run
  | .hbmScrub _, .rowTest _ => .yield
  | .hbmScrub _, .rowRepair _ _ => .yield
  | .rowRepair _ true, .compaction _ => .run
  | .sramScrub _, .coreTest _ => .yield
  | .sramScrub _, .replacement _ _ => .yield
  | _, _ => .wait

/-- Whether a request is granted now: no holder makes it wait and no earlier request for one of its groups still waits. -/
def grantable (held : List Held) (earlier : List Activity) (a : Activity) : Bool :=
  held.all (fun h => h.suspended || !(h.act.overlaps a) || meet h.act a != .wait) && !(earlier.any (fun b => b.overlaps a))

/-- The feed mode of the core on a slot whose test begins or ends, where no pass uses the core (R65, R396). -/
def State.testFeed (s : State) (n : Nat) : State :=
  match s.logicalOn n with
  | some c => if (s.core c).run.active then s else s.modRegs c (s.idleFeed c)
  | none => s

/-- Whether a byte of a row makes its withdrawal fatal (R401): weights, a reserved top, the session table or the page lists. -/
def State.fatalByte (s : State) (a : Nat) : Bool :=
  s.inTables a || (s.weightsOf a).isSome || ownsRange (s.hbmOwners 3 0) a 1 || ownsRange (s.hbmOwners 6 0) a 1

/-- The bytes of a row withdrawn, under its keys (R401): no slot that holds one of them is allocated again, FREE falls, and below LOW_WATER
pruning starts (R207). -/
def State.takeRow (s : State) (m a : Nat) : State :=
  let xs := ((Config.hbmRowBytes a).map (fun b => b / 4096)).eraseDups
  let s := s.modPages (fun g => { g with withdrawn := g.withdrawn ++ xs.filter (fun x => !g.withdrawn.contains x) })
  let s := (List.range 4).foldl (fun s k => s.startPruning m k) s
  let s := s.modInteg (fun g => { g with withdrawnRows := satAdd 8 g.withdrawnRows 1 })
  s.report { code := 0x1C12, addr := a, kind := .stack, unit := m }

/-- The withdrawals that wait in a stack, under their keys. -/
def State.takeRows (s : State) (m : Nat) : State :=
  let xs := s.integ.withdrawals.filter (fun x => x.1 == m)
  xs.foldl (fun s x => s.takeRow m x.2) (s.modInteg (fun g => { g with withdrawals := g.withdrawals.filter (fun x => x.1 != m) }))

/-- An activity granted: holders that yield to it suspend, a replacement marks its slots MOVING (R443), a core test sets its core's
feed, a retrain begins, and a withdrawal takes its rows. -/
def State.grantKey (s : State) (a : Activity) : State :=
  let s := s.modInteg (fun g => { g with
    held := g.held.map (fun h => if h.act.overlaps a && meet h.act a == .yield then { h with suspended := true } else h)
      ++ [{ act := a, since := s.time }] })
  match a with
  | .replacement o n => (s.modSlot o (fun x => { x with moving := true })).modSlot n (fun x => { x with moving := true })
  | .coreTest n => s.testFeed n
  | .linkRetrain l => if (s.link l).mayTrainAgain then s.trainAgain l else s
  | .rowRepair m true => s.takeRows m
  | _ => s

/-- Waiting requests granted in arrival order; those passed over stay. -/
def State.grantKeys : List Activity → List Activity → State → State
  | [], rest, s => s.modInteg (fun g => { g with waiting := rest })
  | a :: as, rest, s =>
    if grantable s.integ.held rest a then State.grantKeys as rest (s.grantKey a) else State.grantKeys as (rest ++ [a]) s

/-- A request for keys (R403). A retrain that meets a link test is dropped. -/
def State.askKeys (s : State) (a : Activity) : State :=
  let dropped : Bool := match a with
    | .linkRetrain l => s.integ.held.any (fun h => h.act == .linkTest l)
    | _ => false
  if dropped then s else State.grantKeys (s.integ.waiting ++ [a]) [] s

/-- Whether a holder has to stay suspended: another activity to which it yields holds one of its groups. -/
def Integrity.yields (g : Integrity) (h : Held) : Bool :=
  g.held.any (fun o => !o.suspended && h.act.overlaps o.act && meet h.act o.act == .yield)

/-- An activity's keys released; suspended holders resume where nothing makes them yield, and waiting requests are granted. -/
def State.releaseKeys (s : State) (a : Activity) : State :=
  match s.integ.held.find? (fun h => h.act == a) with
  | none => s
  | some h =>
    let s := s.modInteg (fun g => { g with held := g.held.erase h })
    let s := s.modInteg (fun g => { g with
      held := g.held.map (fun h => { h with
        suspended := h.suspended && g.yields h
        since := if h.suspended && !g.yields h then s.time else h.since }) })
    let s := match a with
      | .replacement o n => (s.modSlot o (fun x => { x with moving := false })).modSlot n (fun x => { x with moving := false })
      | .coreTest n => s.testFeed n
      | _ => s
    State.grantKeys s.integ.waiting [] s

/-- Whether the module is STANDBY or TRIPPED: only PD33 is powered (R341), and no unit detects an error or takes a key. -/
def State.dark (s : State) : Bool := s.pow.mstate == .standby || s.pow.mstate == .tripped

/-- CELLAR_KEY_REQUEST (R403); it wakes the module (R360). -/
def execCellarKeyRequest (a : Activity) (s : State) : Host.Outcome State Fault Refusal :=
  if !s.dark then .next (s.wake.askKeys a) else .next s

/-- CELLAR_KEY_RELEASE (R403). -/
def execCellarKeyRelease (a : Activity) (s : State) : Host.Outcome State Fault Refusal :=
  if !s.dark then .next ((s.releaseKeys a).noteActivity) else .next s

/-- Whether an activity's keys are held and it is not suspended. -/
def State.holds (s : State) (a : Activity) : Bool := s.integ.held.any (fun h => h.act == a && !h.suspended)

/-! Detection (R392, R393). -/

/-- A contained hardware error: the running pass is aborted, and the test of R396 becomes due. After a device-fatal error no pass runs (R13). -/
def State.abortTest (s : State) (r : Report) (a : Activity) : State :=
  match (if s.alive then s.running else none) with
  | some (t, x) => (s.abortPass t r.code).reportTest { r with detail := x.tag, reqs := x.endedBy r.code } a
  | none => s.reportTest r a

/-- A word of a port's or link group's buffer that fails (R392, R393) goes on poisoned: to memory as such, to a host as a poisoned TLP. -/
def State.poisonBuffer (s : State) (dst : Option (BitVec 48)) : State :=
  match dst with
  | none => s
  | some a => match region a.toNat with
    | .host p _ => s.emit (.poisonedTlp p a.toNat)
    | x => match x.canon with
      | some b => s.markPoison (b / 8 * 8) 8 0x2C21
      | none => s

/-- UNCORRECTABLE_DETECT (R392, R393). A word of a core's buffers is met as it is read, so its core stops (R101); a port's or link group's
buffer lies in no bank, so no test follows (DEDUCED, log entry 33). Errors are detected and logged after a device-fatal error too: R440 keeps the first of several (log entry 33). -/
def execUncorrectableDetect (d : Detect) (s : State) : Host.Outcome State Fault Refusal :=
  if s.dark then .next s
  else match d with
    | .hbm addr => match region addr.toNat with
      | .hbm a | .reserved a =>
      if s.inTables a then .next (s.report { code := 0x3C30, addr := a, kind := .stack, unit := a / stackBytes })
      else .next ((s.markPoison (a / 32 * 32) 32 0x2C20).reportTest { code := 0x2C20, addr := a, kind := .stack, unit := a / stackBytes }
        (.rowTest (a / stackBytes)))
      | _ => .next s
    | .sram n off =>
      match s.logicalOn n with
      | some c =>
        let a := sramAddr c off.val
        .next ((s.markPoison (a / 8 * 8) 8 0x2C21).reportTest { code := 0x2C21, addr := a, kind := .coreSlot, unit := n } (.coreTest n))
      | none => .next (s.reportTest { code := 0x2C21, kind := .coreSlot, unit := n } (.coreTest n))
    | .mesh dst n =>
      let s := match dst.bind (fun a => (region a.toNat).canon) with | some a => s.markPoison (a / 8 * 8) 8 0x2C22 | none => s
      .next (s.reportTest { code := 0x2C22, addr := (dst.getD 0).toNat, kind := .router, unit := n } .routeTest)
    | .array n =>
      let s := match s.running, s.logicalOn n with
        | some (t, _), some c => s.modTable t (fun x => { x with arrayCores := if x.arrayCores.contains c then x.arrayCores else x.arrayCores ++ [c] })
        | _, _ => s
      .next (s.abortTest { code := 0x2122, kind := .coreSlot, unit := n } (.coreTest n))
    | .sfu n => .next (s.abortTest { code := 0x2C23, kind := .coreSlot, unit := n } (.coreTest n))
    | .press m => .next (s.abortTest { code := 0x2C24, kind := .stack, unit := m } (.pressTest m))
    | .stewardSram n => .next (s.report { code := 0x3C31, kind := .steward, unit := n })
    | .controlMesh n => .next (s.report { code := 0x3C32, kind := .router, unit := n })
    | .controlData n => .next (s.report { code := 0x3C10, kind := .router, unit := n })
    | .coreBuffer n =>
      let s := match s.logicalOn n with
        | some c => s.modRun c (fun r => if r.active && r.stopped.isNone then { r with stopped := some (1, 0x2C21) } else r)
        | none => s
      .next (s.reportTest { code := 0x2C21, kind := .coreSlot, unit := n } (.coreTest n))
    | .portBuffer p dst => .next ((s.poisonBuffer dst).report { code := 0x2C21, addr := (dst.getD 0).toNat, kind := .port, unit := p.num })
    | .linkBuffer l dst => .next ((s.poisonBuffer dst).report { code := 0x2C21, addr := (dst.getD 0).toNat, kind := .link, unit := l })
    | .tables addr => .next (s.report { code := 0x3C30, addr := addr.toNat, kind := .stack, unit := addr.toNat / stackBytes })

/-! Consumption (R393). -/

/-- The unit that an entry of a consumer names. -/
def State.consumerUnit (s : State) : Consumer → UnitKind × Nat
  | .core c => (.coreSlot, s.slotOf c)
  | .steward n => (.steward, n)
  | .port p => (.port, p.num)
  | .link l => (.link, l)

/-- Whether a shipment sends the page at a linear HBM address over link `l`. -/
def State.sendsOn (s : State) (x : Shipment) (l a : Nat) : Bool :=
  (match x.granted with | some (ls, _, _) => ls.contains l | none => x.offer == some l)
    && x.pages.any (fun p => decide (s.slotAddr p ≤ a ∧ a < s.slotAddr p + 4096 * (s.model (s.page p).mslot).block.slot4k))

/-- Requests that consumed poison ends where its pass is aborted: the byte's owners, and all where no retry follows. -/
def PassTable.endedWith (x : PassTable) (rids : List Nat) : List Nat :=
  (if x.retried then rids ++ x.items.map (fun i => i.rid) else rids).eraseDups

/-- POISON_CONSUME (R393). Poison of a refused access (0x2201) is reported only where R30 reports it. -/
def execPoisonConsume (c : Consumer) (addr : BitVec 48) (s : State) : Host.Outcome State Fault Refusal :=
  match (region addr.toNat).canon.bind (fun a => (s.poisonIn a 1).map (fun code => (a, code))) with
  | none => .next s
  | some (a, code) =>
    if !s.alive then .next s
    else
      let (kind, unit) := s.consumerUnit c
      let table := match c, s.running with | .core k, some (t, _) => if (s.core k).run.active then some t else none | _, _ => none
      let (rids, s) := s.owners a
      let tab := table.map s.table
      let ended := (tab.map (fun x => x.endedWith rids)).getD rids
      let s := match table with | some t => s.abortPass t code | none => s
      let s := match c with
        | .link l => (s.lglob.ships.filter (fun x => s.sendsOn x l a)).foldl (fun (s : State) x => s.endShip x code (some 0)) s
        | .port p => s.emit (.poisonedTlp p addr.toNat)
        | _ => s
      let s := s.endOwners table rids code
      if code = 0x2201 then .next s
      else .next (s.report { code := code, addr := addr.toNat, detail := (tab.map (fun x => x.tag)).getD 0, kind := kind, unit := unit
                             reqs := ended.length })

/-! Corrected errors (R404). -/

/-- The reporter of R404 that a unit's events count for: each stack, each slot, and one for the data mesh. -/
def reporter (code unit : Nat) : Nat := if code = 0x1C14 then 0 else unit

/-- The window of a reporter with `n` events added; whether CE_LIMIT is reached now. -/
def Integrity.ceAdd (g : Integrity) (code unit n t : Nat) : Bool × Integrity :=
  let old := (g.ceWindows.find? (fun w => w.code == code && w.unit == unit && decide (t < w.start + 1000000000))).getD
    { code := code, unit := unit, start := t, count := 0 }
  let due := !old.reported && decide (g.ceLimit.toNat ≤ old.count + n)
  let w := { old with count := old.count + n, reported := old.reported || due }
  (due, { g with ceWindows := g.ceWindows.filter (fun w => !(w.code == code && w.unit == unit)) ++ [w] })

/-- `n` corrected events at a reporter: counted, and reported with their test when CE_LIMIT is reached (R396, R404). -/
def State.corrected (s : State) (r : Report) (a : Activity) (n : Nat) : State :=
  let (due, g) := s.integ.ceAdd r.code (reporter r.code r.unit) n s.time
  let s : State := { s with integ := g }
  if due then s.reportTest r a else s

/-- `n` corrected sectors of stack `m`. -/
def State.correctedHbm (s : State) (m a n : Nat) : State :=
  (s.modInteg (fun g => { g with ceHbm := Tbl.upd 0 m (fun c => c + BitVec.ofNat 64 n) g.ceHbm })).corrected
    { code := 0x1C10, addr := a, kind := .stack, unit := m } (.rowTest m) n

/-- `n` corrected SRAM words of a slot. -/
def State.correctedSram (s : State) (slot off n : Nat) : State :=
  let a := match s.logicalOn slot with | some c => sramAddr c off | none => 0
  (s.modInteg (fun g => { g with ceSram := g.ceSram + BitVec.ofNat 64 n })).corrected
    { code := 0x1C13, addr := a, kind := .coreSlot, unit := slot } (.coreTest slot) n

/-- CE_LIMIT_REACHED (R404): `n` corrected events at a reporter. -/
def execCeLimitReached (d : CeSource) (n : Nat) (s : State) : Host.Outcome State Fault Refusal :=
  if s.dark then .next s
  else match d with
    | .hbm m a => .next (s.correctedHbm m a.toNat n)
    | .sram slot off => .next (s.correctedSram slot off.val n)
    | .mesh r => .next ((s.modInteg (fun g => { g with meshRetry := g.meshRetry + BitVec.ofNat 64 n })).corrected
        { code := 0x1C14, kind := .router, unit := r } .routeTest n)

/-- HBM_PATROL_SCRUB (R392, R402): a sector that needs correction is counted, an uncorrectable one is poisoned with 0x2C25, and one of the
tables is device-fatal. -/
def execHbmPatrolScrub (m : Fin 6) (sector : BitVec 48) (r : ScrubResult) (s : State) : Host.Outcome State Fault Refusal :=
  let a := sector.toNat
  if s.dark || !s.holds (.hbmScrub m) || decide (a / stackBytes ≠ m.val) then .next s
  else match r with
    | .clean => .next s
    | .corrected => .next (s.correctedHbm m a 1)
    | .uncorrectable _ =>
      if s.inTables a then .next (s.report { code := 0x3C30, addr := a, kind := .stack, unit := m })
      else .next ((s.markPoison (a / 32 * 32) 32 0x2C20).reportTest { code := 0x2C25, addr := a, kind := .stack, unit := m } (.rowTest m))

/-- SRAM_PATROL_SCRUB (R402): one line of a slot's SRAM. -/
def execSramPatrolScrub (slot : Fin 72) (line : Fin 12288) (r : ScrubResult) (s : State) : Host.Outcome State Fault Refusal :=
  if s.dark || !s.holds (.sramScrub slot) then .next s
  else match r with
    | .clean => .next s
    | .corrected => .next (s.correctedSram slot (512 * line.val) 1)
    | .uncorrectable w => match s.logicalOn slot with
      | some c =>
        let a := sramAddr c (512 * line.val + 8 * w.val)
        .next ((s.markPoison a 8 0x2C21).reportTest { code := 0x2C21, addr := a, kind := .coreSlot, unit := slot } (.coreTest slot))
      | none => .next (s.reportTest { code := 0x2C21, kind := .coreSlot, unit := slot } (.coreTest slot))

/-! Verdicts (R396, R397). -/

/-- The verdict entry that answers a test's first entry; a test of a FAULTY link has none (R299). -/
def State.verdict (s : State) (t : PendingTest) (v : Nat) : State :=
  if t.code = 0 then s
  else s.report { code := t.code, addr := t.addr, kind := t.kind, unit := t.unit, verdict := v, detail := t.seq }

/-- The unit under which transient verdicts are counted: a row by its stack and its place, every other unit by its number. -/
def PendingTest.tally (t : PendingTest) : UnitKind × Nat :=
  match t.act with
  | .rowTest m => (.stack, 8 * ((Config.hbmRow t.addr).toNat + 1) + m)
  | .coreTest n => (.coreSlot, n)
  | .linkTest l => (.link, l)
  | .pressTest m => (.stack, m)
  | _ => (t.kind, t.unit)

/-- A transient verdict counted; whether it is the third in a window of 1 h (R397). -/
def Integrity.tally (g : Integrity) (kind : UnitKind) (unit t : Nat) : Bool × Integrity :=
  let old := (g.transients.find? (fun x => x.kind == kind && x.unit == unit && decide (t < x.start + 360000000000))).getD
    { kind := kind, unit := unit, start := t, count := 0 }
  let rest := g.transients.filter (fun x => !(x.kind == kind && x.unit == unit))
  if 3 ≤ old.count + 1 then (true, { g with transients := rest })
  else (false, { g with transients := rest ++ [{ old with count := old.count + 1 }] })

/-- Data-mesh hops between the hands of two slots (R19). -/
def slotHops (a b : Nat) : Nat :=
  let d := fun (x y : Nat) => if x < y then y - x else x - y
  d (a / 4 % 6) (b / 4 % 6) + d (a / 4 / 6) (b / 4 / 6)

/-- Whether a replacement under way, or one that waits for its keys, takes slot `n`. -/
def Integrity.taking (g : Integrity) (n : Nat) : Bool :=
  (g.held.map (fun h => h.act) ++ g.waiting).any (fun a => match a with | .replacement _ m => m == n | _ => false)

/-- The kitty slot that R71 step 1 chooses for a retired slot; one that another replacement takes is not free. -/
def State.chooseKitty (s : State) (old : Nat) : Option Nat :=
  leastBy (fun a b => decide (slotHops old a < slotHops old b) || (slotHops old a == slotHops old b && decide (a < b)))
    ((List.range 72).filter (fun n => (s.slot n).state == .kitty && !(s.slot n).fuse && !s.integ.taking n))

/-- A lasting verdict on a slot (R70): its retirement fuse is blown before the core map changes. -/
def State.doomSlot (s : State) (n code : Nat) : State := s.modSlot n (fun x => { x with fuse := true, cause := code })

/-- A slot marked RETIRED (R70, R443). One that leaves without a replacement is still named by the MAP register of its core. -/
def State.retireSlot (s : State) (n code : Nat) : State :=
  s.modSlot n (fun x => { x with
    state := .retired, fuse := true, retiredAt := now32 s.time, cause := code, logical := if x.state = .enabled then x.logical else noCore })

/-- The replacement of a doomed slot asked for; with an empty kitty the slot is RETIRED at once, with 0x3123 (R71, R398, R444). -/
def State.seekKitty (s : State) (old : Nat) : State :=
  match s.chooseKitty old with
  | some n => s.askKeys (.replacement old n)
  | none => (s.retireSlot old (s.slot old).cause).report { code := 0x3123, kind := .coreSlot, unit := old }

/-- The core map written (R71 steps 4 and 5): the logical core moves, with its SRAM cleared and its registers at their reset values, and the
old slot becomes RETIRED (R445). -/
def State.moveCore (s : State) (old new : Nat) : State :=
  let c := (s.slot old).logical
  let s := s.modSlot new (fun x => { x with state := .enabled, logical := c, fromKitty := true })
  let s := (s.retireSlot old (s.slot old).cause).modSlot old (fun x => { x with logical := noCore })
  let s : State := { s with
    mem := memZero s.mem (sramAddr c 0) 0x600000
    cores := Tbl.set {} c { regs := { clearedAt := s.pow.arrayCycles } } s.cores
    integ := { s.integ with poison := unpoison s.integ.poison (sramAddr c 0) 0x600000 } }
  s.report { code := 0x1121, kind := .coreSlot, unit := old }

/-- Doomed slots whose replacement by slot `n` waits for its keys. -/
def Integrity.seeking (g : Integrity) (n : Nat) : List Nat :=
  g.waiting.filterMap (fun a => match a with | .replacement o m => if m = n then some o else none | _ => none)

/-- Whether a replacement of slot `n` is under way or waits for its keys. -/
def Integrity.leaving (g : Integrity) (n : Nat) : Bool :=
  (g.held.map (fun h => h.act) ++ g.waiting).any (fun a => match a with | .replacement o _ => o == n | _ => false)

/-- A lasting verdict on a core slot (R397, R398). A kitty slot that is retired before it takes a core over is chosen again (R71 step 3). -/
def State.loseCore (s : State) (n code : Nat) : State :=
  match (s.slot n).state with
  | .enabled => if s.integ.leaving n then s else (s.doomSlot n code).seekKitty n
  | .kitty =>
    let olds := s.integ.seeking n
    let s := (s.retireSlot n code).modInteg (fun g => { g with
      waiting := g.waiting.filter (fun a => match a with | .replacement _ m => m != n | _ => true) })
    olds.foldl State.seekKitty s
  | _ => s

/-- The withdrawal of a row (R401, R402): device-fatal where one of its bytes may not be withdrawn, else done once its keys, PAGES(m) among
them, are granted. -/
def State.withdrawRow (s : State) (m a : Nat) : State :=
  if (a :: Config.hbmRowBytes a).any s.fatalByte then s.report { code := 0x3C34, addr := a, kind := .stack, unit := m }
  else (s.modInteg (fun g => { g with withdrawals := g.withdrawals ++ [(m, a)] })).askKeys (.rowRepair m true)

/-- A lasting verdict on an HBM row (R399–R401): repaired where a spare is there, the list has room and the second test passes. -/
def State.repairRow (s : State) (m : Nat) (t : PendingTest) (second : Bool) : State :=
  let row := (Config.hbmRow t.addr).toNat
  if second && decide (s.integ.repairs.length < 256) then
    ((s.modInteg (fun g => { g with repairs := g.repairs ++ [{ stack := m, row := row }] })).verdict t 4).report
      { code := 0x1C11, addr := t.addr, kind := .stack, unit := m, verdict := 4, detail := t.seq }
  else (s.verdict t 3).withdrawRow m t.addr

/-- A link whose test passed (R299): 0x1814, and the link retrains. -/
def State.linkPassed (s : State) (l : Nat) : State :=
  let s := s.report { code := 0x1814, kind := .link, unit := l }
  match (s.link l).state with
  | .faulty | .inService | .slow | .training | .handshake => s.train l (s.link l).cause
  | _ => s

/-- A link that is retired (R299). -/
def State.linkRetired (s : State) (l : Nat) : State := (s.report { code := 0x1815, kind := .link, unit := l }).leaveTo l .retired 8

/-- A lasting verdict (R397). -/
def State.lasting (s : State) (t : PendingTest) (second : Bool) : State :=
  match t.act with
  | .coreTest n => (s.verdict t 3).loseCore n t.code
  | .rowTest m => s.repairRow m t second
  | .linkTest l => (s.verdict t 3).linkRetired l
  | .pressTest m => (s.verdict t 3).report { code := 0x3C34, kind := .stack, unit := m }
  | _ => (s.verdict t 3).report { code := 0x3C33, kind := t.kind, unit := t.unit }

/-- Whether a pass that uses core `c` runs, or has been aborted and not drained. -/
def State.usedBy (s : State) (c : Nat) : Bool :=
  (s.core c).run.active || (List.range 4).any (fun t =>
    let x := s.table t
    bit x.mask.toNat c && x.present != x.mask && (x.state == .running || x.state == .aborting))

/-- Whether a test can have ended now: a core test runs at the pass boundary, after an aborted pass has drained (R396); a device-fatal error has
ended every pass (R13). -/
def State.testable (s : State) (a : Activity) : Bool :=
  s.holds a && (match a with
    | .coreTest n => match s.logicalOn n with | some c => !s.usedBy c || !s.alive | none => true
    | _ => true)

/-- The verdict on a kitty slot that takes a core over (R71 steps 2–5, R398). -/
def State.replaced (s : State) (old new : Nat) (pass : Bool) : State :=
  if pass then (s.moveCore old new).releaseKeys (.replacement old new)
  else ((s.releaseKeys (.replacement old new)).retireSlot new 0x2122).seekKitty old

/-- TARGETED_TEST_VERDICT (R396, R397): the result of a test whose keys are held. `second` is the repaired row's second test (R399). -/
def execTargetedTestVerdict (a : Activity) (pass second : Bool) (s : State) : Host.Outcome State Fault Refusal :=
  if s.dark || !s.testable a then .next s
  else match a with
    | .replacement old new => .next ((s.replaced old new pass).noteActivity)
    | _ => match s.integ.tests.find? (fun t => t.act == a) with
      | none => .next s
      | some t =>
        let s := s.modInteg (fun g => { g with tests := g.tests.erase t })
        let (kind, unit) := t.tally
        let (third, g) := if pass then s.integ.tally kind unit s.time else (true, s.integ)
        let s : State := { s with integ := g }
        let s := if third then s.lasting t second
          else
            let s := s.verdict t 2
            match a with | .linkTest l => s.linkPassed l | _ => s
        let s := if s.integ.tests.any (fun x => x.act == a) then (match a with | .coreTest n => s.testFeed n | _ => s) else s.releaseKeys a
        .next s.noteActivity

end Sys2Proof.Machine
end

