-- ==== Sys2Proof/Machine/Security.lean ====
section
/-! DEFINITION. The security engine (14_security_debug.md): debug unlock (R379, R381–R383), lifecycle (R377, R378), zeroisation (R384–R386),
attestation (R375, R376) and the random generator (R368). -/

namespace Sys2Proof.Machine

/-! Identity. -/

/-- DIK_ID (R375), 0 without a DIK. -/
def Sec.dikId (k : Sec) : Nat := if k.hasDik then ofLeBytes (shake256 8 dikPublic) else 0

/-! The TAP (R380). -/

/-- Bits as a number, the first lowest. -/
def bitsNat (l : List Bool) : Nat := maskOf ((l.zipIdx.filter (fun x => x.1)).map Prod.snd)

/-- "Service stopped" of R388. -/
def State.serviceStopped (s : State) : Bool := s.dark || s.sec.lifecycle != 1 || s.glob.fatal

/-- The TAP's instruction register written. -/
def State.setIr (s : State) (code : Nat) : State := { s with board := { s.board with ir := code } }

/-- BYPASS: a data register of one bit that captures 0. -/
def State.bypass (s : State) : State := (s.setIr 0x3F).emit (.tdo 0 1)

/-- A TAP instruction: taken where its condition holds, else replaced by BYPASS with 0x0B12 (R380). The TAP has no power without PD33 (R457). -/
def State.tap (s : State) (code : Nat) (ok : Bool) (act : State → State) : State :=
  if !s.board.aux then s
  else if ok then act (s.setIr code)
  else (s.report { code := 0x0B12 }).bypass

/-- The debug instructions, which a module in SCRAPPED refuses (R387). -/
def State.unscrapped (s : State) : Bool := s.sec.lifecycle != 3

/-! Zeroisation (R384–R386). -/

/-- What every pass, request and waiting record leaves behind when zeroisation starts: no record (R384). -/
def State.dropWork (s : State) : State :=
  let n := (s.serve.reqs.filter (fun r => r.admitted)).length
  let runs := ((List.range 4).filter (fun t => (s.table t).state == .running)).length
  let s := s.count (fun k => { k with reqErr := k.reqErr + BitVec.ofNat 64 n, passesAborted := k.passesAborted + BitVec.ofNat 64 runs })
  let s := s.modServe (fun v => { v with reqs := [], records := [] })
  { (s.modSync (fun y => { y with
      tables := [], regs := [], wakes := [], claims := [], groups := [], handCnt := [], handMsgs := []
      seq := { y.seq with active := false } })) with
    cores := Tbl.mapVals {} (fun _ k => { k with run := {} }) s.cores }

/-- Every maintenance activity cancelled and every key released (R403). -/
def State.dropKeys (s : State) : State :=
  let s := s.modInteg (fun g => { g with held := [], waiting := [], tests := [], withdrawals := [] })
  (List.range 72).foldl (fun s n => if (s.slot n).moving then s.modSlot n (fun x => { x with moving := false }) else s) s

/-- Service zeroisation begins (R384, R388, R389). In STANDBY and TRIPPED the boot completes it: ZSTATE 3. -/
def State.zeroise (s : State) : State :=
  if s.sec.zstate = 1 then s
  else if s.dark then s.modSec (fun k => { k with zstate := 3 })
  else ((s.wake.dropWork.dropKeys).report { code := 0x3B30 }).modSec (fun k => { k with zstate := 1 })

/-- HBM, SRAM, the tables in them and the link secrets written to zero (R384). -/
def State.eraseData (s : State) : State :=
  let v := s.serve
  { s with
    mem := []
    integ := { s.integ with poison := [], poisonedSlots := [] }
    pages := { s.pages with descs := [], vine := [], cache := [], newest := 0xFFFFFF, oldest := 0, retiredEpochs := [] }
    serve := { rings := Tbl.mapVals {} (fun _ r => { r with area := [], handled := [] }) v.rings, params := v.params, nextRid := v.nextRid }
    cores := Tbl.mapVals {} (fun _ k => { k with run := {} }) s.cores
    boot := { s.boot with code := [] }
    lglob := { s.lglob with ships := [], fetch := none, fetchQ := [] }
    links := Tbl.mapVals {} (fun _ k => { k with kept := [], queue := [], again := [], keys := [], nextKeys := none, rekey := none, shake := {} }) s.links }

/-- The fuse of a lifecycle change that waited for zeroisation blown (R378, R386). SCRAPPED has no level but L0 (R387). -/
def Sec.advance (k : Sec) : Sec :=
  match k.nextLife with
  | some n => { k with
      lifecycle := n, udsKilled := k.udsKilled || n == 3, nextLife := none
      debug := if n = 3 then 0 else k.debug, held := k.held && n != 3 }
  | none => k

/-- Every link that is not RETIRED held DISABLED, with CAUSE 9 (R377, R379). -/
def State.holdLinks (s : State) : State :=
  (List.range 48).foldl (fun s l => match (s.link l).state with
    | .disabled | .retired => s
    | _ => s.leaveTo l .disabled 9) s

/-- ZEROISATION_COMPLETE (R384). In RMA the links are held DISABLED from then on (R377). -/
def execZeroisationComplete (s : State) : Host.Outcome State Fault Refusal :=
  if s.sec.zstate ≠ 1 ∨ s.dark = true then .next s
  else
    let s := s.eraseData.modSec (fun k => { k.advance with zstate := 2 })
    .next (if s.sec.lifecycle = 2 then s.holdLinks else s)

/-! Debug levels (R379, R381–R383, R387). -/

/-- What lasts from the entry to L2 or L3 until reset (R379): no link is enabled, queued AUTH work is discarded (R389). -/
def State.invade (s : State) : State :=
  let s := s.modSec (fun k => { k with
    invaded := true, verQ := [], signQ := k.signQ.filter (fun j => match j with | .auth _ => false | .report _ _ _ => true) })
  ((List.range 48).foldl (fun s l => s.modLink l (fun k => { k with enable := false, cause := 9 })) s).holdLinks

/-- Whether boot runs: powered, and neither service nor the rescue loader has begun (R419). -/
def State.booting (s : State) : Bool := !s.dark && s.glob.service == 0

/-- The debug level raised (R379, R383, R421). -/
def State.raiseLevel (s : State) (n : Nat) : State :=
  let s := s.modSec (fun k => { k with debug := n, held := k.held || s.pow.mstate == .standby })
  if n = 1 then s.report { code := 0x0B10 }
  else
    let s := s.invade
    if s.booting then { s with boot := { s.boot with noService := true } }
    else if s.sec.lifecycle = 1 then s.zeroise
    else s

/-- A debug token (R381). -/
structure Token where
  copy : Nat
  slot : Nat
  action : Nat
  level : Nat
  body : List Nat
  sig : List Nat
deriving DecidableEq, Repr

/-- Decoding of a token: body of 128 bytes, then the signature. -/
def Token.ofBytes (bs : List Nat) : Token :=
  let v := ofLeBytes (bs.take 128)
  { copy := fld v 512 512, slot := fld v 12 4, action := fld v 8 2, level := fld v 0 2, body := bs.take 128, sig := bs.drop 128 }

/-- Whether a key slot may ask for an action in a lifecycle state (R377, R378, R387). -/
def Token.allowed (t : Token) (lifecycle : Nat) : Bool :=
  let op := decide (t.slot ≤ 3)
  let vendor := t.slot == 8
  match t.action with
  | 0 => (lifecycle == 1 && ((op && decide (t.level ≤ 2)) || (vendor && decide (t.level ≤ 1))))
      || (lifecycle == 2 && ((op && decide (t.level ≤ 2)) || vendor))
  | 1 => lifecycle == 1 && vendor
  | 2 => (lifecycle == 1 || lifecycle == 2) && (op || vendor)
  | _ => false

/-- The public key that a token's slot names (R366, R381). -/
def Sec.tokenKey (k : Sec) (slot : Nat) : List Nat :=
  if slot = 8 then Config.keyOf (Config.fuseKeyDigest 8) else Config.keyOf (Tbl.get [] slot k.opKeys)

/-- The conditions of R381 step 3. A module in BLANK takes any higher level without them (R377). -/
def Sec.accepts (k : Sec) (t : Token) (now : Nat) : Bool :=
  let higher := t.action != 0 || decide (k.debug < t.level)
  if k.lifecycle = 0 then t.action == 0 && higher
  else
    (match k.challenge with | some (c, at_) => t.copy == c.toNat && decide (now < at_ + 6000000000) | none => false)
      && t.allowed k.lifecycle && higher && (t.slot == 8 || Tbl.get [] t.slot k.opKeys != [])
      && Config.slhVerify (k.tokenKey t.slot) (ascii "SPRJ-DEBUG") t.body t.sig

/-- A refused token (R382). -/
def State.refuseToken (s : State) : State :=
  (s.report { code := 0x0B11 }).modSec (fun k => { k with unlockFails := satAdd 16 k.unlockFails 1, lockout := some s.time, tokenResult := 2 })

/-- Whether DBG_CHAL answers zeros (R382): for 1 s after a refusal, and until reset after the sixteenth. -/
def Sec.locked (k : Sec) (now : Nat) : Bool :=
  decide (16 ≤ k.unlockFails) || (match k.lockout with | some t => decide (now < t + 100000000) | none => false)

/-- DBG_CHAL (R381, R382). -/
def execDbgChal (s : State) : Host.Outcome State Fault Refusal :=
  .next (s.tap 0x10 s.unscrapped (fun s =>
    if s.sec.locked s.time then s.emit (.tdo 0 512)
    else
      let (r, s) := s.random
      let c := r.toNat % 2 ^ 256 * 2 ^ 256 + Config.fuseSerial.toNat * 2 ^ 192 + s.sec.dikId % 2 ^ 64 * 2 ^ 128 + s.sec.debug % 4 * 4 + s.sec.lifecycle % 4
      (s.modSec (fun k => { k with challenge := some (BitVec.ofNat 512 c, s.time) })).emit (.tdo c 512)))

/-- DBG_TOKEN (R369, R381): the token goes to the head of the verification queue. A second one has no challenge of its own. -/
def execDbgToken (token : List Nat) (s : State) : Host.Outcome State Fault Refusal :=
  .next (s.tap 0x11 s.unscrapped (fun s =>
    if s.sec.token.isSome then s.refuseToken else s.modSec (fun k => { k with token := some token })))

/-- An accepted token: the level rises, or the lifecycle change begins (R378, R381). -/
def State.grantToken (s : State) (t : Token) : State :=
  let s := s.modSec (fun k => { k with tokenResult := 1 })
  match t.action with
  | 0 => s.raiseLevel t.level
  | 1 => (s.modSec (fun k => { k with nextLife := some 2 })).zeroise
  | _ => (s.modSec (fun k => { k with nextLife := some 3 })).zeroise

/-- TOKEN_VERIFIED (R381): the checks made and the challenge used up. -/
def execTokenVerified (s : State) : Host.Outcome State Fault Refusal :=
  match s.sec.token with
  | none => .next s
  | some bs =>
    let t := Token.ofBytes bs
    let ok := s.sec.accepts t s.time
    let s := s.modSec (fun k => { k with token := none, challenge := none })
    .next (if ok then s.grantToken t else s.refuseToken)

/-- UNLOCK_LOCKOUT_EXPIRY (R382): 1 s after a refusal, unless sixteen were refused. -/
def execUnlockLockoutExpiry (s : State) : Host.Outcome State Fault Refusal :=
  if s.sec.locked s.time then .next s else .next (s.modSec (fun k => { k with lockout := none }))

/-- DBG_STATUS (R381, R388): level, result and DOMAIN_OFF are shifted out; a write may lower the level. -/
def execDbgStatus (lower : Option (Fin 4)) (s : State) : Host.Outcome State Fault Refusal :=
  .next (s.tap 0x12 s.unscrapped (fun s =>
    let bs := Config.dbgStatusBits s.sec.debug s.sec.tokenResult s.sec.domainOff
    let s := s.emit (.tdo (bitsNat bs) bs.length)
    match lower with
    | some n => if n.val < s.sec.debug then s.modSec (fun k => { k with debug := n.val }) else s
    | none => s))

/-! Attestation (R375, R376). -/

/-- Bytes of a report and of its signature. -/
def reportBytes : Nat := 50112

/-- Whether a job of the signing unit is a report. -/
def SignJob.isReport : SignJob → Bool
  | .report _ _ _ => true
  | .auth _ => false

/-- ATT_STATUS as read (R390): a report is being signed once its job is at the head of the queue. -/
def Sec.attRead (k : Sec) : Nat :=
  if k.attStatus = 1 then (match k.signQ with | .report _ _ _ :: _ => 2 | _ => 1) else k.attStatus

/-- The host address of a report's destination in an enabled window of the port that grants write. -/
def State.reportPlace (s : State) (p : Port) (dest : Nat) : Option Nat :=
  match region dest with
  | .host q off => if q = p then (s.port p).translate off reportBytes true else none
  | _ => none

/-- GO through a port's PF (R376). The rescue loader has no attestation (R423). -/
def State.attest (s : State) (p : Port) : State :=
  if s.glob.service = 4 then s
  else if s.sec.signQ.any SignJob.isReport then s.report { code := 0x0B13, kind := .port, unit := p.num, ports := 2 ^ p.num }
  else if s.sec.lifecycle = 0 ∨ s.sec.lifecycle = 3 then s.modSec (fun k => { k with attStatus := 5 })
  else if (s.reportPlace p s.sec.attDest.toNat).isNone then s.modSec (fun k => { k with attStatus := 4 })
  else
    let nonce := (List.range 4).flatMap (fun i => leBytes 8 (Tbl.get 0 i s.sec.attNonce).toNat)
    s.modSec (fun k => { k with signQ := k.signQ ++ [.report p nonce k.attDest.toNat], attStatus := 1 })

/-- The body of a report (R375). -/
def State.reportBody (s : State) (p : Port) (nonce : List Nat) : List Nat :=
  let ready := (List.range 4).filter (fun k => (s.model k).state == .ready)
  let ids := (ready.map (fun k => (s.model k).modelId % 2 ^ 256 * 2 ^ (256 * k))).sum
  let n := fun (x : SlotPhys) => (s.slots.filter (fun y => y.state == x)).length
  leBytes 256 (ofLeBytes nonce * 2 ^ 1792 + ofLeBytes (s.sec.imageDigest.take 64) * 2 ^ 1280 + ids * 2 ^ 256 + Config.fuseSerial.toNat * 2 ^ 192
    + s.sec.dikId % 2 ^ 64 * 2 ^ 128 + s.sec.imageSvn % 2 ^ 16 * 2 ^ 112 + Config.romVersion.toNat * 2 ^ 96 + n .retired % 256 * 2 ^ 88
    + n .kitty % 256 * 2 ^ 80 + maskOf ready * 2 ^ 36 + s.sec.debug % 4 * 2 ^ 34 + s.sec.lifecycle % 4 * 2 ^ 32 + p.num * 2 ^ 24 + 2 ^ 8 + 0x41)

/-- ATTESTATION_SIGNED (R376): body and signature are written on the port, and then ATT_STATUS is 3. Without a DIK nothing is signed (R386). -/
def execAttestationSigned (s : State) : Host.Outcome State Fault Refusal :=
  match s.sec.signQ with
  | .report p nonce dest :: rest =>
    if s.sec.hasDik = false then .next (s.modSec (fun k => { k with signQ := rest, attStatus := 5 }))
    else
    let (r, s) := (s.modSec (fun k => { k with signQ := rest })).random
    if (s.port p).link ≠ .up ∨ s.dark = true then .next (s.modSec (fun k => { k with attStatus := 4 }))
    else match s.reportPlace p dest with
      | none => .next (s.modSec (fun k => { k with attStatus := 4 }))
      | some a =>
        let body := s.reportBody p nonce
        let sig := Config.slhSign dikSeeds (ascii "SPRJ-ATTEST") body r
        .next ((s.hostPut p a (body ++ sig)).modSec (fun k => { k with attStatus := 3 }))
  | _ => .next s

/-! The random generator (R368). -/

/-- RNG_HEALTH_FAIL (R368). -/
def execRngHealthFail (s : State) : Host.Outcome State Fault Refusal := .next (s.report { code := 0x3B32 })

/-- DRBG_RESEED (R368): after every 2^20 requests. -/
def execDrbgReseed (s : State) : Host.Outcome State Fault Refusal :=
  if s.sec.drbg < 2 ^ 20 * (s.sec.reseeds + 1) then .next s else .next (s.modSec (fun k => { k with reseeds := k.reseeds + 1 }))

end Sys2Proof.Machine
end

