-- ==== Sys2Proof/Machine/RegisterMap.lean ====
section
/-! DEFINITION. The register space (17_registers.md): where every block lies (R430, R446), what each register reads (R431, R437–R445 and the
blocks' own rules), which fields are IS and ISW (R413, R426), and how a value is put in them. -/

namespace Sys2Proof.Machine

/-! Blocks. -/

/-- A register block (R446). -/
inductive Blk where
  | glob | coreMap | boot | sec | power | watchdog | coll | seq | vine
  | page (m : Nat)
  | maint
  | link (l : Nat)
  | lglob
  | intake (p : Port)
  | port (p : Port)
  | core (c : Nat)
deriving DecidableEq, Repr

/-- The management and steward blocks of 256 bytes from 0x2000. -/
def mgmtBlk : Nat → Blk
  | 0 => .boot | 1 => .sec | 2 => .power | 3 => .watchdog | 4 => .coll | 5 => .seq | _ => .vine

/-- The block that a BAR0 offset lies in, with the offset in it; none in a hole (R430). -/
def blockOf (a : Nat) : Option (Blk × Nat) :=
  if a < 0x1000 then some (.glob, a)
  else if a < 0x2000 then some (.coreMap, a - 0x1000)
  else if a < 0x2700 then some (mgmtBlk ((a - 0x2000) / 0x100), a % 0x100)
  else if a < 0x3000 then none
  else if a < 0x3600 then some (.page ((a - 0x3000) / 0x100), a % 0x100)
  else if a < 0x10000 then none
  else if a < 0x20000 then some (.maint, a - 0x10000)
  else if a < 0x21800 then some (.link ((a - 0x20000) / 0x80), a % 0x80)
  else if a < 0x24000 then none
  else if a < 0x28000 then some (.lglob, a - 0x24000)
  else if a < 0x30000 then none
  else if a < 0x30800 then some (.intake (Port.ofBit ((a - 0x30000) / 0x400)), a % 0x400)
  else if a < 0x34000 then none
  else if a < 0x38000 then some (.port (Port.ofBit ((a - 0x34000) / 0x2000)), a % 0x2000)
  else if a < 0x40000 then none
  else if a < 0x80000 then some (.core ((a - 0x40000) / 0x1000), a % 0x1000)
  else none

/-- The BAR0 base of a block (R446). -/
def Blk.base : Blk → Nat
  | .glob => 0 | .coreMap => 0x1000 | .boot => 0x2000 | .sec => 0x2100 | .power => 0x2200 | .watchdog => 0x2300 | .coll => 0x2400
  | .seq => 0x2500 | .vine => 0x2600 | .page m => 0x3000 + 0x100 * m | .maint => 0x10000 | .link l => 0x20000 + 0x80 * l | .lglob => 0x24000
  | .intake p => 0x30000 + 0x400 * p.num | .port p => 0x34000 + 0x2000 * p.num | .core c => 0x40000 + 0x1000 * c

/-- The device address of the register space (R29). -/
def regSpace : Nat := 0xF000000000

/-- Blocks whose state lives in PD33, which STANDBY and TRIPPED keep powered (R437; the management block of 01_architecture.md). -/
def Blk.pd33 : Blk → Bool
  | .glob | .coreMap | .boot | .sec | .power | .watchdog | .maint => true
  | _ => false

/-- Blocks that the rescue loader shows (R423): of the global block the identification registers, of the maintenance block the log. -/
def loaderShows (b : Blk) (o : Nat) : Bool :=
  match b with
  | .boot | .sec => true
  | .glob => decide (o < 0x20)
  | .maint => decide (0x1000 ≤ o ∧ o < 0x9000)
  | _ => false

/-- The domain that holds a block's state and can be in a low state (R437). -/
def State.blkDom (s : State) : Blk → Option Nat
  | .core c => if s.slotOf c < 72 then some (s.handOf c) else none
  | .page m => some (18 + m)
  | _ => none

/-! Reads. -/

/-- BOARD_REV (R439, R461). -/
def boardRev : Nat :=
  let d := Config.boardData
  if d.getD 0 0 = 0x42 ∧ ofLeBytes (d.drop 60) = crc32c (d.take 60) then d.getD 2 0 else 0xFF

/-- Service counter `i` (R442). -/
def Counters.at (k : Counters) (i : Nat) : Nat :=
  (match i with
    | 0 => k.passesLaunched | 1 => k.passesAborted | 2 => k.passesRetried | 3 => k.reqAdmitted | 4 => k.reqOk | 5 => k.reqErr
    | 6 => k.records | 7 => k.tokens | 8 => k.posComputed | 9 => k.posVine | _ => 0#64).toNat

/-- The register at 0x040 (R440). -/
def State.globalStatus (s : State) : Nat :=
  s.glob.service % 8 * 2 ^ 8 + b2n s.portB.ready * 2 ^ 5 + b2n s.portA.ready * 2 ^ 4 + b2n s.pow.tripLow * 2 ^ 3 + b2n s.glob.fatal * 2
    + b2n s.glob.modReady

/-- The register at 0x050 (R440). -/
def RegRefuse.bits (r : RegRefuse) : Nat := 2 ^ 63 + r.requester % 4 * 2 ^ 56 + r.reason % 256 * 2 ^ 48 + r.offset % 2 ^ 26

/-- EXPIRIES of a timer at a counter value (R440). -/
def GTimer.expiries (g : GTimer) (t : Nat) : Nat := if g.periodUs = 0 then 0 else min ((t - g.start) / (100 * g.periodUs)) (2 ^ 16 - 1)

/-- Timer GTt (R440). -/
def GTimer.bits (g : GTimer) (t : Nat) : Nat := g.feature % 256 * 2 ^ 56 + g.expiries t * 2 ^ 32 + g.periodUs % 2 ^ 32

/-- The global block (R439, R440, R442). `who` is the requester's key of R433. -/
def State.readGlob (s : State) (who o : Nat) : Nat :=
  if o = 0 then 0x9620 * 2 ^ 32 + (if s.glob.service = 4 then 0x962F else 0x9620) * 2 ^ 16 + 0x1F6B
  else if o = 0x008 then Config.romVersion.toNat * 2 ^ 48 + 0x10 * 2 ^ 40 + boardRev * 2 ^ 32
  else if o = 0x010 then 0x1962056F
  else if o = 0x018 then 64 * 2 ^ 48 + 72 * 2 ^ 40 + 18 * 2 ^ 32 + 6 * 2 ^ 24 + 48 * 2 ^ 16 + 4 * 2 ^ 8 + 2
  else if o = 0x040 then s.globalStatus
  else if o = 0x048 then (match s.glob.firstFatal with | some (c, q) => 2 ^ 63 + c % 2 ^ 16 * 2 ^ 32 + q % 2 ^ 32 | none => 0)
  else if o = 0x050 then (match s.glob.regRefuse with | some r => r.bits | none => 0)
  else if o = 0x058 then s.glob.refused * 2 ^ 32 + s.glob.badSize
  else if o = 0x080 then s.time % 2 ^ 64
  else if o = 0x088 then Tbl.get 0 who s.glob.timeHi
  else if 0x0C0 ≤ o ∧ o < 0x100 then (Tbl.get ({} : GTimer) ((o - 0xC0) / 8) s.glob.gts).bits s.time
  else if 0x100 ≤ o ∧ o < 0x150 then s.glob.cnt.at ((o - 0x100) / 8)
  else 0

/-- A slot's register (R443). -/
def CoreSlot.bits (x : CoreSlot) (n : Nat) : Nat :=
  (if x.state = .retired then x.retiredAt % 2 ^ 32 * 2 ^ 32 + x.cause % 2 ^ 16 * 2 ^ 16 else 0) + b2n x.fromKitty * 2 ^ 15 + b2n x.moving * 2 ^ 14
    + (if x.state = .enabled then x.logical % 64 else 0) * 2 ^ 8 + n / 4 * 2 ^ 3 + x.state.code

/-- Slots in a state. -/
def State.slotCount (s : State) (x : SlotPhys) : Nat := (s.slots.filter (fun y => y.state == x)).length

/-- The slot that MAP_c names: the one that holds core `c`, or the retired one that it left for no other (R2, R444). -/
def State.mapSlot (s : State) (c : Nat) : Nat :=
  if s.slotOf c < 72 then s.slotOf c
  else ((List.range 72).find? (fun n => (s.slot n).state == .retired && (s.slot n).logical == c)).getD 0

/-- Whether core `c` is being moved (R444, R445). -/
def State.movingCore (s : State) (c : Nat) : Bool :=
  decide (s.slotOf c < 72) && (s.slot (s.slotOf c)).moving

/-- The core map block (R443, R444). -/
def State.readCoreMap (s : State) (o : Nat) : Nat :=
  if o < 0x240 then (s.slot (o / 8)).bits (o / 8)
  else if 0x400 ≤ o ∧ o < 0x600 then
    let c := (o - 0x400) / 8
    b2n (s.movingCore c) * 2 ^ 7 + s.mapSlot c
  else if o = 0x600 then
    s.slotCount .enabled * 2 ^ 56 + s.slotCount .kitty * 2 ^ 48 + s.slotCount .retired * 2 ^ 40 + s.slotCount .fusedOff * 2 ^ 32
  else 0

/-- The boot block (R429). -/
def State.readBoot (s : State) (o : Nat) : Nat :=
  let b := s.boot
  let loader := s.glob.service == 4
  if o = 0 then b.bootMs % 2 ^ 32 * 2 ^ 32 + b.stage % 256 * 2 ^ 24 + b.rescueCause % 256 * 2 ^ 16
  else if o = 0x008 then s.sec.imageSvn % 2 ^ 16 * 2 ^ 48 + b.imageKind % 4 * 2 ^ 44 + b.imageBytes % 2 ^ 32
  else if o = 0x010 then b.buildId % 2 ^ 64
  else if o = 0x018 then b.iswPorts.toNat * 2 + b2n b.rescueOpen
  else if o = 0x020 then (if loader then b.rescueSrc.toNat else 0)
  else if o = 0x028 then (if loader then b.rescueBytes.toNat else 0)
  else if o = 0x030 then b.rstatus % 16 * 2 ^ 4
  else if o = 0x038 then b.rescueDetail % 2 ^ 32 * 2 ^ 16 + b.rescueErr % 2 ^ 16
  else 0

/-- The security block (R390). -/
def State.readSec (s : State) (o : Nat) : Nat :=
  let k := s.sec
  if o = 0 then
    k.unlockFails % 2 ^ 16 * 2 ^ 32 + k.zstate % 4 * 2 ^ 24 + k.fwSlot % 4 * 2 ^ 16 + k.svnFuse % 256 * 2 ^ 8 + b2n k.held * 2 ^ 4
      + k.debug % 4 * 2 ^ 2 + k.lifecycle % 4
  else if o = 0x008 then Config.fuseSerial.toNat
  else if o = 0x010 then k.dikId
  else if 0x018 ≤ o ∧ o < 0x038 then (Tbl.get 0 ((o - 0x18) / 8) k.attNonce).toNat
  else if o = 0x038 then k.attDest.toNat
  else if o = 0x040 then k.attRead % 16 * 2 ^ 4
  else if o = 0x048 then b2n k.zeroiseOpen
  else 0

/-- Two bits per domain, `n` domains from `d` on (R363). -/
def Power.domBits (p : Power) (t d n : Nat) : Nat := ((List.range n).map (fun i => (p.domAt t (d + i)).code * 4 ^ i)).sum

/-- The power-manager block (R363, R364). Powers are held in mW and energies in nJ. -/
def State.readPower (s : State) (o : Nat) : Nat :=
  let p := s.pow
  if o = 0 then
    p.fallbackCode % 256 * 2 ^ 32 + p.readyIdleMs % 2 ^ 16 * 2 ^ 16 + p.attrMode.toNat * 2 ^ 8 + b2n p.fixed * 2 ^ 7 + b2n p.boostEn * 2 ^ 6
      + p.capCode.toNat
  else if o = 0x008 then
    p.tjMax % 256 * 2 ^ 56 + p.thbmMax % 256 * 2 ^ 48 + p.mstate.code * 2 ^ 40 + p.skip % 16 * 2 ^ 36 + p.sCap % 16 * 2 ^ 32
      + p.sRail % 16 * 2 ^ 28 + p.sTherm % 16 * 2 ^ 24 + p.sAlert % 16 * 2 ^ 20 + b2n p.coolantOk * 2 ^ 6 + b2n p.vrAlert * 2 ^ 5
      + b2n p.fallback * 2 ^ 4 + b2n p.throttle * 2 ^ 3 + b2n p.boostPending * 2 ^ 2 + b2n p.div8 * 2
  else if o = 0x010 then meanOf 500 p.hist / 100 % 2 ^ 32 * 2 ^ 32 + (p.hist.headD 0) / 100 % 2 ^ 32
  else if o = 0x018 then p.chipNj / 1000 % 2 ^ 64
  else if o = 0x020 then p.idleNj / 1000 % 2 ^ 64
  else if o = 0x028 then p.domBits s.time 0 32
  else if o = 0x030 then p.domBits s.time 32 2
  else if o = 0x038 then p.boostTicks / 100 % 2 ^ 64
  else if o = 0x040 then p.skipped32 / 32 % 2 ^ 64
  else if o = 0x048 then p.glitches % 2 ^ 16 * 2 ^ 48 + p.throttles % 2 ^ 16 * 2 ^ 32 + p.fallbacks % 2 ^ 16 * 2 ^ 16
  else if 0x080 ≤ o ∧ o < 0x0D0 then
    let x := p.rail ((o - 0x80) / 16)
    if o % 16 = 0 then x.ipk.toNat * 2 ^ 48 + x.isus.toNat * 2 ^ 32 + meanOf 10 x.hist / 1000 % 2 ^ 16 * 2 ^ 16 + meanOf 2000 x.hist / 1000 % 2 ^ 16
    else x.pkHits % 2 ^ 32 * 2 ^ 32 + x.susHits % 2 ^ 32
  else 0

/-- The watchdog block (R282). -/
def State.readWatchdog (s : State) (o : Nat) : Nat :=
  let y := s.sync
  if o = 0 then y.pegWaitUs % 2 ^ 20
  else if o = 0x008 then y.passDefaultUs % 2 ^ 32
  else if o = 0x010 then y.stwKickMs % 2 ^ 16
  else if o = 0x020 then y.pegExp % 2 ^ 16 * 2 ^ 48 + y.passExp % 2 ^ 16 * 2 ^ 32 + y.chipExp % 2 ^ 16 * 2 ^ 16
  else 0

/-- A group's register (R281). -/
def GroupRun.bits (g : GroupRun) : Nat :=
  g.episodes % 2 ^ 24 * 2 ^ 40 + popCount 48 g.child0 * 2 ^ 34 + popCount 48 g.child1 * 2 ^ 28 + g.hand0 % 32 * 2 ^ 23 + g.hand1 % 32 * 2 ^ 18
    + b2n g.sense

/-- The collector block (R281). -/
def State.readColl (s : State) (o : Nat) : Nat :=
  if o < 0x040 then
    let t := s.table (o / 16)
    if o % 16 = 0 then t.present.toNat else t.tag % 2 ^ 24 * 2 ^ 16 + t.state.code
  else if o < 0x078 then (s.sync.group ((o - 0x40) / 8)).bits
  else if o = 0x078 then s.sync.missing.toNat
  else if o = 0x080 then s.sync.laggards.toNat
  else if o = 0x088 then s.sync.collStatus.bits
  else 0

/-- The weight sequencer block (R133). -/
def State.readSeq (s : State) (o : Nat) : Nat :=
  let q := s.sync.seq
  if o = 0 then q.rounds.toNat * 2 ^ 32 + q.lateCore % 64 * 2 ^ 24 + b2n q.active
  else if o = 0x008 then q.gateWait.toNat
  else 0

/-- The vine block (R214). -/
def State.readVine (s : State) (o : Nat) : Nat :=
  let g := s.pages
  if o = 0 then g.newest % 2 ^ 24 * 2 ^ 24 + g.oldest % 2 ^ 24
  else if o = 0x008 then g.vcHits.toNat
  else if o = 0x010 then g.vcMisses.toNat
  else if o = 0x018 then g.hits.toNat
  else if o = 0x020 then ((List.range 4).map (fun k => (s.model k).gen % 2 ^ 16 * 2 ^ (16 * k))).sum
  else 0

/-- The page block of stack `m` (R213). -/
def State.readPage (s : State) (m o : Nat) : Nat :=
  let g := s.pages
  let c := Tbl.get ({} : PageCounters) m g.cnts
  if o = 0 then g.inState m .retiring * 2 ^ 32 + (descCount m - (g.usedDescs m).length)
  else if o < 0x028 then
    let q := g.part m ((o - 8) / 8)
    b2n q.enable * 2 ^ 63 + q.base4k % 2 ^ 23 * 2 ^ 40 + (q.count - (g.withdrawnIn m ((o - 8) / 8)).length) % 2 ^ 20 * 2 ^ 20 + q.slot4k % 2 ^ 12 * 2 ^ 8
  else if o < 0x048 then
    let k := (o - 0x28) / 8
    let q := g.part m k
    g.freeIn m k % 2 ^ 20 * 2 ^ 44 + q.high.toNat * 2 ^ 24 + q.low.toNat * 2 ^ 4 + b2n q.pruning
  else if o = 0x048 then c.lookups.toNat
  else if o = 0x050 then c.verifyFail.toNat
  else if o = 0x058 then c.inserts.toNat
  else if o = 0x060 then c.dedups.toNat
  else if o = 0x068 then c.pruned.toNat
  else if o = 0x070 then c.copies.toNat
  else 0

/-- A cellar group's register (R404). A suspended scrub has yielded its key (R403). -/
def Integrity.group (g : Integrity) (n : Nat) : Nat :=
  let hs := g.held.filter (fun h => !h.suspended && h.act.groups.contains n)
  let code := fun (i : Nat) => match hs[i]? with | some h => h.act.code | none => 0
  code 0 * 2 ^ 56 + code 1 * 2 ^ 48 + min 255 (g.waiting.filter (fun a => a.groups.contains n)).length * 2 ^ 40
    + (match hs[0]? with | some h => h.since % 2 ^ 32 | none => 0)

/-- The maintenance block (R404). -/
def State.readMaint (s : State) (o : Nat) : Nat :=
  let g := s.integ
  if o < 133 * 8 then g.group (o / 8)
  else if o = 0x800 then
    g.scrubH.toNat * 2 ^ 56 + g.ceLimit.toNat * 2 ^ 40 + s.slotCount .kitty * 2 ^ 32 + s.slotCount .retired * 2 ^ 24
      + g.repairs.length % 2 ^ 9 * 2 ^ 15 + g.withdrawnRows % 256
  else if 0x808 ≤ o ∧ o < 0x838 then (Tbl.get 0 ((o - 0x808) / 8) g.ceHbm).toNat
  else if o = 0x838 then g.ceSram.toNat
  else if o = 0x840 then g.meshRetry.toNat
  else if o = 0x848 then g.nextSeq % 2 ^ 32
  else if 0x1000 ≤ o ∧ o < 0x9000 then
    fld (Tbl.get ({} : LogEntry) ((o - 0x1000) / 32) g.log).bits (8 * (o % 32)) 64
  else 0

/-- The block of link `l` (R314). -/
def State.readLink (s : State) (l o : Nat) : Nat :=
  let k := s.link l
  if o = 0 then
    k.keyGen % 2 ^ 16 * 2 ^ 48 + k.quars % 256 * 2 ^ 40 + k.cause % 256 * 2 ^ 32 + k.pcaps % 256 * 2 ^ 16 + b2n k.syncOk * 2 ^ 11
      + b2n k.initiator * 2 ^ 10 + k.rate % 4 * 2 ^ 8 + k.state.code
  else if o = 0x008 then k.partnerId % 2 ^ 64
  else if o = 0x010 then k.rates.toNat * 2 ^ 5 + b2n k.kr * 2 ^ 4 + b2n k.enable
  else if 0x018 ≤ o ∧ o < 0x058 then (Tbl.get 0 ((o - 0x18) / 8) k.cnt).toNat
  else 0

/-- A register of a landing window's entry (R315). -/
def Landing.word (w : Landing) (i : Nat) : Nat :=
  match i with
  | 0 => w.kind % 16 * 2 ^ 60 + w.size4k % 2 ^ 24 * 2 ^ 36 + w.base4k % 2 ^ 36
  | 1 => b2n w.pegEn * 2 ^ 54 + w.peg % 64 * 2 ^ 48 + w.links % 2 ^ 48
  | 2 => w.expect % 2 ^ 32 * 2 ^ 32 + w.count % 2 ^ 32
  | _ => w.state % 4

/-- The link global block (R315). -/
def State.readLGlob (s : State) (o : Nat) : Nat :=
  let g := s.lglob
  if o = 0 then g.modelLimitMs % 2 ^ 32 * 2 ^ 32 + g.shipLimitMs.toNat
  else if o = 0x008 then g.slowUs % 2 ^ 16 * 2 ^ 48 + g.quarHoldS % 2 ^ 16 * 2 ^ 32 + g.quarWindowMs % 2 ^ 16 * 2 ^ 16 + g.quarLimit % 2 ^ 16
  else if o = 0x010 then g.rekeyS % 2 ^ 32
  else if o = 0x018 then g.shipOk % 2 ^ 32 * 2 ^ 32 + g.shipFail % 2 ^ 32
  else if 0x100 ≤ o ∧ o < 0x900 then Tbl.get 0 ((o - 0x100) / 8) g.groups % 2 ^ 48
  else if 0x1000 ≤ o ∧ o < 0x3000 then (Tbl.get ({} : Landing) ((o - 0x1000) / 32) g.windows).word (o % 32 / 8)
  else 0

/-- A register of a ring (R221). -/
def Ring.word (r : Ring) (i : Nat) : Nat :=
  match i with
  | 0 => r.vector.toNat * 2 ^ 8 + r.log2ent.toNat * 2 ^ 4 + b2n r.enable
  | 1 => r.cqBase.toNat
  | 2 => r.cqHead.toNat * 2 ^ 32 + r.cqTail.toNat * 2 ^ 16 + r.log2cq.toNat
  | 3 => r.cons.toNat
  | _ => 0

/-- A register of a racking window (R324). -/
def RackWindow.word (w : RackWindow) (i : Nat) : Nat :=
  match i with
  | 0 => w.base4k.toNat * 4096 + b2n w.wr * 4 + b2n w.rd * 2 + b2n w.en
  | 1 => w.size4k.toNat
  | 2 => w.dev4k.toNat
  | _ => 0

/-- A register of seat `n` (R336). -/
def State.seatWord (s : State) (p : Port) (n i : Nat) : Nat :=
  let x := (s.port p).seat n
  match i with
  | 0 => x.maxSessions.toNat * 2 ^ 48 + x.maxInflight.toNat * 2 ^ 40 + x.stake.toNat * 2 ^ 28 + x.domBase.toNat * 2 ^ 14 + x.domCnt.toNat
  | 1 =>
    let held := if (s.port p).seatMode then s.sessionsOf p n % 2 ^ 16 * 2 ^ 48 + s.inflight p n % 256 * 2 ^ 40 else 0
    held + ((s.port p).func n).gen % 2 ^ 16 * 2 ^ 16
  | _ => 0

/-- The intake block of a port (R221). -/
def State.readIntake (s : State) (p : Port) (o : Nat) : Nat := (s.ring p (o / 0x40)).word (o % 0x40 / 8)

/-- The port block (R324, R335, R336). -/
def State.readPort (s : State) (p : Port) (o : Nat) : Nat :=
  let q := s.port p
  if o = 0 then
    q.losses % 256 * 2 ^ 40 + q.lastLoss % 256 * 2 ^ 32 + q.numVf % 16 * 2 ^ 17 + b2n q.quiescing * 2 ^ 16 + b2n q.clocked * 2 ^ 15
      + q.width % 32 * 2 ^ 10 + q.speed % 8 * 2 ^ 7 + q.stateCode
  else if o = 0x008 then q.adminRings.toNat * 2 ^ 16 + b2n q.seatMode * 2 + b2n q.refclkSel
  else if o = 0x010 then q.cqDrop.toNat
  else if o = 0x018 then q.dmaRefused.toNat
  else if o = 0x020 then q.foreignWr.toNat
  else if 0x100 ≤ o ∧ o < 0x900 then (q.win ((o - 0x100) / 32)).word (o % 32 / 8)
  else if 0x1040 ≤ o ∧ o < 0x1400 then s.seatWord p ((o - 0x1000) / 0x40) (o % 0x40 / 8)
  else 0

/-- The register of a wait (R279). -/
def CoreRun.waitBits (r : CoreRun) : Nat :=
  match r.wait with
  | some w => 2 ^ 63 + b2n w.coll * 2 ^ 62 + w.peg % 64 * 2 ^ 56 + w.started % 2 ^ 32
  | none => 0

/-- IDLE: the counters sum to four times the ARRAY cycles since they were cleared (R131). -/
def CoreRegs.idle (r : CoreRegs) (cycles : Nat) : BitVec 64 :=
  (List.range 9).foldl (fun x k => x - Tbl.get 0 k r.stall) (BitVec.ofNat 64 (4 * (cycles - r.clearedAt)))

/-- One suit's group of SPARE_MAP as R74 lays the fuses out: a row or column number of 17 or more names none, and reads 0. -/
def spareGroup (v : Nat) : Nat :=
  let half := fun (cut n : Nat) => if bit v cut && decide (fld v n 5 ≤ 16) then 2 ^ cut + fld v n 5 * 2 ^ n else 0
  half 15 10 + half 9 4

/-- SPARE_MAP of a slot (R74). -/
def spareMap (slot : Nat) : Nat :=
  let v := (Config.fuseSpare slot).toNat
  ((List.range 4).map (fun k => spareGroup (fld v (16 * k) 16) * 2 ^ (16 * k))).sum

/-- The block of logical core `c` (R446): its sub-blocks by R47, R48, R73, R74, R104, R159, R177, R279 and R132. -/
def State.readCore (s : State) (c o : Nat) : Nat :=
  let k := s.core c
  let r := k.regs
  if o = 0 then r.numStatus.toNat
  else if o < 0x028 then (r.inv ((o - 8) / 8)).bits
  else if o = 0x040 then r.bcastCause % 16 * 2 ^ 12 + b2n r.retryBcast * 4 + b2n r.forceBcast * 2 + b2n r.feed
  else if o = 0x048 then spareMap (s.mapSlot c)
  else if o = 0x060 then r.seqFault.bits
  else if o = 0x068 then r.seqFault.index % 2 ^ 32
  else if o = 0x080 then r.sfuBank
  else if o = 0x088 then r.sfuFault.bits
  else if o = 0x0A0 then r.decRows
  else if o = 0x0A8 then r.skipped.toNat
  else if o = 0x0B0 then r.decFault.bits
  else if o = 0x0C0 then r.pegStatus.bits
  else if o = 0x0C8 then k.run.waitBits
  else if 0x100 ≤ o ∧ o < 0x148 then (Tbl.get 0 ((o - 0x100) / 8) r.stall).toNat
  else if o = 0x148 then (r.idle s.pow.arrayCycles).toNat
  else if o = 0x158 then r.streamFlags.toNat
  else 0

/-- The register at an offset of a block; `who` is the requester's key of R433. -/
def State.readBlk (s : State) (who : Nat) (b : Blk) (o : Nat) : Nat :=
  match b with
  | .glob => s.readGlob who o
  | .coreMap => s.readCoreMap o
  | .boot => s.readBoot o
  | .sec => s.readSec o
  | .power => s.readPower o
  | .watchdog => s.readWatchdog o
  | .coll => s.readColl o
  | .seq => s.readSeq o
  | .vine => s.readVine o
  | .page m => s.readPage m o
  | .maint => s.readMaint o
  | .link l => s.readLink l o
  | .lglob => s.readLGlob o
  | .intake p => s.readIntake p o
  | .port p => s.readPort p o
  | .core c => if s.movingCore c then 0 else s.readCore c o

/-- An 8-byte read of the register space at a multiple of 8 (R431, R432): a hole reads 0, in the loader all but what R423 names, and in
STANDBY and TRIPPED all but PD33's blocks (R388). -/
def State.readReg (s : State) (who a : Nat) : Nat :=
  match blockOf a with
  | none => 0
  | some (b, o) =>
    if s.glob.service = 4 ∧ loaderShows b o = false then 0
    else if s.dark && !b.pd33 then 0
    else s.readBlk who b o % 2 ^ 64

/-! IS and ISW fields. -/

/-- ISW fields of a register, as a mask (R426). -/
def iswMask (b : Blk) (o : Nat) : Nat :=
  match b with
  | .core _ => if o = 0x040 then 2 else 0
  | .page _ => if 0x028 ≤ o ∧ o < 0x048 ∧ o % 8 = 0 then 0xFFFFFFFFFF0 else 0
  | .watchdog => if o = 0 then 0xFFFFF else 0
  | .link _ => if o = 0x010 then 1 else 0
  | .lglob => if o = 0 then 0xFFFFFFFF else 0
  | .power => if o = 0 then 0x3FF else if 0x080 ≤ o ∧ o < 0x0D0 ∧ o % 16 = 0 then 0xFFFFFFFF00000000 else 0
  | _ => 0

/-- IS fields of a register, as a mask (R10). -/
def isMask (b : Blk) (o : Nat) : Nat :=
  match b with
  | .glob => if 0x0C0 ≤ o ∧ o < 0x100 ∧ o % 8 = 0 then 0xFF00000000000000 else 0
  | .core _ => if o = 0x040 then 4 else 0
  | .watchdog => if o = 0x008 then 0xFFFFFFFF else if o = 0x010 then 0xFFFF else 0
  | .sec => if o = 0x048 then 1 else 0
  | .boot => if o = 0x018 then 7 else 0
  | .power => if o = 0 then 0xFFFFFF0000 else 0
  | .link _ => if o = 0x010 then 0xF0 else 0
  | .lglob => if o = 0 then 0xFFFFFFFF00000000 else if o = 0x008 then 0xFFFFFFFFFFFFFFFF else if o = 0x010 then 0xFFFFFFFF
      else if 0x100 ≤ o ∧ o < 0x900 ∧ o % 8 = 0 then 0xFFFFFFFFFFFF else 0
  | .port _ => if o = 0x008 then 0xFFFF0003 else 0
  | .maint => if o = 0x800 then 0xFFFFFF0000000000 else 0
  | _ => 0

/-- Whether the IS and ISW fields of a register lie in their stated ranges at value `v` (R213, R440, R282, R315, R350, R363, R364, R404). -/
def fieldsLegal (b : Blk) (o v : Nat) : Bool :=
  match b with
  | .glob => decide (fld v 56 8 ≤ kindFeatures 5)
  | .page _ => decide (fld v 4 20 ≤ fld v 24 20)
  | .watchdog =>
    if o = 0 then decide (1 ≤ fld v 0 20 ∧ fld v 0 20 ≤ 1000000) else if o = 0x010 then decide (1 ≤ fld v 0 16) else true
  | .lglob => if o = 0 then decide (1 ≤ fld v 0 32 ∧ fld v 0 32 ≤ 60000) else true
  | .power =>
    if o = 0 then decide (fld v 0 6 ≤ 36 ∧ fld v 8 2 ≤ 1 ∧ fld v 16 16 ≤ 10000 ∧ fld v 32 8 ≤ 36)
    else
      let m := railMax ((o - 0x80) / 16)
      decide (1 ≤ fld v 48 16 ∧ fld v 48 16 ≤ m.1 ∧ 1 ≤ fld v 32 16 ∧ fld v 32 16 ≤ m.2)
  | .maint => decide (1 ≤ fld v 56 8 ∧ fld v 56 8 ≤ 168)
  | _ => true

/-- The IS and ISW fields of a register set from `v`. A change that ends boost's conditions ends boost (R354, R355);
a LOW_WATER put above FREE starts pruning (R207). -/
def State.putConfig (s : State) (b : Blk) (o v : Nat) : State :=
  match b with
  | .glob => s.modGlob (fun g => { g with gts := Tbl.upd {} ((o - 0xC0) / 8) (fun t => { t with feature := fld v 56 8 }) g.gts })
  | .core c => s.modRegs c (fun r => { r with retryBcast := bit v 2, forceBcast := bit v 1 })
  | .page m => s.modPart m ((o - 0x28) / 8) (fun q => { q with high := BitVec.ofNat 20 (fld v 24 20), low := BitVec.ofNat 20 (fld v 4 20) }) |>.startPruning m ((o - 0x28) / 8)
  | .watchdog => s.modSync (fun y =>
      if o = 0 then { y with pegWaitUs := fld v 0 20 } else if o = 0x008 then { y with passDefaultUs := fld v 0 32 }
      else { y with stwKickMs := fld v 0 16 })
  | .sec => s.modSec (fun k => { k with zeroiseOpen := bit v 0 })
  | .boot => { s with boot := { s.boot with iswPorts := BitVec.ofNat 2 (fld v 1 2), rescueOpen := bit v 0 } }
  | .power => s.modPow (fun p =>
      if o = 0 then
        let p := { p with capCode := BitVec.ofNat 6 (fld v 0 6), boostEn := bit v 6, fixed := bit v 7, attrMode := BitVec.ofNat 2 (fld v 8 2)
                          readyIdleMs := fld v 16 16, fallbackCode := fld v 32 8 }
        let p := if p.fixed then { p with sCap := 0 } else p
        if p.fixed || !p.boostEn then p.endBoost else p
      else
        let r := (o - 0x80) / 16
        p.setRail r { (p.rail r) with ipk := BitVec.ofNat 16 (fld v 48 16), isus := BitVec.ofNat 16 (fld v 32 16) })
  | .link l => s.modLink l (fun k => { k with rates := BitVec.ofNat 3 (fld v 5 3), kr := bit v 4, enable := bit v 0 })
  | .lglob => s.modLGlob (fun g =>
      if o = 0 then { g with modelLimitMs := fld v 32 32, shipLimitMs := BitVec.ofNat 32 (fld v 0 32) }
      else if o = 0x008 then { g with slowUs := fld v 48 16, quarHoldS := fld v 32 16, quarWindowMs := fld v 16 16, quarLimit := fld v 0 16 }
      else if o = 0x010 then { g with rekeyS := fld v 0 32 }
      else { g with groups := Tbl.set 0 ((o - 0x100) / 8) (fld v 0 48) g.groups })
  | .port p => s.modPort p (fun q => { q with adminRings := BitVec.ofNat 16 (fld v 16 16), seatMode := bit v 1, refclkSel := bit v 0 })
  | .maint => s.modInteg (fun g => { g with scrubH := BitVec.ofNat 8 (fld v 56 8), ceLimit := BitVec.ofNat 16 (fld v 40 16) })
  | _ => s

/-- A value with the bits of a mask taken from another. -/
def mergeBits (old new mask : Nat) : Nat := (old &&& (2 ^ 64 - 1 - mask)) ||| (new &&& mask)

end Sys2Proof.Machine
end

