-- ==== Sys2Proof/Machine/Image.lean ====
section
/-! DEFINITION. The Ezolmior image (R410–R415): its parts as they are read, the boot checks of R374 and R418, and conflict refusal (R417). -/

namespace Sys2Proof.Machine

/-! Parts. -/

/-- An image header (R410). -/
structure ImageHdr where
  pubkey : List Nat
  buildId : Nat
  sigOff : Nat
  bytes : Nat
  nsect : Nat
  portClock : Nat
  revoke : Nat
  svn : Nat
  commit : Bool
  kind : Nat
  version : Nat
  magic : Nat
deriving DecidableEq, Repr

/-- Decoding of a header. -/
def ImageHdr.ofBytes (bs : List Nat) : ImageHdr :=
  let v := ofLeBytes (bs.take 192)
  { pubkey := (bs.drop 192).take 64, buildId := fld v 960 64, sigOff := fld v 896 32, bytes := fld v 864 32, nsect := fld v 856 8
    portClock := fld v 832 2, revoke := fld v 800 4, svn := fld v 784 16, commit := bit v 775, kind := fld v 768 4, version := fld v 40 8
    magic := fld v 0 32 }

/-- A directory entry (R411). -/
structure Section where
  type : Nat
  off : Nat
  len : Nat
  crc : Nat
deriving DecidableEq, Repr

/-- Decoding of a directory entry. -/
def Section.ofBytes (bs : List Nat) : Section :=
  let v := ofLeBytes bs
  { type := fld v 0 8, off := fld v 32 32, len := fld v 64 32, crc := fld v 96 32 }

/-- The directory of an image (R411). -/
def directory (bs : List Nat) (n : Nat) : List Section := (List.range n).map (fun i => Section.ofBytes ((bs.drop (256 + 16 * i)).take 16))

/-- The bytes of a section. -/
def Section.body (x : Section) (bs : List Nat) : List Nat := (bs.drop x.off).take x.len

/-- The bytes of the section of a type. -/
def sectionOf (bs : List Nat) (n type : Nat) : List Nat :=
  match (directory bs n).find? (fun x => x.type == type) with
  | some x => x.body bs
  | none => []

/-- A SETTINGS entry (R413). -/
structure Setting where
  off : Nat
  value : Nat
  mask : Nat
  open_ : Nat
deriving DecidableEq, Repr

/-- Decoding of a SETTINGS entry. -/
def Setting.ofBytes (bs : List Nat) : Setting :=
  let v := ofLeBytes bs
  { off := fld v 0 26, value := fld v 64 64, mask := fld v 128 64, open_ := fld v 192 64 }

/-- Decoding of an OWNERSHIP entry (R415). -/
def Owner.ofBytes (bs : List Nat) : Owner :=
  let v := ofLeBytes bs
  { kind := fld v 0 4, feature := fld v 8 8, index := fld v 16 8, count := fld v 32 48, first := fld v 80 48 }

/-- What the boot takes from an image. -/
structure Image where
  hdr : ImageHdr
  dir : List Section
  digest : List Nat
  sig : List Nat
  settings : List Setting
  owners : List Owner
  code : List Nat
  tables : List Nat
  energy : List Nat
  trust : List Nat
  params : List Nat
  bytes : List Nat
deriving DecidableEq, Repr

/-- An image read into its parts. -/
def Image.ofBytes (bs : List Nat) : Image :=
  let h := ImageHdr.ofBytes bs
  let sec := sectionOf bs h.nsect
  { hdr := h, dir := directory bs h.nsect, digest := shake256 64 (bs.take h.sigOff), sig := (bs.drop h.sigOff).take 29792
    settings := (chunks 32 (sec 3).length (sec 3)).map Setting.ofBytes, owners := (chunks 16 (sec 4).length (sec 4)).map Owner.ofBytes
    code := sec 1, tables := sec 2, energy := sec 5, trust := sec 6, params := sec 7, bytes := bs }

/-! Verification (R374, R418). -/

/-- The intact firmware-key slot that a public key hashes to. -/
def Sec.fwKey (k : Sec) (pubkey : List Nat) : Option Nat :=
  (List.range 4).find? (fun i => !k.revoked.getLsbD i && Config.fuseKeyDigest i == shake256 32 pubkey)

/-- Whether the checks of R374 and R418 pass. -/
def Sec.verifies (k : Sec) (x : Image) : Bool :=
  x.hdr.magic == 0x4C4F5A45 && x.hdr.version == 1 && (k.fwKey x.hdr.pubkey).isSome
    && Config.slhVerify x.hdr.pubkey (ascii "SPRJ-IMAGE") x.digest x.sig && decide (k.svnFuse ≤ x.hdr.svn)
    && !(x.hdr.kind == 2 && k.lifecycle != 0) && !(x.hdr.kind == 1 && k.lifecycle == 0)

/-! Conflict refusal (R417). Each check answers the DETAIL of its first failure. -/

/-- DETAIL of a refusal. -/
def refusal (type index : Nat) : Nat := type % 256 * 2 ^ 24 + index % 2 ^ 24

/-- The first index of a list that fails a check. -/
def firstBad {α : Type} (l : List α) (bad : Nat → α → Bool) : Option Nat := (l.zipIdx.find? (fun x => bad x.2 x.1)).map Prod.snd

/-- The header's fields (R410); a failure has TYPE 0. -/
def Image.headerBad (x : Image) : Option Nat :=
  let h := x.hdr
  if h.nsect ≠ 7 ∨ h.bytes ≠ h.sigOff + 29792 ∨ 4194304 < h.bytes ∨ 64 < h.svn ∨ (h.kind ≠ 1 ∧ h.kind ≠ 2) then some (refusal 0 0) else none

/-- Whether two sections overlap. -/
def Section.meets (a b : Section) : Bool := decide (a.off < b.off + b.len ∧ b.off < a.off + a.len)

/-- Whether a directory entry breaks R411 or R412. -/
def Image.sectionBad (x : Image) (i : Nat) (e : Section) : Bool :=
  decide (e.type = 0 ∨ 7 < e.type ∨ e.off % 16 ≠ 0 ∨ e.off < 256 + 16 * x.hdr.nsect ∨ x.hdr.sigOff < e.off + e.len)
    || x.dir.zipIdx.any (fun y => decide (y.2 < i) && (y.1.type == e.type || y.1.meets e))
    || crc32c (e.body x.bytes) != e.crc

/-- The directory (R411, R412). -/
def Image.dirBad (x : Image) : Option Nat := (firstBad x.dir x.sectionBad).map (fun i => refusal (x.dir.getD i ⟨0, 0, 0, 0⟩).type i)

/-- CODE: at most 224 KiB (R412). -/
def Image.codeBad (x : Image) : Option Nat := if 229376 < x.code.length then some (refusal 1 0) else none

/-- The image of a seed table at the front of a list of bytes (R140): its header and as many entries as NENT gives. -/
def frontTable (bs : List Nat) : List Nat := bs.take (64 + 16 * fld (ofLeBytes (bs.take 64)) 32 16)

/-- Whether a table image is published table `t` (R140, R141): its header, the published checksum, and R141's entries, or entries with
that checksum (log entry 34). -/
def imageTableOk (t : Nat) (bs : List Nat) : Bool :=
  let v := ofLeBytes (bs.take 64)
  decide (fld v 0 8 = 0x5D ∧ fld v 16 8 = t ∧ fld v 24 8 = 1 ∧ fld v 32 16 = seedEntries t ∧ bs.length = 64 + 16 * seedEntries t)
    && fld v 128 32 == publishedCrc.getD t 0
    && (bs.drop 64 == seedBytes t || crc32c (bs.drop 64) == publishedCrc.getD t 0)

/-- TABLES (R412): the first of the listed tables that differs. -/
def tablesBad : List Nat → List Nat → Option Nat
  | [], _ => none
  | t :: ts, bs => if imageTableOk t (frontTable bs) then tablesBad ts (bs.drop (frontTable bs).length) else some (refusal 2 t)

/-- The images of `n` tables that stand one behind the other (R140, R412). -/
def tableImages : Nat → List Nat → List (List Nat)
  | 0, _ => []
  | n + 1, bs => frontTable bs :: tableImages n (bs.drop (frontTable bs).length)

/-- Whether a SETTINGS entry breaks R413. -/
def settingBad (l : List Setting) (i : Nat) (e : Setting) : Bool :=
  l.zipIdx.any (fun y => decide (y.2 < i) && y.1.off == e.off) || e.off % 8 != 0 ||
  (match blockOf e.off with
    | none => true
    | some (b, o) =>
      let isw := iswMask b o
      decide (e.mask &&& (isw ||| isMask b o) ≠ e.mask ∨ e.open_ &&& isw ≠ e.open_ ∨ e.value &&& e.mask ≠ e.value))

/-- SETTINGS (R413), on the state after the entries before: each value lies in its range. -/
def settingsBad (l : List Setting) (s : State) : Option Nat :=
  match firstBad l (settingBad l) with
  | some i => some (refusal 3 i)
  | none => (firstBad l (fun _ e => match blockOf e.off with
    | some (b, o) => !fieldsLegal b o (mergeBits (s.readBlk 7 b o) e.value e.mask)
    | none => true)).map (refusal 3)

/-- Whether two HBM entries share a unit. -/
def Owner.sharesHbm (a b : Owner) : Bool :=
  (List.range 6).any (fun m =>
    let x := a.span m
    let y := b.span m
    decide (max x.1 y.1 < min x.2 y.2))

/-- Whether two entries of one KIND share a unit. -/
def Owner.shares (a b : Owner) : Bool :=
  a.kind == b.kind && (if a.kind = 1 then a.sharesHbm b else decide (a.first < b.first + b.count ∧ b.first < a.first + a.count))

/-- Units of a KIND other than HBM. -/
def kindUnits : Nat → Nat
  | 2 => 64 | 3 => 48 | 4 => 256 | 5 => 8 | 6 => 4 | _ => 0

/-- Whether an HBM entry lies in its view and below the reserved top of every stack (R184, R417); PAGE_POOL(m) only in stack m and in the linear
view (R415). -/
def Owner.hbmLegal (o : Owner) : Bool :=
  let inView := if o.first < ilvUnit then decide (o.first + o.count ≤ 6 * stackUnits) else decide (o.first - ilvUnit + o.count ≤ 6 * stackUnits)
  inView && (List.range 6).all (fun m => decide ((o.span m).2 ≤ (o.span m).1 ∨ (o.span m).2 ≤ reservedUnit))
    && !(o.feature == 1 && decide (4 ≤ o.index))
    && !(o.feature == 2 && decide (6 ≤ o.index ∨ o.first < o.index * stackUnits ∨ (o.index + 1) * stackUnits < o.first + o.count))

/-- Bytes an entry needs at least, in units of 4 KiB (R415). -/
def Owner.least (o : Owner) (genSlots : Nat) : Nat :=
  if o.kind ≠ 1 then 1 else match o.feature with
    | 4 => 768
    | 5 => 786432
    | 6 => 64 * genSlots
    | _ => 1

/-- Whether an OWNERSHIP entry breaks R415 or meets an earlier one. -/
def ownerBad (l : List Owner) (genSlots i : Nat) (o : Owner) : Bool :=
  decide (o.kind = 0 ∨ 6 < o.kind ∨ o.feature = 0 ∨ kindFeatures o.kind < o.feature ∨ o.count < o.least genSlots)
    || (if o.kind = 1 then !o.hbmLegal else decide (kindUnits o.kind < o.first + o.count))
    || l.zipIdx.any (fun y => decide (y.2 < i) && (y.1.shares o
      || (y.1.kind == o.kind && y.1.feature == o.feature && ((o.kind == 1 && decide (4 ≤ o.feature ∧ o.feature ≤ 6)) || (o.kind == 5 && decide (o.feature ≤ 2))))))
    || (o.kind == 5 && o.feature == 4 && !(l.any (fun x => x.kind == 6 && x.feature == 2)))

/-- Whether an entry that R415 requires is missing. -/
def ownersMissing (l : List Owner) : Bool :=
  !([4, 5, 6].all (fun f => l.any (fun o => o.kind == 1 && o.feature == f)))
    || !([1, 2].all (fun f => l.any (fun o => o.kind == 5 && o.feature == f)))
    || !((List.range 6).all (fun m => l.any (fun o => o.kind == 1 && o.feature == 2 && o.index == m)))

/-- OWNERSHIP (R415, R417). -/
def ownersBad (l : List Owner) (genSlots : Nat) : Option Nat :=
  match firstBad l (ownerBad l genSlots) with
  | some i => some (refusal 4 i)
  | none => if ownersMissing l then some (refusal 4 l.length) else none

/-- Whether a link has a YALAST owner in a list. -/
def linkOwned (l : List Owner) (n : Nat) : Bool := l.any (fun o => o.kind == 3 && decide (o.first ≤ n ∧ n < o.first + o.count))

/-- Whether a SETTINGS entry gives a link without a YALAST owner an ENABLE that is 1 or open, or names one in a partner group (R417). -/
def linkBad (owners : List Owner) (e : Setting) : Bool :=
  match blockOf e.off with
  | some (.link n, o) => o == 0x010 && (bit (e.value &&& e.mask) 0 || bit e.open_ 0) && !linkOwned owners n
  | some (.lglob, o) => decide (0x100 ≤ o ∧ o < 0x900) && (maskList 48 (e.value &&& e.mask)).any (fun n => !linkOwned owners n)
  | _ => false

/-- TRUST: counts above their limits, or a section too short for them (R412). -/
def trustBad (bs : List Nat) : Option Nat :=
  let (a, d, k) := Config.trustCounts (bs.take 16)
  if 16 < a ∨ 256 < d ∨ 4 < k ∨ bs.length < 16 + 32 * (a + d + k) then some (refusal 6 0) else none

/-- PARAMS in its ranges (R414). -/
def paramsBad (bs : List Nat) : Option Nat :=
  let v := ofLeBytes bs
  let cm := fld v 48 16
  if bs.length = 32 ∧ 256 ≤ cm ∧ cm ≤ 8192 ∧ cm % 256 = 0 ∧ 1 ≤ fld v 64 32 ∧ fld v 64 32 ≤ 10000 ∧ 1 ≤ fld v 96 16 ∧ fld v 96 16 ≤ 256
    ∧ 1 ≤ fld v 112 16 ∧ fld v 112 16 ≤ 1024 ∧ 1 ≤ fld v 128 32 ∧ fld v 128 32 ≤ 600000 then none else some (refusal 7 0)

/-- REFCLK_SEL of a port as SETTINGS gives it. -/
def refclkSet (l : List Setting) (p : Port) : Bool :=
  l.any (fun e => e.off == (Blk.port p).base + 8 && bit (e.value &&& e.mask) 0)

/-- PORT_CLOCK against SETTINGS (R417). -/
def Image.clockBad (x : Image) : Option Nat :=
  if bit x.hdr.portClock 0 == refclkSet x.settings .A && bit x.hdr.portClock 1 == refclkSet x.settings .B then none else some (refusal 3 0)

/-- Conflict refusal (R417): DETAIL of the first rule broken, in the order of the sections. -/
def Image.conflict (x : Image) (s : State) : Option Nat :=
  [x.headerBad, x.dirBad, x.codeBad, tablesBad (List.range 4) x.tables, settingsBad x.settings s, x.clockBad,
    ownersBad x.owners (fld (ofLeBytes x.params) 112 16), (firstBad x.settings (fun _ e => linkBad x.owners e)).map (refusal 3),
    trustBad x.trust, paramsBad x.params].findSome? id

end Sys2Proof.Machine
end

