-- ==== Sys2Proof/Machine/Boot.lean ====
section
/-! DEFINITION. Reset and boot (16_boot_and_image.md): the reset of R406, the stages of R419–R421, the end of boot (R420) and the rescue
loader (R422–R425). -/

namespace Sys2Proof.Machine

/-- The boot block's state changed by `f`. -/
def State.modBoot (s : State) (f : Boot → Boot) : State := { s with boot := f s.boot }

/-- The boot stage (R419). -/
def State.setStage (s : State) (n : Nat) : State := s.modBoot (fun b => { b with stage := n })

/-! Reset (R406). -/

/-- A port after a module reset: its pins and the host's memory stay. -/
def PortSt.afterReset (q : PortSt) : PortSt := { perst := q.perst, refclkOk := q.refclkOk, hostMem := q.hostMem }

/-- The security engine after a module reset: fuses, generator and BOOT_HOLD's absence; a zeroisation that ran is interrupted (R383, R385, R389). -/
def Sec.afterReset (k : Sec) : Sec :=
  { lifecycle := k.lifecycle, svnFuse := k.svnFuse, revoked := k.revoked, udsKilled := k.udsKilled, drbg := k.drbg, reseeds := k.reseeds
    zstate := if k.zstate = 1 ∨ k.zstate = 3 then 3 else 0 }

/-- What PD33 keeps of the log and the repair list (R394, R400). -/
def Integrity.afterReset (g : Integrity) : Integrity := { log := g.log, nextSeq := g.nextSeq, repairs := g.repairs }

/-- The image slot after a reset: one that was being written fails its check (R425). -/
def State.nvmAfterReset (s : State) : Cells := if s.boot.rstatus = 3 then [] else s.board.nvm

/-- A slot in the state that the fuses give it, which it reads from the reset on (R443). One whose fuse was blown before the reset and whose
place was not yet taken is RETIRED now. -/
def CoreSlot.fromFuses (t : Nat) (x : CoreSlot) : CoreSlot :=
  { x with
    state := (if x.fuse then .retired else x.mfg), logical := (if x.mfg = .enabled then x.mfgLogical else noCore), fromKitty := false
    moving := false, retiredAt := if x.fuse ∧ x.state ≠ .retired then now32 t else x.retiredAt }

/-- The module at the acceptance of RESET_IN# (R406): all but PD33's records, fuses, pins and what others hold returns to reset; STANDBY. -/
def State.moduleReset (s : State) : State :=
  { State.reset with
    time := s.time, mem := s.mem, slots := s.slots.map (CoreSlot.fromFuses s.time), out := s.out, pending := s.pending
    portA := s.portA.afterReset, portB := s.portB.afterReset
    integ := s.integ.afterReset, sec := s.sec.afterReset
    pow := { ended := s.time / 200, mstate := .standby, doms := [(33, .on)], coolantOk := s.pow.coolantOk, coolantLowAt := s.pow.coolantLowAt, vrAlert := s.pow.vrAlert }
    boot := { rescueNext := s.boot.rescueNext }
    board := { s.board with resetIn := true, nvm := s.nvmAfterReset } }

/-- Boot at stage FUSES (R406, R419): the stages run when the reset inputs allow (log entry 11). -/
def State.atFuses (s : State) : State :=
  (s.modPow (fun p => { p with mstate := .active })).modBoot (fun b => { b with stage := 1, startAt := s.time })

/-! The core map (R70, R419). -/

/-- Logical core of a retired slot placed in a kitty slot; an empty kitty gives 0x3123 and ends boot in NO_SERVICE. -/
def State.placeCore (s : State) (c : Nat) : State :=
  match (List.range 72).find? (fun n => (s.slot n).state == .retired && (s.slot n).mfg == .enabled && (s.slot n).mfgLogical == c) with
  | none => s
  | some old => match s.chooseKitty old with
    | some n => (s.modSlot n (fun x => { x with state := .enabled, logical := c, fromKitty := true })).modSlot old (fun x => { x with logical := noCore })
    | none => (s.report { code := 0x3123, kind := .coreSlot, unit := old }).modBoot (fun b => { b with noService := true })

/-- The core map rebuilt from the fuses (R70). -/
def State.rebuildMap (s : State) : State :=
  (List.range 64).foldl State.placeCore { s with slots := s.slots.map (CoreSlot.fromFuses s.time) }

/-- An enabled core that fails the boot array test replaced, or 0x3123 with an empty kitty, which ends boot in NO_SERVICE (R419). -/
def State.bootReplace (s : State) (n : Nat) : State :=
  if (s.slot n).state ≠ .enabled then s
  else
    let s := s.doomSlot n 0x2122
    match s.chooseKitty n with
    | some k => s.moveCore n k
    | none => ((s.retireSlot n 0x2122).report { code := 0x3123, kind := .coreSlot, unit := n }).modBoot (fun b => { b with noService := true })

/-- The boot array test (R65, R419): bad kitty slots are retired, bad enabled ones replaced, and every core's feed is that of a boundary. -/
def State.arrayTest (s : State) (bad : List Nat) : State :=
  let s := (bad.filter (fun n => (s.slot n).state == .kitty)).foldl (fun s n => s.retireSlot n 0x2122) s
  let s := bad.foldl State.bootReplace s
  (List.range 64).foldl (fun s c => s.modRegs c (fun r => r.boundary false)) s

/-! The stages (R419). -/

/-- Ports that are not held by PERST# powered, and their training begun on the PORT_CLOCK reference (R319, R334, R419). -/
def State.startPorts (s : State) (clocks : Nat) : State :=
  [Port.A, Port.B].foldl (fun s p =>
    let s := s.modPort p (fun q => { q with refclkSel := bit clocks p.num })
    if (s.port p).perst then s else (s.modPow (fun w => w.setDoms [portDom p] .on)).trainPort p) s

/-- The rescue loader entered (R422, R423): the ports and M0 are powered, each port presents one PF. -/
def State.enterRescue (s : State) (cause clocks : Nat) : State :=
  let s := (s.startPorts clocks).modPow (fun w => w.setDoms [18, 32] .on)
  let s := [Port.A, Port.B].foldl (fun s p => s.modPort p (fun q => { q with seatMode := false, ready := q.link == .up })) s
  (s.modBoot (fun b => { b with stage := 0x0E, rescueCause := cause, rescueNext := false })).modGlob (fun g => { g with service := 4 })

/-- The image slot's image (R408): as many bytes as its header gives, at most 4 MiB. -/
def Board.image (b : Board) : Image :=
  let h := ImageHdr.ofBytes (memGet b.nvm 0 256)
  Image.ofBytes (memGet b.nvm 0 (min h.bytes 4194304))

/-- SETTINGS applied to the registers, with their OPEN masks (R413). -/
def State.applySettings (s : State) (l : List Setting) : State :=
  l.foldl (fun s e => match blockOf e.off with
    | some (b, o) => (s.putConfig b o (mergeBits (s.readBlk 7 b o) e.value e.mask)).modBoot (fun k => { k with opened := Tbl.set 0 e.off (BitVec.ofNat 64 e.open_) k.opened })
    | none => s) s

/-- Where the first owner of an HBM feature starts, as a byte address. -/
def ownerBase (l : List Owner) (feature : Nat) : Option Nat :=
  (l.find? (fun o => o.kind == 1 && o.feature == feature)).map (fun o => 4096 * o.first)

/-- Digests of TRUST from the `i`-th on. -/
def trustDigests (bs : List Nat) (i n : Nat) : List (List Nat) := (List.range n).map (fun j => (bs.drop (16 + 32 * (i + j))).take 32)

/-- PARAMS (R414) with the places that OWNERSHIP gives (R415). -/
def serveParams (v : Nat) (owners : List Owner) : ServeParams :=
  { chunkMax := fld v 48 16, genWaitMaxUs := 1000 * fld v 64 32, localMax := fld v 96 16, genSlots := fld v 112 16, drainMaxMs := fld v 128 32
    sessBase := ownerBase owners 4, listBase := ownerBase owners 5 }

/-- FEATURE of the eight timers as OWNERSHIP gives it (R415, R440). -/
def State.ownTimers (s : State) (l : List Owner) : State :=
  s.modGlob (fun g => { g with gts := (List.range 8).foldl (fun t n => Tbl.set {} n { feature := timerOwner l n } t) [] })

/-- CHECK passed: the image's sections take effect (R412–R415). A SETTINGS entry for a timer's FEATURE comes after OWNERSHIP's (log entry 34). -/
def State.applyImage (s : State) (x : Image) : State :=
  let s := ((s.ownTimers x.owners).applySettings x.settings).modPow (fun p => { p with capOn := p.capCode, energy := x.energy })
  let s := (List.range 48).foldl (fun s l => s.modLink l (fun k => { k with
    caps := (Config.linkCaps x.bytes l).1, reqCaps := (Config.linkCaps x.bytes l).2 })) s
  let (a, d, k) := Config.trustCounts (x.trust.take 16)
  let s := s.modSec (fun z => { z with
    fwSlot := (z.fwKey x.hdr.pubkey).getD 0, imageDigest := x.digest, imageSvn := x.hdr.svn
    anchors := trustDigests x.trust 0 a, deny := trustDigests x.trust a d
    opKeys := (trustDigests x.trust (a + d) k).zipIdx.foldl (fun t y => Tbl.set [] y.2 y.1 t) [] })
  let s := s.modBoot (fun b => { b with
    imageKind := x.hdr.kind, imageBytes := x.hdr.bytes, buildId := x.hdr.buildId, portClock := BitVec.ofNat 2 x.hdr.portClock
    commitSvn := x.hdr.commit, revoke := BitVec.ofNat 4 x.hdr.revoke, owners := x.owners, code := x.code, seeds := tableImages 4 x.tables, params := ofLeBytes x.params
    mode1 := Config.hasMode1 x.energy })
  s.modServe (fun v => { v with params := serveParams s.boot.params s.boot.owners })

/-- The stewards released (R419 FIRMWARE): their watchdogs start and the timers have their owners. A held L2 or L3 keeps what R379 says. -/
def State.startFirmware (s : State) : State :=
  let s := (s.setStage 0x0B).modSync (fun y => { y with kicks := (List.range 4).foldl (fun t n => Tbl.set 0 n s.time t) y.kicks })
  let s := s.modGlob (fun g => { g with gts := (List.range 8).foldl (fun t n =>
    let f := (Tbl.get {} n g.gts).feature
    Tbl.set {} n (if f = 0 then {} else { feature := f, periodUs := Config.timerPeriodUs f, start := s.time }) t) g.gts })
  if s.sec.debug < 2 ∧ s.sec.invaded = false then s else s.invade.modBoot (fun b => { b with noService := true })

/-- POWER, HBM and ZERO (R385, R419), then STEWARD_HOLD under a held L3 with BOOT_HOLD, else FIRMWARE. -/
def State.powerUp (s : State) (bad : List Nat) : State :=
  let groups := (List.range 6).filter (fun g => (List.range 8).any (fun k => s.ownedLink (8 * g + k)))
  let s := s.modPow (fun p => p.setDoms ([32] ++ hbmDoms ++ handDoms ++ groups.map (fun g => 24 + g)) .on)
  let s : State := { s with mem := [], integ := { s.integ with poison := [], poisonedSlots := [] }, sec := { s.sec.advance with zstate := 0 } }
  let s := s.arrayTest bad
  if s.sec.held && decide (s.sec.debug = 3) && s.sec.bootHold then s.setStage 0x0A else s.startFirmware

/-- COOLANT_WAIT while COOLANT_OK is low, then power (R419, R421). -/
def State.passCoolant (s : State) (bad : List Nat) : State :=
  if s.pow.coolantOk then s.powerUp bad else (s.setStage 0x06).modBoot (fun b => { b with badSlots := bad })

/-- VERIFY and CHECK (R417, R418, R422). A requested loader is entered once the header has been read. -/
def State.checkImage (s : State) (bad : List Nat) : State :=
  let x := s.board.image
  let clocks := if x.hdr.magic = 0x4C4F5A45 then x.hdr.portClock else 3
  if s.boot.rescueNext then s.enterRescue 3 clocks
  else if !s.sec.verifies x then (s.report { code := 0x3002 }).enterRescue 1 clocks
  else match x.conflict s with
    | some d => (s.report { code := 0x3003, detail := d }).enterRescue 2 clocks
    | none => ((s.startPorts clocks).applyImage x).passCoolant bad

/-- Whether the rebuilt DIK is the one that the device certificate names (R409); a module without identity has none to compare. -/
def Sec.dikMatches (k : Sec) : Bool := k.lifecycle == 0 || deviceSubject == dikPublic

/-- The boot from FUSES on (R419): SCRAPPED halts, an NVM that does not answer and an unfit image lead to the loader, an unfit identity halts. -/
def State.runBoot (s : State) (f : BootFacts) : State :=
  let s := s.atFuses
  if s.sec.lifecycle = 3 then s.setStage 0x0F
  else
  let s := s.rebuildMap
  if !f.nvmAnswers then (s.report { code := 0x3002 }).enterRescue 4 3
  else if !s.sec.dikMatches then (s.report { code := 0x3B31 }).setStage 0x0F
  else s.checkImage (f.badSlots.map Fin.val)

/-- RESET_IN_DEASSERT (R406, R419, R455): boot starts at FUSES; before the power-on reset has ended it waits for its end. -/
def execResetInDeassert (f : BootFacts) (s : State) : Host.Outcome State Fault Refusal :=
  let t : State := { s with board := { s.board with resetIn := false } }
  if !s.board.aux then .next t
  else if s.pow.mstate = .tripped then .next t
  else if s.board.resetIn || s.boot.stage == 1 then .next (t.runBoot f)
  else .next s

/-- RESET_IN_ASSERT (R406, R452): `ns` is how long the pin was low. -/
def execResetInAssert (ns : Nat) (s : State) : Host.Outcome State Fault Refusal :=
  if !s.board.aux then .next { s with board := { s.board with resetIn := true } }
  else if ns < 1000 then .next s
  else if 10000 ≤ ns || Config.shortPulseResets ns then .next s.moduleReset
  else .next s

/-- COOLANT_OK_RISE (R358, R421): a short low is counted; COOLANT_WAIT ends. -/
def execCoolantOkRise (s : State) : Host.Outcome State Fault Refusal :=
  if s.pow.coolantOk then .next s
  else
    let short := match s.pow.coolantLowAt with | some t => decide (s.time < t + 10000) | none => false
    let s := s.modPow (fun p => { p with
      coolantOk := true, coolantLowAt := none, glitches := if short && s.board.aux then satAdd 16 p.glitches 1 else p.glitches })
    .next (if s.boot.stage = 6 then s.powerUp s.boot.badSlots else s)

/-- Fuses blown at READY (R374, R420): the SVN's, and the revoke fuses of other slots than the image's own. -/
def Sec.blow (k : Sec) (commit : Bool) (revoke : BitVec 4) : Sec :=
  { k with
    svnFuse := if commit then max k.svnFuse k.imageSvn else k.svnFuse
    revoked := k.revoked ||| (revoke &&& ~~~ (BitVec.ofNat 4 (2 ^ k.fwSlot))) }

/-- Ports whose link is up made ready (R334, R420). -/
def State.readyPorts (s : State) : State :=
  [Port.A, Port.B].foldl (fun s p => s.modPort p (fun q => { q with ready := q.link == .up })) s

/-- Owned links with ENABLE 1 leave DISABLED (R285, R297, R420). -/
def State.freeLinks (s : State) : State :=
  (List.range 48).foldl (fun s l =>
    if (s.link l).enable && s.ownedLink l && (s.link l).state == .disabled then s.modLink l (fun k => { k with state := .absent }) else s) s

/-- Whether boot ends in READY (R379, R420). -/
def State.mayServe (s : State) : Bool :=
  decide (s.sec.lifecycle = 1 ∧ s.sec.debug ≤ 1) && !s.boot.noService && !s.sec.invaded && !s.glob.fatal

/-- FIRMWARE_READY (R420). -/
def execFirmwareReady (s : State) : Host.Outcome State Fault Refusal :=
  if s.boot.stage ≠ 0x0B ∨ (s.glob.fatal = true ∧ s.boot.noService = false) then .next s
  else
    let s := s.modBoot (fun b => { b with bootMs := (s.time - b.startAt) / 100000 })
    let s := s.readyPorts
    if s.mayServe then
      let s := (s.setStage 0x0C).modGlob (fun g => { g with service := 1, modReady := true })
      let s := s.modSec (fun k => k.blow s.boot.commitSvn s.boot.revoke)
      .next ((s.modPow (fun p => { p with mstate := .active, lastActivity := s.time })).freeLinks)
    else .next ((s.setStage 0x0D).modGlob (fun g => { g with service := 2 }))

/-! The rescue loader (R422–R425). -/

/-- RESCUE_NEXT (R422). -/
def State.askRescue (s : State) : State := s.modBoot (fun b => { b with rescueNext := true })

/-- A refusal of the loader (R424): reported, kept in the boot block; the loader waits on. -/
def State.refuseRescue (s : State) (code detail : Nat) : State :=
  ((s.report { code := code, detail := detail }).modGlob (fun g => { g with service := 4 })).modBoot (fun b => { b with
    rstatus := 4, rescueErr := code, rescueDetail := detail, staged := [] })

/-- GO of the loader (R424) by a port: the image is read from its host, checked, and then written to the NVM. -/
def State.rescueGo (s : State) (p : Port) : State :=
  if s.glob.service ≠ 4 ∨ (1 ≤ s.boot.rstatus ∧ s.boot.rstatus ≤ 3) then s
  else if ((s.port p).func 0).bme = false ∨ (s.port p).link ≠ .up then s.refuseRescue 0x3002 0
  else
    let x := Image.ofBytes (s.hostGet p s.boot.rescueSrc.toNat s.boot.rescueBytes.toNat)
    if !s.sec.verifies x then s.refuseRescue 0x3002 0
    else match x.conflict s with
      | some d => s.refuseRescue 0x3003 d
      | none => s.modBoot (fun b => { b with rstatus := 3, staged := x.bytes, rescuePort := p })

/-- PCIE_COMPLETION_TIMEOUT (R318): the read's owner ends with 0x2604. In the loader it is the read of GO that fails, before anything is written
(R424, log entry 34). -/
def execPcieCompletionTimeout (p : Port) (rid : Nat) (s : State) : Host.Outcome State Fault Refusal :=
  if s.glob.service = 4 then .next (if s.boot.rstatus = 3 ∧ s.boot.rescuePort = p then s.refuseRescue 0x3002 0 else s)
  else match s.req rid with
  | some r =>
    if !s.alive || r.port != p then .next s
    else if r.admitted then .next (s.endSoon r 0x2604) else .next (s.refuseReq r 0x2604)
  | none => .next s

/-- RESCUE_INSTALL_DONE (R425): whether the digest read back from the slot is right. -/
def execRescueInstallDone (ok : Bool) (s : State) : Host.Outcome State Fault Refusal :=
  if s.glob.service ≠ 4 ∨ s.boot.rstatus ≠ 3 then .next s
  else if ok then
    .next ({ s with board := { s.board with nvm := memPut [] 0 s.boot.staged } }.modBoot (fun b => { b with rstatus := 5, staged := [] }))
  else .next ({ s with board := { s.board with nvm := [] } }.refuseRescue 0x3002 0)

/-- LOADER_REBOOT (R406, R425): as an assertion of RESET_IN# followed by a deassertion. -/
def execLoaderReboot (s : State) : Host.Outcome State Fault Refusal :=
  if s.glob.service ≠ 4 ∨ s.boot.rstatus ≠ 5 then .next s
  else
    let t := s.moduleReset
    .next { t.atFuses with board := { t.board with resetIn := false } }

end Sys2Proof.Machine
end

