-- ==== Sys2Proof/Machine/ControlWords.lean ====
section
/-! DEFINITION. Control words (R94, R95, R98): NOP, END, LOOP, SETC, LDCX. -/

namespace Sys2Proof.Machine

/-- NOP (R94). -/
def execNop (c : Fin 64) (w : Word) (s : State) : Host.Outcome State Fault Refusal :=
  coreWord (wIs 0 0 w.toNat) w.toNat (s.runWord c w.toNat none {} true id)

/-- END (R94, R101): the sequencer issues it and stops. END inside a body is 0x2134 (R95), END with plan tiles left 0x2204 (R126). -/
def execEndPart (c : Fin 64) (w : Word) (s : State) : Host.Outcome State Fault Refusal :=
  let r := (s.core c).run
  let chk := firstFault [(!r.loops.isEmpty, 0x2134), (decide (r.cursor < s.sync.seq.ntiles), 0x2204)]
  coreWord (wIs 0 1 w.toNat) w.toNat
    (s.runWord c w.toNat chk {} true (fun s => s.modRun c (fun r => { CoreRun.issued w.toNat r with stopped := some (0, 0) })))

/-- The loop level that a LOOP word at the sequencer's position opens (R94, R95). -/
def loopOf (r : CoreRun) (w : Nat) : Loop :=
  { first := r.pc + 1, last := r.pc + fld w 36 8 + 1, count := fld w 16 20, i := 0, sa := signed 20 (fld w 44 20),
    sp := signed 20 (fld w 64 20), so := signed 20 (fld w 84 20) }

/-- LOOP (R95): depth 4 and a body that outlasts an enclosing one are 0x2134. -/
def execLoop (c : Fin 64) (w : Word) (s : State) : Host.Outcome State Fault Refusal :=
  let r := (s.core c).run
  let l := loopOf r w.toNat
  let chk := firstFault [(decide (4 ≤ r.loops.length), 0x2134),
    (match r.loops with | o :: _ => decide (o.last < l.last) | [] => false, 0x2134)]
  coreWord (wIs 0 2 w.toNat) w.toNat
    (s.runWord c w.toNat chk {} true (fun s => s.modRun c (fun r => { r with loops := l :: r.loops })))

/-- SETC (R94): CIDX 16–31 is 0x2130. -/
def execSetc (c : Fin 64) (w : Word) (s : State) : Host.Outcome State Fault Refusal :=
  let chk := firstFault [(decide (16 ≤ fld w.toNat 11 5), 0x2130)]
  coreWord (wIs 0 3 w.toNat) w.toNat
    (s.runWord c w.toNat chk {} true (fun s => s.modRun c (fun r =>
      { r with consts := Tbl.set 0 (fld w.toNat 11 5) (BitVec.ofNat 32 (fld w.toNat 16 32)) r.consts })))

/-- LDCX (R94): the 64-byte image at slot A becomes the context. -/
def execLdcx (c : Fin 64) (w : Word) (s : State) : Host.Outcome State Fault Refusal :=
  let r := (s.core c).run
  let base := 64 * r.eff w.toNat .a (fld w.toNat 16 17)
  let foot : Footprint := { reads := [⟨base, 64⟩] }
  coreWord (wIs 0 4 w.toNat) w.toNat
    (s.runWord c w.toNat (firstFault [(!foot.inWindow, 0x2132)]) foot true (fun s => s.modRun c (fun r =>
      { r with ctxs := Tbl.set 0 (fld w.toNat 11 4) (BitVec.ofNat 512 (ofLeBytes (memGet s.mem (sramAddr c base.toNat) 64))) r.ctxs })))

end Sys2Proof.Machine
end

