-- ==== Sys2Proof/Machine/Registers.lean ====
section
/-! DEFINITION. Register writes (R10, R11, R432–R438, R446): who reaches a register, which writes are refused, and what the others do; the commands
that are writes of one register; the latch of R433. -/

namespace Sys2Proof.Machine

/-! Requesters. -/

/-- Whether a requester reaches the register space: a port that is ready (R334), a steward that runs (R419), debug at L2 (R379). -/
def State.reaches (s : State) : Requester → Bool
  | .port p => s.powered && (s.port p).link == .up && (s.port p).ready && !((s.port p).func 0).d3hot
  | .steward _ => s.powered && decide (0x0B ≤ s.boot.stage ∧ s.boot.stage ≤ 0x0D)
  | .debug => s.board.aux && decide (2 ≤ s.sec.debug)

/-- Whether a requester may write the blocks of port `p` (R322, R438). -/
def State.mayOwn (s : State) (r : Requester) (p : Port) : Bool :=
  match r with
  | .port q => q == p
  | .steward _ => false
  | .debug => s.boot.iswPorts.getLsbD p.num

/-- Whether a requester may change ISW fields (R426, R438). -/
def State.mayIsw (s : State) (r : Requester) : Bool :=
  match r with
  | .port p => s.boot.iswPorts.getLsbD p.num
  | .steward _ => false
  | .debug => s.boot.iswPorts != 0

/-- The port that a write through the security block or the boot block counts for (R376, R424, R438). -/
def State.asPort (s : State) : Requester → Option Port
  | .port p => some p
  | .steward _ => none
  | .debug => if s.boot.iswPorts.getLsbD 0 then some .A else if s.boot.iswPorts.getLsbD 1 then some .B else none

/-! Refusals (R435). -/

/-- The port whose register an offset of a port-specific block names (R322). -/
def ownPort (b : Blk) (o : Nat) : Option Port :=
  match b with
  | .intake p => if o % 0x40 < 0x20 then some p else none
  | .port p => if o < 0x028 ∨ (0x100 ≤ o ∧ o < 0x900) ∨ (0x1040 ≤ o ∧ o < 0x1400 ∧ o % 0x40 < 0x10) then some p else none
  | _ => none

/-- A value that a register's own rule refuses or whose field does not hold it (R324, R329, R336, R376, R379, R390, R422, R429). -/
def State.valueRefused (s : State) (b : Blk) (o v : Nat) : Bool :=
  match b with
  | .sec => (o == 0x038 && v % 4096 != 0) || (o == 0x040 && bit v 1 && !s.sec.zeroiseOpen)
  | .boot => (o == 0x028 && s.glob.service == 4 && decide (4194304 < v % 2 ^ 32)) || (o == 0x030 && bit v 1 && !s.boot.rescueOpen)
  | .link l => o == 0x010 && bit v 0 && !(s.link l).enable && s.sec.invaded
  | .intake p => o % 0x40 == 8 && !(s.ring p (o / 0x40)).enable && v % 128 != 0
  | .port _ => (decide (0x1040 ≤ o ∧ o < 0x1400) && o % 0x40 == 0 && decide (49152 < fld v 48 16))
      || (decide (0x100 ≤ o ∧ o < 0x900) && o % 32 == 8 && decide (fld v 0 35 = 0 ∨ 2 ^ 34 < fld v 0 35))
  | _ => false

/-- ISW bits that a write changes. -/
def State.iswChange (s : State) (b : Blk) (o v : Nat) : Nat := (s.readBlk 7 b o ^^^ v) &&& iswMask b o

/-- REASON and code of the first reason of R435 that applies to a write. -/
def State.writeRefused (s : State) (r : Requester) (b : Blk) (o v : Nat) : Option (Nat × Nat) :=
  let chg := s.iswChange b o v
  let opened := (Tbl.get 0 (b.base + o) s.boot.opened).toNat
  let foreign := match ownPort b o with | some p => !s.mayOwn r p | none => false
  if foreign then some (1, 0x0910)
  else if chg &&& opened ≠ chg then some (2, 0x0010)
  else if chg ≠ 0 ∧ s.mayIsw r = false then some (4, 0x0010)
  else if (chg ≠ 0 ∧ fieldsLegal b o (mergeBits (s.readBlk 7 b o) v (iswMask b o)) = false) ∨ s.valueRefused b o v = true then some (3, 0x0010)
  else if b = .power ∧ o = 0 ∧ fld v 8 2 = 1 ∧ s.pow.attrMode ≠ 1 ∧ s.boot.mode1 = false then some (5, 0x0004)
  else none

/-- REG_REFUSE: the first refusal since VALID was cleared (R440). -/
def State.noteRefusal (s : State) (r : Requester) (reason off : Nat) : State :=
  s.modGlob (fun g => { g with regRefuse := match g.regRefuse with
    | some x => some x
    | none => some { requester := r.code, reason := reason, offset := off } })

/-- A refused write (R322, R435): recorded, counted and reported. -/
def State.refuseWrite (s : State) (r : Requester) (b : Blk) (o reason code : Nat) : State :=
  let off := b.base + o
  let s := (s.noteRefusal r reason off).modGlob (fun g => { g with refused := satAdd 32 g.refused 1 })
  let s := match ownPort b o, reason with
    | some p, 1 => s.modPort p (fun q => { q with foreignWr := q.foreignWr + 1 })
    | _, _ => s
  s.report { code := code, addr := regSpace + off, ports := match s.asPort r with | some p => 2 ^ p.num | none => 3 }

/-! Effects. -/

/-- RW1C bits of a clamp record (R279, R281). -/
def ClampRec.clear (c : ClampRec) (v : Nat) : ClampRec :=
  { c with valid := c.valid && !bit v 63, loAny := c.loAny && !bit v 1, hiAny := c.hiAny && !bit v 0 }

/-- RW1C VALID of a fault record (R104, R159, R177). -/
def FaultRec.clear (f : FaultRec) (v : Nat) : FaultRec := { f with valid := f.valid && !bit v 63 }

/-- Writes of a core block's RW1C and WO fields at an ARRAY cycle (R47, R48, R104, R132, R159, R177, R279). -/
def CoreRegs.write (r : CoreRegs) (cycles o v : Nat) : CoreRegs :=
  if o = 0 then { r with numStatus := r.numStatus &&& ~~~ (BitVec.ofNat 32 v) }
  else if o % 8 = 0 ∧ 8 ≤ o ∧ o < 0x028 then
    let x := r.inv ((o - 8) / 8)
    r.setInv ((o - 8) / 8) { x with valid := x.valid && !bit v 63 }
  else if o = 0x060 then { r with seqFault := r.seqFault.clear v }
  else if o = 0x088 then { r with sfuFault := r.sfuFault.clear v }
  else if o = 0x0B0 then { r with decFault := r.decFault.clear v }
  else if o = 0x0C0 then { r with pegStatus := r.pegStatus.clear v }
  else if o = 0x150 then (if bit v 0 then { r with stall := [], clearedAt := cycles } else r)
  else if o = 0x158 then { r with streamFlags := r.streamFlags &&& ~~~ (BitVec.ofNat 6 v) }
  else r

/-- A link's control register (R314, R343): ENABLE 1 powers the link's group first, and a group whose eight links are DISABLED is OFF. A module
that boots without service, or is not in PRODUCTION, keeps its links DISABLED (R377, R420). -/
def State.writeLink (s : State) (l v : Nat) : State :=
  let d := 24 + l / 8
  if s.glob.service = 2 ∨ s.sec.lifecycle ≠ 1 then s.modLink l (fun k => { k with enable := bit v 0 })
  else if bit v 0 then
    (if s.pow.dom d = .off then s.modPow (fun p => p.setDoms [d] .on) else s).linkControl l v
  else
    let s := s.linkControl l v
    if (List.range 8).all (fun k => (s.link (8 * (l / 8) + k)).state == .disabled) then s.modPow (fun p => p.setDoms [d] .off) else s

/-- The security block (R376, R384, R390). -/
def State.writeSec (s : State) (r : Requester) (o v : Nat) : State :=
  if 0x018 ≤ o ∧ o < 0x038 then s.modSec (fun k => { k with attNonce := Tbl.set 0 ((o - 0x18) / 8) (BitVec.ofNat 64 v) k.attNonce })
  else if o = 0x038 then s.modSec (fun k => { k with attDest := BitVec.ofNat 48 v })
  else if o = 0x040 then
    let s := match s.asPort r with | some p => if bit v 0 then s.attest p else s | none => s
    if bit v 1 then s.zeroise else s
  else s

/-- The boot block (R422, R424, R429): RESCUE_SRC and RESCUE_BYTES in the loader only. -/
def State.writeBoot (s : State) (r : Requester) (o v : Nat) : State :=
  if o = 0x020 ∧ s.glob.service = 4 then s.modBoot (fun b => { b with rescueSrc := BitVec.ofNat 64 (v / 4096 * 4096) })
  else if o = 0x028 ∧ s.glob.service = 4 then s.modBoot (fun b => { b with rescueBytes := BitVec.ofNat 32 v })
  else if o = 0x030 then
    let s := if bit v 1 then s.askRescue else s
    match s.asPort r with | some p => if bit v 0 then s.rescueGo p else s | none => s
  else s

/-- KICK (R282): only the stewards' writes act. -/
def State.writeKick (s : State) (r : Requester) (v : Nat) : State :=
  match r with
  | .steward _ => s.modSync (fun y => { y with kicks := (maskList 4 v).foldl (fun t n => Tbl.set 0 n s.time t) y.kicks })
  | _ => s

/-- A register of an intake block (R221). -/
def State.writeIntake (s : State) (p : Port) (n i v : Nat) : State :=
  match i with
  | 0 => s.writeRing0 p n v
  | 1 => s.writeRing1 p n v
  | 2 => s.writeRing2 p n v
  | _ => s

/-- A register of a racking window (R324). -/
def State.writeWindow (s : State) (p : Port) (w i v : Nat) : State :=
  match i with
  | 0 => s.writeWin0 p w v
  | 1 => s.writeWin1 p w v
  | 2 => s.writeWin2 p w v
  | _ => s

/-- What a write that is not refused does to a register's fields (R434). -/
def State.applyWrite (s : State) (r : Requester) (b : Blk) (o v : Nat) : State :=
  match b with
  | .glob => if o = 0x050 ∧ bit v 63 = true then s.modGlob (fun g => { g with regRefuse := none }) else s
  | .sec => s.writeSec r o v
  | .boot => s.writeBoot r o v
  | .coll => if o = 0x088 then s.modSync (fun y => { y with collStatus := y.collStatus.clear v }) else s
  | .link l => if o = 0x010 then s.writeLink l v else s
  | .intake p => if o % 0x40 < 0x20 then s.writeIntake p (o / 0x40) (o % 0x40 / 8) v else s
  | .port p =>
    if 0x100 ≤ o ∧ o < 0x900 then s.writeWindow p ((o - 0x100) / 32) (o % 32 / 8) v
    else if 0x1040 ≤ o ∧ o < 0x1400 ∧ o % 0x40 = 0 then s.writeSeat p ((o - 0x1000) / 0x40) v
    else s
  | .watchdog =>
    if o = 0x018 then s.writeKick r v
    else if o = 0 then s.putConfig b o (mergeBits (s.readBlk 7 b o) v (iswMask b o))
    else s
  | .core c =>
    if o = 0x040 then s.putConfig b o (mergeBits (s.readBlk 7 b o) v (iswMask b o)) else s.modRegs c (fun k => k.write s.pow.arrayCycles o v)
  | .page _ | .lglob | .power => if iswMask b o = 0 then s else s.putConfig b o (mergeBits (s.readBlk 7 b o) v (iswMask b o))
  | .coreMap | .seq | .vine | .maint => s

/-- An access to a domain that is low wakes that domain alone (R388, R437). -/
def State.touchDom (s : State) (d : Nat) : State :=
  if s.pow.dom d = .low ∨ s.pow.touched.any (fun kv => kv.1 == d) = true then
    s.modPow (fun p => { (p.setDoms [d] .on) with touched := Tbl.set 0 d s.time p.touched })
  else s

/-- An access to a block (R437). -/
def State.touch (s : State) (b : Blk) : State := match s.blkDom b with | some d => s.touchDom d | none => s

/-- Whether a block takes writes now: the loader shows some blocks only (R423), a core that is being moved ignores them (R445), and in STANDBY
and TRIPPED only PD33 is there (R388). -/
def State.takesWrites (s : State) (b : Blk) (o : Nat) : Bool :=
  !(s.glob.service == 4 && !loaderShows b o) && (match b with | .core c => !s.movingCore c | _ => true) && !(s.dark && !b.pd33)

/-- An 8-byte aligned write of a requester (R431, R434, R435). -/
def State.regWrite (s : State) (r : Requester) (off v : Nat) : State :=
  if !s.reaches r then s
  else match blockOf off with
    | none => s
    | some (b, o) =>
      if !s.takesWrites b o then s
      else
        let s := s.touch b
        match s.writeRefused r b o v with
        | some (reason, code) => s.refuseWrite r b o reason code
        | none => s.applyWrite r b o v

/-- The BAR0 offset that an offset of seat `n`'s VF BAR0 names (R323), if it may be written there. -/
def seatOffset (p : Port) (n off : Nat) : Option Nat :=
  if off < 0x20 then some ((Blk.intake p).base + 0x40 * n + off)
  else if 0x100 ≤ off ∧ off < 0x180 then some ((Blk.port p).base + 0x100 + 32 * (4 * n) + (off - 0x100))
  else none

/-- Eight bytes read from seat `n`'s VF BAR0 (R323): its ring, its windows, the two seat registers, its MSI-X table and PBA; 0 elsewhere. -/
def State.readSeat (s : State) (p : Port) (n off : Nat) : Nat :=
  if off < 0x40 then s.readIntake p (0x40 * n + off)
  else if 0x100 ≤ off ∧ off < 0x180 then s.readPort p (0x100 + 32 * (4 * n) + (off - 0x100))
  else if 0x200 ≤ off ∧ off < 0x210 then s.readPort p (0x1000 + 0x40 * n + (off - 0x200))
  else if 0x8000 ≤ off ∧ off < 0x8040 then ((s.port p).func n).readVectors (off - 0x8000)
  else if off = 0xC000 then ((s.port p).func n).pbaBits
  else 0

/-- An access of a size or at a place that R432 does not serve: counted in BAD_SIZE, and REG_REFUSE holds the first (R440). -/
def State.badSized (s : State) (r : Requester) (off : Nat) : State :=
  (s.noteRefusal r 6 off).modGlob (fun g => { g with badSize := satAdd 32 g.badSize 1 })

/-- A write of any size (R432): other than 8 bytes aligned it is ignored and counted. -/
def State.sizedWrite (s : State) (r : Requester) (off size v : Nat) : State :=
  if !s.reaches r then s
  else if size ≠ 8 ∨ off % 8 ≠ 0 then s.badSized r off
  else s.regWrite r off v

/-- REGISTER_WRITE (R434): through BAR0 or BAR4, by a seat through its VF BAR0 (R323), or to an MSI-X capability (R330). -/
def execRegisterWrite (r : Requester) (t : RegTarget) (size : Nat) (v : BitVec 64) (s : State) : Host.Outcome State Fault Refusal :=
  match t with
  | .bar0 off => .next (s.sizedWrite r off.toNat size v.toNat)
  | .seat n off => match r with
    | .port p =>
      if !(s.port p).seatMode || n.val == 0 || !(s.port p).serves n || ((s.port p).func n).d3hot then .next s
      else match seatOffset p n off.toNat with
        | some a => .next (s.sizedWrite r a size v.toNat)
        | none =>
          if 0x8000 ≤ off.toNat ∧ off.toNat < 0x8040 then .next (s.writeVectors p n (off.toNat - 0x8000) size v.toNat) else .next s
    | _ => .fault .illFormed
  | .bar4 off => match r with
    | .port p => if !(s.port p).serves 0 || ((s.port p).func 0).d3hot then .next s else .next (s.writeVectors p 0 off.toNat size v.toNat)
    | _ => .fault .illFormed
  | .msixControl n => match r with
    | .port p => if (s.port p).configures n then .next (s.writeMsix p n v.toNat) else .next s
    | _ => .fault .illFormed

/-- KICK (R282). -/
def execKick (r : Requester) (v : BitVec 64) (s : State) : Host.Outcome State Fault Refusal := .next (s.regWrite r (Blk.watchdog.base + 0x018) v.toNat)

/-- CTR_CLEAR (R132). -/
def execCtrClear (r : Requester) (c : Fin 64) (v : BitVec 64) (s : State) : Host.Outcome State Fault Refusal :=
  .next (s.regWrite r ((Blk.core c).base + 0x150) v.toNat)

/-- A write of link `l`'s control register (R314) whose value fits its command. -/
def linkCmd (fits : Bool) (r : Requester) (l : Nat) (v : BitVec 64) (s : State) : Host.Outcome State Fault Refusal :=
  if fits then .next (s.regWrite r ((Blk.link l).base + 0x010) v.toNat) else .fault .illFormed

/-- LINK_ENABLE (R314). -/
def execLinkEnable (r : Requester) (l : Fin 48) (v : BitVec 64) (s : State) : Host.Outcome State Fault Refusal := linkCmd (bit v.toNat 0) r l v s

/-- LINK_DISABLE (R314). -/
def execLinkDisable (r : Requester) (l : Fin 48) (v : BitVec 64) (s : State) : Host.Outcome State Fault Refusal := linkCmd (!bit v.toNat 0) r l v s

/-- RETRAIN (R314). -/
def execRetrain (r : Requester) (l : Fin 48) (v : BitVec 64) (s : State) : Host.Outcome State Fault Refusal := linkCmd (bit v.toNat 2) r l v s

/-- QUAR_RELEASE (R314). -/
def execQuarRelease (r : Requester) (l : Fin 48) (v : BitVec 64) (s : State) : Host.Outcome State Fault Refusal := linkCmd (bit v.toNat 1) r l v s

/-- RACKING_WINDOW_ENABLE (R324, R325). -/
def execRackingWindowEnable (r : Requester) (p : Port) (win : Fin 64) (v : BitVec 64) (s : State) : Host.Outcome State Fault Refusal :=
  if bit v.toNat 0 then .next (s.regWrite r ((Blk.port p).base + 0x100 + 32 * win) v.toNat) else .fault .illFormed

/-- RING_ENABLE (R221). -/
def execRingEnable (r : Requester) (p : Port) (n : Fin 16) (v : BitVec 64) (s : State) : Host.Outcome State Fault Refusal :=
  if bit v.toNat 0 then .next (s.regWrite r ((Blk.intake p).base + 0x40 * n) v.toNat) else .fault .illFormed

/-- RING_DISABLE (R221). -/
def execRingDisable (r : Requester) (p : Port) (n : Fin 16) (v : BitVec 64) (s : State) : Host.Outcome State Fault Refusal :=
  if bit v.toNat 0 then .fault .illFormed else .next (s.regWrite r ((Blk.intake p).base + 0x40 * n) v.toNat)

/-- CQ_HEAD_WRITE (R329). -/
def execCqHeadWrite (r : Requester) (p : Port) (n : Fin 16) (v : BitVec 64) (s : State) : Host.Outcome State Fault Refusal :=
  .next (s.regWrite r ((Blk.intake p).base + 0x40 * n + 0x10) v.toNat)

/-- ZEROISE (R384, R390). -/
def execZeroise (r : Requester) (v : BitVec 64) (s : State) : Host.Outcome State Fault Refusal :=
  if bit v.toNat 1 then .next (s.regWrite r (Blk.sec.base + 0x040) v.toNat) else .fault .illFormed

/-- ATTESTATION_GO (R376, R390). -/
def execAttestationGo (r : Requester) (v : BitVec 64) (s : State) : Host.Outcome State Fault Refusal :=
  if bit v.toNat 0 then .next (s.regWrite r (Blk.sec.base + 0x040) v.toNat) else .fault .illFormed

/-- RESCUE_NEXT (R422, R429). -/
def execRescueNext (r : Requester) (v : BitVec 64) (s : State) : Host.Outcome State Fault Refusal :=
  if bit v.toNat 1 then .next (s.regWrite r (Blk.boot.base + 0x030) v.toNat) else .fault .illFormed

/-- RESCUE_GO (R424, R429): `host` is what the host has put in its memory. -/
def execRescueGo (r : Requester) (v : BitVec 64) (host : Cells) (s : State) : Host.Outcome State Fault Refusal :=
  if bit v.toNat 0 then
    let s := match r with | .port p => s.hostStore p host | _ => s
    .next (s.regWrite r (Blk.boot.base + 0x030) v.toNat)
  else .fault .illFormed

/-- Whether a requester reads registers: debug from L1 on (R379). -/
def State.reads (s : State) : Requester → Bool
  | .debug => s.board.aux && decide (1 ≤ s.sec.debug)
  | r => s.reaches r

/-- LOCAL_TIME_LOW_READ (R433): debug latches nothing (R438). -/
def execLocalTimeLowRead (r : Requester) (s : State) : Host.Outcome State Fault Refusal :=
  if !s.reads r || s.glob.service == 4 then .next s
  else
    let s := match r with
      | .debug => s
      | _ => s.modGlob (fun g => { g with timeHi := Tbl.set 0 r.key (s.time / 2 ^ 32 % 2 ^ 32) g.timeHi })
    .next (s.emit (.readData r (s.time % 2 ^ 32)))

end Sys2Proof.Machine
end

