-- ==== Sys2Proof/Machine/Tap.lean ====
section
/-! DEFINITION. The TAP's accesses and boundary scan (R379, R380, R388). -/

namespace Sys2Proof.Machine

/-! DBG_ACCESS (R379, R388). -/

/-- A device address as DBG_ACCESS sees it. -/
inductive DbgPlace where
  | reg (off : Nat)
  | mem (dom : Nat)
  | peg
  | host
  | none
deriving DecidableEq, Repr

/-- Where a debug access goes, with the domain of a memory. -/
def State.dbgPlace (s : State) (a : Nat) : DbgPlace :=
  match region a with
  | .regs off => .reg off
  | .hbm x => .mem (18 + x / stackBytes)
  | .reserved x => .mem (18 + x / stackBytes)
  | .sram c _ => if 72 ≤ s.slotOf c then .none else .mem (s.handOf c)
  | .peg _ => .peg
  | .host _ _ => .host
  | .unmapped => .none

/-- Whether an access is within the rights of the level (R379); memory only while no zeroisation runs or is interrupted (R384, R385), and in
the rescue loader no path reads M0 (R423). -/
def State.dbgMay (s : State) (a : Nat) (write : Bool) : Bool :=
  match s.dbgPlace a with
  | .reg _ => decide ((if write then 2 else 1) ≤ s.sec.debug)
  | .mem _ | .peg | .none => decide (2 ≤ s.sec.debug ∧ s.sec.zstate ≠ 1 ∧ (s.sec.zstate ≠ 3 ∨ s.dark = true))
      && !(s.glob.service == 4 && !write && s.dbgPlace a == .mem 18)
  | .host => false

/-- DOMAIN_OFF of DBG_STATUS (R388, R389). -/
def State.setDomainOff (s : State) (b : Bool) : State := s.modSec (fun k => { k with domainOff := b })

/-- Whether the place of an access has no power: in STANDBY and TRIPPED all but PD33, in the rescue loader all memory but M0 (R388, R389, R423). -/
def State.dbgOff (s : State) (a : Nat) : Bool :=
  match s.dbgPlace a with
  | .reg off => s.dark && (match blockOf off with | some (b, _) => !b.pd33 | none => false)
  | .mem d => s.dark || (s.glob.service == 4 && d != 18)
  | .peg => s.dark
  | .host | .none => false

/-- The low domain that an access wakes (R388). -/
def State.dbgTouch (s : State) (a : Nat) : State :=
  match s.dbgPlace a with
  | .reg off => (match blockOf off with | some (b, _) => s.touch b | none => s)
  | .mem d => s.touchDom d
  | _ => s

/-- The 8 bytes of memory from an address on. After zeroisation they are what has been written since. -/
def State.dbgBytes (s : State) (a : Nat) : List Nat :=
  match canonPieces a 8 with
  | some ps => ps.flatMap (fun x => if s.sec.zstate = 2 then memGet s.mem x.1 x.2 else s.devBytes x.1 x.2)
  | none => List.replicate 8 0

/-- The value that a debug read returns (R432, R438): it has no side effect. -/
def State.dbgRead (s : State) (a : Nat) : Nat :=
  match s.dbgPlace a with
  | .reg off => if off % 8 = 0 then s.readReg (Requester.debug).key off else 0
  | .mem _ => ofLeBytes (s.dbgBytes a)
  | .peg => (match pegAt a with | some (h, p) => (s.peg h p).bits | none => 0)
  | .host | .none => 0

/-- A debug write (R379, R438). At a peg board it is the SET or ADD that its bits spell, as a steward's (R260). -/
def State.dbgWrite (s : State) (a v : Nat) : State :=
  match s.dbgPlace a with
  | .reg off => s.sizedWrite .debug off 8 v
  | .mem _ => (match canonPieces a 8 with | some ps => s.putPieces ps (leBytes 8 v) none | none => s)
  | .peg => s.pegAccess 64 8 a v { code := 0, addr := a }
  | .host | .none => s

/-- DBG_ACCESS (R379, R388). -/
def execDbgAccess (x : DbgAccess) (s : State) : Host.Outcome State Fault Refusal :=
  let (a, w) := match x with | .read a => (a.toNat, false) | .write a _ => (a.toNat, true)
  .next (s.tap 0x13 (s.unscrapped && decide (1 ≤ s.sec.debug) && s.dbgMay a w) (fun s =>
    if s.dbgOff a then
      let s := s.setDomainOff true
      if w then s else s.emit (.tdo 0 64)
    else
      let s := (s.setDomainOff false).dbgTouch a
      match x with
      | .read _ => s.emit (.tdo (s.dbgRead a) 64)
      | .write _ d => s.dbgWrite a d.toNat))

/-- Whether a chain scans (R388): one of PD33 always, one of another domain while it has power and the debugger has stopped its clocks. -/
def State.scans (s : State) (chain : Nat) : Bool :=
  Config.scanDomain chain == 33 || (!s.dark && s.sec.stoppedDoms.contains (Config.scanDomain chain))

/-- DBG_SCAN (R379, R383, R388): a chain's bits are shifted; one of PD33 can stop the clocks of domains. A held L3 writes BOOT_HOLD while the stewards have not begun; cleared, it lets them begin. -/
def execDbgScan (chain : Nat) (bits : List Bool) (s : State) : Host.Outcome State Fault Refusal :=
  .next (s.tap 0x14 (s.unscrapped && decide (3 ≤ s.sec.debug) && s.scans chain) (fun s =>
    let s := s.emit (.scan chain (Config.scanOut chain bits))
    if Config.scanDomain chain ≠ 33 then s
    else
    let s := s.modSec (fun k => { k with stoppedDoms := Config.scanStops k.stoppedDoms chain bits })
    if s.sec.held && (s.pow.mstate == .standby || s.boot.stage == 0x0A) then
      let s := s.modSec (fun k => { k with bootHold := Config.scanHold chain bits })
      if s.boot.stage = 0x0A ∧ s.sec.bootHold = false then s.startFirmware else s
    else s))

/-! Boundary scan (R380). -/

/-- The captured pins shifted out and the cells loaded. -/
def State.boundaryScan (s : State) (bits : List Bool) : State :=
  let cap := Config.boundaryPins s.board.ir s.out.length
  { (s.emit (.tdo (bitsNat cap) cap.length)) with board := { s.board with boundary := bits } }

/-- EXTEST (R380). -/
def execExtest (bits : List Bool) (s : State) : Host.Outcome State Fault Refusal :=
  .next (s.tap 0x00 s.serviceStopped (fun s => s.boundaryScan bits))

/-- SAMPLE/PRELOAD (R380). -/
def execSamplePreload (bits : List Bool) (s : State) : Host.Outcome State Fault Refusal :=
  .next (s.tap 0x01 true (fun s => s.boundaryScan bits))

/-- IDCODE (R380, R439). -/
def execIdcode (s : State) : Host.Outcome State Fault Refusal := .next (s.tap 0x02 true (fun s => s.emit (.tdo 0x1962056F 32)))

/-- CLAMP (R380): the pins hold the cells; `bits` pass through the one-bit bypass register, which captures 0. -/
def execClamp (bits : List Bool) (s : State) : Host.Outcome State Fault Refusal :=
  .next (s.tap 0x03 s.serviceStopped (fun s => s.emit (.tdo (bitsNat (false :: bits.dropLast)) (max 1 bits.length))))

/-- HIGHZ (R380): the pins are released; `bits` pass through the bypass register. -/
def execHighz (bits : List Bool) (s : State) : Host.Outcome State Fault Refusal :=
  .next (s.tap 0x04 s.serviceStopped (fun s => s.emit (.tdo (bitsNat (false :: bits.dropLast)) (max 1 bits.length))))

/-- BYPASS (R380). -/
def execBypass (s : State) : Host.Outcome State Fault Refusal := .next (s.tap 0x3F true State.bypass)

end Sys2Proof.Machine
end

