-- ==== Sys2Proof/Machine/Module.lean ====
section
/-! DEFINITION. The module's supply and pins (R406, R454–R456) and its SMBus commands (R458–R460). -/

namespace Sys2Proof.Machine

/-! Supply (R406, R454, R455). -/

/-- A slot after the loss of auxiliary power: the fuses stay, RETIRED_AT and CAUSE do not (R443). -/
def CoreSlot.afterLoss (x : CoreSlot) : CoreSlot := { x.fromFuses 0 with retiredAt := 0, cause := 0 }

/-- The loss of all power (R454): the log, the repair list, the debug level, LOCAL_TIME and every memory; fuses, NVM and pins stay. A lifecycle
change that waited does not happen (R378). -/
def State.losePower (s : State) : State :=
  { State.reset with
    slots := s.slots.map CoreSlot.afterLoss, out := s.out, pending := s.pending
    portA := s.portA.afterReset, portB := s.portB.afterReset
    sec := s.sec.afterReset
    pow := { mstate := .standby, doms := [], coolantOk := s.pow.coolantOk, vrAlert := false }
    boot := { stage := 0 }
    board := { s.board with aux := false, armed := none, ir := 2, boundary := [], nvm := s.nvmAfterReset } }

/-- SUPPLY_52V_APPLY (R406, R454): 52 V lies inside the lockout limits. -/
def execSupply52vApply (s : State) : Host.Outcome State Fault Refusal := .next { s with board := { s.board with v52 := true } }

/-- EN_MATE (R455, R456). -/
def execEnMate (s : State) : Host.Outcome State Fault Refusal := .next { s with board := { s.board with en := true } }

/-- POWER_ON_RESET_END (R406, R455): PD33 is on; STANDBY while RESET_IN# is asserted, else boot stands at FUSES. -/
def execPowerOnResetEnd (s : State) : Host.Outcome State Fault Refusal :=
  if s.board.aux || !s.board.v52 || !s.board.en then .next s
  else
    let s : State := { s with board := { s.board with aux := true } }
    let s := s.modPow (fun p => { (p.setDoms [33] .on) with
      mstate := .standby, coolantLowAt := if p.coolantOk then none else some s.time })
    .next (if s.board.resetIn then s.setStage 1 else s.atFuses)

/-- EN_BREAK (R456): the hot-swap switch opens. -/
def execEnBreak (s : State) : Host.Outcome State Fault Refusal := .next { s.losePower with board := { s.losePower.board with en := false } }

/-- INPUT_LOCKOUT (R454): the input left the lockout limits. -/
def execInputLockout (s : State) : Host.Outcome State Fault Refusal := .next { s.losePower with board := { s.losePower.board with v52 := false } }

/-- CIRCUIT_BREAKER_TRIP (R454): as a lockout; the next application of 52 V starts again. -/
def execCircuitBreakerTrip (s : State) : Host.Outcome State Fault Refusal :=
  .next { s.losePower with board := { s.losePower.board with v52 := false } }

/-! SMBus (R458–R460). ZEROISE and RESCUE bring their transaction; a command without that operand finds it in `Board.smb`, as the host drives
it (DESIGN CHOICE, log entry 38). -/

/-- The target address by the two straps. -/
def Board.address (b : Board) : Nat := 0x58 + b.straps.toNat

/-- Whether the module takes a transaction: PD33 is on, the address is its own, and a PEC that the host appended fits the bytes sent. -/
def State.hears (s : State) (x : SmbCall) (sent : List Nat) : Bool :=
  s.board.aux && x.addr.toNat == s.board.address
    && (match x.pec with | some p => p.toNat == crc8 (2 * x.addr.toNat :: sent) | none => true)

/-- A command that the target takes; any other is not acknowledged. -/
def State.smbus (s : State) (x : SmbCall) (sent : List Nat) (act : State → State) : State := if s.hears x sent then act s else s

/-- The host drives another transaction (log entry 38). -/
def State.smbDrive (s : State) (x : SmbCall) : State := { s with board := { s.board with smb := x } }

/-- Data bytes returned to an SMBus read, of a block protocol behind their count, and the PEC where the host clocks one byte more. -/
def State.answer (s : State) (x : SmbCall) (sent : List Nat) (block : Bool) (bs : List Nat) : State :=
  let pec := crc8 (2 * x.addr.toNat :: sent ++ (2 * x.addr.toNat + 1) :: (if block then [bs.length] else []) ++ bs)
  s.emit (.smbus (bs ++ if x.more then [pec] else []))

/-- A read: its command bytes and what it returns. -/
def State.smbRead (s : State) (x : SmbCall) (sent : List Nat) (block : Bool) (bs : List Nat) : State :=
  s.smbus x sent (fun s => s.answer x sent block bs)

/-- Registers of a block as bytes, `n` of them from an offset on. -/
def State.regBytes (s : State) (b : Blk) (o n : Nat) : List Nat :=
  (List.range n).flatMap (fun i => leBytes 8 (s.readBlk (Requester.debug).key b (o + 8 * i)))

/-- READ_ID (R459): global 0x000–0x010. -/
def execReadId (s : State) : Host.Outcome State Fault Refusal := .next (s.smbRead s.board.smb [0x01] true (s.regBytes .glob 0 3))

/-- READ_STATUS (R459): global 0x040, then boot 0x000. -/
def execReadStatus (s : State) : Host.Outcome State Fault Refusal :=
  .next (s.smbRead s.board.smb [0x02] true (s.regBytes .glob 0x040 1 ++ s.regBytes .boot 0 1))

/-- READ_POWER (R459): power manager 0x008–0x020. -/
def execReadPower (s : State) : Host.Outcome State Fault Refusal := .next (s.smbRead s.board.smb [0x03] true (s.regBytes .power 0x008 4))

/-- READ_TRIP (R460). -/
def execReadTrip (s : State) : Host.Outcome State Fault Refusal := .next (s.smbRead s.board.smb [0x04] false [s.pow.tripCause % 8])

/-- READ_LOG (R459): log slot `k`. -/
def execReadLog (k : BitVec 16) (s : State) : Host.Outcome State Fault Refusal :=
  .next (s.smbRead s.board.smb ([0x05, 2] ++ leBytes 2 k.toNat) true (s.regBytes .maint (0x1000 + 32 * (k.toNat % 1024)) 4))

/-- A repair entry (R460): the stack, the row as PCH, BANK and ROW, and VALID. -/
def Repair.bits (r : Repair) : Nat := r.stack % 8 * 2 ^ 53 + r.row % 2 ^ 29 * 2 ^ 24 + 1

/-- READ_REPAIR (R460): repair entry `k`, 0 where none is in use. -/
def execReadRepair (k : BitVec 16) (s : State) : Host.Outcome State Fault Refusal :=
  .next (s.smbRead s.board.smb [0x06, k.toNat % 256] false (leBytes 8 (match s.integ.repairs[k.toNat % 256]? with | some r => r.bits | none => 0)))

/-- READ_TIME (R459). -/
def execReadTime (s : State) : Host.Outcome State Fault Refusal := .next (s.smbRead s.board.smb [0x07] true (leBytes 8 s.time))

/-- ZARM (R459). -/
def execZarm (s : State) : Host.Outcome State Fault Refusal :=
  .next (s.smbus s.board.smb [0x10] (fun s => { s with board := { s.board with armed := some s.time } }))

/-- Whether ZEROISE is armed: a half-open window of 1 s (R459). -/
def State.zarmed (s : State) : Bool := match s.board.armed with | some t => decide (s.time < t + 100000000) | none => false

/-- ZARM_EXPIRY (R459). -/
def execZarmExpiry (s : State) : Host.Outcome State Fault Refusal :=
  if s.zarmed then .next s else .next { s with board := { s.board with armed := none } }

/-- What the SMBus zeroise command does in each state (R459). -/
def State.smbZeroise (s : State) : State :=
  if s.dark then s
  else if s.booting then s.modBoot (fun b => { b with noService := true })
  else s.zeroise

/-- SMB_ZEROISE (R458, R459): ZEROISE when armed. -/
def execSmbZeroise (x : SmbCall) (s : State) : Host.Outcome State Fault Refusal :=
  .next ((s.smbDrive x).smbus x [0x11] (fun s => if s.zarmed then s.smbZeroise else s))

/-- SMB_RESCUE (R422, R459): accepted whatever RESCUE_OPEN reads. -/
def execSmbRescue (x : SmbCall) (s : State) : Host.Outcome State Fault Refusal := .next ((s.smbDrive x).smbus x [0x12] State.askRescue)

end Sys2Proof.Machine
end

