-- ==== Sys2Proof/Machine/SfuWords.lean ====
section
/-! DEFINITION. SFU words MAP, EPISET, ROWSTAT, ROWNORM and TBLOAD (R87, R88, R137, R143, R150–R158). -/

namespace Sys2Proof.Machine

/-- The fields of an SFU word (R87). -/
structure SWord where
  rs : Nat
  aux : Nat
  dst : Nat
  src : Nat
  cols : Nat
  rows : Nat
  cscEn : Bool
  rscEn : Bool
  biasEn : Bool
  ovf : Bool
  rnd : Nat
  ofmt : Nat
  ifmt : Nat
  func : Nat
  eslot : Nat
deriving DecidableEq, Repr

/-- Decoding of an SFU word (R87). -/
def SWord.decode (w : Nat) : SWord :=
  { rs := fld w 112 10, aux := fld w 95 17, dst := fld w 78 17, src := fld w 61 17, cols := 16 * (fld w 50 11 + 1), rows := fld w 38 12 + 1,
    cscEn := bit w 37, rscEn := bit w 36, biasEn := bit w 35, ovf := bit w 34, rnd := fld w 32 2, ofmt := fld w 28 4, ifmt := fld w 24 4,
    func := fld w 16 8, eslot := fld w 11 2 }

/-- Whether a format is refused in every SFU word but as an epilogue output (R137, R160). -/
def sfuFmtBad (n : Nat) : Bool := n == 5 || n == 8

/-- Row `m` of an element operand: window range (R137). -/
def SWord.rowRange (x : SWord) (base : Int) (f : Fmt) (m : Nat) : Range := ⟨base + 64 * Int.ofNat x.rs * Int.ofNat m, rowBytes f x.cols⟩

/-- Rows of an element operand. -/
def SWord.elemRanges (x : SWord) (base : Int) (f : Fmt) : List Range := (List.range x.rows).map (x.rowRange base f)

/-- Stride check of R102 (0x2133): with more than one row, a row must fit the stride. -/
def SWord.strideBad (x : SWord) (f : Fmt) : Bool := decide (1 < x.rows ∧ 64 * x.rs < rowBytes f x.cols)

/-- Checks that MAP, ROWSTAT and ROWNORM share (R102, R160): formats, RND, function. OFMT is checked in a ROWSTAT word too, which writes no
element (R87, R160 except EPISET and TBLOAD alone); RND is not (DEDUCED, log entry 41). -/
def SWord.checks (x : SWord) (usesOut funcOk : Bool) : List (Bool × Nat) :=
  let of := (Fmt.ofCode x.ofmt).getD .fp32
  [((Fmt.ofCode x.ifmt).isNone, 0x2130),
   ((Fmt.ofCode x.ofmt).isNone, 0x2130),
   (usesOut && x.rnd == 3 && !noRound false of, 0x2130),
   (!funcOk, 0x2330),
   (sfuFmtBad x.ifmt || sfuFmtBad x.ofmt, 0x2330)]

/-- Elements of row `m` of an operand as they enter the lanes (R135). -/
def SWord.lanes (x : SWord) (rd : Nat → Nat → List Nat) (base : Nat) (f : Fmt) (m : Nat) : List Nat :=
  let bs := rd (base + 64 * x.rs * m) (rowBytes f x.cols)
  (List.range x.cols).map (fun k => laneIn f (elemAt f bs k))

/-! MAP. -/

/-- One row of MAP (R137): output bytes and flags. -/
def mapRow (x : SWord) (table : List Nat) (r : CoreRun) (of : Fmt) (m : Nat) (xs ys : List Nat) : List Nat × Nat :=
  let rs := (xs.zip ys).zipIdx.map (fun (q, n) =>
    let (v, f1) := sfuFunc x.func table q.1 q.2
    let (b, f2) := cvt of (rndOf x.rnd (r.rsr m n)) x.ovf v
    (b, f1 ||| f2))
  (packElems of (rs.map Prod.fst), rs.foldl (fun f q => f ||| q.2) 0)

/-- MAP's footprint. -/
def SWord.mapFoot (x : SWord) (r : CoreRun) (w : Nat) : Footprint :=
  let f := (Fmt.ofCode x.ifmt).getD .fp32
  { reads := x.elemRanges (64 * r.eff w .a x.src) f ++ (if funcBinary x.func then x.elemRanges (64 * r.eff w .p x.aux) f else [])
    writes := x.elemRanges (64 * r.eff w .o x.dst) ((Fmt.ofCode x.ofmt).getD .fp32) }

/-- Decode checks of MAP. -/
def SWord.checkMap (x : SWord) (r : CoreRun) (w : Nat) : Option Nat :=
  firstFault (x.checks true (funcLegal x.func) ++
    [(x.strideBad ((Fmt.ofCode x.ifmt).getD .fp32) || x.strideBad ((Fmt.ofCode x.ofmt).getD .fp32), 0x2133),
     (!(x.mapFoot r w).inWindow, 0x2132)])

/-- Effect of MAP (R137, R142). -/
def State.runMap (s : State) (c w : Nat) : State :=
  let x := SWord.decode w
  let k := s.core c
  let r := k.run
  if k.tableEmpty x.func then s.coreFault c 0x2332
  else
    let f := (Fmt.ofCode x.ifmt).getD .fp32
    let of := (Fmt.ofCode x.ofmt).getD .fp32
    let rd := fun off n => memGet s.mem (sramAddr c off) n
    let a := (64 * r.eff w .a x.src).toNat
    let p := (64 * r.eff w .p x.aux).toNat
    let o := (64 * r.eff w .o x.dst).toNat
    let rows := (List.range x.rows).map (fun m =>
      let xs := x.lanes rd a f m
      (o + 64 * x.rs * m, mapRow x (s.tableOf c x.func) r of m xs (if funcBinary x.func then x.lanes rd p f m else xs)))
    ((s.sramWrites c (rows.map (fun q => (q.1, q.2.1)))).modRegs c
      (fun g => g.raise engSfu (rows.foldl (fun fl q => fl ||| q.2.2) 0))).useLanes c

/-- MAP (R137). -/
def execMap (c : Fin 64) (w : Word) (s : State) : Host.Outcome State Fault Refusal :=
  let r := (s.core c).run
  let x := SWord.decode w.toNat
  coreWord (wIs 3 0 w.toNat) w.toNat (s.runWord c w.toNat (x.checkMap r w.toNat) (x.mapFoot r w.toNat) true (fun s => s.runMap c w.toNat))

/-! EPISET. -/

/-- The slot that an EPISET defines (R88, R150). -/
def SWord.slotOf (x : SWord) (r : CoreRun) (w : Nat) : EpiSlot :=
  { isSet := true, func := x.func, rscAddr := r.eff w .a x.src, colAddr := r.eff w .p x.aux, dst := r.eff w .o x.dst,
    cols := x.cols, rscEn := x.rscEn, cscEn := x.cscEn, biasEn := x.biasEn, cursor := 0 }

/-- Decode checks of EPISET (R88, R150). -/
def SWord.checkEpiset (x : SWord) (r : CoreRun) (w : Nat) : Option Nat :=
  firstFault [(!(funcLegal x.func) || funcBinary x.func, 0x2330),
    ((x.cscEn || x.biasEn) && !(Range.inWindow ⟨64 * r.eff w .p x.aux, 8 * x.cols⟩), 0x2132)]

/-- EPISET (R88, R150). -/
def execEpiset (c : Fin 64) (w : Word) (s : State) : Host.Outcome State Fault Refusal :=
  let r := (s.core c).run
  let x := SWord.decode w.toNat
  coreWord (wIs 3 1 w.toNat) w.toNat (s.runWord c w.toNat (x.checkEpiset r w.toNat) {} true (fun s =>
    s.modRun c (fun k => { k with epis := Tbl.set {} x.eslot (x.slotOf r w.toNat) k.epis })))

/-! Row statistics. -/

/-- A statistics record (R151). -/
structure StatRec where
  m2s : Nat
  means : Nat
  se : Int
  inf : Bool
  nan : Bool
  kind : Nat
  count : Nat
deriving DecidableEq, Repr

/-- The 16 bytes of a record. -/
def StatRec.bytes (q : StatRec) : List Nat :=
  leBytes 16 (q.m2s * 2 ^ 96 + q.means * 2 ^ 64 + (q.se % 65536).toNat * 2 ^ 48 + b2n q.inf * 2 ^ 41 + b2n q.nan * 2 ^ 40
    + q.kind * 2 ^ 32 + q.count % 2 ^ 32)

/-- A record read from its bytes. -/
def StatRec.ofBytes (bs : List Nat) : StatRec :=
  let v := ofLeBytes bs
  { m2s := fld v 96 32, means := fld v 64 32, se := signed 16 (fld v 48 16), inf := bit v 41, nan := bit v 40, kind := fld v 32 8,
    count := fld v 0 32 }

/-- A flagged record (R154). -/
def StatRec.flagged (nan inf : Bool) (count : Nat) : StatRec := ⟨nan32, nan32, 0, inf, nan, 0x53, count⟩

/-- The record of one row (R151–R154): record and flags. The sum of a row of −0 alone is −0 (R46 V5). -/
def rowStat (xs : List Nat) : StatRec × Nat :=
  let vs := xs.map v32
  let n := xs.length
  if vs.any Val.isNan then (StatRec.flagged true (vs.any Val.isInf) n, flNANIN)
  else if vs.any Val.isInf then (StatRec.flagged false true n, flINV)
  else
    let ds := vs.map Val.dy
    let e : Int := ((ds.filter (fun d => d.m ≠ 0)).map (fun d => (Int.ofNat (Nat.log2 d.m.natAbs)) + d.e)).foldl
      (fun acc x => match acc with | none => some x | some y => some (max x y)) (none : Option Int) |>.getD 0
    let t := Dy.sum ds
    let (mean, f1) := if vs.all (fun v => v.isZero && v.sign) then (0x80000000, 0) else rne32Rat t.m n (t.e - e)
    let dev := ds.map (fun d => (d.scale (-e)).sub (v32 mean).dy)
    let (m2, f2) := (chunks 4 n dev).foldl (fun (st : Nat × Nat) g =>
      let (b, fl) := rne32Dy ((v32 st.1).dy.add (Dy.sum (g.map (fun d => d.mul d))))
      (b, st.2 ||| fl)) (0, 0)
    (⟨max32 m2 0, mean, e, false, false, 0x53, n⟩, f1 ||| f2)

/-- Footprint of ROWSTAT FUNC 0. -/
def SWord.statFoot (x : SWord) (r : CoreRun) (w : Nat) : Footprint :=
  { reads := x.elemRanges (64 * r.eff w .a x.src) ((Fmt.ofCode x.ifmt).getD .fp32)
    writes := [⟨64 * r.eff w .o x.dst, 16 * x.rows⟩] }

/-- Effect of ROWSTAT FUNC 0 (R152). -/
def State.runRowstat (s : State) (c w : Nat) : State :=
  let x := SWord.decode w
  let r := (s.core c).run
  let rd := fun off n => memGet s.mem (sramAddr c off) n
  let rs := (List.range x.rows).map (fun m => rowStat (x.lanes rd (64 * r.eff w .a x.src).toNat ((Fmt.ofCode x.ifmt).getD .fp32) m))
  ((s.sramWrites c [((64 * r.eff w .o x.dst).toNat, rs.flatMap (fun q => q.1.bytes))]).modRegs c
    (fun g => g.raise engSfu (rs.foldl (fun fl q => fl ||| q.2) 0))).useLanes c

/-- ROWSTAT with FUNC 0, or with an illegal FUNC (R152, R160). -/
def execRowstat (c : Fin 64) (w : Word) (s : State) : Host.Outcome State Fault Refusal :=
  let r := (s.core c).run
  let x := SWord.decode w.toNat
  let chk := firstFault (x.checks false (x.func == 0) ++
    [(x.strideBad ((Fmt.ofCode x.ifmt).getD .fp32), 0x2133), (!(x.statFoot r w.toNat).inWindow, 0x2132)])
  coreWord (wIs 3 2 w.toNat && x.func != 1) w.toNat (s.runWord c w.toNat chk (x.statFoot r w.toNat) true (fun s => s.runRowstat c w.toNat))

/-- An FP32 value of a record scaled by a power of two, exact unless subnormal (R155). -/
def scaled (x : Nat) (k : Int) : Val :=
  match v32 x with
  | .fin s m e => v32 (rne32 (.fin s m (e + k))).1
  | v => v

/-- A sum by the special values of R46; exact where it is finite. -/
def Val.plus : Val → Val → Val
  | .nan, _ => .nan
  | _, .nan => .nan
  | .inf a, .inf b => if a = b then .inf a else .nan
  | .inf a, _ => .inf a
  | _, .inf b => .inf b
  | x, y => .ofDy (x.dy.add y.dy)

/-- A result of R155 with its flags: NaN or infinite as the special values `v` give it, else the exact `num / n` rounded once. -/
def weighed (ins : List Val) (v : Val) (num : Dy) (n : Nat) : Nat × Nat :=
  match v with
  | .nan => (nan32, if ins.any Val.isNan then flNANIN else flINV)
  | .inf s => ((if s then 0x80000000 else 0) + inf32, 0)
  | .fin .. => rne32Rat num.m n num.e

/-- The combination of two records (R155): none for a record of another KIND or a COUNT of 2^32 or more (0x2333). The scaling to the larger
SE and a flagged combination set no flags (DEDUCED, log entry 45). -/
def combineStat (a b : StatRec) : Option (StatRec × Nat) :=
  if a.kind ≠ 0x53 ∨ b.kind ≠ 0x53 ∨ 2 ^ 32 ≤ a.count + b.count then none
  else if a.count = 0 then some (b, 0)
  else if b.count = 0 then some (a, 0)
  else if a.nan || b.nan || a.inf || b.inf then
    some (StatRec.flagged (a.nan || b.nan) (a.inf || b.inf) (a.count + b.count), 0)
  else
    let se := max a.se b.se
    let n := a.count + b.count
    let ma := scaled a.means (a.se - se)
    let mb := scaled b.means (b.se - se)
    let qa := scaled a.m2s (2 * (a.se - se))
    let qb := scaled b.m2s (2 * (b.se - se))
    let dlt := mb.plus ma.negated
    let d := dlt.dy
    let (mean, f1) := weighed [ma, mb] (ma.plus dlt) (((ma.dy.mul (Dy.ofInt n)).add (d.mul (Dy.ofInt b.count)))) n
    let (m2, f2) := weighed [ma, mb, qa, qb] ((qa.plus qb).plus (match dlt with | .inf _ => .inf false | x => x))
      (((qa.dy.add qb.dy).mul (Dy.ofInt n)).add ((d.mul d).mul (Dy.ofInt (a.count * b.count)))) n
    some (⟨max32 m2 0, mean, se, false, false, 0x53, n⟩, f1 ||| f2)

/-- Footprint of ROWSTAT FUNC 1: records at SRC, AUX and DST. -/
def SWord.combineFoot (x : SWord) (r : CoreRun) (w : Nat) : Footprint :=
  { reads := [⟨64 * r.eff w .a x.src, 16 * x.rows⟩, ⟨64 * r.eff w .p x.aux, 16 * x.rows⟩]
    writes := [⟨64 * r.eff w .o x.dst, 16 * x.rows⟩] }

/-- Effect of ROWSTAT FUNC 1 (R155): a bad record aborts the word before anything is written. -/
def State.runCombine (s : State) (c w : Nat) : State :=
  let x := SWord.decode w
  let r := (s.core c).run
  let rd := fun (base : Int) m => StatRec.ofBytes (memGet s.mem (sramAddr c ((64 * base).toNat + 16 * m)) 16)
  let qs := (List.range x.rows).map (fun m => combineStat (rd (r.eff w .a x.src) m) (rd (r.eff w .p x.aux) m))
  if qs.any Option.isNone then s.coreFault c 0x2333
  else
    let rs := qs.filterMap id
    ((s.sramWrites c [((64 * r.eff w .o x.dst).toNat, rs.flatMap (fun q => q.1.bytes))]).modRegs c
      (fun g => g.raise engSfu (rs.foldl (fun fl q => fl ||| q.2) 0))).useLanes c

/-- ROWSTAT with FUNC 1 (R155). It reads records alone, and its IFMT and OFMT are still checked as those of every ROWSTAT word (DEDUCED,
log entry 41). -/
def execRowstatCombine (c : Fin 64) (w : Word) (s : State) : Host.Outcome State Fault Refusal :=
  let r := (s.core c).run
  let x := SWord.decode w.toNat
  let chk := firstFault [((Fmt.ofCode x.ifmt).isNone || (Fmt.ofCode x.ofmt).isNone, 0x2130), (sfuFmtBad x.ifmt || sfuFmtBad x.ofmt, 0x2330),
    (!(x.combineFoot r w.toNat).inWindow, 0x2132)]
  coreWord (wIs 3 2 w.toNat && x.func == 1) w.toNat (s.runWord c w.toNat chk (x.combineFoot r w.toNat) true (fun s => s.runCombine c w.toNat))

/-! ROWNORM. -/

/-- The smallest exponent of the wider range in which ROWNORM's factor is formed (R157): below what any record reaches. -/
def wideMin : Int := -200000

/-- The order number, in the wider range, of the greatest 24-bit value at most `d`, for `d` above 0. -/
def wideDown (d : Dy) : Nat := let (n, q, _) := roundMag 23 wideMin .rtz d.m.natAbs 1 d.e; encodeMag 23 wideMin n q

/-- The order number, in the wider range, of the least 24-bit value at least `d`, for `d` above 0. -/
def wideUp (d : Dy) : Nat := let (n, q, inex) := roundMag 23 wideMin .rtz d.m.natAbs 1 d.e; encodeMag 23 wideMin n q + b2n inex

/-- The value of an order number of the wider range. -/
def wideAt (z : Nat) : Dy := ⟨Int.ofNat (2 ^ 23 + z % 2 ^ 23), wideMin + Int.ofNat (z / 2 ^ 23) - 1⟩

/-- 1/√(num/den · 2^e) to some 75 bits. -/
def rsqrtRat (num den : Nat) (e : Int) : Dy :=
  let a0 : Int := 150 + Int.ofNat (Nat.log2 num) - Int.ofNat (Nat.log2 den)
  let a : Int := if (a0 + e) % 2 = 0 then a0 else a0 + 1
  let q := if 0 ≤ a then den * 2 ^ a.toNat / num else den / (num * 2 ^ (-a).toNat)
  ⟨Int.ofNat (isqrt q), -(e + a) / 2⟩

/-- The per-row factor ρ of the positive argument num/den · 2^e (R157): RSQRT of the argument rounded to 24 bits where that is a normal
FP32 value, a free choice beyond FP32, and in both cases within RSQRT's 2 ulp of the exact result (log entry 41). -/
def rowFactor (num den : Nat) (e : Int) : Dy :=
  let v := rsqrtRat num den e
  let b : Dy := (⟨2, log2Rat v.m.natAbs 1 + v.e - 23⟩ : Dy).add (v.scale (-60))
  let lo := wideUp (v.sub b)
  let hi := wideDown (v.add b)
  let (n, q, _) := roundMag 23 wideMin .rne num den e
  let z := if -149 ≤ q ∧ q ≤ 104 then wideDown (v32 (rsqrt (encodeMag 23 (-149) n q)).1).dy else lo + Config.rhoPick n q % (hi - lo + 1)
  wideAt (max lo (min hi z))

/-- ρ of a row with its flags (R157, R158): RSQRT's special rows hold for the argument q + ε · 2^(−2 SE). -/
def StatRec.rho (q : StatRec) (rms : Bool) (k : Nat) : Val × Nat :=
  match v32 q.m2s, v32 q.means with
  | .nan, _ => (.nan, flNANIN)
  | _, .nan => (.nan, flNANIN)
  | .inf true, _ => (.nan, flINV)
  | .inf false, _ => (.fin false 0 0, 0)
  | m2, mean =>
    if rms && mean.isInf then (.fin false 0 0, 0)
    else
      let v := if rms then m2.dy.add ((mean.dy.mul mean.dy).mul (Dy.ofInt q.count)) else m2.dy
      let eps : Dy := if k = 0 then ⟨0, 0⟩ else ⟨1, -Int.ofNat k - 2 * q.se⟩
      let t := v.add (eps.mul (Dy.ofInt q.count))
      if t.m < 0 then (.nan, flINV)
      else if t.m = 0 then (.inf false, 0)
      else (Val.ofDy (rowFactor t.m.natAbs q.count t.e), 0)

/-- One element of ROWNORM before CVT (R157, R158). `g` and `b` are γ and β where they apply. NANIN is set for NaN elements, records and
parameters that are read; a NaN that a step makes flows on without a further flag (R46 V1). With γ alone the FMA's addend is a zero that
changes no sign (DEDUCED, log entry 45). -/
def normElem (q : StatRec) (rms : Bool) (rho : Val × Nat) (x : Nat) (g b : Option Nat) : Nat × Nat :=
  if q.count = 0 then (nan32, flINV)
  else if q.nan || q.inf || (v32 q.means).isNan || (v32 q.m2s).isNan then (nan32, flNANIN)
  else
    let y := (v32 x).scale (-q.se)
    let (d, f1) := if rms then (if y.isNan then (nan32, flNANIN) else rne32 y) else sumVals y (v32 q.means).negated
    let (p, f2) : Nat × Nat := if (v32 d).isNan then (nan32, 0) else match mulFactors [v32 d, rho.1] with
      | .nanIn => (nan32, rho.2)
      | .invalid => (nan32, flINV)
      | .val y => rne32 y
    let par := [g, b].filterMap id
    let (y, f3) := if (v32 p).isNan then (nan32, if par.any (fun c => (v32 c).isNan) then flNANIN else 0) else match g, b with
      | some g, some b => fma32 p g b
      | some g, none => mul32 p g
      | none, some b => add32 p b
      | none, none => (p, 0)
    (y, f1 ||| f2 ||| f3)

/-- Footprint of ROWNORM. -/
def SWord.normFoot (x : SWord) (r : CoreRun) (w : Nat) : Footprint :=
  let es := Tbl.get {} x.eslot r.epis
  { reads := x.elemRanges (64 * r.eff w .a x.src) ((Fmt.ofCode x.ifmt).getD .fp32) ++ [⟨64 * r.eff w .p x.aux, 16 * x.rows⟩]
      ++ (if x.cscEn || x.biasEn then [⟨64 * es.colAddr, 8 * min x.cols es.cols⟩] else [])
    writes := x.elemRanges (64 * r.eff w .o x.dst) ((Fmt.ofCode x.ofmt).getD .fp32) }

/-- Effect of ROWNORM (R157, R158). γ and β follow the word's own CSC_EN and BIAS_EN (DEDUCED, log entry 14). -/
def State.runRownorm (s : State) (c w : Nat) : State :=
  let x := SWord.decode w
  let r := (s.core c).run
  let es := Tbl.get {} x.eslot r.epis
  let rd := fun off n => memGet s.mem (sramAddr c off) n
  let f := (Fmt.ofCode x.ifmt).getD .fp32
  let of := (Fmt.ofCode x.ofmt).getD .fp32
  let rms := x.func % 8 == 1
  let rec' := fun m => StatRec.ofBytes (rd ((64 * r.eff w .p x.aux).toNat + 16 * m) 16)
  if (List.range x.rows).any (fun m => (rec' m).kind != 0x53) then s.coreFault c 0x2333
  else
    let par := fun n d => ofLeBytes (rd ((64 * es.colAddr).toNat + 8 * (n % es.cols) + d) 4)
    let rows := (List.range x.rows).map (fun m =>
      let q := rec' m
      let rho := q.rho rms (x.func / 8)
      let es' := (x.lanes rd (64 * r.eff w .a x.src).toNat f m).zipIdx.map (fun (v, n) =>
        let (y, f1) := normElem q rms rho v (if x.cscEn then some (par n 0) else none) (if x.biasEn then some (par n 4) else none)
        let (b, f2) := cvt of (rndOf x.rnd (r.rsr m n)) x.ovf y
        (b, f1 ||| f2))
      ((64 * r.eff w .o x.dst).toNat + 64 * x.rs * m, packElems of (es'.map Prod.fst), es'.foldl (fun fl q => fl ||| q.2) 0))
    ((s.sramWrites c (rows.map (fun q => (q.1, q.2.1)))).modRegs c
      (fun g => g.raise engSfu (rows.foldl (fun fl q => fl ||| q.2.2) 0))).useLanes c

/-- ROWNORM (R157). -/
def execRownorm (c : Fin 64) (w : Word) (s : State) : Host.Outcome State Fault Refusal :=
  let r := (s.core c).run
  let x := SWord.decode w.toNat
  let chk := firstFault (x.checks true (decide (x.func % 8 ≤ 1)) ++
    [((x.cscEn || x.biasEn) && !(Tbl.get {} x.eslot r.epis).isSet, 0x2135),
     (x.strideBad ((Fmt.ofCode x.ifmt).getD .fp32) || x.strideBad ((Fmt.ofCode x.ofmt).getD .fp32), 0x2133),
     (!(x.normFoot r w.toNat).inWindow, 0x2132)])
  coreWord (wIs 3 3 w.toNat) w.toNat (s.runWord c w.toNat chk (x.normFoot r w.toNat) true (fun s => s.runRownorm c w.toNat))

/-! TBLOAD. -/

/-- The image checks of R143. -/
def tableOk (t : Nat) (bs : List Nat) : Bool :=
  let h := tableHdr bs
  let finite := fun x => match v32 x with | .fin .. => true | _ => false
  decide (h.magic = 0x5D ∧ h.table = t ∧ 1 ≤ h.nent ∧ h.nent ≤ 256) && finite h.xlo && finite h.xhi
    && Dy.lt (v32 h.xlo).dy (v32 h.xhi).dy && h.crc == crc32c ((bs.drop 64).take (16 * h.nent))

/-- Bytes of the image at a place: the header's NENT gives the length. -/
def State.tableImage (s : State) (c off : Nat) : List Nat :=
  let n := (tableHdr (memGet s.mem (sramAddr c off) 64)).nent
  memGet s.mem (sramAddr c off) (64 + 16 * n)

/-- Effect of TBLOAD (R143–R145): the shadow bank takes the image, the banks switch at this word's boundary, the epoch rises. -/
def State.runTbload (s : State) (c w : Nat) : State :=
  let x := SWord.decode w
  let k := s.core c
  let bs := s.tableImage c (64 * k.run.eff w .a x.src).toNat
  if !(tableOk x.func bs) then s.coreFault c 0x2331
  else
    let t := x.func
    let s := s.modCore c (fun k => { k with
      shadow := Tbl.set [] t (Tbl.get [] t k.tables) k.shadow, tables := Tbl.set [] t bs k.tables
      regs := { k.regs with sfuEpoch := k.regs.sfuEpoch + 1, sfuCustom := k.regs.sfuCustom ||| BitVec.ofNat 16 (2 ^ t) } })
    let pt := Tbl.get {} k.run.table s.sync.tables
    if pt.customSeen then s
    else (s.modSync (fun y => { y with tables := Tbl.upd {} k.run.table (fun p => { p with customSeen := true }) y.tables })).report
      { code := 0x0320, detail := k.run.tag }

/-- TBLOAD (R143). -/
def execTbload (c : Fin 64) (w : Word) (s : State) : Host.Outcome State Fault Refusal :=
  let r := (s.core c).run
  let x := SWord.decode w.toNat
  let base := 64 * r.eff w.toNat .a x.src
  let n := (tableHdr (memGet s.mem (sramAddr c base.toNat) 64)).nent
  let foot : Footprint := { reads := [⟨base, 64 + 16 * min n 256⟩] }
  let chk := firstFault [(!(decide (4 ≤ x.func ∧ x.func ≤ 15)), 0x2330), (!foot.inWindow, 0x2132)]
  coreWord (wIs 3 4 w.toNat) w.toNat (s.runWord c w.toNat chk foot true (fun s => s.runTbload c w.toNat))

end Sys2Proof.Machine
end

