-- ==== Sys2Proof/Machine/Dispatch.lean ====
section
/-! DEFINITION. The meaning of every command: one arm per constructor. -/

namespace Sys2Proof.Machine

/-- A command's effect on everything but the queue. -/
def exec (i : Instr) (s : State) : Host.Outcome State Fault Refusal :=
  match i with
  | .nop c w => Sys2Proof.Machine.execNop c w s
  | .endPart c w => Sys2Proof.Machine.execEndPart c w s
  | .loop c w => Sys2Proof.Machine.execLoop c w s
  | .setc c w => Sys2Proof.Machine.execSetc c w s
  | .ldcx c w => Sys2Proof.Machine.execLdcx c w s
  | .mm c w => Sys2Proof.Machine.execMm c w s
  | .mmw c w => Sys2Proof.Machine.execMmw c w s
  | .decanterForward c w => Sys2Proof.Machine.execDecanterForward c w s
  | .decanterRecompute c w => Sys2Proof.Machine.execDecanterRecompute c w s
  | .map c w => Sys2Proof.Machine.execMap c w s
  | .episet c w => Sys2Proof.Machine.execEpiset c w s
  | .rowstat c w => Sys2Proof.Machine.execRowstat c w s
  | .rowstatCombine c w => Sys2Proof.Machine.execRowstatCombine c w s
  | .rownorm c w => Sys2Proof.Machine.execRownorm c w s
  | .tbload c w => Sys2Proof.Machine.execTbload c w s
  | .submit c w => Sys2Proof.Machine.execSubmit c w s
  | .kfetch c w => Sys2Proof.Machine.execKfetch c w s
  | .convfeed c w => Sys2Proof.Machine.execConvfeed c w s
  | .pegSet c w => Sys2Proof.Machine.execPegSet c w s
  | .pegAdd c w => Sys2Proof.Machine.execPegAdd c w s
  | .acquire c w => Sys2Proof.Machine.execAcquire c w s
  | .monitor c w => Sys2Proof.Machine.execMonitor c w s
  | .pegRegister c => Sys2Proof.Machine.execPegRegister c s
  | .pegWake c => Sys2Proof.Machine.execPegWake c s
  | .pegClaim c => Sys2Proof.Machine.execPegClaim c s
  | .stewardPegSet n addr store => Sys2Proof.Machine.execStewardPegSet n addr store s
  | .stewardPegAdd n addr store => Sys2Proof.Machine.execStewardPegAdd n addr store s
  | .streamCopy c q host => Sys2Proof.Machine.execStreamCopy c q host s
  | .streamGather c q host => Sys2Proof.Machine.execStreamGather c q host s
  | .streamScatter c q host => Sys2Proof.Machine.execStreamScatter c q host s
  | .scalefeed c q host => Sys2Proof.Machine.execScalefeed c q host s
  | .descriptorComplete c q => Sys2Proof.Machine.execDescriptorComplete c q s
  | .weightRoundRequest c => Sys2Proof.Machine.execWeightRoundRequest c s
  | .weightRoundStart => Sys2Proof.Machine.execWeightRoundStart s
  | .passLaunch k l => Sys2Proof.Machine.execPassLaunch k l s
  | .completionSlotWrite c => Sys2Proof.Machine.execCompletionSlotWrite c s
  | .passCommit t logits => Sys2Proof.Machine.execPassCommit t logits s
  | .rackComplete sess ok => Sys2Proof.Machine.execRackComplete sess ok s
  | .passAbort t code => Sys2Proof.Machine.execPassAbort t code s
  | .passRetry t => Sys2Proof.Machine.execPassRetry t s
  | .drainLimitExpiry c => Sys2Proof.Machine.execDrainLimitExpiry c s
  | .pegWaitExpiry c => Sys2Proof.Machine.execPegWaitExpiry c s
  | .passWatchdogExpiry t => Sys2Proof.Machine.execPassWatchdogExpiry t s
  | .chipBarrierExpiry g => Sys2Proof.Machine.execChipBarrierExpiry g s
  | .stewardWatchdogExpiry n => Sys2Proof.Machine.execStewardWatchdogExpiry n s
  | .kick r v => Sys2Proof.Machine.execKick r v s
  | .handArrival h g sense => Sys2Proof.Machine.execHandArrival h g sense s
  | .syncArrive l f => Sys2Proof.Machine.execSyncArrive l f s
  | .syncRelease l f => Sys2Proof.Machine.execSyncRelease l f s
  | .request p n e host => Sys2Proof.Machine.execRequest p n e host s
  | .cancel p n e ahead => Sys2Proof.Machine.execCancel p n e ahead s
  | .stakeLoad p n e host => Sys2Proof.Machine.execStakeLoad p n e host s
  | .domainLoad p n e host => Sys2Proof.Machine.execDomainLoad p n e host s
  | .domainPurge p n e => Sys2Proof.Machine.execDomainPurge p n e s
  | .modelLoad p n e host => Sys2Proof.Machine.execModelLoad p n e host s
  | .modelUnload p n e => Sys2Proof.Machine.execModelUnload p n e s
  | .modelDrained k => Sys2Proof.Machine.execModelDrained k s
  | .modelDrainTimeout k => Sys2Proof.Machine.execModelDrainTimeout k s
  | .modelPartitionsSet k parts weights => Sys2Proof.Machine.execModelPartitionsSet k parts weights s
  | .kickerLoad p n e host k => Sys2Proof.Machine.execKickerLoad p n e host k s
  | .kickerDrop p n e => Sys2Proof.Machine.execKickerDrop p n e s
  | .sessionClose p n e => Sys2Proof.Machine.execSessionClose p n e s
  | .sessionQuery p n e => Sys2Proof.Machine.execSessionQuery p n e s
  | .intakeIllegalOpcode p n e => Sys2Proof.Machine.execIntakeIllegalOpcode p n e s
  | .vineWalk sess ahead => Sys2Proof.Machine.execVineWalk sess ahead s
  | .stakeIntervalStart k => Sys2Proof.Machine.execStakeIntervalStart k s
  | .pruneRound m k => Sys2Proof.Machine.execPruneRound m k s
  | .unrack sess host => Sys2Proof.Machine.execUnrack sess host s
  | .rackExpiry sess => Sys2Proof.Machine.execRackExpiry sess s
  | .completionRecordWrite p n => Sys2Proof.Machine.execCompletionRecordWrite p n s
  | .cqHeadWrite r p n v => Sys2Proof.Machine.execCqHeadWrite r p n v s
  | .ringEnable r p n v => Sys2Proof.Machine.execRingEnable r p n v s
  | .ringDisable r p n v => Sys2Proof.Machine.execRingDisable r p n v s
  | .shipGrant l f => Sys2Proof.Machine.execShipGrant l f s
  | .shipRefuse l f => Sys2Proof.Machine.execShipRefuse l f s
  | .shipOfferTimeout id => Sys2Proof.Machine.execShipOfferTimeout id s
  | .shipNack l f => Sys2Proof.Machine.execShipNack l f s
  | .shipDone l f => Sys2Proof.Machine.execShipDone l f s
  | .shipAbort l f => Sys2Proof.Machine.execShipAbort l f s
  | .shipOffer l f => Sys2Proof.Machine.execShipOffer l f s
  | .shipLimitExpiry id => Sys2Proof.Machine.execShipLimitExpiry id s
  | .accept l f => Sys2Proof.Machine.execAccept l f s
  | .write l f => Sys2Proof.Machine.execWrite l f s
  | .windowRevoke id => Sys2Proof.Machine.execWindowRevoke id s
  | .revokeAck l f => Sys2Proof.Machine.execRevokeAck l f s
  | .revokeGraceExpiry id => Sys2Proof.Machine.execRevokeGraceExpiry id s
  | .modelReq l f => Sys2Proof.Machine.execModelReq l f s
  | .modelStripe l f => Sys2Proof.Machine.execModelStripe l f s
  | .modelHave l f => Sys2Proof.Machine.execModelHave l f s
  | .modelNone l f => Sys2Proof.Machine.execModelNone l f s
  | .modelDone l f => Sys2Proof.Machine.execModelDone l f s
  | .modelReplyTimeout l => Sys2Proof.Machine.execModelReplyTimeout l s
  | .modelLimitExpiry k => Sys2Proof.Machine.execModelLimitExpiry k s
  | .signalDetect l => Sys2Proof.Machine.execSignalDetect l s
  | .signalLoss l => Sys2Proof.Machine.execSignalLoss l s
  | .trainingTimeout l => Sys2Proof.Machine.execTrainingTimeout l s
  | .trainingRestart l => Sys2Proof.Machine.execTrainingRestart l s
  | .fecLock l => Sys2Proof.Machine.execFecLock l s
  | .null l f => Sys2Proof.Machine.execNull l f s
  | .hello l f => Sys2Proof.Machine.execHello l f s
  | .cert l f => Sys2Proof.Machine.execCert l f s
  | .kemEk l f => Sys2Proof.Machine.execKemEk l f s
  | .kemCt l f => Sys2Proof.Machine.execKemCt l f s
  | .auth l f => Sys2Proof.Machine.execAuth l f s
  | .finish l f => Sys2Proof.Machine.execFinish l f s
  | .replayReq l f => Sys2Proof.Machine.execReplayReq l f s
  | .linkFrameMalformed l f => Sys2Proof.Machine.execLinkFrameMalformed l f s
  | .handshakeTimeout l => Sys2Proof.Machine.execHandshakeTimeout l s
  | .handshakeRefusedRetry l => Sys2Proof.Machine.execHandshakeRefusedRetry l s
  | .rekeyStart l => Sys2Proof.Machine.execRekeyStart l s
  | .rekeyTimeout l => Sys2Proof.Machine.execRekeyTimeout l s
  | .livenessTimeout l => Sys2Proof.Machine.execLivenessTimeout l s
  | .fecUncorrLimit l n => Sys2Proof.Machine.execFecUncorrLimit l n s
  | .replayNoProgress l => Sys2Proof.Machine.execReplayNoProgress l s
  | .creditStall l cls => Sys2Proof.Machine.execCreditStall l cls s
  | .slowExit l => Sys2Proof.Machine.execSlowExit l s
  | .quarantineHoldExpiry l => Sys2Proof.Machine.execQuarantineHoldExpiry l s
  | .linkEnable r l v => Sys2Proof.Machine.execLinkEnable r l v s
  | .linkDisable r l v => Sys2Proof.Machine.execLinkDisable r l v s
  | .retrain r l v => Sys2Proof.Machine.execRetrain r l v s
  | .quarRelease r l v => Sys2Proof.Machine.execQuarRelease r l v s
  | .perstAssert p => Sys2Proof.Machine.execPerstAssert p s
  | .perstDeassert p => Sys2Proof.Machine.execPerstDeassert p s
  | .dataLinkDown p refclkLost => Sys2Proof.Machine.execDataLinkDown p refclkLost s
  | .hotReset p => Sys2Proof.Machine.execHotReset p s
  | .pfFlr p => Sys2Proof.Machine.execPfFlr p s
  | .pfBmeClear p => Sys2Proof.Machine.execPfBmeClear p s
  | .vfEnableClear p numVf => Sys2Proof.Machine.execVfEnableClear p numVf s
  | .seatFlr p n => Sys2Proof.Machine.execSeatFlr p n s
  | .seatBmeClear p n => Sys2Proof.Machine.execSeatBmeClear p n s
  | .d3hotEntry p n => Sys2Proof.Machine.execD3hotEntry p n s
  | .quiesceDone p n => Sys2Proof.Machine.execQuiesceDone p n s
  | .busMasterEnableSet p n => Sys2Proof.Machine.execBusMasterEnableSet p n s
  | .pcieLinkUp p speed width => Sys2Proof.Machine.execPcieLinkUp p speed width s
  | .rackingWindowEnable r p win v => Sys2Proof.Machine.execRackingWindowEnable r p win v s
  | .estimateIntervalEnd a => Sys2Proof.Machine.execEstimateIntervalEnd a s
  | .pmbusCalibration readings => Sys2Proof.Machine.execPmbusCalibration readings s
  | .boostEntry => Sys2Proof.Machine.execBoostEntry s
  | .boostPowerGood => Sys2Proof.Machine.execBoostPowerGood s
  | .temperatureReading temps => Sys2Proof.Machine.execTemperatureReading temps s
  | .hbmTemperatureReading t => Sys2Proof.Machine.execHbmTemperatureReading t s
  | .coolantOkFall => Sys2Proof.Machine.execCoolantOkFall s
  | .coolantOkRise => Sys2Proof.Machine.execCoolantOkRise s
  | .coolantStop => Sys2Proof.Machine.execCoolantStop s
  | .vrAlertAssert => Sys2Proof.Machine.execVrAlertAssert s
  | .vrStatusRead st => Sys2Proof.Machine.execVrStatusRead st s
  | .fallbackWindowExpiry => Sys2Proof.Machine.execFallbackWindowExpiry s
  | .readyIdleEntry => Sys2Proof.Machine.execReadyIdleEntry s
  | .readyIdleWake => Sys2Proof.Machine.execReadyIdleWake s
  | .rootPllLoss => Sys2Proof.Machine.execRootPllLoss s
  | .dbgChal => Sys2Proof.Machine.execDbgChal s
  | .dbgToken token => Sys2Proof.Machine.execDbgToken token s
  | .tokenVerified => Sys2Proof.Machine.execTokenVerified s
  | .unlockLockoutExpiry => Sys2Proof.Machine.execUnlockLockoutExpiry s
  | .dbgStatus lower => Sys2Proof.Machine.execDbgStatus lower s
  | .dbgAccess a => Sys2Proof.Machine.execDbgAccess a s
  | .dbgScan chain bits => Sys2Proof.Machine.execDbgScan chain bits s
  | .extest bits => Sys2Proof.Machine.execExtest bits s
  | .samplePreload bits => Sys2Proof.Machine.execSamplePreload bits s
  | .idcode => Sys2Proof.Machine.execIdcode s
  | .clamp bits => Sys2Proof.Machine.execClamp bits s
  | .highz bits => Sys2Proof.Machine.execHighz bits s
  | .bypass => Sys2Proof.Machine.execBypass s
  | .zeroise r v => Sys2Proof.Machine.execZeroise r v s
  | .zeroisationComplete => Sys2Proof.Machine.execZeroisationComplete s
  | .attestationGo r v => Sys2Proof.Machine.execAttestationGo r v s
  | .attestationSigned => Sys2Proof.Machine.execAttestationSigned s
  | .rngHealthFail => Sys2Proof.Machine.execRngHealthFail s
  | .drbgReseed => Sys2Proof.Machine.execDrbgReseed s
  | .uncorrectableDetect d => Sys2Proof.Machine.execUncorrectableDetect d s
  | .poisonConsume c addr => Sys2Proof.Machine.execPoisonConsume c addr s
  | .ceLimitReached d n => Sys2Proof.Machine.execCeLimitReached d n s
  | .cellarKeyRequest a => Sys2Proof.Machine.execCellarKeyRequest a s
  | .cellarKeyRelease a => Sys2Proof.Machine.execCellarKeyRelease a s
  | .targetedTestVerdict a pass second => Sys2Proof.Machine.execTargetedTestVerdict a pass second s
  | .compaction m page => Sys2Proof.Machine.execCompaction m page s
  | .hbmPatrolScrub m sector r => Sys2Proof.Machine.execHbmPatrolScrub m sector r s
  | .sramPatrolScrub slot line r => Sys2Proof.Machine.execSramPatrolScrub slot line r s
  | .supply52vApply => Sys2Proof.Machine.execSupply52vApply s
  | .resetInAssert ns => Sys2Proof.Machine.execResetInAssert ns s
  | .resetInDeassert b => Sys2Proof.Machine.execResetInDeassert b s
  | .firmwareReady => Sys2Proof.Machine.execFirmwareReady s
  | .loaderReboot => Sys2Proof.Machine.execLoaderReboot s
  | .rescueNext r v => Sys2Proof.Machine.execRescueNext r v s
  | .rescueGo r v host => Sys2Proof.Machine.execRescueGo r v host s
  | .rescueInstallDone ok => Sys2Proof.Machine.execRescueInstallDone ok s
  | .readId => Sys2Proof.Machine.execReadId s
  | .readStatus => Sys2Proof.Machine.execReadStatus s
  | .readPower => Sys2Proof.Machine.execReadPower s
  | .readTrip => Sys2Proof.Machine.execReadTrip s
  | .readLog k => Sys2Proof.Machine.execReadLog k s
  | .readRepair k => Sys2Proof.Machine.execReadRepair k s
  | .readTime => Sys2Proof.Machine.execReadTime s
  | .zarm => Sys2Proof.Machine.execZarm s
  | .zarmExpiry => Sys2Proof.Machine.execZarmExpiry s
  | .smbZeroise x => Sys2Proof.Machine.execSmbZeroise x s
  | .smbRescue x => Sys2Proof.Machine.execSmbRescue x s
  | .enMate => Sys2Proof.Machine.execEnMate s
  | .powerOnResetEnd => Sys2Proof.Machine.execPowerOnResetEnd s
  | .enBreak => Sys2Proof.Machine.execEnBreak s
  | .inputLockout => Sys2Proof.Machine.execInputLockout s
  | .circuitBreakerTrip => Sys2Proof.Machine.execCircuitBreakerTrip s
  | .localTimeLowRead r => Sys2Proof.Machine.execLocalTimeLowRead r s
  | .ctrClear r c v => Sys2Proof.Machine.execCtrClear r c v s
  | .registerWrite r t size v => Sys2Proof.Machine.execRegisterWrite r t size v s
  | .refclkDetect p => Sys2Proof.Machine.execRefclkDetect p s
  | .pcieCompletionTimeout p rid => Sys2Proof.Machine.execPcieCompletionTimeout p rid s
  | .rateWidthChange p speed width => Sys2Proof.Machine.execRateWidthChange p speed width s
  | .vfEnableSet p numVf => Sys2Proof.Machine.execVfEnableSet p numVf s
  | .vectorUnmask p n vec => Sys2Proof.Machine.execVectorUnmask p n vec s
  | .returnToD0 p n => Sys2Proof.Machine.execReturnToD0 p n s
  | .aspmL1Entry p => Sys2Proof.Machine.execAspmL1Entry p s
  | .aspmL1Exit p => Sys2Proof.Machine.execAspmL1Exit p s
  | .vrAlertDeassert => Sys2Proof.Machine.execVrAlertDeassert s
  | .returnToGated d => Sys2Proof.Machine.execReturnToGated d s
  | .authSigned l => Sys2Proof.Machine.execAuthSigned l s
  | .verificationDone => Sys2Proof.Machine.execVerificationDone s
  | .windowGrant l f => Sys2Proof.Machine.execWindowGrant l f s
  | .unrackComplete sess host => Sys2Proof.Machine.execUnrackComplete sess host s

end Sys2Proof.Machine
end

