-- ==== Sys2Proof/Safety.lean ====
section
/-! DEFINITION. The terms in which claims are stated: the canonical form of memory, when a core issues a word, and what a group of commands
leaves alone. -/

namespace Sys2Proof.Machine

/-- Device memory and the host memory behind each port are in canonical form. -/
def State.memCanon (s : State) : Bool := memWf s.mem && memWf s.portA.hostMem && memWf s.portB.hostMem

/-- Core `c` stands at word `w`: service goes on, the core runs a pass, nothing has stopped it or makes it wait, no word is under way, and the word in memory at
its position is `w` (R96, R101). -/
def State.atWord (s : State) (c : Nat) (w : Word) : Bool :=
  let r := (s.core c).run
  s.alive && r.active && r.stopped.isNone && !r.underWay && r.wait.isNone && s.fetchWord c == some w.toNat

/-- Core `c` issues word `w` now (R77, R97, R102, R110, R393): its checks pass, its operands are ready, no earlier stream word holds it
back, and no byte it reads is poisoned. -/
def State.issues (s : State) (c : Nat) (w : Word) (check : Option Nat) (foot : Footprint) (ready : Bool) : Bool :=
  s.atWord c w && !coreIllegal w && check.isNone && s.fenceOpen c w.toNat && ready && !s.streamHazard c foot
    && (s.poisonRead c (foot.reads ++ foot.tiles)).isNone

/-- Core `c` goes on with array word `w`, which has begun with the fine scales of its first rows (R101, R117): the conditions of its issue but
those on the sequencer, which may have stopped since. -/
def State.resumes (s : State) (c : Nat) (w : Word) (check : Option Nat) (foot : Footprint) (ready : Bool) : Bool :=
  let r := (s.core c).run
  s.alive && r.active && r.dec.isNone && !r.scaleHeld.isEmpty && r.wait.isNone && s.fetchWord c == some w.toNat && !coreIllegal w
    && check.isNone && s.fenceOpen c w.toNat && ready && !s.streamHazard c foot && (s.poisonRead c (foot.reads ++ foot.tiles)).isNone

/-- Two states that agree on everything but the cores, device memory and its poison marks: what a core's own words may change. -/
def State.sameOutsideCores (s t : State) : Prop :=
  t = { s with cores := t.cores, mem := t.mem, integ := { s.integ with poison := t.integ.poison } }

/-- A link takes a frame now: service goes on, the link hears frames, and the rows of R289 accept this one. -/
def State.takes (s : State) (l : Nat) (f : Frame) : Bool := s.alive && (s.link l).hears && (s.link l).judge f == .accepted

/-- What accepting a frame does to its link before the frame's own effect (R289–R291, R314): its corrected codewords are counted, its words
come out of their class's credit and are freed for the partner, ACK and credits are taken, SEQ moves on past a frame that is no NULL, and
FRAMES_RX rises. -/
def State.taken (s : State) (l : Nat) (f : Frame) : State :=
  ((((s.countLinkBy l cntCorr f.corr).modLink l (fun k => k.took f.head)).modLink l (fun k =>
    let k := k.takeAck f.head
    { k with
      lastAccept := s.time
      rxSeq := if f.head.type = 0 then k.rxSeq else k.rxSeq + 1
      keyRx := k.keyRx + b2n (f.head.enc && f.head.type != 0 && f.head.kg == k.kg % 4)
      replaysFor := if f.head.type = 0 then k.replaysFor else 0
      nullRx := if f.head.type = 0 then some (f.head.seq % 2 ^ 63) else k.nullRx }))).countLink l cntRx

/-- The intake watcher reads entry `e` of a ring now and gives it its own effect (R221–R224, R229, R254, R337, R420): the ring is watched and
nothing holds it back, the entry's phase is the expected one and it was not handled ahead, service is not closed, and a ring that is
not open to administration carries no administrative opcode. -/
def State.readsEntry (s : State) (p : Port) (n : Nat) (e : BitVec 256) : Bool :=
  s.watches p n && !s.paused p n && !s.seatFull p n && phaseOf e == (s.ring p n).inPhase
    && !(s.ring p n).handled.contains (s.ring p n).cons.toNat && !s.answersOnly
    && (!isAdmin (fld e.toNat 240 8) || (s.port p).adminRings.getLsbD n)

/-- What reading an entry does before its own effect (R222, R223, R345): it lies in its slot, CONS is past it with the phase expected next,
an idle module wakes, and
the moment is kept for R360. -/
def State.entryTaken (s : State) (p : Port) (n : Nat) (e : BitVec 256) : State :=
  (s.modRing p n (fun r => { r with
    area := Tbl.set 0 (r.cons.toNat % 2 ^ r.log2ent.toNat) e r.area
    cons := BitVec.ofNat 16 ((r.cons.toNat + 1) % 2 ^ r.log2ent.toNat)
    inPhase := if (r.cons.toNat + 1) % 2 ^ r.log2ent.toNat = 0 then !r.inPhase else r.inPhase
    handled := r.handled.erase r.cons.toNat })).wake.modPow (fun w => { w with commitAt := some s.time })

end Sys2Proof.Machine
end

