-- ==== Sys2Proof/Certificates/Slice0/Obligations.lean ====
section
/-! DEFINITION. The statements for the provers: what the module's commands do, what they leave unchanged, and what every step keeps. -/

open Sys2Proof Sys2Proof.Machine

/-- No ordinary data ends a run: `illFormed` is the one stop, and it is raised exactly for the commands that WellFormed.lean rejects. That such
a command stops is the model's choice (log entries 7 and 37), as is which operands WellFormed.lean rejects. -/
def Obligations.CommandsAnswerNext : Prop :=
  ∀ (i : Instr) (s : State), (i.wf = true → ∃ t, exec i s = .next t) ∧ (i.wf = false → exec i s = .fault .illFormed)

/-- The queue discipline is the host's form; the tick on an empty queue is the model's choice (log entry 13). -/
def Obligations.StepRunsFrontCommand : Prop :=
  ∀ (s : State), (∀ c rest, s.pending = c :: rest → step s = exec c { s with pending := rest }) ∧
    (s.pending = [] → step s = .next s.tick)

/-- exec is a command's effect on everything but the queue. -/
def Obligations.ExecKeepsQueue : Prop :=
  ∀ (i : Instr) (s t : State), exec i s = .next t → t.pending = s.pending

/-- The invariant of the model's memory, over all 219 commands and the tick. That an unlisted byte reads 0 is the model's form (R385 zeroes memory at reset; for host memory log entry 12). -/
def Obligations.MemoryStaysCanonical : Prop :=
  ∀ (s t : State), s.memCanon = true → step s = .next t → t.memCanon = true

/-- The values at reset; log entries 11 and 12 name what the spec leaves open. -/
def Obligations.ResetState : Prop :=
  State.reset.time = 0 ∧ State.reset.mem = [] ∧ State.reset.memCanon = true ∧ State.reset.pending = [] ∧
  (∀ c, (State.reset.core c).run.active = false) ∧ (∀ l, (Tbl.get {} l State.reset.links).state = .disabled) ∧
  (∀ p, (State.reset.port p).link = .down ∧ (State.reset.port p).perst = true) ∧ State.reset.boot.stage = 1 ∧
  State.reset.integ.log = [] ∧ State.reset.glob.modReady = false ∧ State.reset.glob.fatal = false

/-- The tick's whole effect but for GATE_WAIT, whose value is not stated. Which counter values end at an alignment point is the model's choice (log
entry 45). Which cause a suit-cycle falls to is the timing's, a free value where State does not fix it (log entry 40). -/
def Obligations.TickCountsTime : Prop :=
  ∀ (s u : State), u = (if s.alive then s.sendColls else s) → (s.board.aux = false → s.tick = s) ∧
    (s.board.aux = true → s.tick.time = s.time + 1) ∧
    (s.board.aux = true → u.clocked = false → s.tick = { u with time := u.time + 1 }) ∧
    (s.board.aux = true → u.clocked = true →
      s.tick = { u with
        time := u.time + 1
        pow := s.tick.pow
        cores := s.tick.cores
        sync := { u.noteSkip.sync with seq := { u.sync.seq with gateWait := s.tick.sync.seq.gateWait } } } ∧
      (∀ n m : Nat, n = (if u.pow.div8 then 432 else 384) → m = (if u.pow.div8 then 27 else 24) * u.pow.level →
        ∀ q : Power, q = { u.pow with
          boostTicks := u.pow.boostTicks + (if u.pow.div8 then 1 else 0), skipped32 := u.pow.skipped32 + m, pulses32 := u.pow.pulses32 + (n - m) } →
        (u.time % 2 = 0 → s.tick.pow = q) ∧
        (u.time % 2 = 1 → ∀ r b : Bool, r = u.pow.boostReady (u.time + 1) → b = (r || u.pow.boosting) → s.tick.pow = { q with
          boosting := b, boostPending := u.pow.boostPending && !r, powerGoodAt := if r then none else u.pow.powerGoodAt,
          div8 := b, level := u.pow.skip, divAt := if u.pow.div8 = b then u.pow.divAt else u.time + 1 })) ∧
      ∀ c, ∃ l, s.tick.core c = { u.core c with regs := { (u.core c).regs with stall := l } } ∧
        ((u.core c).run.active = false ∨ ((u.core c).run.stopped.isSome = true ∧ (u.core c).run.underWay = false) → l = (u.core c).regs.stall) ∧
        ((u.core c).run.active = true → (u.core c).run.stopped = none → (u.core c).regs.clearedAt ≤ u.pow.arrayCycles →
          (s.tick.core c).regs.idle s.tick.pow.arrayCycles = (u.core c).regs.idle u.pow.arrayCycles))

/-- The next state is given whole, so everything it does not name is unchanged. -/
def Obligations.ControlWordsIssue : Prop :=
  ∀ (c : Fin 64) (w : Word) (s : State),
    (coreOwn 0 0 w = true → s.issues c w none {} true = true → exec (.nop c w) s = .next (s.modRun c (CoreRun.issued w.toNat))) ∧
    (coreOwn 0 1 w = true → s.issues c w none {} true = true → (s.core c).run.loops = [] → s.sync.seq.ntiles ≤ (s.core c).run.cursor →
      exec (.endPart c w) s = .next (s.modRun c (fun r => { CoreRun.issued w.toNat r with stopped := some (0, 0) }))) ∧
    (coreOwn 0 2 w = true → s.issues c w none {} true = true → (s.core c).run.loops.length < 4 →
      (∀ o ∈ (s.core c).run.loops.head?, (s.core c).run.pc + fld w.toNat 36 8 + 1 ≤ o.last) →
      exec (.loop c w) s = .next (s.modRun c (fun r => { r with
        index := r.index + 1, pc := r.pc + 1, ibuf := r.buffered w.toNat true
        loops := { first := r.pc + 1, last := r.pc + fld w.toNat 36 8 + 1, count := fld w.toNat 16 20, i := 0, sa := signed 20 (fld w.toNat 44 20),
                   sp := signed 20 (fld w.toNat 64 20), so := signed 20 (fld w.toNat 84 20) } :: r.loops }))) ∧
    (coreOwn 0 3 w = true → s.issues c w none {} true = true → fld w.toNat 11 5 < 16 →
      exec (.setc c w) s = .next (s.modRun c (fun r => { CoreRun.issued w.toNat r with
        consts := Tbl.set 0 (fld w.toNat 11 5) (BitVec.ofNat 32 (fld w.toNat 16 32)) r.consts }))) ∧
    (∀ base : Int, coreOwn 0 4 w = true → base = 64 * (s.core c).run.eff w.toNat .a (fld w.toNat 16 17) →
      0 ≤ base → base + 64 ≤ 0x600000 → s.issues c w none { reads := [⟨base, 64⟩] } true = true →
      exec (.ldcx c w) s = .next (s.modRun c (fun r => { CoreRun.issued w.toNat r with
        ctxs := Tbl.set 0 (fld w.toNat 11 4) (BitVec.ofNat 512 (ofLeBytes (memGet s.mem (sramAddr c base.toNat) 64))) r.ctxs })))

/-- Stated for one command of the family; a contained fault changes nothing but the core it stops. That a word at another position changes
nothing is log entry 15's choice, and that an illegal word answers any core-word command log entry 7's. -/
def Obligations.WordsWaitOrFault : Prop :=
  ∀ (c : Fin 64) (w : Word) (s : State),
    (coreOwn 0 0 w = true ∨ coreIllegal w = true) →
    (s.canDecode c = false ∨ (∃ m, s.fetchWord c = some m ∧ m ≠ w.toNat) → exec (.nop c w) s = .next s) ∧
    (s.canDecode c = true → ((s.fetchWord c = some w.toNat ∧ coreIllegal w = true) ∨ s.fetchWord c = none) →
      exec (.nop c w) s = .next (s.modCore c (fun k =>
        let code := if s.fetchWord c = none then 0x2136 else 0x2130
        { k with
          run := { k.run with stopped := stopWith code k.run.stopped, wait := none, scaleHeld := [] }
          regs := { k.regs with seqFault := if k.regs.seqFault.valid then k.regs.seqFault else
            ⟨true, code % 256, k.run.tag, k.run.pc, k.run.index.toNat⟩ } })))

/-- The row function `ArrayJob.row` is the numeric rule; this says which rows are computed and everything that changes. The word that takes
its scales by parts and the lanes' free values are the model's (log entry 45). -/
def Obligations.ArrayWordsIssue : Prop :=
  ∀ (c : Fin 64) (w : Word) (s : State) (a : AWord) (j : ArrayJob) (rs : List RowResult),
    a = AWord.decode w.toNat → j = s.arrayJob c w.toNat a →
    rs = (List.range (a.liveRows j.r)).map (j.row (fun off n => memGet s.mem (sramAddr c off) n)) →
    (s.issues c w (s.checkArray c w.toNat a) (a.foot j.r w.toNat) (s.tilesHere c a && (a.scalesHere j.r || a.scalesSome j.r)) = true ∨
      s.resumes c w (s.checkArray c w.toNat a) (a.foot j.r w.toNat) (s.tilesHere c a && (a.scalesHere j.r || a.scalesSome j.r)) = true) →
    (a.scalesHere j.r = false → ∀ t2 : State, t2 = s.modRun c (fun r => r.feedScales (a.scaleRow a.pair)) →
      (coreOwn 1 0 w = true → exec (.mm c w) s = .next t2) ∧ (coreOwn 1 1 w = true → exec (.mmw c w) s = .next t2)) ∧
    (a.scalesHere j.r = true → j.r.stopped = none → a.drainNow j.r = 2 → (s.core c).tableEmpty j.es.func = true →
      ∀ t3 : State, t3 = (s.coreFault c 0x2332).modRun c (fun r => { r with scaleHeld := [] }) →
      (coreOwn 1 0 w = true → exec (.mm c w) s = .next t3) ∧ (coreOwn 1 1 w = true → exec (.mmw c w) s = .next t3)) ∧
    (a.scalesHere j.r = true → (a.drainNow j.r = 2 → (s.core c).tableEmpty j.es.func = false) →
      ∀ t0 t1 : State, t0 = (s.sramWrites c (rs.flatMap (fun x => x.writes))).modCore c (fun k =>
          { k with regs := k.regs.absorb rs, run := k.run.takeOperands a j.p }) →
      t1 = (if a.drainNow j.r = 2 then t0.useLanes c else t0) →
      (coreOwn 1 0 w = true → exec (.mm c w) s = .next ((if a.wq then t1.takeLq c 1 else t1).modRun c (CoreRun.issued w.toNat))) ∧
      (coreOwn 1 1 w = true → exec (.mmw c w) s = .next ((if a.wq then t1.takeLq c 4 else t1).modRun c (CoreRun.issued w.toNat))))

/-- The block functions are the numeric rule; this says how far a word gets and what is left when it ends. `st` is where it starts or goes on.
How many blocks one command takes and what stays in the decanter between two is the model's choice (log entry 15). -/
def Obligations.DecanterWordsIssue : Prop :=
  ∀ (c : Fin 64) (w : Word) (s : State),
    (s.issues c w (s.checkDec c w.toNat) (s.decFoot c w.toNat) (s.core c).run.blockHere = true → ∀ code, s.decJob c w.toNat = .inr code →
      (coreOwn 2 0 w = true → exec (.decanterForward c w) s = .next (s.coreFault c code)) ∧
      (coreOwn 2 1 w = true → exec (.decanterRecompute c w) s = .next (s.coreFault c code))) ∧
    (∀ (j : DecJob) (st : DecProg),
      ((s.issues c w (s.checkDec c w.toNat) (s.decFoot c w.toNat) (s.core c).run.blockHere = true ∧
          s.decJob c w.toNat = .inl j ∧ st = j.start w.toNat (s.window c)) ∨
        ((s.core c).run.dec = some st ∧ s.canDecode c = true ∧ st.word = w.toNat ∧ (s.core c).run.blockHere = true ∧
          j = s.decTask c w.toNat st.rows st.mask)) →
      ∀ (u : State) (g : DecProg) (bad : Option Nat), s.decRun c j st = (u, g, bad) →
      ∀ done : State, done = u.modRun c (fun r => { r with dec := none }) →
      (coreOwn 2 0 w = true →
        (bad = none → j.d.nb ≤ g.block → u.poisonRead c (j.endReads g) = none →
          exec (.decanterForward c w) s = .next ((done.endForward c j g).modRun c (CoreRun.issued w.toNat))) ∧
        (∀ code, bad = none → j.d.nb ≤ g.block → u.poisonRead c (j.endReads g) = some code → (s.core c).run.stopped = none →
          exec (.decanterForward c w) s = .next (done.coreFault c code)) ∧
        (bad = none → g.block < j.d.nb → exec (.decanterForward c w) s = .next (u.modRun c (fun r => { r with dec := some g }))) ∧
        (∀ code, bad = some code → (s.core c).run.stopped = none → exec (.decanterForward c w) s = .next (done.coreFault c code))) ∧
      (coreOwn 2 1 w = true →
        (bad = none → j.d.nb ≤ g.block → exec (.decanterRecompute c w) s = .next (done.modRun c (CoreRun.issued w.toNat))) ∧
        (bad = none → g.block < j.d.nb → exec (.decanterRecompute c w) s = .next (u.modRun c (fun r => { r with dec := some g }))) ∧
        (∀ code, bad = some code → (s.core c).run.stopped = none → exec (.decanterRecompute c w) s = .next (done.coreFault c code))))

/-- Each next state is given whole. The element functions `mapRow`, `rowStat`, `combineStat` and `normElem` are the numeric rules.
γ and β by the word's own CSC_EN and BIAS_EN, and the condition of 0x2135, are log entry 14's reading; the lanes' free values log entry 45's. -/
def Obligations.SfuWordsIssue : Prop :=
  ∀ (c : Fin 64) (w : Word) (s : State) (x : SWord) (r : CoreRun) (rd : Nat → Nat → List Nat) (fi fo : Fmt) (a p o : Nat),
    x = SWord.decode w.toNat → r = (s.core c).run → rd = (fun off n => memGet s.mem (sramAddr c off) n) →
    fi = (Fmt.ofCode x.ifmt).getD .fp32 → fo = (Fmt.ofCode x.ofmt).getD .fp32 →
    a = (64 * r.eff w.toNat .a x.src).toNat → p = (64 * r.eff w.toNat .p x.aux).toNat → o = (64 * r.eff w.toNat .o x.dst).toNat →
    (coreOwn 3 0 w = true → s.issues c w (x.checkMap r w.toNat) (x.mapFoot r w.toNat) true = true →
      ((s.core c).tableEmpty x.func = true → exec (.map c w) s = .next (s.coreFault c 0x2332)) ∧
      ((s.core c).tableEmpty x.func = false →
        ∀ rows : List (Nat × List Nat × Nat), rows = (List.range x.rows).map (fun m =>
            let xs := x.lanes rd a fi m
            (o + 64 * x.rs * m, mapRow x (s.tableOf c x.func) r fo m xs (if funcBinary x.func then x.lanes rd p fi m else xs))) →
        exec (.map c w) s = .next ((((s.sramWrites c (rows.map (fun q => (q.1, q.2.1)))).modRegs c
          (fun g => g.raise engSfu (rows.foldl (fun fl q => fl ||| q.2.2) 0))).useLanes c).modRun c (CoreRun.issued w.toNat)))) ∧
    (coreOwn 3 1 w = true → s.issues c w (x.checkEpiset r w.toNat) {} true = true →
      ∀ e : EpiSlot, e = { isSet := true, func := x.func, rscAddr := r.eff w.toNat .a x.src, colAddr := r.eff w.toNat .p x.aux,
                           dst := r.eff w.toNat .o x.dst, cols := x.cols, rscEn := x.rscEn, cscEn := x.cscEn, biasEn := x.biasEn, cursor := 0 } →
      exec (.episet c w) s = .next (s.modRun c (fun k => { CoreRun.issued w.toNat k with epis := Tbl.set {} x.eslot e k.epis }))) ∧
    (coreOwn 3 2 w = true → x.func = 0 → s.issues c w (firstFault (x.checks false true ++
        [(x.strideBad fi, 0x2133), (!(x.statFoot r w.toNat).inWindow, 0x2132)])) (x.statFoot r w.toNat) true = true →
      ∀ rs : List (StatRec × Nat), rs = (List.range x.rows).map (fun m => rowStat (x.lanes rd a fi m)) →
      exec (.rowstat c w) s = .next ((((s.sramWrites c [(o, rs.flatMap (fun q => q.1.bytes))]).modRegs c
        (fun g => g.raise engSfu (rs.foldl (fun fl q => fl ||| q.2) 0))).useLanes c).modRun c (CoreRun.issued w.toNat))) ∧
    (coreOwn 3 2 w = true → x.func = 1 → s.issues c w (firstFault [((Fmt.ofCode x.ifmt).isNone || (Fmt.ofCode x.ofmt).isNone, 0x2130),
        (sfuFmtBad x.ifmt || sfuFmtBad x.ofmt, 0x2330), (!(x.combineFoot r w.toNat).inWindow, 0x2132)]) (x.combineFoot r w.toNat) true = true →
      ∀ qs : List (Option (StatRec × Nat)), qs = (List.range x.rows).map (fun m => combineStat
          (StatRec.ofBytes (rd (a + 16 * m) 16)) (StatRec.ofBytes (rd (p + 16 * m) 16))) →
      (none ∈ qs → exec (.rowstatCombine c w) s = .next (s.coreFault c 0x2333)) ∧
      (∀ rs : List (StatRec × Nat), qs = rs.map some → exec (.rowstatCombine c w) s =
        .next ((((s.sramWrites c [(o, rs.flatMap (fun q => q.1.bytes))]).modRegs c
          (fun g => g.raise engSfu (rs.foldl (fun fl q => fl ||| q.2) 0))).useLanes c).modRun c (CoreRun.issued w.toNat)))) ∧
    (∀ (chk : Option Nat) (rec' : Nat → StatRec) (es : EpiSlot), rec' = (fun m => StatRec.ofBytes (rd (p + 16 * m) 16)) → es = Tbl.get {} x.eslot r.epis →
      coreOwn 3 3 w = true → chk = firstFault (x.checks true (decide (x.func % 8 ≤ 1)) ++
        [((x.cscEn || x.biasEn) && !es.isSet, 0x2135), (x.strideBad fi || x.strideBad fo, 0x2133), (!(x.normFoot r w.toNat).inWindow, 0x2132)]) →
      s.issues c w chk (x.normFoot r w.toNat) true = true →
      ((∃ m < x.rows, (rec' m).kind ≠ 0x53) → exec (.rownorm c w) s = .next (s.coreFault c 0x2333)) ∧
      ((∀ m < x.rows, (rec' m).kind = 0x53) →
        ∀ (par : Nat → Nat → Nat) (rows : List (Nat × List Nat × Nat)),
          par = (fun n d => ofLeBytes (rd ((64 * es.colAddr).toNat + 8 * (n % es.cols) + d) 4)) →
          rows = (List.range x.rows).map (fun m =>
            let ys := (x.lanes rd a fi m).zipIdx.map (fun (v, n) =>
              let y := normElem (rec' m) (x.func % 8 == 1) ((rec' m).rho (x.func % 8 == 1) (x.func / 8)) v
                (if x.cscEn then some (par n 0) else none) (if x.biasEn then some (par n 4) else none)
              let z := cvt fo (rndOf x.rnd (r.rsr m n)) x.ovf y.1
              (z.1, y.2 ||| z.2))
            (o + 64 * x.rs * m, packElems fo (ys.map Prod.fst), ys.foldl (fun fl q => fl ||| q.2) 0)) →
          exec (.rownorm c w) s = .next ((((s.sramWrites c (rows.map (fun q => (q.1, q.2.1)))).modRegs c
            (fun g => g.raise engSfu (rows.foldl (fun fl q => fl ||| q.2.2) 0))).useLanes c).modRun c (CoreRun.issued w.toNat))))

/-- The next state is given whole: `k` is the core after the load, and the report is made once per pass. -/
def Obligations.TableLoadIssues : Prop :=
  ∀ (c : Fin 64) (w : Word) (s : State) (x : SWord) (r : CoreRun) (base : Int) (bs : List Nat) (foot : Footprint),
    x = SWord.decode w.toNat → r = (s.core c).run → base = 64 * r.eff w.toNat .a x.src → bs = s.tableImage c base.toNat →
    foot = { reads := [⟨base, 64 + 16 * min (tableHdr (memGet s.mem (sramAddr c base.toNat) 64)).nent 256⟩] } →
    coreOwn 3 4 w = true → 4 ≤ x.func → x.func ≤ 15 → s.issues c w (if foot.inWindow then none else some 0x2132) foot true = true →
    (tableOk x.func bs = false → exec (.tbload c w) s = .next (s.coreFault c 0x2331)) ∧
    (tableOk x.func bs = true → ∀ u : State, u = s.modCore c (fun k => { k with
          tables := Tbl.set [] x.func bs k.tables, shadow := Tbl.set [] x.func (Tbl.get [] x.func k.tables) k.shadow
          regs := { k.regs with sfuEpoch := k.regs.sfuEpoch + 1, sfuCustom := k.regs.sfuCustom ||| BitVec.ofNat 16 (2 ^ x.func) } }) →
      ((Tbl.get ({} : PassTable) r.table s.sync.tables).customSeen = true → exec (.tbload c w) s = .next (u.modRun c (CoreRun.issued w.toNat))) ∧
      ((Tbl.get ({} : PassTable) r.table s.sync.tables).customSeen = false → exec (.tbload c w) s =
        .next (((u.modSync (fun y => { y with tables := Tbl.upd {} r.table (fun p => { p with customSeen := true }) y.tables })).report
          { code := 0x0320, detail := r.tag }).modRun c (CoreRun.issued w.toNat))))

/-- The next state is given whole. -/
def Obligations.StreamWordsIssue : Prop :=
  ∀ (c : Fin 64) (w : Word) (s : State) (r : CoreRun), r = (s.core c).run →
    (∀ (base : Int) (v : Nat) (d : SDesc), coreOwn 4 0 w = true → base = 64 * r.eff w.toNat .a (fld w.toNat 20 17) →
      0 ≤ base → base + 64 ≤ 0x600000 → (fld w.toNat 37 6 < 48 ∨ fld w.toNat 37 6 = 63) →
      s.issues c w none { reads := [⟨base, 64⟩] } true = true →
      v = ofLeBytes (memGet s.mem (sramAddr c base.toNat) 64) → d = SDesc.decode v →
      (16 ≤ r.queueLoad → exec (.submit c w) s = .next s) ∧
      (r.queueLoad < 16 → d.refused = true → exec (.submit c w) s = .next ((s.modRun c (CoreRun.issued w.toNat)).coreFault c 0x2202)) ∧
      (r.queueLoad < 16 → d.refused = false → exec (.submit c w) s = .next (s.modRun c (fun r => { CoreRun.issued w.toNat r with
        queues := Tbl.set [] (fld w.toNat 16 4)
          (Tbl.get [] (fld w.toNat 16 4) r.queues ++ [.desc (BitVec.ofNat 512 v) (fld w.toNat 37 6) r.index.toNat false 0]) r.queues
        lqPlan := r.lqPlan ++ (if d.dlq then [(r.index.toNat, if d.kind = 3 then none else some (d.tiles (d.runs [])))] else []) })))) ∧
    (∀ (b : Binding) (k : Kicker) (n : Nat), coreOwn 4 1 w = true → s.issues c w none {} true = true → fld w.toNat 11 5 < 16 →
      r.bindings[fld w.toNat 11 5]? = some b → Tbl.get none b.kicker s.serve.kickers = some k → n = k.part (fld w.toNat 16 10) (fld w.toNat 26 1) →
      (16 ≤ r.queueLoad → exec (.kfetch c w) s = .next s) ∧
      (r.queueLoad < 16 → exec (.kfetch c w) s = .next (((s.modRun c (fun r => { r with
        lqPlan := r.lqPlan ++ [(r.index.toNat, some n)]
        kfetches := r.kfetches ++ [{ index := r.index.toNat, count := n, bytes := k.tile
                                     addr := if k.sites.contains (fld w.toNat 16 10)
                                       then some (k.base + k.offset k.tile (fld w.toNat 16 10) (fld w.toNat 26 1)) else none }] })).pumpKfetch c).modRun c
        (CoreRun.issued w.toNat)))) ∧
    (∀ (x : CWord) (cx : ConvCtx), coreOwn 4 2 w = true → x = CWord.decode r w.toNat →
      cx = ConvCtx.decode (Tbl.get (0 : BitVec 512) x.cx r.ctxs).toNat → cx.kind = 2 → (x.kstep = true → (r.level x.klvl).isSome = true) →
      cx.efmt ∈ [0, 1, 2, 3, 4, 7] → cx.bad = false → cx.bytes ≤ x.drs → (x.foot r cx).inWindow = true →
      s.issues c w none (x.foot r cx) true = true →
      (16 ≤ r.queueLoad → exec (.convfeed c w) s = .next s) ∧
      (r.queueLoad < 16 → exec (.convfeed c w) s = .next ((s.sramWrites c ((List.range x.rows).map (fun m =>
        ((x.dst + 64 * Int.ofNat (x.drs * m)).toNat, (List.range 64).flatMap (fun kk => match cx.source (x.row0 + m) (x.k0 r + kk) with
          | some o => memGet s.mem (sramAddr c (x.src + Int.ofNat (o * cx.bytes)).toNat) cx.bytes
          | none => List.replicate cx.bytes 0))))).modRun c (CoreRun.issued w.toNat))))

/-- The frame of 17 core words, for every operand, state and outcome. -/
def Obligations.CoreWordsKeepTheRest : Prop :=
  ∀ (c : Fin 64) (w : Word) (s t : State) (i : Instr),
    i ∈ [.nop c w, .endPart c w, .loop c w, .setc c w, .ldcx c w, .mm c w, .mmw c w, .decanterForward c w, .decanterRecompute c w,
         .map c w, .episet c w, .rowstat c w, .rowstatCombine c w, .rownorm c w, .submit c w, .kfetch c w, .convfeed c w] →
    exec i s = .next t → s.sameOutsideCores t ∧ ∀ k, k ≠ c.val → t.core k = s.core k

/-- Through the commands: a steward's SET and ADD, a core's claim at the collector, and a MONITOR. On a board with no waiter of its own, or at the collector. -/
def Obligations.PegOperations : Prop :=
  (∀ (n : Fin 4) (addr : BitVec 48) (data : BitVec 64) (s : State) (h : Home) (p : Nat) (x : Int),
    s.alive = true → pegAt addr.toNat = some (h, p) → fld data.toNat 59 5 = 0 → fld data.toNat 24 32 = 0 →
    (∀ c, h = .core c → (s.core c).run.wait = none) → (h = .coll → (s.peg .coll p).barrier = false) →
    (fld data.toNat 56 3 = 0 → ∃ t, exec (.stewardPegSet n addr ⟨8, data, false⟩) s = .next t ∧
      t.peg h p = { s.peg h p with value := fld data.toNat 0 24 } ∧ ∀ h' p', (h', p') ≠ (h, p) → t.peg h' p' = s.peg h' p') ∧
    (fld data.toNat 56 3 = 1 → x = Int.ofNat (s.peg h p).value + signed 24 (fld data.toNat 0 24) → ∃ t, exec (.stewardPegAdd n addr ⟨8, data, false⟩) s = .next t ∧
      t.peg h p = { s.peg h p with
        value := (min (max x 0) (2 ^ 24 - 1)).toNat
        satHi := (s.peg h p).satHi || decide (2 ^ 24 - 1 < x), satLo := (s.peg h p).satLo || decide (x < 0) } ∧
      (∀ h' p', (h', p') ≠ (h, p) → t.peg h' p' = s.peg h' p') ∧
      (0 ≤ x → x ≤ 2 ^ 24 - 1 → t.sync.collStatus = s.sync.collStatus ∧ ∀ c, (t.core c).regs.pegStatus = (s.core c).regs.pegStatus))) ∧
  (∀ (c : Fin 64) (p : Nat) (s : State), s.alive = true → s.sync.claims.find? (fun k => k.1 == c.val) = some (c.val, p) →
    (1 ≤ (s.peg .coll p).value → ∃ t, exec (.pegClaim c) s = .next t ∧ t.peg .coll p = { s.peg .coll p with value := (s.peg .coll p).value - 1 }) ∧
    ((s.peg .coll p).value = 0 → ∃ t, exec (.pegClaim c) s = .next t ∧
      t.peg .coll p = { s.peg .coll p with fails := min ((s.peg .coll p).fails + 1) 65535 })) ∧
  (∀ (c : Fin 64) (w : Word) (s t : State), coreOwn 5 3 w = true → exec (.monitor c w) s = .next t → ∀ h p, t.peg h p = s.peg h p)

/-- The two effects and the refusals of R260 and R270 for both commands. That a steward's misuse of an arrival peg falls on the pass that runs is log entry
19's reading, no rule. -/
def Obligations.StewardPegAccesses : Prop :=
  ∀ (n : Fin 4) (addr : BitVec 48) (bytes : Nat) (data : BitVec 64) (s t : State) (r : Report), s.alive = true →
    r = { code := 0, addr := addr.toNat, kind := .steward, unit := n.val } →
    (∀ h p, pegAt addr.toNat = some (h, p) → fld data.toNat 59 5 = 0 → fld data.toNat 24 32 = 0 → (h = .coll → (s.peg .coll p).barrier = false) →
      (fld data.toNat 56 3 = 0 → exec (.stewardPegSet n addr ⟨8, data, false⟩) s = .next (s.pegOp h p (64 + n.val) (.set (fld data.toNat 0 24)))) ∧
      (fld data.toNat 56 3 = 1 → exec (.stewardPegAdd n addr ⟨8, data, false⟩) s = .next (s.pegOp h p (64 + n.val) (.add (signed 24 (fld data.toNat 0 24)))))) ∧
    ∀ i, i ∈ [Instr.stewardPegSet n addr ⟨bytes, data, false⟩, .stewardPegAdd n addr ⟨bytes, data, false⟩] → i.wf = true →
      ((bytes ≠ 8 ∨ pegAt addr.toNat = none ∨ fld data.toNat 59 5 ≠ 0 ∨ fld data.toNat 24 32 ≠ 0 ∨ 2 ≤ fld data.toNat 56 3) →
        exec i s = .next (s.report { r with code := 0x3001 })) ∧
      (∀ p, bytes = 8 → pegAt addr.toNat = some (.coll, p) → fld data.toNat 59 5 = 0 → fld data.toNat 24 32 = 0 → fld data.toNat 56 3 ≤ 1 →
        (s.peg .coll p).barrier = true →
        (s.running = none → exec i s = .next (s.report { r with code := 0x2731 })) ∧
        (∀ k x, s.running = some (k, x) → exec i s = .next ((s.abortPass k 0x2731).report { r with code := 0x2731, detail := x.tag, reqs := x.endedBy 0x2731 }))) ∧
      (exec i s = .next t → t.mem = s.mem ∧ t.links = s.links ∧ t.serve = s.serve ∧ t.slots = s.slots ∧ t.pages = s.pages ∧ t.pow = s.pow ∧ t.sec = s.sec)

/-- The next state is given whole, through the operation of the home. -/
def Obligations.PegWordsIssue : Prop :=
  ∀ (c : Fin 64) (w : Word) (s : State) (x : PWord) (q : List SqEntry),
    x = PWord.decode w.toNat → q = Tbl.get [] x.relq (s.core c).run.queues →
    s.issues c w (s.checkPeg c x) {} (!(s.core c).run.releaseOpen x) = true →
    (∀ i, (x.relq = 31 ∨ (s.core c).run.queueLoad < 16) → (coreOwn 5 0 w = true ∧ i = Instr.pegSet c w ∨ coreOwn 5 1 w = true ∧ i = Instr.pegAdd c w) →
      ((x.relq = 31 ∨ q = []) → (homeOf c x.tk x.tcore ≠ .coll ∨ (s.peg .coll x.peg).barrier = false) →
        exec i s = .next ((s.pegOp (homeOf c x.tk x.tcore) x.peg c x.pegOp).modRun c (CoreRun.issued w.toNat))) ∧
      (∀ g, (x.relq = 31 ∨ q = []) → homeOf c x.tk x.tcore = .coll → s.arriveGroup x.peg = some g → (s.peg .coll x.peg).barrier = true →
        exec i s = .next ((s.arrive c g).modRun c (CoreRun.issued w.toNat))) ∧
      (x.relq ≠ 31 → q ≠ [] → exec i s = .next (s.modRun c (fun r => { CoreRun.issued w.toNat r with
        queues := Tbl.set [] x.relq (q ++ [.peg x.tk x.tcore x.peg x.pegOp]) r.queues })))) ∧
    (coreOwn 5 2 w = true →
      (x.tk = 0 → 1 ≤ (s.peg (.core c) x.peg).value → exec (.acquire c w) s = .next ((s.setPeg (.core c) x.peg
        { s.peg (.core c) x.peg with value := (s.peg (.core c) x.peg).value - 1 }).modRun c (CoreRun.issued w.toNat))) ∧
      ((x.tk ≠ 0 ∨ (s.peg (.core c) x.peg).value = 0) → exec (.acquire c w) s = .next (s.modRun c (fun r => { r with wait := some { acquire := true, coll := x.tk == 2, peg := x.peg, pred := 0, value := 1, started := s.time, limitUs := s.sync.pegWaitUs, word := w } })))) ∧
    (coreOwn 5 3 w = true →
      (x.tk = 0 → predHolds x.pred (s.peg (.core c) x.peg).value x.value = true → exec (.monitor c w) s = .next (s.modRun c (CoreRun.issued w.toNat))) ∧
      ((x.tk ≠ 0 ∨ predHolds x.pred (s.peg (.core c) x.peg).value x.value = false) → exec (.monitor c w) s = .next (s.modRun c (fun r => { r with wait := some { acquire := false, coll := x.tk == 2, peg := x.peg, pred := x.pred, value := x.value, started := s.time, limitUs := s.sync.pegWaitUs, word := w } }))))

/-- Each message is taken out of its list; a wait that completes moves its sequencer on. -/
def Obligations.PegMessages : Prop :=
  ∀ (c : Fin 64) (s : State), s.alive = true →
    (∀ (x : PegWait) (g : Registration), (s.core c).run.wait = some x → x.coll = true → s.sync.engaged c = false →
      g = { core := c, peg := x.peg, acquire := x.acquire, pred := x.pred, value := x.value } →
      exec (.pegRegister c) s = .next (if predHolds x.pred (s.peg .coll x.peg).value x.value
        then { s with sync := { s.sync with wakes := s.sync.wakes ++ [(c.val, x.peg, (s.peg .coll x.peg).value)] } }
        else { s with sync := { s.sync with regs := s.sync.regs ++ [g] } })) ∧
    (∀ (x : PegWait) (v : Nat), s.sync.wakes.find? (fun k => k.1 == c.val) = some (c.val, x.peg, v) → (s.core c).run.wait = some x → x.coll = true →
      (x.acquire = true → s.time < x.started + 100 * x.limitUs → exec (.pegWake c) s = .next { s with sync := { s.sync with
        wakes := s.sync.wakes.erase (c.val, x.peg, v), claims := s.sync.claims ++ [(c.val, x.peg)] } }) ∧
      (x.acquire = false → predHolds x.pred v x.value = true → s.time < x.started + 100 * x.limitUs → exec (.pegWake c) s =
        .next ({ s with sync := { s.sync with wakes := s.sync.wakes.erase (c.val, x.peg, v) } }.modRun c (fun r => { CoreRun.issued x.word.toNat r with wait := none }))) ∧
      (((x.acquire = false ∧ predHolds x.pred v x.value = false) ∨ x.started + 100 * x.limitUs ≤ s.time) → exec (.pegWake c) s =
        .next { s with sync := { s.sync with wakes := s.sync.wakes.erase (c.val, x.peg, v) } })) ∧
    (∀ p, s.sync.claims.find? (fun k => k.1 == c.val) = some (c.val, p) →
      (∀ x, 1 ≤ (s.peg .coll p).value → (s.core c).run.wait = some x → x.coll = true → x.acquire = true → x.peg = p → ∃ t,
        exec (.pegClaim c) s = .next t ∧ (t.core c).run = { CoreRun.issued x.word.toNat (s.core c).run with wait := none } ∧
        t.sync.claims = s.sync.claims.erase (c.val, p)) ∧
      ((s.peg .coll p).value = 0 → exec (.pegClaim c) s = .next (({ s with sync := { s.sync with
        claims := s.sync.claims.erase (c.val, p), regs := s.sync.regs ++ [{ core := c, peg := p, acquire := true, pred := 0, value := 1 }] } } : State).setPeg
          .coll p { s.peg .coll p with fails := min ((s.peg .coll p).fails + 1) 65535 })))

/-- The host operand is what the hosts stored where the descriptor may read; it is applied before the movement. That a descriptor that fails leaves the runs
already moved in place is log entry 23's reading, no rule. -/
def Obligations.StreamsMove : Prop :=
  (∀ (c : Fin 64) (q : Fin 16) (host : Cells) (s u : State) (i dp ix : Nat) (bits : BitVec 512) (m : Bool) (fl0 : Nat) (d : SDesc) (idx : List Nat) (f : Footprint),
    u = s.hostSeen host → u.alive = true → (u.core c).run.active = true →
    firstUnmoved (Tbl.get [] q.val (u.core c).run.queues) = some (i, .desc bits dp ix m fl0) → d = SDesc.decode bits.toNat →
    idx = u.indexList d → f = u.descFootprint c d →
    ∀ n, (n = Instr.streamCopy c q host ∧ d.kind = 1) ∨ (n = Instr.streamGather c q host ∧ d.kind = 2) ∨ (n = Instr.streamScatter c q host ∧ d.kind = 3)
      ∨ (n = Instr.scalefeed c q host ∧ d.kind = 4) →
    (u.streamConflict c (fun k => decide (k < ix)) { f with slots := (u.core c).run.dlqSlots ix d } = true → exec n s = .next u) ∧
    (u.streamConflict c (fun k => decide (k < ix)) { f with slots := (u.core c).run.dlqSlots ix d } = false →
      (∀ e, u.startError c d = some e → exec n s = .next (u.abortDesc c q i d [] e)) ∧
      (u.startError c d = none →
        (d.kind ≠ 4 → d.dlq = false →
          (∀ t fl, State.moveGroups c ix d idx (d.groups (d.runs idx)) u 0 = (t, fl, none) →
            exec n s = .next ((t.modRun c (fun r => r.setEntry q i (some (.desc bits dp ix true fl)))).pumpKfetch c)) ∧
          (∀ t fl e, State.moveGroups c ix d idx (d.groups (d.runs idx)) u 0 = (t, fl, some e) →
            exec n s = .next ((t.abortDesc c q i d (d.runs idx) e).pumpKfetch c))) ∧
        (d.kind ≠ 4 → d.dlq = true → exec n s = .next ((u.moveDlq c q i bits dp ix).pumpKfetch c)) ∧
        (∀ (got : List (List Nat)) (bs : List Nat), d.kind = 4 → (d.runs []).map (u.readRun c d []) = got.map (fun b => .inl (b, none)) → bs = got.flatten →
          exec n s = .next ((u.modRun c (fun r =>
            let part := (bs.drop (r.progress ix)).take (8192 - r.scaleFifo.length)
            (({ r with scaleFifo := r.scaleFifo ++ part }).setProgress ix (r.progress ix + part.length)).setEntry q i
              (some (.desc bits dp ix (decide (bs.length ≤ r.progress ix + part.length)) 0)))).pumpKfetch c))))) ∧
  (∀ (c : Fin 64) (q : Fin 16) (s u : State) (bits : BitVec 512) (dp ix fl : Nat) (es : List SqEntry),
    s.alive = true → (s.core c).run.active = true → Tbl.get [] q.val (s.core c).run.queues = .desc bits dp ix true fl :: es →
    u = s.modCore c (fun k => { k with
      regs := { k.regs with streamFlags := k.regs.streamFlags ||| BitVec.ofNat 6 fl }
      run := { k.run with queues := Tbl.set [] q.val es k.run.queues, lqDone := k.run.lqDone.filter (fun x => x.1 != ix) } }) →
    exec (.descriptorComplete c q) s = .next (State.drainPegs c q es (if dp < 48 then u.pegOp (.core c) dp c (.add 1) else u)))

/-- The tiles are delivered by the shared operation `deliverTile`. Which cores a ring tile reaches is log entry 42's reading; ACTIVE's fall and
the tie of LATE_CORE at one counter value are log entry 45's. -/
def Obligations.WeightRounds : Prop :=
  (∀ (c : Fin 64) (s : State) (j : Nat), j = (s.core c).run.roundsReq → s.alive = true → (s.core c).run.active = true → (s.core c).run.stopped = none →
    s.sync.seq.active = true → j < ceilDiv s.sync.seq.ntiles 6 → (j < 4 ∨ 6 * (j - 3) ≤ (s.core c).run.cursor) →
    ∀ old : Nat × Nat, old = Tbl.get (64, 0) j s.sync.seq.late → ∀ last : Nat × Nat, last = (if old.2 = s.time ∧ old.1 < c.val then old else (c.val, s.time)) →
    exec (.weightRoundRequest c) s = .next ((s.modRun c (fun r => { r with roundsReq := j + 1 })).modSync (fun y =>
      { y with seq := { y.seq with late := Tbl.set (64, 0) j last y.seq.late } }))) ∧
  (∀ (s : State) (j : Nat) (tiles : List Nat), j = s.sync.seq.started → s.alive = true → s.sync.seq.active = true → j < ceilDiv s.sync.seq.ntiles 6 →
    (∀ c ∈ s.passCores, j < (s.core c).run.roundsReq) →
    tiles = (List.range 6).filterMap (fun i => if 6 * j + i < s.sync.seq.ntiles then some (6 * j + i) else none) →
    ∃ t, exec .weightRoundStart s = .next t ∧ t.sync = { s.sync with seq := { s.sync.seq with
        started := j + 1, rounds := s.sync.seq.rounds + 1, active := decide (j + 1 < ceilDiv s.sync.seq.ntiles 6)
        lateCore := (Tbl.get (64, 0) j s.sync.seq.late).1, late := Tbl.set (64, 0) j (64, 0) s.sync.seq.late } } ∧
      t.mem = (tiles.foldl (fun s n => (s.tileCores n).foldl (fun s c => s.deliverTile n c) s) s).mem ∧
      t.cores = s.cores ∧ t.links = s.links ∧ t.serve = s.serve ∧ t.out = s.out) ∧
  (∀ (s : State) (t : State), exec .weightRoundStart s = .next t → (∃ c ∈ s.passCores, (s.core c).run.roundsReq ≤ s.sync.seq.started) → t = s)

/-- The chip phase and the release are the shared operations `chipPhase` and `releaseGroup`. -/
def Obligations.BarrierMessages : Prop :=
  (∀ (h : Fin 18) (g : Fin 7) (b : Bool) (s u : State) (d : GroupDecl) (n : Nat), s.alive = true → s.groupDecl g = some d →
    (h.val, g.val, b) ∈ s.sync.handMsgs → u = { s with sync := { s.sync with handMsgs := s.sync.handMsgs.erase (h.val, g.val, b) } } →
    n = (s.sync.group g).hand b + 1 →
    (n ≠ s.passHands.length → exec (.handArrival h g b) s = .next ((u.setPeg .coll d.arrivePeg { s.peg .coll d.arrivePeg with value := n }).modGroup g
      (fun x => x.setSense b (x.child b) n (x.die b)))) ∧
    (n = s.passHands.length → exec (.handArrival h g b) s = .next (((u.setPeg .coll d.arrivePeg { s.peg .coll d.arrivePeg with value := 0 }).modGroup g
      (fun x => x.setSense b (x.child b) 0 (some s.time))).chipPhase g d b))) ∧
  (∀ (l : Fin 48) (f : Frame) (s u : State) (g : Nat) (b : Bool), frameFits 0x20 f = true → s.takes l f = true → (s.link l).syncOk = true →
    u = s.taken l f → g = fld f.head.args 0 3 → b = bit f.head.args 3 →
    ((s.running).isSome = true → exec (.syncArrive l f) s = .next ((u.childArrival l g b).sendQueued l)) ∧
    (s.running = none → (g, b) ∉ (s.link l).latch → exec (.syncArrive l f) s =
      .next ((u.modLink l (fun k => { k with latch := k.latch ++ [(g, b)] })).sendQueued l)) ∧
    (s.running = none → (g, b) ∈ (s.link l).latch → exec (.syncArrive l f) s = .next ((u.malformed l).sendQueued l))) ∧
  (∀ (l : Fin 48) (f : Frame) (s u : State) (g : Nat) (b : Bool) (d : GroupDecl), frameFits 0x21 f = true → s.takes l f = true → (s.link l).syncOk = true →
    u = s.taken l f → g = fld f.head.args 0 3 → b = bit f.head.args 3 → s.groupDecl g = some d →
    (d.hasParent = true → d.parentLink = l.val → b ∈ (s.sync.group g).upSent → exec (.syncRelease l f) s = .next ((u.releaseGroup g d b).sendQueued l)) ∧
    ((d.hasParent = false ∨ d.parentLink ≠ l.val ∨ b ∉ (s.sync.group g).upSent) → exec (.syncRelease l f) s = .next ((u.malformed l).sendQueued l))) ∧
  (∀ (l : Fin 48) (f : Frame) (s u : State), s.takes l f = true → u = s.taken l f →
    (frameFits 0x20 f = true → (s.link l).syncOk = false → exec (.syncArrive l f) s = .next ((u.malformed l).sendQueued l)) ∧
    (frameFits 0x21 f = true → ((s.link l).syncOk = false ∨ s.groupDecl (fld f.head.args 0 3) = none) → exec (.syncRelease l f) s = .next ((u.malformed l).sendQueued l)))

/-- The pages of the pass are prepared by `prepItems`; here every item must come out ready or not at all. That every core
runs one program at word 0 is the model's choice (log entry 45); that an aborted pass folds its slots into its requests, and that one without a
request left is not retried, are the readings of log entries 42 and 27. No rule states them. -/
def Obligations.PassesStart : Prop :=
  (∀ (k : Fin 4) (l : Launch) (s p u v : State) (f : Nat) (rot : Bool) (items ready : List PassItem), s.serving = true → s.passBusy = false →
    p = s.promote → p.freeTable = some f → p.nextPass k = some (rot, items) → ((p.model k).state = .ready ∨ (p.model k).state = .draining) →
    p.turnOf k = true → u = p.wake → u.awake l.coreMask rot = true → (u.pow.sRail = 15 → u.pow.railOver = false) → u.blocked l.coreMask = false → u.pages.mayDraw = true →
    (∀ segs, u.launchCode l = none → u.plan l = .ok segs → State.prepItems items u = (ready, false, v) → ready ≠ [] → ∃ t, exec (.passLaunch k l) s = .next t ∧
      (t.table f).state = .running ∧ (t.table f).tag = v.drawEpoch.pages.newest ∧ (t.table f).mask = BitVec.ofNat 64 l.coreMask ∧
      (t.table f).present = 0 ∧ (t.table f).mslot = k.val ∧
      (∀ c < 64, bit l.coreMask c = true → (t.core c).run.active = true ∧ (t.core c).run.table = f ∧ (t.core c).run.prog = l.program ∧
        (t.core c).run.pc = 0 ∧ (t.core c).run.tag = v.drawEpoch.pages.newest) ∧
      t.glob.cnt.passesLaunched = v.glob.cnt.passesLaunched + 1) ∧
    (∀ code, u.launchCode l = some code → exec (.passLaunch k l) s = .next (u.refuseLaunch k l code (items.map (fun i => i.rid))) ∧
      (u.refuseLaunch k l code (items.map (fun i => i.rid))).sync.tables = u.sync.tables)) ∧
  (∀ (t : Fin 4) (s : State) (x : PassTable), x = s.table t → s.alive = true → x.state = .aborting → x.present = x.mask → s.blocked x.mask.toNat = false →
      s.otherPass t = false → s.awaits x = false →
    (∀ (l : Launch) (f : Nat) (segs : List Seg) (u : State), u = x.items.foldl (fun s i => s.modReq i.rid (x.foldSlots i))
          (s.dropTable t.val) →
      x.launch = some l → u.freeTable = some f → x.mayRetry = true → (∃ i ∈ x.items, (u.victimCode x i).isNone = true ∧ (u.req i.rid).isSome = true) →
      u.launchCode l = none → u.plan l = .ok segs → ∃ n, exec (.passRetry t) s = .next n ∧
        (n.table f).state = .running ∧ (n.table f).tag = x.tag ∧ (n.table f).seed = x.seed ∧ (n.table f).retried = true ∧ (n.table f).mayRetry = false ∧
        (∀ c < 64, bit l.coreMask c = true → (n.core c).run.active = true ∧ (n.core c).run.prog = l.program ∧ (n.core c).run.tag = x.tag ∧
          (n.core c).run.seed = x.seed) ∧ n.glob.cnt.passesRetried = s.glob.cnt.passesRetried + 1) ∧
    (x.mayRetry = false → ∃ n, exec (.passRetry t) s = .next n ∧ (n.table t).state = .free ∧ n.glob.cnt.passesRetried = s.glob.cnt.passesRetried))

/-- The premise on the cores of the aborted pass is R274's: one pass runs at a time, so a core of its mask runs that table's pass.
What the requests of a committed pass get is stated by their own commands and by the shared operations of R234. -/
def Obligations.PassesEnd : Prop :=
  (∀ (t : Fin 4) (code : BitVec 16) (s : State) (k : Nat), containedCode code.toNat = true → s.alive = true → (s.table t).state = .running →
    (∀ c < 64, bit (s.table t).mask.toNat c = true → (s.core c).run.active = true → (s.core c).run.table = t.val) →
    k = (match s.coreFaultCode t with | some (_, k) => k | none => code.toNat) → ∃ n, exec (.passAbort t code) s = .next n ∧
      n.table t = { s.table t with state := .aborting, abortAt := s.time, abortCode := k, mayRetry := !programFault k && !(s.table t).retried } ∧
      (∀ c < 64, bit (s.table t).mask.toNat c = true → (s.core c).run.active = true →
        (n.core c).run = { (s.core c).run with stopped := (match (s.core c).run.stopped with | some x => some x | none => some (2, 0)), wait := none }) ∧
      (∀ c < 64, bit (s.table t).mask.toNat c = false → n.core c = s.core c) ∧
      n.sync.seq.active = false ∧ (∀ p, (n.peg .coll p).barrier = false) ∧ n.glob.cnt.passesAborted = s.glob.cnt.passesAborted + 1 ∧ n.mem = s.mem ∧
      n.serve = s.serve ∧ n.links = s.links) ∧
  (∀ (t : Fin 4) (code : BitVec 16) (logits : List LogitRow) (s : State) (c k : Nat) (i : Instr), containedCode code.toNat = true → s.alive = true → (s.table t).state = .closed → (s.table t).slotFault = some (c, k) →
    i ∈ [Instr.passAbort t code, .passCommit t logits] → ∃ n, exec i s = .next n ∧
      n.table t = { s.table t with state := .aborting, abortAt := s.time, abortCode := k, mayRetry := !programFault k && !(s.table t).retried } ∧
      n.glob.cnt.passesAborted = s.glob.cnt.passesAborted + 1 ∧ n.mem = s.mem ∧ n.serve = s.serve) ∧
  (∀ (c : Fin 64) (s : State) (cause fault : Nat) (x : PassTable), s.alive = true → (s.core c).run.active = true → (s.core c).run.stopped = some (cause, fault) →
    (s.core c).run.drained = true → (∀ k ∈ s.sync.claims, k.1 ≠ c.val) → x = s.table (s.core c).run.table → ∃ n, exec (.completionSlotWrite c) s = .next n ∧
      (n.core c).run.active = false ∧ (n.core c).regs.numStatus = 0 ∧ (n.core c).regs.streamFlags = 0 ∧
      (n.table (s.core c).run.table).present = x.present ||| BitVec.ofNat 64 (2 ^ c.val) ∧
      (x.present ||| BitVec.ofNat 64 (2 ^ c.val) ≠ x.mask →
        (n.table (s.core c).run.table) = { x with present := x.present ||| BitVec.ofNat 64 (2 ^ c.val),
                                                  slots := Tbl.set 0 c.val ((s.core c).slotBits cause fault) x.slots }) ∧
      (x.present ||| BitVec.ofNat 64 (2 ^ c.val) = x.mask → x.state = .running →
        (n.table (s.core c).run.table).state = .closed ∧ (n.table (s.core c).run.table).closedAt = some s.time) ∧
      (∀ k, k ≠ c.val → n.core k = s.core k) ∧ n.mem = s.mem ∧ n.serve = s.serve ∧ n.out = s.out) ∧
  (∀ (c : Fin 64) (s : State) (x : PassTable), s.alive = true → (s.core c).run.active = true → x = s.table (s.core c).run.table → x.state = .aborting →
    bit x.mask.toNat c = true → bit x.present.toNat c = false → x.abortAt + 100000 ≤ s.time → ∃ n, exec (.drainLimitExpiry c) s = .next n ∧
      (n.core c).run = {} ∧ (n.table (s.core c).run.table).present = x.present ||| BitVec.ofNat 64 (2 ^ c.val) ∧
      n.sync.missing = s.sync.missing ||| BitVec.ofNat 64 (2 ^ c.val) ∧
      (∃ e ∈ n.integ.tests, e.act = .coreTest (s.slotOf c) ∧ e.code = 0x2721) ∧ (∀ k, k ≠ c.val → n.core k = s.core k)) ∧
  (∀ (t : Fin 4) (logits : List LogitRow) (s : State), s.alive = true → (s.table t).state = .closed → (s.table t).slotFault = none → ∃ n, exec (.passCommit t logits) s = .next n ∧
    n.table t = {} ∧ (∀ j, j ≠ t.val → n.table j = s.table j) ∧ n.glob.cnt.passesLaunched = s.glob.cnt.passesLaunched)

/-- The aborts are the shared operations `abortCores` and `abortPass`. -/
def Obligations.WatchdogsExpire : Prop :=
  (∀ (c : Fin 64) (s : State) (x : PegWait), s.alive = true → (s.core c).run.wait = some x →
    (s.time < x.started + 100 * x.limitUs → exec (.pegWaitExpiry c) s = .next s) ∧
    (x.started + 100 * x.limitUs ≤ s.time → s.releaseGroupOf x = none → exec (.pegWaitExpiry c) s =
      .next (((s.modRun c (fun r => { r with wait := none, stopped := some (3, 0) })).modSync (fun y =>
        { y with pegExp := min (y.pegExp + 1) 65535 })).abortCores (s.core c).run.table { code := 0x2720, kind := .coreSlot, unit := s.slotOf c } [])) ∧
    (∀ g u, x.started + 100 * x.limitUs ≤ s.time → s.releaseGroupOf x = some g → u = (((s.modSync (fun y => { y with laggards := BitVec.ofNat 64 (maskOf (s.laggards g)) })).modRun c
        (fun r => { r with wait := none, stopped := some (3, 0) })).modSync (fun y => { y with pegExp := min (y.pegExp + 1) 65535 })) →
      exec (.pegWaitExpiry c) s = .next (u.abortCores (s.core c).run.table { code := 0x2720, kind := .coreSlot, unit := s.slotOf c } (u.laggards g)))) ∧
  (∀ (t : Fin 4) (s : State) (x : PassTable), x = s.table t → s.alive = true → x.state = .running →
    (s.time < x.launchedAt + 100 * x.limitUs → exec (.passWatchdogExpiry t) s = .next s) ∧
    (x.launchedAt + 100 * x.limitUs ≤ s.time → exec (.passWatchdogExpiry t) s =
      .next ((s.modSync (fun y => { y with passExp := min (y.passExp + 1) 65535, missing := x.mask &&& ~~~x.present })).abortCores t { code := 0x2721 }
        (maskList 64 (x.mask &&& ~~~x.present).toNat)))) ∧
  (∀ (g : Fin 7) (s : State) (t : Nat) (x : PassTable) (d : GroupDecl) (b : Bool) (t0 : Nat), s.alive = true → s.running = some (t, x) →
    s.groupDecl g = some d → d.spans = true →
    [false, true].find? (fun b => match (s.sync.group g).die b with | some t0 => decide (t0 + 100 * d.chipWaitUs ≤ s.time) | none => false) = some b →
    (s.sync.group g).die b = some t0 → ∃ n, exec (.chipBarrierExpiry g) s = .next n ∧ (n.table t).state = .aborting ∧ (n.table t).abortCode = 0x2722 ∧
      n.sync.chipExp = min (s.sync.chipExp + 1) 65535 ∧ ∃ e ∈ n.integ.tests, e.act = .linkTest (s.lateLink g d b) ∧ e.code = 0x2722) ∧
  (∀ (n : Fin 4) (s : State), s.firmwareRuns = true → s.sec.invaded = false →
    (s.time < Tbl.get 0 n.val s.sync.kicks + 100000 * s.sync.stwKickMs → exec (.stewardWatchdogExpiry n) s = .next s) ∧
    (Tbl.get 0 n.val s.sync.kicks + 100000 * s.sync.stwKickMs ≤ s.time → ∃ t, exec (.stewardWatchdogExpiry n) s = .next t ∧
      t.glob.fatal = true ∧ t.glob.service = 3 ∧ t.glob.modReady = false ∧ t.mem = s.mem ∧ t.cores = s.cores))

/-- The record is an administrative one with the entry's cookie and commit time. -/
def Obligations.EntriesAreRead : Prop :=
  ∀ (p : Port) (n : Fin 16) (e : BitVec 256) (s u : State) (a : AdminReply),
    a = { port := p, ring := n, cookie := BitVec.ofNat 64 (fld e.toNat 128 64), tCommit := s.time } →
    u = s.modRing p n (fun r => (r.store 0 e).advance) →
    (∀ i, i ∈ [Instr.domainPurge p n e, .modelUnload p n e, .kickerDrop p n e, .sessionClose p n e, .sessionQuery p n e, .intakeIllegalOpcode p n e] → i.wf = true →
      ((s.watches p n = false ∨ s.paused p n = true ∨ s.seatFull p n = true ∨ phaseOf e ≠ (s.ring p n).inPhase) → exec i s = .next s) ∧
      (s.watches p n = true → s.paused p n = false → s.seatFull p n = false → phaseOf e = (s.ring p n).inPhase →
        (s.ring p n).handled.contains (s.ring p n).cons.toNat = false →
        (s.answersOnly = true → exec i s = .next (u.adminRecord a 0x2B20 0)) ∧
        (s.answersOnly = false → isAdmin (opcodeOf e) = true → (s.port p).adminRings.getLsbD n = false → exec i s = .next (u.adminRecord a 0x260B 0)))) ∧
    ((Instr.intakeIllegalOpcode p n e).wf = true → s.readsEntry p n e = true →
      exec (.intakeIllegalOpcode p n e) s = .next ((s.entryTaken p n e).adminRecord a 0x260B 0))

/-- For a new session; a session continued or forked is named by its handle in the descriptor. -/
def Obligations.RequestsEnter : Prop :=
  (∀ (p : Port) (n : Fin 16) (e : BitVec 256) (host : Cells) (s u : State) (r : Req), entryFits 0x01 e = true → (s.hostStore p host).readsEntry p n e = true →
    u = ((s.hostStore p host).entryTaken p n e).modServe (fun v => { v with nextRid := v.nextRid + 1 }) →
    r = { rid := s.serve.nextRid, port := p, ring := n, cookie := BitVec.ofNat 64 (fld e.toNat 128 64), tokens := [], phase := .waitModel, tCommit := s.time
          desc := (let d := match u.hostRead p (u.ringFn p n) (fld e.toNat 0 64) 128 with | some bs => Desc.ofBytes bs | none => { session := noIndex }
                   if (s.port p).seatMode && n.val != 0 then { d with stake := ((s.port p).seat n).stake.toNat } else d) } →
    (u.hostRead p (u.ringFn p n) (fld e.toNat 0 64) 128 = none → exec (.request p n e host) s = .next (u.refuseReq r 0x2604)) ∧
    (u.hostRead p (u.ringFn p n) (fld e.toNat 0 64) 128 ≠ none →
      (∀ code, u.checkDesc p n r.desc false = some code → exec (.request p n e host) s = .next (u.refuseReq r code)) ∧
      (∀ toks, u.checkDesc p n r.desc false = none → toks = words32 (u.hostGet p r.desc.tokens (4 * r.desc.ntok)) →
        ((u.model r.desc.mslot).state ≠ .ready → ∃ t, exec (.request p n e host) s = .next t ∧
          t = u.modServe (fun v => { v with reqs := v.reqs.filter (fun x => x.rid != r.rid) ++ [{ r with tokens := toks }] })) ∧
        (∀ (i : Nat) (x : StakeEntry), (u.model r.desc.mslot).state = .ready → r.desc.base = none → u.freeSess = some i → x = u.serve.stake r.desc.stake →
          x.enable = true →
          (u.serve.run r.desc.stake).usedAt x u.time + stakeUnits x (r.desc.basepos + r.desc.ntok) 0 r.desc.maxNew ≤ x.budget →
          ∃ t q, exec (.request p n e host) s = .next t ∧ q ∈ t.serve.reqs ∧ q.rid = r.rid ∧ q.phase = .walk ∧ q.sess = i ∧ q.tokens = toks ∧
            q.reserved = stakeUnits x (r.desc.basepos + r.desc.ntok) 0 r.desc.maxNew ∧
            (t.sess i).state = .busy ∧ (t.sess i).port = p ∧ (t.sess i).ring = n.val ∧ (t.sess i).domain = r.desc.domain ∧
            (t.serve.run r.desc.stake).used = (u.serve.run r.desc.stake).usedAt x u.time + q.reserved ∧
            t.glob.cnt.reqAdmitted = u.glob.cnt.reqAdmitted + 1 ∧ t.mem = u.mem)))) ∧
  (∀ (p : Port) (n : Fin 16) (e : BitVec 256) (s u : State), entryFits 0x02 e = true → s.readsEntry p n e = true → u = s.entryTaken p n e →
    (∀ r, u.serve.reqs.find? (fun r => r.isNamed p n (fld e.toNat 64 64)) = some r →
      (r.admitted = false → exec (.cancel p n e 0) s = .next (u.refuseReq r 0x2609)) ∧
      (r.admitted = true → exec (.cancel p n e 0) s = .next (u.endSoon r 0x2609))) ∧
    (u.serve.reqs.find? (fun r => r.isNamed p n (fld e.toNat 64 64)) = none → exec (.cancel p n e 0) s =
      .next (u.adminRecord { port := p, ring := n, cookie := BitVec.ofNat 64 (fld e.toNat 128 64), tCommit := s.time } 0 0)))

/-- The effect and the record of each entry. -/
def Obligations.AdminTables : Prop :=
  ∀ (p : Port) (n : Fin 16) (e : BitVec 256) (host : Cells) (s u : State) (a : AdminReply),
    a = { port := p, ring := n, cookie := BitVec.ofNat 64 (fld e.toNat 128 64), tCommit := s.time } →
    (u = (s.hostStore p host).entryTaken p n e → (s.hostStore p host).readsEntry p n e = true →
      (entryFits 0x10 e = true →
        (∀ code, u.readTable p (u.ringFn p n) (fld e.toNat 0 64) 16 4096 = .error code → exec (.stakeLoad p n e host) s = .next (u.adminRecord a code 0)) ∧
        (∀ vs l, u.readTable p (u.ringFn p n) (fld e.toNat 0 64) 16 4096 = .ok vs → l = vs.map StakeEntry.ofNat →
          ((∃ x ∈ l, x.enable = true ∧ x.len = 0) → exec (.stakeLoad p n e host) s = .next (u.adminRecord a 0x260B 0)) ∧
          ((∀ x ∈ l, x.enable = true → x.len ≠ 0) → ∀ t, t = (u.modServe (fun v => { v with
            stakeRuns := v.switchRuns (tableOf {} l) s.time, stakes := tableOf {} l, stakesShadow := v.stakes, stakeEpoch := v.stakeEpoch + 1 })).adminRecord a 0 0 →
            exec (.stakeLoad p n e host) s = .next (t.recheck (t.serve.reqs.filter (fun x => x.phase == .waitStake &&
              (t.serve.stake x.desc.stake).restarts (u.serve.stake x.desc.stake))))))) ∧
      (entryFits 0x11 e = true →
        (∀ code, u.readTable p (u.ringFn p n) (fld e.toNat 0 64) 4 16384 = .error code → exec (.domainLoad p n e host) s = .next (u.adminRecord a code 0)) ∧
        (∀ vs, u.readTable p (u.ringFn p n) (fld e.toNat 0 64) 4 16384 = .ok vs → exec (.domainLoad p n e host) s =
          .next ((u.modServe (fun v => { v with doms := tableOf {} (vs.map DomEntry.ofNat), domsShadow := v.doms })).adminRecord a 0 0)))) ∧
    (u = s.entryTaken p n e → s.readsEntry p n e = true → entryFits 0x12 e = true →
      exec (.domainPurge p n e) s = .next ((u.purge (fun d => d.domain == fld e.toNat 64 64 % 16384)).adminRecord a 0 0))

/-- Closing is the shared operation `closeSess`. -/
def Obligations.SessionEntries : Prop :=
  ∀ (p : Port) (n : Fin 16) (e : BitVec 256) (s u : State) (a : AdminReply),
    a = { port := p, ring := n, cookie := BitVec.ofNat 64 (fld e.toNat 128 64), tCommit := s.time } →
    u = s.entryTaken p n e → s.readsEntry p n e = true →
    (entryFits 0x40 e = true →
      (∀ i, u.named p n (fld e.toNat 64 64 % 2 ^ 32) = some i →
        (u.restful i = true → exec (.sessionClose p n e) s = .next ((u.closeSess i).adminRecord a 0 0) ∧
          ((u.closeSess i).sess i).state = .free ∧ ((u.closeSess i).sess i).hgen = ((u.sess i).hgen + 1) % 65536) ∧
        (u.restful i = false → exec (.sessionClose p n e) s = .next (u.adminRecord a 0x2602 0))) ∧
      (u.named p n (fld e.toNat 64 64 % 2 ^ 32) = none → exec (.sessionClose p n e) s = .next (u.adminRecord a 0x2602 0))) ∧
    (entryFits 0x41 e = true →
      (∀ i, u.named p n (fld e.toNat 64 64 % 2 ^ 32) = some i → exec (.sessionQuery p n e) s = .next (u.adminRecord a 0 (u.sess i).bits)) ∧
      (u.named p n (fld e.toNat 64 64 % 2 ^ 32) = none → exec (.sessionQuery p n e) s = .next (u.adminRecord a 0x2602 0)))

/-- The walk, the round and the move are the shared operations `walk`, `pruneRound` and `movePage`. Where the walk covers the whole prompt its last page is given back, so that the prompt's last
position is computed (the model's choice, log entry 25). -/
def Obligations.ServingEvents : Prop :=
  (∀ (i : Nat) (ahead : Fin 16) (s u : State) (r : Req) (d : Desc) (w : Walked) (kept : List Nat) (t res : Nat), s.reqOf i = some r → s.alive = true → r.phase = .walk →
    d = r.desc → w = State.walk d.mslot d.domain (s.model d.mslot).gen ahead (pageGroups (d.ntok / 16) r.tokens) 0 0 noIndex s.wake →
    kept = (if 16 * w.pages.length = d.ntok then w.pages.dropLast else w.pages) → t = 16 * kept.length →
    u = ((w.pages.drop kept.length).foldl State.release w.s).modSess i (fun x => { x with pages := kept, tail := t }) →
    res = stakeUnits r.stakeEntry (d.basepos + d.ntok - t) t d.maxNew →
    (w.refused = true → exec (.vineWalk i ahead) s = .next (u.endReq { r with vine := t } 0x2555 false)) ∧
    (w.refused = false → exec (.vineWalk i ahead) s = .next ((u.adjust r res).modReq r.rid (fun r => { r with
      vine := t, reserved := res, phase := .prefill, nextPos := t, firstPos := t })))) ∧
  (∀ (k : BitVec 12) (s u : State) (e : StakeEntry) (r : StakeRun), e = s.serve.stake k.toNat → r = s.serve.run k.toNat → s.serving = true →
    e.enable = true → r.now e s.time ≠ r.interval →
    u = s.modServe (fun v => { v with stakeRuns := Tbl.set {} k.toNat { r with interval := r.now e s.time, used := 0 } v.stakeRuns }) →
    exec (.stakeIntervalStart k) s = .next (u.recheck (u.serve.reqs.filter (fun x => x.phase == .waitStake && x.desc.stake == k.toNat)))) ∧
  (∀ (m : Fin 6) (k : Fin 4) (s u : State), s.alive = true → (s.pages.part m k).pruning = true →
    u = (s.pruneRound m k (s.pages.part m k).high.toNat).modPow (fun p => { p with lastActivity := (s.pruneRound m k (s.pages.part m k).high.toNat).time }) →
    (u.pruneDone m k (s.pages.part m k).high.toNat = true → exec (.pruneRound m k) s = .next (u.modPart m k (fun q => { q with pruning := false, idle := 0 }))) ∧
    (u.pruneDone m k (s.pages.part m k).high.toNat = false → exec (.pruneRound m k) s = .next u)) ∧
  (∀ (m : Fin 6) (p x : Nat) (s : State), s.alive = true → stackOf p = m → s.pages.movable p = true →
    (∃ h ∈ s.integ.held, h.act = .compaction m ∨ h.act = .rowRepair m true) → s.pages.lowestSlot m (s.page p).mslot = some x →
    exec (.compaction m p) s = .next ((s.movePage p x).startPruning m (s.page p).mslot))

/-- The record's bytes are those of `writeRack`. -/
def Obligations.RacksComplete : Prop :=
  (∀ (i : Nat) (ok : Bool) (s : State), (s.sess i).rackEpoch = none → s.alive = true → (s.sess i).state = .racking →
    (s.pages.mayDraw = false → exec (.rackComplete i ok) s = .next s) ∧
    (s.pages.mayDraw = true → ∃ t, exec (.rackComplete i ok) s = .next t ∧ (t.sess i).rackEpoch = some s.drawEpoch.pages.newest ∧
      t = ((s.sess i).held.foldl (fun u p => u.pin p s.drawEpoch.pages.newest) s.drawEpoch).modSess i (fun x => { x with rackEpoch := some s.drawEpoch.pages.newest }))) ∧
  (∀ (i : Nat) (ok : Bool) (s u v : State) (x : Session) (e fn : Nat) (reach : Bool), x = s.sess i → x.rackEpoch = some e → s.alive = true → x.state = .racking →
    fn = s.ringFn x.port x.ring → reach = ((s.port x.port).grantsBoth fn x.rack (4096 * x.rack4k) && ((s.port x.port).func fn).bme) →
    u = (if reach then s else s.dmaRefuse x.port).modPow (fun p => { p with lastActivity := s.time }) →
    (ok = true → reach = true → s.rackBytes i ≤ 4096 * x.rack4k →
      ∀ w : State, w = (x.rackHeld ++ x.held).foldl State.release (u.writeRack i) → v = (w.modSess i (fun y => { y with
          state := .racked, pages := [], rackHeld := [], rackEpoch := none, expiry := w.rackExpiry i
          preempts := if x.rackWhy = 2 then satAdd 8 y.preempts 1 else y.preempts })).retireEpoch e →
        (x.rackWhy = 1 → exec (.rackComplete i ok) s = .next (v.eventRecord i 0x0614)) ∧
        (x.rackWhy ≠ 1 → v.reqOf i = none → exec (.rackComplete i ok) s = .next v) ∧
        (∀ r, v.reqOf i = some r → (x.rackWhy = 0 → exec (.rackComplete i ok) s = .next (v.finishReq r (r.endCode.getD 0) (v.handle i) x.tail)) ∧
          (x.rackWhy = 2 → exec (.rackComplete i ok) s = .next (v.modReq r.rid (fun r => { r.note 0x0611 with preempts := r.preempts + 1 }))))) ∧
    ((ok = false ∨ reach = false ∨ 4096 * x.rack4k < s.rackBytes i) →
      v = ((x.rackHeld.foldl State.release u).modSess i (fun y => { y with state := (if x.rackWhy = 2 then .busy else .idle), rackEpoch := none, rackHeld := [] })).retireEpoch e →
        (∀ r, v.reqOf i = some r → x.rackWhy = 0 → exec (.rackComplete i ok) s = .next (v.finishReq r 0x2557 (v.handle i) x.tail)) ∧
        ((v.reqOf i = none ∨ x.rackWhy ≠ 0) → exec (.rackComplete i ok) s = .next (v.report { code := 0x2557, ports := 2 ^ x.port.num, func := fn })))) ∧
  (∀ (i t : Nat) (s u : State), (s.sess i).expiry = some t → s.alive = true → (s.sess i).state = .racked →
    u = s.report { code := 0x0553, ports := 2 ^ (s.sess i).port.num, func := s.ringFn (s.sess i).port (s.sess i).ring } →
    (s.time < t → exec (.rackExpiry i) s = .next s) ∧
    (t ≤ s.time → (∀ r, u.reqOf i = some r → exec (.rackExpiry i) s = .next (u.endReq r 0x2557 true)) ∧
      (u.reqOf i = none → exec (.rackExpiry i) s = .next (u.closeSess i))))

/-- A refused unrack leaves the session racked (`refuseUnrack`). FREE and LOW_WATER count over the six stacks (log entry 26). -/
def Obligations.RacksReturn : Prop :=
  (∀ (i : Nat) (host : Cells) (s u : State) (x : Session), x = s.sess i → u = s.hostStore x.port host → u.alive = true → x.state = .racked → (u.reqOf i).isSome = true →
    ((∃ t, x.expiry = some t ∧ t ≤ u.time) → exec (.unrack i host) s = .next (u.refuseUnrack i 0x2557)) ∧
    ((∀ t, x.expiry = some t → u.time < t) →
      (u.rackRecord i = none → exec (.unrack i host) s = .next ((u.countRecord i).refuseUnrack i 0x2557)) ∧
      (∀ (n : Nat) (es : List Nat) (w : Unracked) (v : State), u.rackRecord i = some (n, es) →
        w = (es.drop x.pages.length).foldl (Unracked.entry i x.mslot x.domain) { pages := x.pages, s := u } →
        v = w.s.modSess i (fun x => { x with pages := w.pages, tail := n, state := .unracking }) →
        (u.unrackDue i es.length = false → exec (.unrack i host) s = .next u) ∧
        (u.unrackDue i es.length = true →
          (∀ code, w.stop = some code → exec (.unrack i host) s = .next (v.refuseUnrack i code)) ∧
          (w.stop = none → exec (.unrack i host) s = .next v))))) ∧
  (∀ (i : Nat) (host : Cells) (s u : State) (x : Session) (n : Nat) (es : List Nat) (w : Unracked) (v : State),
    x = s.sess i → u = s.hostStore x.port host → u.alive = true → x.state = .unracking → (u.reqOf i).isSome = true → u.rackRecord i = some (n, es) →
    w = (es.drop x.pages.length).foldl (Unracked.entry i x.mslot x.domain) { pages := x.pages, s := u } →
    v = w.s.modSess i (fun x => { x with pages := w.pages, tail := n, state := .unracking }) →
    (es.length ≤ x.pages.length → exec (.unrack i host) s = .next u) ∧
    (x.pages.length < es.length →
      (∀ code, w.stop = some code → exec (.unrack i host) s = .next (v.refuseUnrack i code)) ∧
      (w.stop = none → exec (.unrack i host) s = .next v) ∧
      exec (.unrackComplete i host) s = .next u)) ∧
  (∀ (i : Nat) (host : Cells) (s u : State) (x : Session), x = s.sess i → u = s.hostStore x.port host → u.alive = true → x.state = .unracking →
    (u.rackRecord i = none → exec (.unrackComplete i host) s = .next ((u.countRecord i).refuseUnrack i 0x2557)) ∧
    (∀ (n : Nat) (es : List Nat) (o : Option State), u.rackRecord i = some (n, es) → es.length ≤ x.pages.length →
      o = (x.pages.zip es).foldl (fun (o : Option State) y => if fld y.2 0 2 = 2 then o.bind (fun s => s.restorePage i y.1 y.2) else o) (some u) →
      (o = none → exec (.unrackComplete i host) s = .next ((u.countCopies i es).refuseUnrack i 0x2557)) ∧
      (∀ (c v w : State) (r : Req), o = some c → v = c.modSess i (fun x => { x with state := .busy, expiry := none, rackWhy := 0 }) → v.reqOf i = some r →
        w = (v.modSess i (fun x => x.named r.desc)).modPow (fun p => { p with lastActivity := v.time }) →
        ((∀ p ∈ x.pages, p ≠ noIndex) → exec (.unrackComplete i host) s = .next w) ∧
        (∀ (d : Nat) (z : State), x.pages.findIdx? (fun p => p == noIndex) = some d →
          z = (w.report { code := 0x0552, detail := 16 * d, ports := 2 ^ x.port.num, func := w.ringFn x.port x.ring }).modReq r.rid (fun r => r.note 0x0552) →
          ((∀ a < x.pages.length, x.pages.getD a 0 = noIndex → ∀ t < 16, x.tail ≤ 16 * a + t ∨ r.covers (16 * a + t) = true) →
            exec (.unrackComplete i host) s = .next z) ∧
          ((∃ a < x.pages.length, x.pages.getD a 0 = noIndex ∧ ∃ t < 16, 16 * a + t < x.tail ∧ r.covers (16 * a + t) = false) →
            exec (.unrackComplete i host) s = .next (z.endReq r 0x2557 false))))))

/-- The ring's next state is given field by field. That CQ_HEAD outlives an enabling is the model's choice (log entry 16). A refused write is
counted by `refuseWrite` and has no other effect (RegisterWrites). -/
def Obligations.RingCommands : Prop :=
  (∀ (p : Port) (n : Fin 16) (s u w : State) (c : CompRec) (r : Ring) (a fn : Nat), s.serve.records.find? (fun x => x.port == p && x.ring == n.val) = some c →
    s.alive = true → r = s.ring p n → (r.cqTail - r.cqHead).toNat < 2 ^ r.log2cq.toNat →
    a = r.cqBase.toNat + 128 * (r.cqTail.toNat % 2 ^ r.log2cq.toNat) → fn = s.ringFn p n →
    u = s.modServe (fun v => { v with records := v.records.erase c, rings := Tbl.upd {} (ringKey p n) (fun r => { r with
      cqTail := r.cqTail + 1, cqPhase := if (r.cqTail + 1).toNat % 2 ^ r.log2cq.toNat = 0 then !r.cqPhase else r.cqPhase }) v.rings }) →
    ((s.port p).grants fn a 128 true = true →
      w = (u.hostPut p a (leBytes 128 (setFld (setFld c.bits 512 32 (min ((s.time - c.tCommit) / 100) (2 ^ 32 - 1))) 1023 1 (b2n r.cqPhase)))).count
        (fun k => { k with records := k.records + 1 }) →
      (r.armed = false → exec (.completionRecordWrite p n) s = .next w) ∧
      (r.armed = true → exec (.completionRecordWrite p n) s = .next ((w.sendVector p fn r.vector.toNat).modRing p n (fun r => { r with armed := false })))) ∧
    ((s.port p).grants fn a 128 true = false → exec (.completionRecordWrite p n) s =
      .next ((u.modPort p (fun q => { q with cqDrop := q.cqDrop + 1 })).report
        { code := 0x0912, detail := n, kind := .port, unit := p.num, func := fn, ports := 2 ^ p.num }))) ∧
  (∀ (q : Requester) (p : Port) (n : Fin 16) (v : BitVec 64) (s u : State) (r : Ring) (i : Instr), s.reaches q = true → s.takesWrites (.intake p) (0x40 * n) = true →
    u = s.touch (.intake p) → u.writeRefused q (.intake p) (0x40 * n) v.toNat = none →
    i = (if bit v.toNat 0 then Instr.ringEnable q p n v else .ringDisable q p n v) →
    r = { u.ring p n with vector := BitVec.ofNat 8 (v.toNat / 256), log2ent := BitVec.ofNat 4 (v.toNat / 16) } →
    ((u.ring p n).enable = true → exec i s = .next (u.modRing p n (fun r => { r with enable := bit v.toNat 0 }))) ∧
    ((u.ring p n).enable = false → bit v.toNat 0 = true → u.ringLegal p n r = true → exec i s = .next (u.modRing p n (fun _ => { r with
      enable := true, area := [], cons := 0, cqTail := 0, inPhase := true, cqPhase := true, armed := true, handled := [] }))) ∧
    ((u.ring p n).enable = false → (bit v.toNat 0 = false ∨ u.ringLegal p n r = false) → exec i s = .next (u.modRing p n (fun _ => r)))) ∧
  (∀ (q : Requester) (p : Port) (n : Fin 16) (v : BitVec 64) (s u : State) (r : Ring) (h : BitVec 16), s.reaches q = true → s.takesWrites (.intake p) (0x40 * n + 0x10) = true →
    s.writeRefused q (.intake p) (0x40 * n + 0x10) v.toNat = none → r = s.ring p n → h = BitVec.ofNat 16 (fld v.toNat 32 16) →
    u = s.modRing p n (fun r => if r.enable then r else { r with log2cq := BitVec.ofNat 4 v.toNat }) →
    ((h - r.cqHead).toNat ≤ (r.cqTail - r.cqHead).toNat → h = r.cqTail →
      exec (.cqHeadWrite q p n v) s = .next (u.modRing p n (fun r => { r with cqHead := h, armed := true }))) ∧
    ((h - r.cqHead).toNat ≤ (r.cqTail - r.cqHead).toNat → h ≠ r.cqTail →
      exec (.cqHeadWrite q p n v) s = .next ((u.modRing p n (fun r => { r with cqHead := h })).sendVector p (s.ringFn p n) r.vector.toNat)) ∧
    ((r.cqTail - r.cqHead).toNat < (h - r.cqHead).toNat → exec (.cqHeadWrite q p n v) s =
      .next (u.report { code := 0x0913, detail := n, kind := .port, unit := p.num, func := s.ringFn p n, ports := 2 ^ p.num })))

/-- The rows are those of `judge`. A command of a session's frame has the same rows. -/
def Obligations.FrameRows : Prop :=
  ∀ (l : Fin 48) (f : Frame) (s u : State) (i : Instr), i ∈ [Instr.null l f, .hello l f, .cert l f, .kemEk l f, .kemCt l f, .auth l f, .finish l f, .replayReq l f,
      .accept l f, .write l f, .windowGrant l f, .revokeAck l f, .syncArrive l f, .syncRelease l f, .shipOffer l f, .shipGrant l f, .shipRefuse l f, .shipNack l f,
      .shipDone l f, .shipAbort l f, .modelReq l f, .modelHave l f, .modelNone l f, .modelDone l f, .modelStripe l f] → i.wf = true →
    u = (s.countLinkBy l cntCorr f.corr).modLink l (fun k => k.took f.head) →
    ((s.alive = false ∨ (s.link l).hears = false) → exec i s = .next s) ∧
    (s.alive = true → (s.link l).hears = true →
      ((s.link l).judge f = .malformed → exec i s = .next (((u.countLink l cntMal).hostile l).sendQueued l)) ∧
      ((s.link l).judge f = .replay → exec i s = .next (((u.countLink l cntFec).askReplay l false).sendQueued l)) ∧
      ((s.link l).judge f = .badTag → exec i s = .next ((((u.countLink l cntTag).askReplay l false).hostile l).sendQueued l)) ∧
      ((s.link l).judge f = .gap → exec i s = .next ((u.askReplay l true).sendQueued l)) ∧
      ((s.link l).judge f = .dropped → exec i s = .next (u.sendQueued l)))

/-- Accepting a frame is `taken`; what waits to be sent goes out afterwards. -/
def Obligations.LinkLayerFrames : Prop :=
  (∀ (l : Fin 48) (f : Frame) (s u : State) (a : Nat), s.takes l f = true → u = s.taken l f → a = f.head.args →
    (frameFits 0x00 f = true → exec (.null l f) s = .next (u.sendQueued l)) ∧
    (frameFits 0x08 f = true → exec (.replayReq l f) s = .next (((u.modLink l (fun k => { k with
      replayCount := if k.replayAsked = fld a 0 64 then k.replayCount + 1 else 1, replayAsked := fld a 0 64 })).resend l (fld a 0 64)).sendQueued l)) ∧
    ((u.link l).live = true →
      (frameFits 0x09 f = true → exec (.accept l f) s = .next (((List.range 48).foldl (fun t m =>
          if (u.link m).partnerId = (u.link l).partnerId ∧ (m = l.val ∨ (u.link m).live = true) then t.modLink m (fun k => k.takeAccept
            { model := fld (ofLeBytes f.bytes) 256 256, maxPages := fld (ofLeBytes f.bytes) 224 32, slotBytes := fld (ofLeBytes f.bytes) 192 32 })
          else t) u).sendQueued l)) ∧
      (f.head.type = 0x12 → (s.link l).legal f = true → exec (.linkFrameMalformed l f) s = .next (((u.modLink l (fun k => { k with
          granted := k.granted.filter (fun x => x.1 != fld a 0 8)
          queue := k.queue.filter (fun f => !(f.type == 0x10 && fld f.args 0 8 == fld a 0 8)) })).sendFrame l 0x13 (fld a 0 8) []).sendQueued l)) ∧
      (frameFits 0x11 f = true → exec (.windowGrant l f) s = .next ((u.modLink l (fun k => k.grant (fld a 0 8) (fld a 8 8) (fld a 16 36))).sendQueued l))) ∧
    ((u.link l).live = false →
      (frameFits 0x09 f = true → exec (.accept l f) s = .next ((u.malformed l).sendQueued l)) ∧
      (frameFits 0x11 f = true → exec (.windowGrant l f) s = .next ((u.malformed l).sendQueued l)))) ∧
  (∀ (l : Fin 48) (f : Frame) (s u : State), s.alive = true → (s.link l).hears = true → (s.link l).legal f = false →
    u = (s.countLinkBy l cntCorr f.corr).modLink l (fun k => k.took f.head) →
    (f.fecOk = true → exec (.linkFrameMalformed l f) s = .next ((u.malformed l).sendQueued l)) ∧
    (f.fecOk = false → exec (.linkFrameMalformed l f) s = .next (((u.countLink l cntFec).askReplay l false).sendQueued l)))

/-- The window is the frame's ARGS[7:0], the offset ARGS[55:8]. That an acknowledgement of a freed window is ignored is log entry 28's reading. -/
def Obligations.LandingWindows : Prop :=
  (∀ (l : Fin 48) (f : Frame) (s u : State) (w off : Nat), frameFits 0x10 f = true → s.takes l f = true → u = s.taken l f → (u.link l).live = true →
    w = fld f.head.args 0 8 → off = fld f.head.args 8 48 →
    (∀ v, (u.landing w).takes l off f.bytes.length = true → u.wake.writeDev ((u.landing w).base4k * 4096 + off) f.bytes none = some v →
      exec (.write l f) s = .next ((v.collCount w l f.bytes.length).sendQueued l)) ∧
    ((u.landing w).takes l off f.bytes.length = false →
      ((u.landing w).grace l u.time = true → exec (.write l f) s = .next (u.sendQueued l)) ∧
      ((u.landing w).grace l u.time = false → exec (.write l f) s = .next (((u.countLink l cntOut).hostile l).sendQueued l)))) ∧
  (∀ (l : Fin 48) (f : Frame) (s t : State) (w off : Nat), w = fld f.head.args 0 8 → off = fld f.head.args 8 48 →
    (s.landing w).takes l off f.bytes.length = false → exec (.write l f) s = .next t → t.mem = s.mem) ∧
  (∀ (w : BitVec 8) (s : State) (ls : List Nat), s.alive = true → (s.landing w.toNat).state = 1 → ls = (maskList 48 (s.landing w.toNat).links).filter (fun l => (s.link l).live) →
    exec (.windowRevoke w) s = .next (ls.foldl (fun s l => s.sendFrame l 0x12 w.toNat [])
      (s.modLanding w.toNat (fun x => if ls = [] then {} else { x with state := 2, revokedAt := s.time, awaiting := maskOf ls })))) ∧
  (∀ (l : Fin 48) (f : Frame) (s u : State) (w : Nat), frameFits 0x13 f = true → s.takes l f = true → u = s.taken l f → (u.link l).live = true → w = fld f.head.args 0 8 →
    (w ∉ (u.link l).offered → exec (.revokeAck l f) s = .next ((u.hostile l).sendQueued l)) ∧
    (w ∈ (u.link l).offered → (u.landing w).state = 2 → bit (u.landing w).awaiting l = true → exec (.revokeAck l f) s =
      .next ((u.modLanding w (fun x => if (u.landing w).awaiting - 2 ^ l.val = 0 then {} else { x with awaiting := (u.landing w).awaiting - 2 ^ l.val })).sendQueued l)) ∧
    (w ∈ (u.link l).offered → ((u.landing w).state ≠ 2 ∨ bit (u.landing w).awaiting l = false) →
      exec (.revokeAck l f) s = .next (u.sendQueued l))) ∧
  (∀ (w : BitVec 8) (s : State), s.alive = true → (s.landing w.toNat).state = 2 →
    (s.time < (s.landing w.toNat).revokedAt + 100000 → exec (.revokeGraceExpiry w) s = .next s) ∧
    ((s.landing w.toNat).revokedAt + 100000 ≤ s.time → exec (.revokeGraceExpiry w) s = .next (s.modLanding w.toNat (fun _ => {}))))

/-- The end of a shipment and of its request is the shared operation `endShip`. -/
def Obligations.ShipmentMessages : Prop :=
  (∀ (l : Fin 48) (f : Frame) (s u : State) (a id : Nat), s.takes l f = true → u = s.taken l f → (u.link l).live = true → a = f.head.args → id = fld a 0 32 →
    (frameFits 0x30 f = true → exec (.shipOffer l f) s = .next ((u.sendFrame l 0x32 (id + 2 ^ 32) []).sendQueued l)) ∧
    ((id, (u.link l).partnerId) ∈ u.lglob.moved → frameFits 0x31 f = true → exec (.shipGrant l f) s = .next ((u.sendFrame l 0x36 id []).sendQueued l)) ∧
    (u.ship id = none → ∀ i, i ∈ [Instr.shipGrant l f, .shipRefuse l f, .shipNack l f, .shipDone l f, .shipAbort l f] → i.wf = true →
      (f.head.type = 0x31 → (id, (u.link l).partnerId) ∉ u.lglob.moved) → exec i s = .next ((if id < u.lglob.nextShip then u else u.hostile l).sendQueued l)) ∧
    (∀ x, u.ship id = some x → x.partner = (u.link l).partnerId →
      (x.granted = none → x.offer.isSome = true →
        (∀ y v, y = { x with granted := some (u.usable x.group x.partner, fld a 32 8, fld a 40 40) } → v = u.modShip x.id (fun _ => y) → frameFits 0x31 f = true →
          (id, (u.link l).partnerId) ∉ u.lglob.moved →
          (v.shipPoison y = none → exec (.shipGrant l f) s = .next ((v.sendOpen y).sendQueued l)) ∧
          (∀ p c, v.shipPoison y = some (p, c) → exec (.shipGrant l f) s = .next ((v.linkPoison l p c).sendQueued l))) ∧
        (frameFits 0x32 f = true → exec (.shipRefuse l f) s = .next (((u.modLGlob (fun g => { g with moved := g.moved ++ [(x.id, x.partner)] })).offerNext
          { x with tried := x.tried ++ [x.partner], offer := none }).sendQueued l))) ∧
      (∀ ls win off k n, x.granted = some (ls, win, off) → k = fld a 32 32 → n = Tbl.get 0 k x.nacks + 1 →
        (frameFits 0x31 f = true → (id, (u.link l).partnerId) ∉ u.lglob.moved → exec (.shipGrant l f) s = .next (u.sendQueued l)) ∧
        (frameFits 0x34 f = true → k < x.pages.length →
          (3 ≤ n → exec (.shipNack l f) s = .next ((u.endShip x 0x2816 (some 4)).sendQueued l)) ∧
          (∀ y v m ms, n < 3 → y = { x with nacks := Tbl.set 0 k n x.nacks, sentOn := Tbl.set 0 k 0 x.sentOn } → v = u.modShip x.id (fun _ => y) →
            v.shipPoison y = none → v.usable x.group x.partner = m :: ms →
            exec (.shipNack l f) s = .next ((v.sendPage y win off k m).sendQueued l)) ∧
          (∀ y v p c, n < 3 → y = { x with nacks := Tbl.set 0 k n x.nacks, sentOn := Tbl.set 0 k 0 x.sentOn } → v = u.modShip x.id (fun _ => y) →
            v.shipPoison y = some (p, c) → exec (.shipNack l f) s = .next ((v.linkPoison l p c).sendQueued l))) ∧
        (frameFits 0x35 f = true →
          (u.shipExpired x = true → exec (.shipDone l f) s = .next ((u.endShip x 0x2608 (some 1)).sendQueued l)) ∧
          (u.shipExpired x = false → exec (.shipDone l f) s = .next ((u.endShip x (if fld a 32 8 = 0 then 0 else 0x2816) none).sendQueued l)))) ∧
      (x.offer.isSome = true ∨ x.granted.isSome = true → frameFits 0x36 f = true → exec (.shipAbort l f) s = .next ((u.endShip x 0x2816 none).sendQueued l)))) ∧
  (∀ (id : BitVec 32) (s : State) (x : Shipment), s.ship id.toNat = some x → s.alive = true →
    (x.epoch = none → exec (.shipOfferTimeout id) s = .next (s.tagShip x)) ∧
    (x.epoch.isSome = true → x.granted = none → x.offer.isSome = true → x.offerAt + 100000 ≤ s.time → exec (.shipOfferTimeout id) s =
      .next ((s.modLGlob (fun g => { g with moved := g.moved ++ [(x.id, x.partner)] })).offerNext { x with tried := x.tried ++ [x.partner], offer := none })) ∧
    (s.shipExpired x = true → exec (.shipLimitExpiry id) s = .next (s.endShip x 0x2608 (some 1))) ∧
    (s.shipExpired x = false → exec (.shipLimitExpiry id) s = .next s))

/-- One fetch runs at a time (log entry 29). -/
def Obligations.ModelFetches : Prop :=
  (∀ (l : Fin 48) (f : Frame) (s u : State) (a w off : Nat), s.takes l f = true → u = s.taken l f → (u.link l).live = true → a = f.head.args →
    w = fld a 0 8 → off = fld a 8 48 →
    (frameFits 0x40 f = true → ∀ o, o = (List.range 4).find? (fun k => (u.model k).state == .ready && (u.model k).modelId == fld (ofLeBytes f.bytes) 256 256) →
      (∀ k, o = some k → bit (u.link l).ownCaps 3 = true → exec (.modelReq l f) s =
        .next (((u.modLink l (fun q => { q with serves := some k })).sendFrame l 0x41 0 []).sendQueued l)) ∧
      ((o = none ∨ bit (u.link l).ownCaps 3 = false) → exec (.modelReq l f) s = .next ((u.sendFrame l 0x42 0 []).sendQueued l))) ∧
    (∀ x, u.lglob.fetch = some x → l.val ∈ x.asked → l.val ∉ x.have_ → l.val ∉ x.none_ →
      (frameFits 0x41 f = true → exec (.modelHave l f) s = .next ((u.assignStripes { x with have_ := x.have_ ++ [l.val] }).sendQueued l)) ∧
      (frameFits 0x42 f = true → exec (.modelNone l f) s = .next ((u.assignStripes { x with none_ := x.none_ ++ [l.val] }).sendQueued l))) ∧
    (frameFits 0x43 f = true →
      (w ∉ (u.link l).offered → exec (.modelDone l f) s = .next ((u.hostile l).sendQueued l)) ∧
      (w ∈ (u.link l).offered → (∀ x, u.lglob.fetch = some x → x.window ≠ w) → exec (.modelDone l f) s = .next (u.sendQueued l)) ∧
      (∀ x y, w ∈ (u.link l).offered → u.lglob.fetch = some x → x.window = w → x.stripes.find? (fun z => z.link == l.val && z.offset == off && z.crc.isNone) = some y →
        (crc32c (u.fetched x off y.len) ≠ fld a 56 32 → exec (.modelDone l f) s = .next ((u.endFetch false).sendQueued l)) ∧
        (∀ x' v, crc32c (u.fetched x off y.len) = fld a 56 32 → x' = { x with stripes := x.stripes.map (fun z => if z == y then { z with crc := some (fld a 56 32) } else z) } →
          v = u.modLGlob (fun g => { g with fetch := some x' }) →
          ((∃ z ∈ x'.stripes, z.crc = none) → exec (.modelDone l f) s = .next (v.sendQueued l)) ∧
          ((∀ z ∈ x'.stripes, z.crc ≠ none) → exec (.modelDone l f) s =
            .next ((v.endFetch (ofLeBytes (shake256 32 (v.fetched x' 0 x'.bytes)) == x'.modelId)).sendQueued l))))) ∧
    (frameFits 0x44 f = true → ∀ m o bs p, (u.link l).serves = some m → (u.model m).state = .ready →
      (∃ g ∈ (u.link l).granted, g.1 = w ∧ g.2.1 = 1 ∧ off + fld a 56 48 ≤ 4096 * g.2.2) → (u.hbmOwners 1 m).head? = some o →
      u.readDev (4096 * o.first + off) (fld a 56 48) = some (bs, p) →
      (p = none → exec (.modelStripe l f) s = .next (((u.wake.sendWrites l w off bs).sendFrame l 0x43 (w + off * 2 ^ 8 + crc32c bs * 2 ^ 56) []).sendQueued l)) ∧
      (∀ c, p = some c → exec (.modelStripe l f) s = .next ((u.wake.linkPoison l (u.firstPoison (4096 * o.first + off) (fld a 56 48)) c).sendQueued l)))) ∧
  (∀ (l : Fin 48) (s : State) (x : Fetch), s.lglob.fetch = some x → s.alive = true → x.start + 100000 ≤ s.time → l.val ∈ x.asked → l.val ∉ x.have_ → l.val ∉ x.none_ →
    exec (.modelReplyTimeout l) s = .next (s.assignStripes { x with none_ := x.none_ ++ [l.val] })) ∧
  (∀ (k : Fin 4) (s : State) (x : Fetch), s.lglob.fetch = some x → s.alive = true → x.mslot = k → x.start + 100000 * s.lglob.modelLimitMs ≤ s.time →
    exec (.modelLimitExpiry k) s = .next (s.endFetch false))

/-- Objects are gathered by `onObject`; the cryptography is uninterpreted (log entry 3). -/
def Obligations.HandshakeFrames : Prop :=
  ∀ (l : Fin 48) (f : Frame) (s u : State) (k : LinkSt), s.takes l f = true → u = s.taken l f → k = u.link l →
    (frameFits 0x01 f = true →
      (k.state = .handshake → exec (.hello l f) s = .next ((u.takeHello l f.bytes).sendQueued l)) ∧
      (k.state ≠ .handshake → exec (.hello l f) s = .next ((u.malformed l).sendQueued l))) ∧
    (frameFits 0x02 f = true →
      (k.state = .handshake → k.shake.chain = none → exec (.cert l f) s =
        .next ((u.onObject l 0x02 f (fun n => decide (0 < n ∧ n ≤ 150336)) (fun v bs => v.takeChain l bs)).sendQueued l)) ∧
      ((k.state ≠ .handshake ∨ k.shake.chain.isSome = true) → exec (.cert l f) s = .next ((u.malformed l).sendQueued l))) ∧
    (frameFits 0x03 f = true →
      (k.state = .handshake → k.shake.ek = none → ∀ g, u.takeObject l 0x03 f (fun n => n == 1568) = g →
        (g.2.1 = false → exec (.kemEk l f) s = .next ((g.2.2.malformed l).sendQueued l)) ∧
        (g.2.1 = true → g.1 = none → exec (.kemEk l f) s = .next (g.2.2.sendQueued l)) ∧
        (∀ bs, g.2.1 = true → g.1 = some bs → (g.2.2.link l).live = false → exec (.kemEk l f) s = .next ((g.2.2.takeEk l bs).sendQueued l))) ∧
      (k.live = true → k.initiator = false → k.nextKeys = none → ∀ g bs v c, u.takeObject l 0x03 f (fun n => n == 1568) = g → g.2.1 = true → g.1 = some bs →
        (g.2.2.link l).live = true → v = g.2.2.random.2 → c = Config.kemEncaps bs g.2.2.random.1 →
        exec (.kemEk l f) s = .next (((v.modLink l (fun k => { k with rekey := some v.time, nextKeys := some (k.rekeys c.2) })).sendObject l 0x04 c.1).sendQueued l))) ∧
    (frameFits 0x04 f = true →
      ((k.state = .handshake ∧ k.shake.ct = none) ∨ (k.live = true ∧ k.initiator = true ∧ k.rekey.isSome = true) → ∀ g bs sec, u.takeObject l 0x04 f (fun n => n == 1568) = g →
        g.2.1 = true → g.1 = some bs → sec = Config.kemDecaps (g.2.2.link l).shake.kemRand bs →
        ((g.2.2.link l).live = true → exec (.kemCt l f) s = .next ((g.2.2.modLink l (fun k => k.newKeys (k.rekeys sec) g.2.2.time)).sendQueued l)) ∧
        ((g.2.2.link l).live = false → exec (.kemCt l f) s = .next (((g.2.2.modLink l (fun k => { k with shake := { k.shake with ct := some bs, peerSecret := sec } })).agree l).sendQueued l)))) ∧
    (frameFits 0x05 f = true → k.state = .handshake → k.shake.auth = none → k.shake.transcript ≠ [] → exec (.auth l f) s =
      .next ((u.onObject l 0x05 f (fun n => n == 49856) (fun v bs => (v.modLink l (fun k => { k with shake := { k.shake with auth := some bs } })).modSec
        (fun q => { q with verQ := q.verQ ++ [.auth l] }))).sendQueued l)) ∧
    (frameFits 0x06 f = true → k.state = .handshake → k.shake.finish = false → k.shake.transcript ≠ [] →
      (f.bytes = k.shake.transcript → exec (.finish l f) s = .next (((u.modLink l (fun k => { k with shake := { k.shake with finish := true } })).enterService l).sendQueued l)) ∧
      (f.bytes ≠ k.shake.transcript → exec (.finish l f) s = .next ((u.quarantine l 4).sendQueued l)))

/-- The results of verification are uninterpreted (log entry 3). -/
def Obligations.HandshakeJobs : Prop :=
  (∀ (l : Fin 48) (s u : State) (rest : List SignJob) (k : LinkSt), s.sec.signQ = .auth l :: rest → s.alive = true → s.sec.hasDik = true → (s.link l).state = .handshake →
    u = s.modSec (fun q => { q with signQ := rest }) → k = u.random.2.link l →
    exec (.authSigned l) s = .next (((u.random.2.sendObject l 0x05 (Config.slhSign dikSeeds [] (authBytes k.initiator k.shake.transcript) u.random.1)).modLink l
      (fun k => { k with shake := { k.shake with authSent := true } })).sendFinish l)) ∧
  (∀ (l : Fin 48) (s : State) (rest : List SignJob), s.sec.signQ = .auth l :: rest → (s.alive = false ∨ s.sec.hasDik = false ∨ (s.link l).state ≠ .handshake) →
    exec (.authSigned l) s = .next (s.modSec (fun q => { q with signQ := rest }))) ∧
  (∀ (s u : State) (j : VerJob) (rest : List VerJob), s.sec.verQ = j :: rest → s.alive = true → s.sec.token = none → u = s.modSec (fun q => { q with verQ := rest }) →
    (∀ l i, j = .cert l i → exec .verificationDone s = .next (u.certDone l i)) ∧
    (∀ l, j = .auth l → exec .verificationDone s = .next (u.authDone l))) ∧
  (∀ (l : Fin 48) (s : State) (k : LinkSt), k = s.link l → s.alive = true →
    (k.state = .handshake → k.shake.start + 20000000 ≤ s.time → exec (.handshakeTimeout l) s = .next (s.train l 7)) ∧
    (∀ t, k.state = .absent → k.waitUntil = some t → t ≤ s.time → exec (.handshakeRefusedRetry l) s = .next (s.train l k.cause)) ∧
    (k.live = true → k.initiator = true → k.rekey = none →
      ((2 ^ 32 ≤ max k.keyFrames k.keyRx ∨ k.keySince + 100000000 * s.lglob.rekeyS ≤ s.time) → exec (.rekeyStart l) s =
        .next ((s.random.2.modLink l (fun k => { k with rekey := some s.time, shake := { k.shake with kemRand := s.random.1 } })).sendObject l 0x03 (Config.kemKey s.random.1))) ∧
      (max k.keyFrames k.keyRx < 2 ^ 32 → s.time < k.keySince + 100000000 * s.lglob.rekeyS → exec (.rekeyStart l) s = .next s)) ∧
    (∀ t, k.live = true → k.rekey = some t → t + 1000000 ≤ s.time → exec (.rekeyTimeout l) s = .next (s.faulty l 6)))

/-- Leaving a state is `leaveTo`; training is `train`. That the hold after a third quarantine survives a loss of signal is log entry 38's reading, no rule. -/
def Obligations.LinkTraining : Prop :=
  ∀ (l : Fin 48) (s : State) (k : LinkSt), k = s.link l → s.alive = true →
    (k.state = .absent → k.waitUntil = none → exec (.signalDetect l) s = .next (s.train l k.cause)) ∧
    (k.state ∈ [.training, .handshake, .inService, .slow, .faulty] → exec (.signalLoss l) s = .next (s.leaveTo l .absent 1)) ∧
    (k.state = .quarantined → (k.quars < 3 → exec (.signalLoss l) s = .next (s.leaveTo l .absent 1)) ∧ (3 ≤ k.quars → exec (.signalLoss l) s = .next s)) ∧
    (k.state = .training → k.waitUntil = none → k.since + 50000000 ≤ s.time →
      (∀ r, k.allowed.find? (fun r => decide (k.trainRate < r)) = some r → exec (.trainingTimeout l) s = .next (s.modLink l (fun k => { k with trainRate := r, since := s.time }))) ∧
      (k.allowed.find? (fun r => decide (k.trainRate < r)) = none → exec (.trainingTimeout l) s =
        .next (s.modLink l (fun k => { k with waitUntil := some (s.time + 100000000), cause := 2 })))) ∧
    (∀ t, k.state = .training → k.waitUntil = some t → t ≤ s.time → exec (.trainingRestart l) s = .next (s.train l k.cause)) ∧
    (k.state = .training → k.waitUntil = none → exec (.fecLock l) s = .next ((s.modLink l (fun k => { k with
      state := .handshake, since := s.time, rate := k.trainRate, txSeq := 0, rxSeq := 0, ack := none, nullRx := none, kept := [], queue := []
      again := [], nullTx := 0, toldSeq := 0, told := [], sent := [], got := [], freed := [], credit := [], buf := [], stall := [], clearSince := s.time
      lastReplay := none, replaysFor := 0, replayAsked := 0, replayCount := 0, lastAccept := s.time, kg := 0, keys := [], keySince := s.time
      keyFrames := 0, keyRx := 0, rekey := none, nextKeys := none, shake := { start := s.time } })).sendHello l)) ∧
    (k.live = true →
      (k.lastAccept + 10000 ≤ s.time → exec (.livenessTimeout l) s = .next (s.faulty l 7)) ∧
      (∀ n, (16 ≤ n → exec (.fecUncorrLimit l n) s = .next (s.faulty l 6)) ∧ (n < 16 → exec (.fecUncorrLimit l n) s = .next s)) ∧
      (3 ≤ k.replaysFor ∨ 3 ≤ k.replayCount → exec (.replayNoProgress l) s = .next (s.faulty l 6))) ∧
    (∀ (c : Fin 3) (t : Nat), k.state = .inService → Tbl.get 0 c.val k.stall = t + 1 → t + 100 * s.lglob.slowUs ≤ s.time → exec (.creditStall l c) s =
      .next ((s.modLink l (fun k => { k with state := .slow })).report { code := 0x0811, kind := .link, unit := l })) ∧
    (k.state = .slow → k.queue = [] → k.again = [] → k.clearSince + 1000000 ≤ s.time → exec (.slowExit l) s = .next (s.modLink l (fun k => { k with state := .inService }))) ∧
    (k.state = .quarantined → (k.quars < 3 → k.since + 100000000 * s.lglob.quarHoldS ≤ s.time → exec (.quarantineHoldExpiry l) s = .next (s.train l k.cause)) ∧
      (3 ≤ k.quars → exec (.quarantineHoldExpiry l) s = .next s))

/-- In a boot without service, and in a life-cycle state other than OPERATIONAL, a write sets ENABLE alone (R377, R420). The key is R403's; a retrain gives it
back with CELLAR_KEY_RELEASE (the model's reading, log entry 33). -/
def Obligations.LinkControl : Prop :=
  ∀ (r : Requester) (l : Fin 48) (v : BitVec 64) (s u t : State) (d : Nat), s.reaches r = true → s.takesWrites (.link l) 0x010 = true → u = s.touch (.link l) →
    u.writeRefused r (.link l) 0x010 v.toNat = none → d = 24 + l.val / 8 →
    (u.glob.service ≠ 2 → u.sec.lifecycle = 1 → bit v.toNat 0 = true → t = (if u.pow.dom d = .off then u.modPow (fun p => p.setDoms [d] .on) else u) →
      exec (.linkEnable r l v) s = .next (t.linkControl l v.toNat) ∧
      (∀ w : State, w = t.modLink l (fun k => { k with enable := true, state := if k.state = .disabled then .absent else k.state }) →
        (bit v.toNat 1 = true → (w.link l).state = .quarantined → exec (.quarRelease r l v) s = .next (w.train l (w.link l).cause)) ∧
        (bit v.toNat 2 = true → (w.link l).live = true →
          ((∀ h ∈ w.integ.held, 84 + l.val ∉ h.act.groups) → (∀ a ∈ w.integ.waiting, 84 + l.val ∉ a.groups) → exec (.retrain r l v) s =
            .next ((w.modInteg (fun g => { g with held := g.held ++ [{ act := .linkRetrain l, since := w.time }] })).train l (w.link l).cause)) ∧
          ((∃ h ∈ w.integ.held, h.act = .linkTest l) → exec (.retrain r l v) s = .next w) ∧
          ((∀ h ∈ w.integ.held, h.act ≠ .linkTest l) → ((∃ h ∈ w.integ.held, 84 + l.val ∈ h.act.groups) ∨ ∃ a ∈ w.integ.waiting, 84 + l.val ∈ a.groups) →
            exec (.retrain r l v) s = .next (w.modInteg (fun g => { g with waiting := g.waiting ++ [.linkRetrain l] })))))) ∧
    (u.glob.service ≠ 2 → u.sec.lifecycle = 1 → bit v.toNat 0 = false → t = u.linkControl l v.toNat →
      ((∀ k < 8, (t.link (8 * (l.val / 8) + k)).state = .disabled) → exec (.linkDisable r l v) s = .next (t.modPow (fun p => p.setDoms [d] .off))) ∧
      ((∃ k < 8, (t.link (8 * (l.val / 8) + k)).state ≠ .disabled) → exec (.linkDisable r l v) s = .next t)) ∧
    ((u.glob.service = 2 ∨ u.sec.lifecycle ≠ 1) →
      (bit v.toNat 0 = true → exec (.linkEnable r l v) s = .next (u.modLink l (fun k => { k with enable := true }))) ∧
      (bit v.toNat 0 = false → exec (.linkDisable r l v) s = .next (u.modLink l (fun k => { k with enable := false })))) ∧
    ((u.link l).state ∉ [.retired, .disabled] → bit v.toNat 0 = false → u.linkControl l v.toNat = (u.modLink l (fun k => { k with enable := false })).leaveTo l .disabled 9)

/-- Steps 1 to 3 of R332 are `clearFn`, stated field by field in the second clause; the ends of requests and sessions are `endFn`. Which losses count in
LOSSES is log entry 30's reading, no rule. -/
def Obligations.PortsLoseHosts : Prop :=
  (∀ (p : Port) (s : State),
    exec (.perstAssert p) s = .next ((((s.losePort p 1).linkAway p .down).modPort p (fun q => { q with perst := true })).modPow (fun w => w.setDoms [portDom p] .off)) ∧
    (∀ b, exec (.dataLinkDown p b) s = .next (if b = true ∧ (s.port p).refclkSel = false
      then ((s.losePort p 6).linkAway p .down).modPort p (fun q => { q with refclkOk := false }) else (s.losePort p 2).linkAway p .down)) ∧
    ((s.port p).link = .up → (∀ c, s.losePort p c = (s.port p).fns.foldl (fun s n => (s.clearFn p true n).endFn p n) (s.countLoss p c)) ∧
      exec (.hotReset p) s = .next (((s.losePort p 3).linkAway p .down).trainPort p)) ∧
    ((s.port p).configures 0 = true →
      (((s.port p).func 0).d3hot = false → exec (.pfBmeClear p) s = .next (s.losePort p 4)) ∧
      exec (.pfFlr p) s = .next ((s.losePort p 4).modPort p (fun q => { q with numVf := 0 })) ∧
      (∀ n, exec (.vfEnableClear p n) s = .next (s.lowerVfs p n))) ∧
    ((s.port p).configures 0 = false → exec (.pfFlr p) s = .next s ∧ exec (.pfBmeClear p) s = .next s ∧ ∀ n, exec (.vfEnableClear p n) s = .next s) ∧
    ((s.port p).link ≠ .up → exec (.hotReset p) s = .next s)) ∧
  (∀ (p : Port) (wide : Bool) (n : Fin 16) (s u : State), u = s.clearFn p wide n →
    (u.port p).func n = { (s.port p).func n with
      gen := (((s.port p).func n).gen + 1) % 65536, bme := false, d3hot := false, msixEn := false, msixMask := false, vectors := [], unmasked := [], pba := []
      quiesce := true, lossPort := wide } ∧
    (∀ k : Fin 16, (s.ringFn p k = n → (u.ring p k).enable = false) ∧ (s.ringFn p k ≠ n → u.ring p k = s.ring p k)) ∧
    (∀ w : Fin 64, ((s.port p).winOwner w = n → (u.port p).win w = {}) ∧ ((s.port p).winOwner w ≠ n → (u.port p).win w = (s.port p).win w)) ∧
    (∀ c ∈ u.serve.records, c.port = p → c.ring < 16 → s.ringFn p c.ring ≠ n) ∧
    (∀ m, m ≠ n.val → (u.port p).func m = (s.port p).func m) ∧ (∀ q, q ≠ p → u.port q = s.port q)) ∧
  (∀ (p : Port) (n : Fin 16) (s : State), (s.port p).configures n = true →
    (n ≠ 0 → exec (.seatFlr p n) s = .next ((s.clearFn p false n).endFn p n) ∧
      (((s.port p).func n).d3hot = false → exec (.seatBmeClear p n) s = .next ((s.clearFn p false n).endFn p n))) ∧
    (((s.port p).func n).d3hot = false → ∀ c, c = s.countLoss p 5 → exec (.d3hotEntry p n) s =
      .next (((c.clearFn p (decide (n.val = 0)) n).endFn p n).modFunc p n (fun f => { f with d3hot := true })))) ∧
  (∀ (p : Port) (n : Fin 16) (s : State), s.alive = true → ((s.port p).func n).quiesce = true →
    (s.lingers p n = true → exec (.quiesceDone p n) s = .next s) ∧
    (s.lingers p n = false → exec (.quiesceDone p n) s = .next ((s.modFunc p n (fun f => { f with quiesce := false, ended := 0 })).report
      { code := if ((s.port p).func n).lossPort then 0x2901 else 0x2902, kind := .port, unit := p.num, func := n, ports := 2 ^ p.num, reqs := ((s.port p).func n).ended })))

/-- VF Enable lowered is PortsLoseHosts; the PF's return to D0 ends its seats (log entry 30). That a
timeout in the loader is GO's failed read is log entry 34. -/
def Obligations.PortsComeUp : Prop :=
  (∀ (p : Port) (s u : State), u = s.modPort p (fun q => { q with perst := false }) →
    (u.powered = true → exec (.perstDeassert p) s = .next ((u.modPow (fun w => w.setDoms [portDom p] .on)).trainPort p)) ∧
    (u.powered = false → exec (.perstDeassert p) s = .next u)) ∧
  (∀ (p : Port) (s u : State), u = s.modPort p (fun q => { q with refclkOk := true }) →
    (u.powered = true → exec (.refclkDetect p) s = .next (u.trainPort p)) ∧ (u.powered = false → exec (.refclkDetect p) s = .next u)) ∧
  (∀ (p : Port) (g : Fin 6) (w : Fin 17) (s u : State), rateFits g w = true →
    (s.powered = true → (s.port p).perst = false → (s.port p).clocked = true → (s.port p).link ≠ .up →
      u = s.modPort p (fun q => { q with link := .up, speed := g, width := w, ready := s.booted }) →
      (g.val < 5 ∨ w.val < 16 → exec (.pcieLinkUp p g w) s = .next (u.report { code := 0x0911, kind := .port, unit := p.num, ports := 2 ^ p.num })) ∧
      (g.val = 5 → w.val = 16 → exec (.pcieLinkUp p g w) s = .next u)) ∧
    exec (.rateWidthChange p g w) s = .next (s.modPort p (fun q => if q.link = .up then { q with speed := g, width := w } else q))) ∧
  (∀ (p : Port) (n : Fin 16) (s : State), (s.port p).configures n = true →
    (((s.port p).func n).d3hot = false → exec (.busMasterEnableSet p n) s = .next (s.modFunc p n (fun f => { f with bme := true })) ∧
      (∀ (v : Fin 64) (u : State), v.val < (s.port p).vectors n → u = s.modFunc p n (fun f => { f with unmasked := f.unmasked.filter (fun x => x != v.val) ++ [v.val] }) →
        (v.val ∈ ((s.port p).func n).pba → exec (.vectorUnmask p n v) s =
          .next ((u.modFunc p n (fun f => { f with pba := f.pba.erase v.val })).sendVector p n v)) ∧
        (v.val ∉ ((s.port p).func n).pba → exec (.vectorUnmask p n v) s = .next u)) ∧
      (n = 0 → (s.port p).seatMode = true → ∀ m : Fin 16, exec (.vfEnableSet p m) s = .next (s.modPort p (fun q => { q with numVf := max q.numVf m })))) ∧
    (((s.port p).func n).d3hot = true → ∀ u : State, u = s.modFunc p n (fun f => { f with bme := false, d3hot := false, msixEn := false, msixMask := false, vectors := [], unmasked := [], pba := [] }) →
      exec (.returnToD0 p n) s = .next (if n = 0 then u.lowerVfs p 0 else u))) ∧
  (∀ (p : Port) (s : State), ((s.port p).link = .up → exec (.aspmL1Entry p) s =
      .next ((s.modPort p (fun q => { q with l1 := true })).modPow (fun w => w.setDoms [portDom p] .low))) ∧
    ((s.port p).l1 = true → exec (.aspmL1Exit p) s = .next ((s.modPort p (fun q => { q with l1 := false })).modPow (fun w => w.setDoms [portDom p] .on)))) ∧
  (∀ (p : Port) (rid : Nat) (s : State) (r : Req), s.req rid = some r → s.alive = true → s.glob.service ≠ 4 → r.port = p → exec (.pcieCompletionTimeout p rid) s =
    .next (if r.admitted then s.endSoon r 0x2604 else s.refuseReq r 0x2604)) ∧
  (∀ (p : Port) (rid : Nat) (s : State), s.glob.service = 4 → s.boot.rstatus = 3 → s.boot.rescuePort = p → exec (.pcieCompletionTimeout p rid) s = .next (s.refuseRescue 0x3002 0)) ∧
  (∀ (r : Requester) (p : Port) (w : Fin 64) (v : BitVec 64) (s u : State), s.reaches r = true → s.takesWrites (.port p) (0x100 + 32 * w) = true → bit v.toNat 0 = true →
    u = s.touch (.port p) → u.writeRefused r (.port p) (0x100 + 32 * w) v.toNat = none → exec (.rackingWindowEnable r p w v) s = .next (u.writeWin0 p w v.toNat)) ∧
  (∀ (p : Port) (i : Instr) (s t : State), (i = .perstDeassert p ∨ i = .refclkDetect p ∨ i = .aspmL1Entry p ∨ i = .aspmL1Exit p ∨
      (∃ n, i = .busMasterEnableSet p n ∨ i = .vfEnableSet p n) ∨ (∃ g w, i = .rateWidthChange p g w)) → exec i s = .next t →
    t = { s with portA := t.portA, portB := t.portB, pow := t.pow })

/-- The event energies and the leakage are functions of the image's ENERGY section that the spec does not give (log entry 9); the parity of alignment points
is log entry 45's choice. -/
def Obligations.PowerIntervals : Prop :=
  (∀ (a : Activity2us) (s : State) (mw : Nat), s.pow.mstate ≠ .standby → s.pow.mstate ≠ .tripped → s.pow.intervalDue s.time = true → mw = ((List.range 5).map (fun r => s.pow.railMw r a)).sum →
    ∃ t, exec (.estimateIntervalEnd a) s = .next t ∧ t.pow.hist = (mw :: s.pow.hist).take 500 ∧ t.pow.chipNj = s.pow.chipNj + 2 * mw ∧
      t.pow.ended = s.time / 200 ∧ t.pow.capOn = s.pow.capCode ∧
      (s.pow.fixed = true → t.pow.sCap = 0) ∧ t.pow.shipBytes = [] ∧ t.serve = { s.serve with reqs := t.serve.reqs } ∧
      t.serve.reqs.map (fun r => { r with energy := 0 }) = s.serve.reqs.map (fun r => { r with energy := 0 }) ∧
      t.mem = s.mem ∧ t.cores = s.cores ∧ t.links = s.links ∧ t.pages = s.pages) ∧
  (∀ (a : Activity2us) (s : State), s.pow.mstate = .standby ∨ s.pow.mstate = .tripped ∨ s.pow.intervalDue s.time = false → exec (.estimateIntervalEnd a) s = .next s) ∧
  (∀ (m : List Nat) (s : State), m.length = 5 → s.pow.mstate ≠ .standby → s.pow.mstate ≠ .tripped → 500 ≤ (s.pow.rail 0).est.length → ∃ t, exec (.pmbusCalibration m) s = .next t ∧ t = { s with pow := { s.pow with rails := t.pow.rails } } ∧
    ∀ r < 5, t.pow.rail r = { s.pow.rail r with est := [], offset := max (-50000) (min 50000
      ((s.pow.rail r).offset + (Int.ofNat (m.getD r 0) - Int.ofNat (meanOf 500 (s.pow.rail r).est)) / 8)) }) ∧
  (∀ (s : State), s.alive = true → s.pow.boosting = false → s.pow.boostPending = false → s.pow.fixed = false → s.pow.boostEn = true →
    (500 ≤ s.pow.boostHold → s.pow.divAt + 1000000 ≤ s.time → exec .boostEntry s = .next (s.modPow (fun p => { p with boostPending := true }))) ∧
    (s.pow.boostHold < 500 ∨ s.time < s.pow.divAt + 1000000 → exec .boostEntry s = .next s)) ∧
  (∀ (s : State), (s.pow.boostPending = true → s.pow.powerGoodAt = none → exec .boostPowerGood s = .next (s.modPow (fun p => { p with powerGoodAt := some s.time }))) ∧
    (s.pow.boostPending = false ∨ s.pow.powerGoodAt ≠ none → exec .boostPowerGood s = .next s)) ∧
  (∀ (p : Power) (t g : Nat), t % 2 = 1 → p.boostPending = true → p.powerGoodAt = some g → p.boosting = false →
    (p.tick t).div8 = decide (g + 5000 ≤ t + 1) ∧ (p.tick t).boosting = decide (g + 5000 ≤ t + 1))

/-- A trip is `trip` with the cause and code of R357–R359 and R27. Log entry 38 holds the model's readings here, which are no rules: one S_THERM for all
sensors, S_ALERT on a silent regulator, one report for each rise to 105 °C, one read of the regulators for each alert. -/
def Obligations.ThermalProtection : Prop :=
  (∀ (ts : List Nat) (s u : State) (tj : Nat), tj = ts.foldl max 0 →
    (s.pow.mstate = .tripped → (tj < 115 → exec (.temperatureReading ts) s = .next s) ∧
      (115 ≤ tj → s.pow.tripAt ≠ s.time → exec (.temperatureReading ts) s =
        .next (if s.pow.thermTrip then s else (s.report { code := 0x3A30 }).modPow (fun p => { p with thermTrip := true }))) ∧
      (115 ≤ tj → s.pow.tripAt = s.time → ∃ t, exec (.temperatureReading ts) s = .next t ∧ t.pow = { s.pow with thermTrip := true, tripCause := min s.pow.tripCause 1 } ∧
        (s.pow.thermTrip = true → t.integ = s.integ))) ∧
    (s.pow.mstate = .standby → exec (.temperatureReading ts) s = .next (if 115 ≤ tj then s.thermalTrip 1 else s)) ∧
    (s.pow.mstate ≠ .standby → s.pow.mstate ≠ .tripped → u = s.modPow (fun p => { p with tjMax := min tj 255, temps := ts }) →
      (100 ≤ tj → ∀ v : State, v = u.modPow (fun p => { p.endBoost with
          throttle := true, throttles := if s.pow.throttle then s.pow.throttles else satAdd 16 s.pow.throttles 1
          sTherm := (if 105 ≤ tj then 15 else min 15 (s.pow.sTherm + 1)), hot105 := decide (105 ≤ tj) }) →
        (115 ≤ tj → exec (.temperatureReading ts) s = .next (v.thermalTrip 1)) ∧
        (105 ≤ tj → tj < 115 → s.pow.hot105 = false → exec (.temperatureReading ts) s = .next (v.report { code := 0x1A23 })) ∧
        ((tj < 105 ∨ s.pow.hot105 = true) → tj < 115 → exec (.temperatureReading ts) s = .next (if s.pow.throttle then v else v.report { code := 0x0A10 }))) ∧
      (97 ≤ tj → tj < 100 → exec (.temperatureReading ts) s = .next (u.modPow (fun p => { p with hot105 := false }))) ∧
      (∀ v, v = (if s.pow.hbmHot then max 8 (s.pow.sTherm - 1) else s.pow.sTherm - 1) → tj < 97 →
        exec (.temperatureReading ts) s = .next (u.modPow (fun p => { p with hot105 := false, sTherm := v, throttle := p.throttle && decide (0 < v) }))))) ∧
  (∀ (ts : List Nat) (s u : State) (m : Nat), m = ts.foldl max 0 → s.pow.mstate ≠ .standby → s.pow.mstate ≠ .tripped →
    u = s.modPow (fun p => { p with
      thbmMax := min m 255, hbmHot := decide (95 ≤ m), sTherm := (if 95 ≤ m then max 8 p.sTherm else p.sTherm), refresh2 := BitVec.ofNat 6 (maskOf ((List.range 6).filter (fun i => decide (85 ≤ ts.getD i 0)))) }) →
    (105 ≤ m → exec (.hbmTemperatureReading ts) s = .next (u.thermalTrip 2)) ∧ (m < 105 → exec (.hbmTemperatureReading ts) s = .next u)) ∧
  (∀ (s u : State) (short : Bool),
    (s.pow.coolantOk = true → exec .coolantOkFall s = .next (s.modPow (fun p => { p with coolantOk := false, coolantLowAt := some s.time })) ∧ exec .coolantOkRise s = .next s) ∧
    (∀ c, s.pow.coolantOk = false → s.pow.coolantLowAt = some c →
      (c + 10000 ≤ s.time → ∀ w : State, w = s.modPow (fun p => { p with coolantLowAt := none }) →
        (s.pow.mstate ≠ .tripped → s.pow.dom 32 ≠ .off → exec .coolantStop s = .next (w.trip 3 { code := 0x3A31 })) ∧
        (s.pow.mstate = .tripped → exec .coolantStop s = .next (if s.pow.tripAt = s.time ∧ s.pow.tripCause ≠ 3 then w.trip 3 { code := 0x3A31 } else w))) ∧
      (s.time < c + 10000 → exec .coolantStop s = .next s) ∧
      (short = decide (s.time < c + 10000) → u = s.modPow (fun p => { p with
          coolantOk := true, coolantLowAt := none, glitches := if short && s.board.aux then satAdd 16 p.glitches 1 else p.glitches }) →
        (s.boot.stage ≠ 6 → exec .coolantOkRise s = .next u) ∧ (s.boot.stage = 6 → exec .coolantOkRise s = .next (u.powerUp u.boot.badSlots))))) ∧
  (∀ (s : State),
    exec .vrAlertAssert s = .next (s.modPow (fun p => { p.endBoost with vrAlert := true, vrRead := true, sAlert := 8, alertEndAt := none })) ∧
    exec .vrAlertDeassert s = .next (s.modPow (fun p => if p.vrAlert then { p with vrAlert := false, alertEndAt := some s.time } else p)) ∧
    (∀ (st : List VrFinding) (w : State), s.pow.vrRead = true → s.pow.mstate = .tripped → w = s.modPow (fun p => { p with vrRead := false }) →
      exec (.vrStatusRead st) s = .next (if .fault ∈ st ∧ s.pow.tripAt = s.time ∧ s.pow.tripCause ≠ 4 then w.trip 4 { code := 0x3A32 } else w)) ∧
    (∀ st : List VrFinding, s.pow.vrRead = true → s.pow.mstate ≠ .tripped → s.pow.dom 32 ≠ .off → ∀ u v : State,
      u = s.modPow (fun p => { p with vrRead := false, fallback := true, fallbacks := if p.fallback then p.fallbacks else satAdd 16 p.fallbacks 1, fallbackHeld := true }) →
      v = s.modPow (fun p => { p with vrRead := false, fallback := true, fallbacks := if p.fallback then p.fallbacks else satAdd 16 p.fallbacks 1, sAlert := 0 }) →
      (.fault ∈ st → exec (.vrStatusRead st) s = .next ((s.modPow (fun p => { p with vrRead := false })).trip 4 { code := 0x3A32 })) ∧
      (.fault ∉ st → .silent ∈ st → exec (.vrStatusRead st) s = .next (u.report { code := 0x1A22 })) ∧
      (.fault ∉ st → .silent ∉ st → exec (.vrStatusRead st) s = .next (v.report { code := 0x1A20 }))) ∧
    (∀ t, s.pow.alertEndAt = some t → s.pow.vrAlert = false → s.pow.fallbackHeld = false → t + 100000000 ≤ s.time →
      exec .fallbackWindowExpiry s = .next (s.modPow (fun p => { p with fallback := false, alertEndAt := none }))) ∧
    (s.pow.mstate ≠ .standby → s.pow.mstate ≠ .tripped → exec .rootPllLoss s = .next (s.trip 5 { code := 0x3D20 })) ∧
    (s.pow.mstate = .tripped → exec .rootPllLoss s = .next (if s.pow.tripAt = s.time ∧ s.pow.tripCause ≠ 5 then s.trip 5 { code := 0x3D20 } else s)))

/-- READY_IDLE_MS 0 never idles. -/
def Obligations.IdleStates : Prop :=
  (∀ (s : State), s.alive = true → s.pow.mstate = .active → s.pow.readyIdleMs ≠ 0 → s.pow.lastActivity + 100000 * s.pow.readyIdleMs ≤ s.time →
    s.pow.commitAt ≠ some s.time →
    (s.busy = false → exec .readyIdleEntry s = .next (s.modPow (fun p => { (p.setDoms (handDoms ++ hbmDoms) .low) with mstate := .readyIdle, idleAt := some s.time }))) ∧
    (s.busy = true → exec .readyIdleEntry s = .next s)) ∧
  (∀ (s : State), (s.pow.mstate = .readyIdle → exec .readyIdleWake s = .next (s.modPow (fun p => { (p.setDoms (handDoms ++ hbmDoms) .on) with
      mstate := .active, wokeAt := (if p.idleAt = some s.time then p.wokeAt else s.time), lastActivity := s.time, touched := [] }))) ∧
    (s.pow.mstate ≠ .readyIdle → exec .readyIdleWake s = .next s)) ∧
  (∀ (d : Fin 34) (s : State) (x : Nat × Nat), s.pow.touched.find? (fun kv => kv.1 == d.val) = some x →
    (s.time < x.2 + 100 → exec (.returnToGated d) s = .next s) ∧
    (x.2 + 100 ≤ s.time → exec (.returnToGated d) s = .next (s.modPow (fun p => { (if p.mstate = .readyIdle then p.setDoms [d.val] .low else p) with
      touched := p.touched.filter (fun kv => kv.1 != d.val) })))) ∧
  (∀ (i : Instr) (s t : State), (i = .readyIdleEntry ∨ i = .readyIdleWake ∨ ∃ d, i = .returnToGated d) → exec i s = .next t → t = { s with pow := t.pow })

/-- The places of the status bits are the implementation's (log entry 5). That a second token is refused, and that R381's checks are made when the
signature has been verified, is log entry 17's reading, no rule. -/
def Obligations.DebugUnlock : Prop :=
  (∀ (s u : State) (tok : List Nat) (lo : Option (Fin 4)), s.board.aux = true →
    (s.sec.lifecycle = 3 → u = (s.report { code := 0x0B12 }).bypass → exec .dbgChal s = .next u ∧ exec (.dbgToken tok) s = .next u ∧ exec (.dbgStatus lo) s = .next u) ∧
    (s.sec.lifecycle ≠ 3 →
      (u = s.setIr 0x10 → (s.sec.locked s.time = true → exec .dbgChal s = .next (u.emit (.tdo 0 512))) ∧
        (s.sec.locked s.time = false → ∀ c, c = u.random.1.toNat % 2 ^ 256 * 2 ^ 256 + Config.fuseSerial.toNat * 2 ^ 192 + s.sec.dikId % 2 ^ 64 * 2 ^ 128 + s.sec.debug % 4 * 4 + s.sec.lifecycle % 4 →
          exec .dbgChal s = .next ((u.random.2.modSec (fun k => { k with challenge := some (BitVec.ofNat 512 c, s.time) })).emit (.tdo c 512)))) ∧
      (u = s.setIr 0x11 → (s.sec.token = none → exec (.dbgToken tok) s = .next (u.modSec (fun k => { k with token := some tok }))) ∧
        (s.sec.token.isSome = true → exec (.dbgToken tok) s = .next u.refuseToken)) ∧
      (∀ bs, bs = Config.dbgStatusBits s.sec.debug s.sec.tokenResult s.sec.domainOff → u = (s.setIr 0x12).emit (.tdo (bitsNat bs) bs.length) →
        (∀ n, lo = some n → n.val < s.sec.debug → exec (.dbgStatus lo) s = .next (u.modSec (fun k => { k with debug := n.val }))) ∧
        ((lo = none ∨ ∃ n, lo = some n ∧ s.sec.debug ≤ n.val) → exec (.dbgStatus lo) s = .next u)))) ∧
  (∀ (s u : State) (bs : List Nat) (t : Token), s.sec.token = some bs → t = Token.ofBytes bs → u = s.modSec (fun k => { k with token := none, challenge := none }) →
    (s.sec.accepts t s.time = true → exec .tokenVerified s = .next (u.grantToken t)) ∧
    (s.sec.accepts t s.time = false → exec .tokenVerified s = .next ((u.report { code := 0x0B11 }).modSec (fun k => { k with
      unlockFails := satAdd 16 k.unlockFails 1, lockout := some s.time, tokenResult := 2 })))) ∧
  (∀ (s : State), (s.sec.unlockFails < 16 → (∀ t, s.sec.lockout = some t → t + 100000000 ≤ s.time) → exec .unlockLockoutExpiry s = .next (s.modSec (fun k => { k with lockout := none }))) ∧
    (16 ≤ s.sec.unlockFails → exec .unlockLockoutExpiry s = .next s) ∧
    (∀ t, s.sec.lockout = some t → s.time < t + 100000000 → exec .unlockLockoutExpiry s = .next s))

/-- The captured pins, the chains' bits and domains and which bits stop a clock are the implementation's (log entry 5); that a DBG_ACCESS beyond the level's
rights is BYPASS with 0x0B12 is log entry 17's reading. -/
def Obligations.TapInstructions : Prop :=
  (∀ (i : Instr) (s : State), s.board.aux = false → (i ∈ [Instr.idcode, .bypass] ∨ ∃ bs x n, i ∈ [Instr.extest bs, .samplePreload bs, .clamp bs, .highz bs, .dbgAccess x, .dbgScan n bs]) →
    exec i s = .next s) ∧
  (∀ (bs : List Bool) (s : State), s.board.aux = true →
    exec .idcode s = .next ((s.setIr 0x02).emit (.tdo 0x1962056F 32)) ∧ exec .bypass s = .next ((s.setIr 0x3F).emit (.tdo 0 1)) ∧
    exec (.samplePreload bs) s = .next ((s.setIr 0x01).boundaryScan bs) ∧
    (s.serviceStopped = true → exec (.extest bs) s = .next ((s.setIr 0x00).boundaryScan bs) ∧
      exec (.clamp bs) s = .next ((s.setIr 0x03).emit (.tdo (bitsNat (false :: bs.dropLast)) (max 1 bs.length))) ∧
      exec (.highz bs) s = .next ((s.setIr 0x04).emit (.tdo (bitsNat (false :: bs.dropLast)) (max 1 bs.length)))) ∧
    (s.serviceStopped = false → ∀ i ∈ [Instr.extest bs, .clamp bs, .highz bs], exec i s = .next (s.report { code := 0x0B12 }).bypass)) ∧
  (∀ (a : BitVec 48) (d : BitVec 64) (s u v : State), s.board.aux = true → s.sec.lifecycle ≠ 3 → u = (s.setIr 0x13).setDomainOff true → v = ((s.setIr 0x13).setDomainOff false).dbgTouch a.toNat →
    (1 ≤ s.sec.debug → s.dbgMay a.toNat false = true →
      ((s.setIr 0x13).dbgOff a.toNat = true → exec (.dbgAccess (.read a)) s = .next (u.emit (.tdo 0 64))) ∧
      ((s.setIr 0x13).dbgOff a.toNat = false → exec (.dbgAccess (.read a)) s = .next (v.emit (.tdo (v.dbgRead a.toNat) 64)))) ∧
    (1 ≤ s.sec.debug → s.dbgMay a.toNat true = true →
      ((s.setIr 0x13).dbgOff a.toNat = true → exec (.dbgAccess (.write a d)) s = .next u) ∧
      ((s.setIr 0x13).dbgOff a.toNat = false → exec (.dbgAccess (.write a d)) s = .next (v.dbgWrite a.toNat d.toNat))) ∧
    (s.sec.debug = 0 ∨ s.dbgMay a.toNat false = false → exec (.dbgAccess (.read a)) s = .next (s.report { code := 0x0B12 }).bypass) ∧
    (s.sec.debug = 0 ∨ s.dbgMay a.toNat true = false → exec (.dbgAccess (.write a d)) s = .next (s.report { code := 0x0B12 }).bypass)) ∧
  (∀ (n : Nat) (bs : List Bool) (s u : State), s.board.aux = true → s.sec.lifecycle ≠ 3 →
    (s.sec.debug < 3 → exec (.dbgScan n bs) s = .next (s.report { code := 0x0B12 }).bypass) ∧
    (3 ≤ s.sec.debug → u = (s.setIr 0x14).emit (.scan n (Config.scanOut n bs)) →
      ∀ w v r x : State, w = u.modSec (fun k => { k with stoppedDoms := Config.scanStops k.stoppedDoms n bs }) →
        v = w.modSec (fun k => { k with bootHold := Config.scanHold n bs }) →
        (s.sec.held = false ∨ (s.pow.mstate ≠ .standby ∧ s.boot.stage ≠ 0x0A) → r = w) →
        (s.sec.held = true → s.pow.mstate = .standby → s.boot.stage ≠ 0x0A → r = v) →
        (s.sec.held = true → s.boot.stage = 0x0A → r = if v.sec.bootHold = false then v.startFirmware else v) →
        x = (s.report { code := 0x0B12 }).bypass →
        exec (.dbgScan n bs) s = .next (if Config.scanDomain n = 33 then r else if s.dark = false ∧ Config.scanDomain n ∈ s.sec.stoppedDoms then u else x)))

/-- What work leaves behind when zeroisation starts is `zeroise`. -/
def Obligations.SecurityEngine : Prop :=
  (∀ (r : Requester) (v : BitVec 64) (s u w : State), s.reaches r = true → s.takesWrites .sec 0x040 = true → u = s.touch .sec → u.writeRefused r .sec 0x040 v.toNat = none →
    (bit v.toNat 1 = true → bit v.toNat 0 = false → exec (.zeroise r v) s = .next u.zeroise) ∧
    (∀ p, r = .port p → bit v.toNat 0 = true → w = u.attest p → exec (.attestationGo r v) s = .next (if bit v.toNat 1 then w.zeroise else w))) ∧
  (∀ (s : State), s.sec.zstate = 1 → s.dark = false → ∃ t, exec .zeroisationComplete s = .next t ∧ t.mem = [] ∧ t.integ.poison = [] ∧ t.pages.descs = [] ∧ t.pages.vine = [] ∧
    t.serve.sessions = [] ∧ t.serve.reqs = [] ∧ t.lglob.ships = [] ∧ t.sec.zstate = 2 ∧ t.time = s.time ∧ t.board = s.board ∧ t.slots = s.slots ∧ t.integ.log = s.integ.log ∧
    (s.sec.nextLife = none → t.sec.lifecycle = s.sec.lifecycle) ∧ (∀ n, s.sec.nextLife = some n → t.sec.lifecycle = n ∧ (n = 3 → t.sec.debug = 0)) ∧
    (t.sec.lifecycle = 2 → ∀ l < 48, (t.link l).state ∈ [.disabled, .retired])) ∧
  (∀ (s u : State) (p : Port) (nonce : List Nat) (dest : Nat) (rest : List SignJob), s.sec.signQ = .report p nonce dest :: rest →
    u = (s.modSec (fun k => { k with signQ := rest })).random.2 →
    (s.sec.hasDik = false → exec .attestationSigned s = .next (s.modSec (fun k => { k with signQ := rest, attStatus := 5 }))) ∧
    (s.sec.hasDik = true →
    ((u.port p).link ≠ .up ∨ u.dark = true ∨ u.reportPlace p dest = none → exec .attestationSigned s = .next (u.modSec (fun k => { k with attStatus := 4 }))) ∧
    (∀ a, (u.port p).link = .up → u.dark = false → u.reportPlace p dest = some a → exec .attestationSigned s =
      .next ((u.hostPut p a (u.reportBody p nonce ++ Config.slhSign dikSeeds (ascii "SPRJ-ATTEST") (u.reportBody p nonce)
        (s.modSec (fun k => { k with signQ := rest })).random.1)).modSec (fun k => { k with attStatus := 3 }))))) ∧
  (∀ (s : State), exec .rngHealthFail s = .next (s.report { code := 0x3B32 }) ∧
    (2 ^ 20 * (s.sec.reseeds + 1) ≤ s.sec.drbg → exec .drbgReseed s = .next (s.modSec (fun k => { k with reseeds := k.reseeds + 1 }))) ∧
    (s.sec.drbg < 2 ^ 20 * (s.sec.reseeds + 1) → exec .drbgReseed s = .next s))

/-- The requests that a byte's owner ends are those of `owners`. That the buffers of ports and links start no test, and that errors are detected after a
device-fatal error too, is log entry 33's reading, no rule. -/
def Obligations.ErrorsContained : Prop :=
  (∀ (s : State) (d : Detect), s.dark = true → exec (.uncorrectableDetect d) s = .next s) ∧
  (∀ (s : State) (a : BitVec 48) (n : Fin 72) (off : Fin 6291456) (m : Fin 6) (w : Fin 4) (k : Nat), s.dark = false →
    (a.toNat < 0x2400000000 → s.inTables a.toNat = false → exec (.uncorrectableDetect (.hbm a)) s = .next ((s.markPoison (a.toNat / 32 * 32) 32 0x2C20).reportTest
      { code := 0x2C20, addr := a.toNat, kind := .stack, unit := a.toNat / stackBytes } (.rowTest (a.toNat / stackBytes)))) ∧
    (a.toNat < 0x2400000000 → s.inTables a.toNat = true → exec (.uncorrectableDetect (.hbm a)) s = .next (s.report { code := 0x3C30, addr := a.toNat, kind := .stack, unit := a.toNat / stackBytes })) ∧
    (∀ c, s.logicalOn n = some c → exec (.uncorrectableDetect (.sram n off)) s = .next ((s.markPoison (sramAddr c off.val / 8 * 8) 8 0x2C21).reportTest
      { code := 0x2C21, addr := sramAddr c off.val, kind := .coreSlot, unit := n } (.coreTest n))) ∧
    (s.logicalOn n = none → exec (.uncorrectableDetect (.sram n off)) s = .next (s.reportTest { code := 0x2C21, kind := .coreSlot, unit := n } (.coreTest n))) ∧
    exec (.uncorrectableDetect (.sfu n)) s = .next (s.abortTest { code := 0x2C23, kind := .coreSlot, unit := n } (.coreTest n)) ∧
    exec (.uncorrectableDetect (.press m)) s = .next (s.abortTest { code := 0x2C24, kind := .stack, unit := m } (.pressTest m)) ∧
    exec (.uncorrectableDetect (.stewardSram w)) s = .next (s.report { code := 0x3C31, kind := .steward, unit := w }) ∧
    exec (.uncorrectableDetect (.controlMesh k)) s = .next (s.report { code := 0x3C32, kind := .router, unit := k }) ∧
    (s.running = none → exec (.uncorrectableDetect (.array n)) s = .next (s.reportTest { code := 0x2122, kind := .coreSlot, unit := n } (.coreTest n))) ∧
    (∀ c u, s.logicalOn n = some c → u = s.modRun c (fun r => if r.active && r.stopped.isNone then { r with stopped := some (1, 0x2C21) } else r) →
      exec (.uncorrectableDetect (.coreBuffer n)) s = .next (u.reportTest { code := 0x2C21, kind := .coreSlot, unit := n } (.coreTest n))) ∧
    (∀ (p : Port) (l : Fin 48) (d : Option (BitVec 48)),
      exec (.uncorrectableDetect (.portBuffer p d)) s = .next ((s.poisonBuffer d).report { code := 0x2C21, addr := (d.getD 0).toNat, kind := .port, unit := p.num }) ∧
      exec (.uncorrectableDetect (.linkBuffer l d)) s = .next ((s.poisonBuffer d).report { code := 0x2C21, addr := (d.getD 0).toNat, kind := .link, unit := l }))) ∧
  (∀ (s : State) (r : Report) (x : Activity), (∀ t tab, s.alive = true → s.running = some (t, tab) →
      s.abortTest r x = (s.abortPass t r.code).reportTest { r with detail := tab.tag, reqs := tab.endedBy r.code } x) ∧
    (s.alive = false ∨ s.running = none → s.abortTest r x = s.reportTest r x)) ∧
  (∀ (k : Fin 64) (a : BitVec 48) (s u v : State) (x code t : Nat) (tab : PassTable) (o : List Nat × State), s.alive = true → (region a.toNat).canon = some x → s.poisonIn x 1 = some code →
    (s.core k).run.active = true → s.running = some (t, tab) → o = s.owners x → u = o.2.abortPass t code → v = u.endOwners (some t) o.1 code →
    (code ≠ 0x2201 → exec (.poisonConsume (.core k) a) s = .next (v.report { code := code, addr := a.toNat, detail := (o.2.table t).tag, kind := .coreSlot, unit := s.slotOf k, reqs := ((o.2.table t).endedWith o.1).length })) ∧
    (code = 0x2201 → exec (.poisonConsume (.core k) a) s = .next v)) ∧
  (∀ (c : Consumer) (a : BitVec 48) (s : State), (∀ x, (region a.toNat).canon = some x → s.poisonIn x 1 = none) → exec (.poisonConsume c a) s = .next s) ∧
  (∀ (s : State) (m : Fin 6) (a : BitVec 48) (slot : Fin 72) (off : Fin 6291456) (r n : Nat), s.dark = false →
    exec (.ceLimitReached (.hbm m a) n) s = .next (s.correctedHbm m a.toNat n) ∧
    exec (.ceLimitReached (.sram slot off) n) s = .next (s.correctedSram slot off.val n) ∧
    exec (.ceLimitReached (.mesh r) n) s = .next ((s.modInteg (fun g => { g with meshRetry := g.meshRetry + BitVec.ofNat 64 n })).corrected { code := 0x1C14, kind := .router, unit := r } .routeTest n) ∧
    (∀ (g : Integrity) (b : Bool) (rep : Report) (x : Activity), s.integ.ceAdd rep.code (reporter rep.code rep.unit) n s.time = (b, g) →
      s.corrected rep x n = (if b then ({ s with integ := g } : State).reportTest rep x else { s with integ := g }))) ∧
  (∀ (m : Fin 6) (a : BitVec 48) (w : Fin 64) (s : State), s.dark = false → s.holds (.hbmScrub m) = true → a.toNat / stackBytes = m →
    exec (.hbmPatrolScrub m a .clean) s = .next s ∧ exec (.hbmPatrolScrub m a .corrected) s = .next (s.correctedHbm m a.toNat 1) ∧
    (s.inTables a.toNat = true → exec (.hbmPatrolScrub m a (.uncorrectable w)) s = .next (s.report { code := 0x3C30, addr := a.toNat, kind := .stack, unit := m })) ∧
    (s.inTables a.toNat = false → exec (.hbmPatrolScrub m a (.uncorrectable w)) s = .next ((s.markPoison (a.toNat / 32 * 32) 32 0x2C20).reportTest { code := 0x2C25, addr := a.toNat, kind := .stack, unit := m } (.rowTest m)))) ∧
  (∀ (n : Fin 72) (l : Fin 12288) (w : Fin 64) (s : State), s.dark = false → s.holds (.sramScrub n) = true →
    exec (.sramPatrolScrub n l .clean) s = .next s ∧ exec (.sramPatrolScrub n l .corrected) s = .next (s.correctedSram n (512 * l.val) 1) ∧
    (∀ c, s.logicalOn n = some c → exec (.sramPatrolScrub n l (.uncorrectable w)) s = .next ((s.markPoison (sramAddr c (512 * l.val + 8 * w.val)) 8 0x2C21).reportTest
      { code := 0x2C21, addr := sramAddr c (512 * l.val + 8 * w.val), kind := .coreSlot, unit := n } (.coreTest n))))

/-- The table of R403 is `meet`; lasting effects are those of `lasting`. -/
def Obligations.CellarKeys : Prop :=
  (∀ (a : Activity) (s : State), s.dark = false →
    ((∃ l, a = .linkRetrain l ∧ ∃ h ∈ s.wake.integ.held, h.act = .linkTest l) → exec (.cellarKeyRequest a) s = .next s.wake) ∧
    ((∀ l, a ≠ .linkRetrain l) → exec (.cellarKeyRequest a) s = .next (State.grantKeys (s.wake.integ.waiting ++ [a]) [] s.wake)) ∧
    exec (.cellarKeyRelease a) s = .next (s.releaseKeys a).noteActivity) ∧
  (∀ (a : Activity) (s : State), s.dark = false → s.integ.waiting = [] → (∀ h ∈ s.integ.held, h.act.overlaps a = false) → (∀ l, a ≠ .linkRetrain l) → (∀ o n, a ≠ .replacement o n) →
    (∀ m, a = .rowRepair m true → ∀ x ∈ s.integ.withdrawals, x.1 ≠ m) →
    ∃ t, exec (.cellarKeyRequest a) s = .next t ∧ t.integ.held = s.integ.held ++ [{ act := a, since := s.time }] ∧ t.integ.waiting = [] ∧ t.slots = s.slots ∧ t.mem = s.mem ∧ t.integ.log = s.integ.log) ∧
  (∀ (m : Nat) (s : State) (h : Held), s.dark = false → s.integ.waiting = [] → (∀ h ∈ s.integ.held, h.act.overlaps (.rowRepair m true) = false) →
    h = { act := .rowRepair m true, since := s.time } →
    exec (.cellarKeyRequest (.rowRepair m true)) s = .next (((s.wake.modInteg (fun g => { g with held := g.held ++ [h] })).takeRows m).modInteg (fun g => { g with waiting := [] })) ∧
    ∀ u : State, u.takeRows m = ((u.integ.withdrawals.filter (fun x => x.1 == m)).foldl (fun s x => s.takeRow m x.2)
      (u.modInteg (fun g => { g with withdrawals := g.withdrawals.filter (fun x => x.1 != m) })))) ∧
  (∀ (a : Activity) (b : Bool) (second pass : Bool) (s u v w : State) (x : PendingTest) (g : Integrity), s.dark = false → s.testable a = true → (∀ o n, a ≠ .replacement o n) →
    s.integ.tests.find? (fun t => t.act == a) = some x → u = s.modInteg (fun g => { g with tests := g.tests.erase x }) →
    (b, g) = (if pass then u.integ.tally x.tally.1 x.tally.2 u.time else (true, u.integ)) → v = { u with integ := g } →
    w = (if b then v.lasting x second else match a with | .linkTest l => (v.verdict x 2).linkPassed l | _ => v.verdict x 2) →
    ((w.integ.tests.any (fun y => y.act == a) = false) → exec (.targetedTestVerdict a pass second) s = .next (w.releaseKeys a).noteActivity) ∧
    (w.integ.tests.any (fun y => y.act == a) = true →
      (∀ n, a = .coreTest n → exec (.targetedTestVerdict a pass second) s = .next (w.testFeed n).noteActivity) ∧
      ((∀ n, a ≠ .coreTest n) → exec (.targetedTestVerdict a pass second) s = .next w.noteActivity))) ∧
  (∀ (o n : Fin 72) (second : Bool) (s : State), s.dark = false → s.testable (.replacement o n) = true →
    exec (.targetedTestVerdict (.replacement o n) true second) s = .next (((s.moveCore o n).releaseKeys (.replacement o n)).noteActivity) ∧
    exec (.targetedTestVerdict (.replacement o n) false second) s = .next ((((s.releaseKeys (.replacement o n)).retireSlot n 0x2122).seekKitty o).noteActivity))

/-- Pulses in between are the implementation's (log entry 4); before auxiliary power is good only the pin changes (log entry 11). -/
def Obligations.ResetAndBoot : Prop :=
  (∀ (ns : Nat) (s : State), s.board.aux = true →
    (ns < 1000 → exec (.resetInAssert ns) s = .next s) ∧
    (10000 ≤ ns → ∃ t, exec (.resetInAssert ns) s = .next t ∧ t.time = s.time ∧ t.mem = s.mem ∧ t.integ.log = s.integ.log ∧ t.integ.repairs = s.integ.repairs ∧ t.slots = s.slots.map (CoreSlot.fromFuses s.time) ∧
      t.sec.svnFuse = s.sec.svnFuse ∧ t.sec.revoked = s.sec.revoked ∧ t.sec.lifecycle = s.sec.lifecycle ∧ t.sec.debug = 0 ∧ t.pow.mstate = .standby ∧ t.glob = {} ∧ t.links = [] ∧
      t.cores = [] ∧ t.serve = {} ∧ t.board.resetIn = true ∧ (t.port .A).link = .down ∧ (t.port .B).link = .down ∧ (s.boot.rstatus ≠ 3 → t.board.nvm = s.board.nvm))) ∧
  (∀ (x : CoreSlot) (t : Nat), (x.fromFuses t).fuse = x.fuse ∧ (x.fromFuses t).mfg = x.mfg ∧ (x.fromFuses t).mfgLogical = x.mfgLogical ∧ (x.fromFuses t).moving = false ∧
    (x.fuse = true → (x.fromFuses t).state = .retired) ∧ (x.fuse = false → (x.fromFuses t).state = x.mfg) ∧ (x.mfg = .enabled → (x.fromFuses t).logical = x.mfgLogical)) ∧
  (∀ (ns : Nat) (s : State), s.board.aux = false → exec (.resetInAssert ns) s = .next { s with board := { s.board with resetIn := true } }) ∧
  (∀ (f : BootFacts) (s u v : State), u = { s with board := { s.board with resetIn := false } } →
    (s.board.aux = false → exec (.resetInDeassert f) s = .next u) ∧
    (s.board.aux = true → s.pow.mstate ≠ .tripped → s.board.resetIn = true ∨ s.boot.stage = 1 → v = u.atFuses.rebuildMap →
      (s.sec.lifecycle = 3 → exec (.resetInDeassert f) s = .next (u.atFuses.setStage 0x0F)) ∧
      (s.sec.lifecycle ≠ 3 → f.nvmAnswers = false → exec (.resetInDeassert f) s = .next ((v.report { code := 0x3002 }).enterRescue 4 3)) ∧
      (s.sec.lifecycle ≠ 3 → f.nvmAnswers = true → v.sec.dikMatches = false → exec (.resetInDeassert f) s = .next ((v.report { code := 0x3B31 }).setStage 0x0F)) ∧
      (s.sec.lifecycle ≠ 3 → f.nvmAnswers = true → v.sec.dikMatches = true → exec (.resetInDeassert f) s = .next (v.checkImage (f.badSlots.map Fin.val))))) ∧
  (∀ (s u v : State), s.boot.stage = 0x0B → s.glob.fatal = false ∨ s.boot.noService = true → u = (s.modBoot (fun b => { b with bootMs := (s.time - b.startAt) / 100000 })).readyPorts →
    (u.mayServe = true → v = (((u.setStage 0x0C).modGlob (fun g => { g with service := 1, modReady := true })).modSec (fun k => k.blow u.boot.commitSvn u.boot.revoke)) →
      exec .firmwareReady s = .next ((v.modPow (fun p => { p with mstate := .active, lastActivity := v.time })).freeLinks)) ∧
    (u.mayServe = false → exec .firmwareReady s = .next ((u.setStage 0x0D).modGlob (fun g => { g with service := 2 }))))

/-- The checks are those of `verifies` and `conflict`. That the install writes the slot in one step at its end, and that a busy loader ignores GO, are log
entry 34's. -/
def Obligations.RescueLoader : Prop :=
  (∀ (r : Requester) (v : BitVec 64) (s u : State), s.reaches r = true → s.takesWrites .boot 0x030 = true → u = s.touch .boot → u.writeRefused r .boot 0x030 v.toNat = none →
    bit v.toNat 1 = true → bit v.toNat 0 = false → exec (.rescueNext r v) s = .next (u.modBoot (fun b => { b with rescueNext := true }))) ∧
  (∀ (s : State) (x : SmbCall), ∀ u : State, u = { s with board := { s.board with smb := x } } → (s.hears x [0x12] = true → exec (.smbRescue x) s = .next (u.modBoot (fun b => { b with rescueNext := true }))) ∧ (s.hears x [0x12] = false → exec (.smbRescue x) s = .next u)) ∧
  (∀ (p : Port) (v : BitVec 64) (host : Cells) (s t u : State) (x : Image), t = s.hostStore p host → t.reaches (.port p) = true → t.takesWrites .boot 0x030 = true → u = t.touch .boot →
    u.writeRefused (.port p) .boot 0x030 v.toNat = none → bit v.toNat 0 = true → bit v.toNat 1 = false → u.glob.service = 4 → u.boot.rstatus = 0 ∨ 4 ≤ u.boot.rstatus →
    x = Image.ofBytes (u.hostGet p u.boot.rescueSrc.toNat u.boot.rescueBytes.toNat) →
    (((u.port p).func 0).bme = false → exec (.rescueGo (.port p) v host) s = .next (u.refuseRescue 0x3002 0)) ∧
    (((u.port p).func 0).bme = true → (u.port p).link = .up →
      (u.sec.verifies x = false → exec (.rescueGo (.port p) v host) s = .next (u.refuseRescue 0x3002 0)) ∧
      (∀ d, u.sec.verifies x = true → x.conflict u = some d → exec (.rescueGo (.port p) v host) s = .next (u.refuseRescue 0x3003 d)) ∧
      (u.sec.verifies x = true → x.conflict u = none → exec (.rescueGo (.port p) v host) s = .next (u.modBoot (fun b => { b with rstatus := 3, staged := x.bytes, rescuePort := p }))))) ∧
  (∀ (s u v : State), s.glob.service = 4 → s.boot.rstatus = 3 → u = { s with board := { s.board with nvm := memPut [] 0 s.boot.staged } } → v = { s with board := { s.board with nvm := [] } } →
    exec (.rescueInstallDone true) s = .next (u.modBoot (fun b => { b with rstatus := 5, staged := [] })) ∧
    exec (.rescueInstallDone false) s = .next (v.refuseRescue 0x3002 0) ∧ (v.refuseRescue 0x3002 0).boot.staged = [] ∧ (v.refuseRescue 0x3002 0).boot.rstatus = 4) ∧
  (∀ (s : State), s.glob.service = 4 → s.boot.rstatus = 5 → ∃ t, exec .loaderReboot s = .next t ∧ t.boot.stage = 1 ∧ t.board.resetIn = false ∧ t.board.nvm = s.board.nvm ∧
    t.pow.mstate = .active ∧ t.glob.service = 0 ∧ t.time = s.time ∧ t.integ.log = s.integ.log ∧ t.slots = s.slots.map (CoreSlot.fromFuses s.time))

/-- What a loss keeps is `losePower`; nothing runs until power comes back. What lost memory and registers without a reset value read is log entry 12's
choice. -/
def Obligations.SupplyEvents : Prop :=
  (∀ (s : State), exec .supply52vApply s = .next { s with board := { s.board with v52 := true } } ∧ exec .enMate s = .next { s with board := { s.board with en := true } }) ∧
  (∀ (s u : State), s.board.aux = false → s.board.v52 = true → s.board.en = true → u = ({ s with board := { s.board with aux := true } } : State).modPow (fun p =>
      { (p.setDoms [33] .on) with mstate := .standby, coolantLowAt := if p.coolantOk then none else some s.time }) →
    (s.board.resetIn = true → exec .powerOnResetEnd s = .next (u.setStage 1)) ∧ (s.board.resetIn = false → exec .powerOnResetEnd s = .next u.atFuses)) ∧
  (∀ (s : State), s.board.aux = true ∨ s.board.v52 = false ∨ s.board.en = false → exec .powerOnResetEnd s = .next s) ∧
  (∀ (s : State) (i : Instr), i ∈ [Instr.enBreak, .inputLockout, .circuitBreakerTrip] → ∃ t, exec i s = .next t ∧
    t.time = 0 ∧ t.mem = [] ∧ t.integ = {} ∧ t.cores = [] ∧ t.links = [] ∧ t.serve = {} ∧ t.pages = {} ∧ t.glob = {} ∧ t.sec.debug = 0 ∧ t.sec.zstate = (if s.sec.zstate = 1 ∨ s.sec.zstate = 3 then 3 else 0) ∧ t.board.aux = false ∧
    t.pow.mstate = .standby ∧ t.pow.doms = [] ∧ t.sec.lifecycle = s.sec.lifecycle ∧ t.sec.svnFuse = s.sec.svnFuse ∧ t.sec.revoked = s.sec.revoked ∧ t.sec.udsKilled = s.sec.udsKilled ∧
    t.slots.map CoreSlot.fuse = s.slots.map CoreSlot.fuse ∧ (s.boot.rstatus ≠ 3 → t.board.nvm = s.board.nvm) ∧ (i = .enBreak → t.board.en = false ∧ t.board.v52 = s.board.v52) ∧
    (i ≠ .enBreak → t.board.v52 = false ∧ t.board.en = s.board.en))

/-- The registers are read as `regBytes` gives them. The polynomial of the PEC and the bytes it covers are log entry 38's presumption. -/
def Obligations.SmbusCommands : Prop :=
  (∀ (s : State) (x : SmbCall) (sent : List Nat), s.hears x sent = true ↔ (s.board.aux = true ∧ x.addr.toNat = 0x58 + s.board.straps.toNat ∧
    ∀ p, x.pec = some p → p.toNat = crc8 (2 * x.addr.toNat :: sent))) ∧
  (∀ (s : State) (x : SmbCall) (sent bs : List Nat) (block : Bool) (all : List Nat), all = 2 * x.addr.toNat :: sent ++ (2 * x.addr.toNat + 1) :: (if block then [bs.length] else []) ++ bs →
    s.answer x sent block bs = s.emit (.smbus (bs ++ if x.more then [crc8 all] else []))) ∧
  (∀ (s : State) (x : SmbCall) (k : BitVec 16), s.board.smb = x →
    (s.hears x [0x01] = true → exec .readId s = .next (s.answer x [0x01] true (s.regBytes .glob 0 3))) ∧
    (s.hears x [0x02] = true → exec .readStatus s = .next (s.answer x [0x02] true (s.regBytes .glob 0x040 1 ++ s.regBytes .boot 0 1))) ∧
    (s.hears x [0x03] = true → exec .readPower s = .next (s.answer x [0x03] true (s.regBytes .power 0x008 4))) ∧
    (s.hears x [0x04] = true → exec .readTrip s = .next (s.answer x [0x04] false [s.pow.tripCause % 8])) ∧
    (∀ sent, sent = [0x05, 2] ++ leBytes 2 k.toNat → s.hears x sent = true →
      exec (.readLog k) s = .next (s.answer x sent true (s.regBytes .maint (0x1000 + 32 * (k.toNat % 1024)) 4))) ∧
    (s.hears x [0x06, k.toNat % 256] = true →
      (∀ r, s.integ.repairs[k.toNat % 256]? = some r → exec (.readRepair k) s = .next (s.answer x [0x06, k.toNat % 256] false (leBytes 8 r.bits))) ∧
      (s.integ.repairs.length ≤ k.toNat % 256 → exec (.readRepair k) s = .next (s.answer x [0x06, k.toNat % 256] false (leBytes 8 0)))) ∧
    (s.hears x [0x07] = true → exec .readTime s = .next (s.answer x [0x07] true (leBytes 8 s.time))) ∧
    (s.hears x [0x10] = true → exec .zarm s = .next { s with board := { s.board with armed := some s.time } })) ∧
  (∀ (s u : State) (x : SmbCall), u = { s with board := { s.board with smb := x } } → s.hears x [0x11] = true →
    (∀ a, s.board.armed = some a → s.time < a + 100000000 →
      (s.dark = true → exec (.smbZeroise x) s = .next u) ∧
      (s.booting = true → exec (.smbZeroise x) s = .next (u.modBoot (fun b => { b with noService := true }))) ∧
      (s.dark = false → s.booting = false → exec (.smbZeroise x) s = .next u.zeroise)) ∧
    ((s.board.armed = none ∨ ∃ a, s.board.armed = some a ∧ a + 100000000 ≤ s.time) → exec (.smbZeroise x) s = .next u)) ∧
  (∀ (s : State) (x : SmbCall) (k : BitVec 16),
    (s.board.smb = x → ∀ y, y ∈ [(Instr.readId, 0x01), (.readStatus, 0x02), (.readPower, 0x03), (.readTrip, 0x04), (.readTime, 0x07), (.zarm, 0x10)] →
      s.hears x [y.2] = false → exec y.1 s = .next s) ∧
    (s.hears x [0x11] = false → exec (.smbZeroise x) s = .next { s with board := { s.board with smb := x } }) ∧
    (s.board.smb = x → s.hears x ([0x05, 2] ++ leBytes 2 k.toNat) = false → exec (.readLog k) s = .next s) ∧
    (s.board.smb = x → s.hears x [0x06, k.toNat % 256] = false → exec (.readRepair k) s = .next s)) ∧
  (∀ (s : State), (s.board.armed = none ∨ ∃ a, s.board.armed = some a ∧ a + 100000000 ≤ s.time) → exec .zarmExpiry s = .next { s with board := { s.board with armed := none } }) ∧
  (∀ (s : State) (a : Nat), s.board.armed = some a → s.time < a + 100000000 → exec .zarmExpiry s = .next s)

/-- What a register's write does is `applyWrite`, what a refusal does `refuseWrite`. -/
def Obligations.RegisterWrites : Prop :=
  (∀ (r : Requester) (a : BitVec 26) (v : BitVec 64) (n : Nat) (s : State),
    (s.reaches r = false → exec (.registerWrite r (.bar0 a) n v) s = .next s) ∧
    (s.reaches r = true → n ≠ 8 ∨ a.toNat % 8 ≠ 0 → exec (.registerWrite r (.bar0 a) n v) s =
      .next ((s.noteRefusal r 6 a.toNat).modGlob (fun g => { g with badSize := satAdd 32 g.badSize 1 }))) ∧
    (s.reaches r = true → n = 8 → a.toNat % 8 = 0 →
      (blockOf a.toNat = none → exec (.registerWrite r (.bar0 a) n v) s = .next s) ∧
      (∀ b o u, blockOf a.toNat = some (b, o) → u = s.touch b →
        (s.takesWrites b o = false → exec (.registerWrite r (.bar0 a) n v) s = .next s) ∧
        (s.takesWrites b o = true →
          (∀ reason code, u.writeRefused r b o v.toNat = some (reason, code) → exec (.registerWrite r (.bar0 a) n v) s = .next (u.refuseWrite r b o reason code)) ∧
          (u.writeRefused r b o v.toNat = none → exec (.registerWrite r (.bar0 a) n v) s = .next (u.applyWrite r b o v.toNat)))))) ∧
  (∀ (p : Port) (k : Fin 16) (off : BitVec 16) (n : Nat) (v : BitVec 64) (s : State), (s.port p).seatMode = true → k ≠ 0 → (s.port p).serves k = true → ((s.port p).func k).d3hot = false →
    (∀ a, seatOffset p k off.toNat = some a → exec (.registerWrite (.port p) (.seat k off) n v) s = .next (s.sizedWrite (.port p) a n v.toNat)) ∧
    (seatOffset p k off.toNat = none → 0x8000 ≤ off.toNat → off.toNat < 0x8040 →
      exec (.registerWrite (.port p) (.seat k off) n v) s = .next (s.writeVectors p k (off.toNat - 0x8000) n v.toNat)) ∧
    (seatOffset p k off.toNat = none → off.toNat < 0x8000 ∨ 0x8040 ≤ off.toNat → exec (.registerWrite (.port p) (.seat k off) n v) s = .next s)) ∧
  (∀ (p : Port) (k : Fin 16) (off : BitVec 16) (n : Nat) (v : BitVec 64) (s : State), (s.port p).configures k = true →
    ((s.port p).func k).d3hot = false →
    (k = 0 → exec (.registerWrite (.port p) (.bar4 off) n v) s = .next (s.writeVectors p 0 off.toNat n v.toNat)) ∧
    exec (.registerWrite (.port p) (.msixControl k) n v) s = .next (s.modFunc p k (fun f => { f with msixEn := bit v.toNat 15, msixMask := bit v.toNat 14 }))) ∧
  (∀ (v : BitVec 64) (s : State), s.takesWrites .watchdog 0x018 = true →
    (∀ n, s.reaches (.steward n) = true → exec (.kick (.steward n) v) s = .next (s.modSync (fun y => { y with kicks := (maskList 4 v.toNat).foldl (fun t n => Tbl.set 0 n s.time t) y.kicks }))) ∧
    (∀ p, s.reaches (.port p) = true → exec (.kick (.port p) v) s = .next s)) ∧
  (∀ (r : Requester) (c : Fin 64) (v : BitVec 64) (s u : State), s.reaches r = true → s.takesWrites (.core c) 0x150 = true → u = s.touch (.core c) →
    u.writeRefused r (.core c) 0x150 v.toNat = none → bit v.toNat 0 = true → exec (.ctrClear r c v) s = .next (u.modRegs c (fun k => { k with stall := [], clearedAt := u.pow.arrayCycles })))

/-- For the blocks with ISW fields, none of which is a port's own. The PORTS of a steward's or the debugger's refused write are log entry 16's reading. -/
def Obligations.IswWritesRefused : Prop :=
  ∀ (r : Requester) (a : BitVec 26) (v : BitVec 64) (s u : State) (b : Blk) (o : Nat), s.reaches r = true → a.toNat % 8 = 0 → blockOf a.toNat = some (b, o) → s.takesWrites b o = true →
    u = s.touch b → (∃ i, bit (u.iswChange b o v.toNat) i = true ∧ bit (Tbl.get 0 (b.base + o) u.boot.opened).toNat i = false) →
    ∀ e : Report, e = { code := 0x0010, addr := regSpace + (b.base + o), ports := match u.asPort r with | some p => 2 ^ p.num | none => 3 } →
    ∃ t, exec (.registerWrite r (.bar0 a) 8 v) s = .next t ∧ t = { u with
        glob := t.glob, integ := t.integ, portA := { u.portA with funcs := t.portA.funcs }, portB := { u.portB with funcs := t.portB.funcs }, out := t.out } ∧
      ((∀ x, u.integ.newest = some x → merges e u.time x = false) →
        t.integ = { u.integ with log := Tbl.set {} (u.integ.nextSeq % 1024) (e.entry u.time u.integ.nextSeq) u.integ.log, nextSeq := (u.integ.nextSeq + 1) % 2 ^ 32 }) ∧
      (∀ x, u.integ.newest = some x → merges e u.time x = true →
        t.integ = { u.integ with log := Tbl.upd {} ((u.integ.nextSeq - 1) % 1024) (fun y => { y with count := satAdd 16 y.count 1 }) u.integ.log }) ∧
      t.glob = { u.glob with regRefuse := t.glob.regRefuse, refused := satAdd 32 u.glob.refused 1 } ∧ t.glob.regRefuse.isSome = true ∧
      (u.glob.regRefuse = none → t.glob.regRefuse = some { requester := r.code, reason := 2, offset := b.base + o }) ∧ (u.glob.regRefuse ≠ none → t.glob.regRefuse = u.glob.regRefuse) ∧
      (t.readBlk 7 b o) &&& iswMask b o = (u.readBlk 7 b o) &&& iswMask b o

/-- LOCAL_TIME_HI is the global register at 0x088 as its requester reads it. Debug latches nothing (R438). -/
def Obligations.LocalTimeLatch : Prop :=
  (∀ (r : Requester) (s : State), r ≠ .debug → s.reaches r = true → s.glob.service ≠ 4 →
    ∃ t, exec (.localTimeLowRead r) s = .next t ∧ t = { s with glob := { s.glob with timeHi := t.glob.timeHi }, out := s.out ++ [.readData r (s.time % 2 ^ 32)] } ∧
      (∀ n : Nat, ({ t with time := n } : State).readBlk r.key .glob 0x088 = s.time / 2 ^ 32 % 2 ^ 32) ∧
      (∀ q : Requester, q ≠ r → t.readBlk q.key .glob 0x088 = s.readBlk q.key .glob 0x088)) ∧
  (∀ (s : State), s.board.aux = true → 1 ≤ s.sec.debug → s.glob.service ≠ 4 → exec (.localTimeLowRead .debug) s = .next (s.emit (.readData .debug (s.time % 2 ^ 32))))

/-- Where a load stands is the slot's state; a failed load is `failLoad`. The answers of an unload of an empty, loading or draining slot, and the order of a
load's answer before the records of the requests that waited, are log entry 27's readings, no rules. -/
def Obligations.ModelSwap : Prop :=
  (∀ (p : Port) (n : Fin 16) (e : BitVec 256) (host : Cells) (s u : State) (a : AdminReply),
    a = { port := p, ring := n, cookie := BitVec.ofNat 64 (fld e.toNat 128 64), tCommit := s.time } → entryFits 0x20 e = true →
    (s.hostStore p host).readsEntry p n e = true → u = (s.hostStore p host).entryTaken p n e →
    (u.hostRead p (u.ringFn p n) (fld e.toNat 0 64) 64 = none → exec (.modelLoad p n e host) s = .next (u.adminRecord a 0x2604 0)) ∧
    (∀ bs b, u.hostRead p (u.ringFn p n) (fld e.toNat 0 64) 64 = some bs → b = ModelBlock.ofBytes bs →
      (b.magic ≠ 0x4D ∨ (u.model b.mslot).state = .loading ∨ (u.model b.mslot).state = .draining → exec (.modelLoad p n e host) s = .next (u.adminRecord a 0x260B 0)) ∧
      (b.magic = 0x4D → b.source ≠ 1 →
        ((u.model b.mslot).state = .ready → exec (.modelLoad p n e host) s = .next (u.takeModel b.mslot (some b) 0 a)) ∧
        ((u.model b.mslot).state = .empty → exec (.modelLoad p n e host) s = .next (u.startLoad b.mslot b 0 (some a)))))) ∧
  (∀ (p : Port) (n : Fin 16) (e : BitVec 256) (s u : State) (a : AdminReply) (k : Nat),
    a = { port := p, ring := n, cookie := BitVec.ofNat 64 (fld e.toNat 128 64), tCommit := s.time } → entryFits 0x21 e = true →
    s.readsEntry p n e = true → u = s.entryTaken p n e → k = fld e.toNat 64 64 % 4 →
    ((u.model k).state = .ready → exec (.modelUnload p n e) s = .next (u.takeModel k none 0 a)) ∧
    ((u.model k).state = .empty → exec (.modelUnload p n e) s = .next (u.adminRecord a 0 0)) ∧
    ((u.model k).state = .loading ∨ (u.model k).state = .draining → exec (.modelUnload p n e) s = .next (u.adminRecord a 0x260B 0))) ∧
  (∀ (k : Fin 4) (s : State), s.alive = true → (s.model k).state = .draining →
    (s.slotReqs k = [] → (∀ b, (s.model k).next = some b → exec (.modelDrained k) s = .next (s.wake.startLoad k b (s.model k).nextId (s.model k).reply)) ∧
      ((s.model k).next = none → exec (.modelDrained k) s = .next ((s.wake.clearSlot k).failLoad k 0))) ∧
    (s.slotReqs k ≠ [] → exec (.modelDrained k) s = .next s) ∧
    (∀ b, (s.model k).next = some b → b.force = true → (s.model k).drainStart + 100000 * s.serve.params.drainMaxMs ≤ s.time → exec (.modelDrainTimeout k) s =
      .next ((s.slotReqs k).foldl (fun s r => s.endSoon r 0x2605) s))) ∧
  (∀ (k : Fin 4) (ps : List PartDecl) (ws : Cells) (s u x v w : State) (m : ModelSlot), m = s.model k → s.alive = true → m.state = .loading → m.written = true →
    u = s.wake.closeIdle k → x = (if u.weightsLegal k ws = true then ws.foldl (fun s kv => s.putMem kv.1 [kv.2.toNat]) u else u) →
    (x.pages.slotFree k = false → exec (.modelPartitionsSet k ps ws) s = .next x) ∧
    (x.pages.slotFree k = true → x.partsLegal k m.block.slot4k ps = false ∨ x.weightsLegal k ws = false →
      exec (.modelPartitionsSet k ps ws) s = .next (x.failLoad k 0x2558)) ∧
    (x.pages.slotFree k = true → x.partsLegal k m.block.slot4k ps = true → x.weightsLegal k ws = true →
      v = ((((x.setParts k m.block.slot4k ps).modModel k (fun m => { m with
        state := .ready, gen := (m.gen + 1) % 65536, slot4k := m.block.slot4k, reply := none, written := false })).modInteg
        (fun g => { g with poisonedSlots := g.poisonedSlots.filter (fun j => j != k.val) }))) →
      w = (match m.reply with | some a => v.adminRecord a 0 0 | none => v) →
      exec (.modelPartitionsSet k ps ws) s = .next (w.recheck (w.serve.waiters k))))

/-- The kicker's dimensions and its block's length come with the command (log entry 21). -/
def Obligations.KickerCommands : Prop :=
  (∀ (p : Port) (n : Fin 16) (e : BitVec 256) (host : Cells) (k : KickerBlock) (s u : State) (a : AdminReply),
    a = { port := p, ring := n, cookie := BitVec.ofNat 64 (fld e.toNat 128 64), tCommit := s.time } → entryFits 0x30 e = true →
    (s.hostStore p host).readsEntry p n e = true → u = (s.hostStore p host).entryTaken p n e →
    (u.hostRead p (u.ringFn p n) (fld e.toNat 0 64) k.len = none ∨ u.hostRead p (u.ringFn p n) k.addr.toNat k.bytes = none → exec (.kickerLoad p n e host k) s = .next (u.adminRecord a 0x2604 0)) ∧
    (∀ bs, u.hostRead p (u.ringFn p n) (fld e.toNat 0 64) k.len ≠ none → u.hostRead p (u.ringFn p n) k.addr.toNat k.bytes = some bs →
      (k.legal (u.model k.mslot) = false ∨ u.serve.kickerSlot = none ∨ u.poolPlace k.bytes = none → exec (.kickerLoad p n e host k) s = .next (u.adminRecord a 0x2606 0)) ∧
      (∀ i base v, k.legal (u.model k.mslot) = true → u.serve.kickerSlot = some i → u.poolPlace k.bytes = some base → u.writeDev base bs none = some v →
        exec (.kickerLoad p n e host k) s = .next ((v.modServe (fun q => { q.dropName k.name with kickers := Tbl.set none i (some
          { name := k.name, mslot := k.mslot, rank := k.rank, fmt := k.fmt, sites := k.sites, dims := k.dims, base := base, bytes := k.bytes }) (q.dropName k.name).kickers })).adminRecord a 0 0)))) ∧
  (∀ (p : Port) (n : Fin 16) (e : BitVec 256) (s u : State) (a : AdminReply) (name : Nat),
    a = { port := p, ring := n, cookie := BitVec.ofNat 64 (fld e.toNat 128 64), tCommit := s.time } → entryFits 0x31 e = true →
    s.readsEntry p n e = true → u = s.entryTaken p n e → name = fld e.toNat 64 64 % 2 ^ 32 →
    ((u.serve.kickerOf name).isSome = true → exec (.kickerDrop p n e) s = .next ((u.modServe (fun v => v.dropName name)).adminRecord a 0 0)) ∧
    (u.serve.kickerOf name = none → exec (.kickerDrop p n e) s = .next (u.adminRecord a 0x2606 0)))
end

