-- ==== Sys2Proof/Laws/Tables.lean ====
section
/-! SUPPORT. Laws of sparse tables: what a read gives after a write, and that every write keeps the canonical form. -/

namespace Sys2Proof.Machine

variable {α : Type}

@[simp] theorem Tbl.get_nil (d : α) (k : Nat) : Tbl.get d k [] = d := rfl

theorem Tbl.get_erase_self (d : α) (k : Nat) (t : Tbl α) : Tbl.get d k (Tbl.erase k t) = d := by
  induction t with
  | nil => rfl
  | cons x t ih => obtain ⟨i, v⟩ := x; by_cases h : i = k <;> simp [Tbl.erase, Tbl.get, h, ih]

theorem Tbl.get_erase_other (d : α) {k j : Nat} (h : j ≠ k) (t : Tbl α) : Tbl.get d j (Tbl.erase k t) = Tbl.get d j t := by
  induction t with
  | nil => rfl
  | cons x t ih =>
    obtain ⟨i, v⟩ := x
    by_cases hi : i = k
    · subst hi; simp [Tbl.erase, Tbl.get, ih, Ne.symm h]
    · by_cases hj : i = j
      · subst hj; simp [Tbl.erase, Tbl.get, h]
      · simp [Tbl.erase, Tbl.get, hi, hj, ih]

theorem Tbl.get_insert_other (d : α) {k j : Nat} (h : j ≠ k) (v : α) (t : Tbl α) :
    Tbl.get d j (Tbl.insert k v t) = Tbl.get d j t := by
  induction t with
  | nil => simp [Tbl.insert, Tbl.get, Ne.symm h]
  | cons x t ih =>
    obtain ⟨i, w⟩ := x
    simp only [Tbl.insert]
    split
    · simp [Tbl.get, Ne.symm h]
    · simp [Tbl.get, ih]

/-- A fresh key reads as the value inserted under it. -/
theorem Tbl.get_insert_self (d : α) (k : Nat) (v : α) (t : Tbl α) (h : ∀ x ∈ t, x.1 ≠ k) :
    Tbl.get d k (Tbl.insert k v t) = v := by
  induction t with
  | nil => simp [Tbl.insert, Tbl.get]
  | cons x t ih =>
    obtain ⟨i, w⟩ := x
    have hi : i ≠ k := h (i, w) (by simp)
    simp only [Tbl.insert]
    split
    · simp [Tbl.get]
    · simp [Tbl.get, hi, ih (fun y hy => h y (by simp [hy]))]

theorem Tbl.mem_erase {k : Nat} {t : Tbl α} {x : Nat × α} : x ∈ Tbl.erase k t ↔ x ∈ t ∧ x.1 ≠ k := by
  induction t with
  | nil => simp [Tbl.erase]
  | cons y t ih =>
    obtain ⟨i, v⟩ := y
    by_cases hi : i = k
    · simp only [Tbl.erase, hi, if_true, ih, List.mem_cons]
      constructor
      · rintro ⟨h1, h2⟩; exact ⟨.inr h1, h2⟩
      · rintro ⟨h1 | h1, h2⟩
        · exact absurd (by rw [h1]) h2
        · exact ⟨h1, h2⟩
    · simp only [Tbl.erase, hi, if_false, ih, List.mem_cons]
      constructor
      · rintro (h | ⟨h1, h2⟩)
        · exact ⟨.inl h, by rw [h]; exact hi⟩
        · exact ⟨.inr h1, h2⟩
      · rintro ⟨h1 | h1, h2⟩
        · exact .inl h1
        · exact .inr ⟨h1, h2⟩

/-- Reading the entry just written. -/
@[simp] theorem Tbl.get_set_self [DecidableEq α] (d : α) (k : Nat) (v : α) (t : Tbl α) : Tbl.get d k (Tbl.set d k v t) = v := by
  unfold Tbl.set
  split
  · next h => rw [Tbl.get_erase_self, h]
  · exact Tbl.get_insert_self d k v _ (fun x hx => (Tbl.mem_erase.mp hx).2)

/-- A write leaves every other entry alone. -/
@[simp] theorem Tbl.get_set_other [DecidableEq α] (d : α) {k j : Nat} (h : j ≠ k) (v : α) (t : Tbl α) :
    Tbl.get d j (Tbl.set d k v t) = Tbl.get d j t := by
  unfold Tbl.set
  split
  · exact Tbl.get_erase_other d h t
  · rw [Tbl.get_insert_other d h, Tbl.get_erase_other d h]

/-- Reading any entry after a write. -/
theorem Tbl.get_set [DecidableEq α] (d : α) (k j : Nat) (v : α) (t : Tbl α) :
    Tbl.get d j (Tbl.set d k v t) = if j = k then v else Tbl.get d j t := by
  by_cases h : j = k
  · subst h; simp
  · simp [h]

/-- Reading any entry after an update. -/
theorem Tbl.get_upd [DecidableEq α] (d : α) (k j : Nat) (f : α → α) (t : Tbl α) :
    Tbl.get d j (Tbl.upd d k f t) = if j = k then f (Tbl.get d k t) else Tbl.get d j t := Tbl.get_set d k j _ t

@[simp] theorem Tbl.get_upd_self [DecidableEq α] (d : α) (k : Nat) (f : α → α) (t : Tbl α) :
    Tbl.get d k (Tbl.upd d k f t) = f (Tbl.get d k t) := by simp [Tbl.upd]

@[simp] theorem Tbl.get_upd_other [DecidableEq α] (d : α) {k j : Nat} (h : j ≠ k) (f : α → α) (t : Tbl α) :
    Tbl.get d j (Tbl.upd d k f t) = Tbl.get d j t := by simp [Tbl.upd, h]

/-! Two updates of one entry are one. -/

theorem Tbl.erase_erase (k : Nat) (t : Tbl α) : Tbl.erase k (Tbl.erase k t) = Tbl.erase k t := by
  induction t with
  | nil => rfl
  | cons x t ih => obtain ⟨i, v⟩ := x; by_cases h : i = k <;> simp [Tbl.erase, h, ih]

theorem Tbl.erase_insert (k : Nat) (v : α) (t : Tbl α) : Tbl.erase k (Tbl.insert k v t) = Tbl.erase k t := by
  induction t with
  | nil => simp [Tbl.insert, Tbl.erase]
  | cons x t ih =>
    obtain ⟨i, w⟩ := x
    simp only [Tbl.insert]
    split
    · simp [Tbl.erase]
    · by_cases h : i = k <;> simp [Tbl.erase, h, ih]

@[simp] theorem Tbl.set_set [DecidableEq α] (d : α) (k : Nat) (u v : α) (t : Tbl α) : Tbl.set d k v (Tbl.set d k u t) = Tbl.set d k v t := by
  have he : Tbl.erase k (Tbl.set d k u t) = Tbl.erase k t := by
    unfold Tbl.set
    split
    · exact Tbl.erase_erase k t
    · rw [Tbl.erase_insert, Tbl.erase_erase]
  simp [Tbl.set.eq_1 d k v, he]

@[simp] theorem Tbl.upd_upd [DecidableEq α] (d : α) (k : Nat) (f g : α → α) (t : Tbl α) :
    Tbl.upd d k g (Tbl.upd d k f t) = Tbl.upd d k (fun x => g (f x)) t := by
  simp [Tbl.upd]

/-- Two updates that agree on the entry agree on the table. -/
theorem Tbl.upd_congr [DecidableEq α] (d : α) (k : Nat) {f g : α → α} (t : Tbl α) (h : f (Tbl.get d k t) = g (Tbl.get d k t)) :
    Tbl.upd d k f t = Tbl.upd d k g t := by simp [Tbl.upd, h]

/-! The canonical form. -/

/-- The canonical form as one condition: keys rise pairwise and no entry is the default. -/
theorem Tbl.wf_iff [DecidableEq α] (d : α) (t : Tbl α) :
    Tbl.wf d t = true ↔ t.Pairwise (fun x y => x.1 < y.1) ∧ ∀ x ∈ t, x.2 ≠ d := by
  have hs : ∀ t : Tbl α, Tbl.sorted t = true ↔ t.Pairwise (fun x y => x.1 < y.1) := by
    intro t
    induction t with
    | nil => simp [Tbl.sorted]
    | cons x t ih =>
      cases t with
      | nil => simp [Tbl.sorted]
      | cons y t =>
        obtain ⟨i, v⟩ := x; obtain ⟨j, w⟩ := y
        simp only [Tbl.sorted, Bool.and_eq_true, decide_eq_true_eq, ih, List.pairwise_cons]
        constructor
        · rintro ⟨h1, h2, h3⟩
          refine ⟨fun z hz => ?_, h2, h3⟩
          rcases List.mem_cons.mp hz with rfl | hz
          · exact h1
          · exact Nat.lt_trans h1 (h2 z hz)
        · rintro ⟨h1, h2, h3⟩
          exact ⟨h1 (j, w) (by simp), h2, h3⟩
  simp [Tbl.wf, hs]

/-- Dropping entries keeps the canonical form. -/
theorem Tbl.wf_filter [DecidableEq α] (d : α) (p : Nat × α → Bool) {t : Tbl α} (h : Tbl.wf d t = true) :
    Tbl.wf d (t.filter p) = true := by
  rw [Tbl.wf_iff] at h ⊢
  exact ⟨h.1.filter p, fun x hx => h.2 x (List.mem_filter.mp hx).1⟩

theorem Tbl.erase_eq_filter (k : Nat) (t : Tbl α) : Tbl.erase k t = t.filter (fun x => decide (x.1 ≠ k)) := by
  induction t with
  | nil => rfl
  | cons x t ih => obtain ⟨i, v⟩ := x; by_cases h : i = k <;> simp [Tbl.erase, h, ih]

theorem Tbl.mem_insert {k : Nat} {v : α} {t : Tbl α} {x : Nat × α} : x ∈ Tbl.insert k v t ↔ x = (k, v) ∨ x ∈ t := by
  induction t with
  | nil => simp [Tbl.insert]
  | cons y t ih =>
    obtain ⟨i, w⟩ := y
    simp only [Tbl.insert]
    split
    · simp
    · simp only [List.mem_cons, ih]; tauto

/-- Inserting a fresh key keeps the keys rising. -/
theorem Tbl.pairwise_insert {k : Nat} {v : α} {t : Tbl α} (h : t.Pairwise (fun x y => x.1 < y.1)) (hk : ∀ x ∈ t, x.1 ≠ k) :
    (Tbl.insert k v t).Pairwise (fun x y => x.1 < y.1) := by
  induction t with
  | nil => simp [Tbl.insert]
  | cons y t ih =>
    obtain ⟨i, w⟩ := y
    rw [List.pairwise_cons] at h
    simp only [Tbl.insert]
    split
    · next hlt =>
      rw [List.pairwise_cons, List.pairwise_cons]
      refine ⟨fun z hz => ?_, h⟩
      rcases List.mem_cons.mp hz with rfl | hz
      · exact hlt
      · exact Nat.lt_trans hlt (h.1 z hz)
    · next hge =>
      have hi : i ≠ k := hk (i, w) (by simp)
      rw [List.pairwise_cons]
      refine ⟨fun z hz => ?_, ih h.2 (fun x hx => hk x (by simp [hx]))⟩
      rcases Tbl.mem_insert.mp hz with rfl | hz
      · exact Nat.lt_of_le_of_ne (Nat.le_of_not_lt hge) hi
      · exact h.1 z hz

/-- A write keeps the canonical form. -/
@[simp] theorem Tbl.wf_set [DecidableEq α] (d : α) (k : Nat) (v : α) {t : Tbl α} (h : Tbl.wf d t = true) :
    Tbl.wf d (Tbl.set d k v t) = true := by
  have he : Tbl.wf d (Tbl.erase k t) = true := by rw [Tbl.erase_eq_filter]; exact Tbl.wf_filter d _ h
  unfold Tbl.set
  split
  · exact he
  · next hv =>
    rw [Tbl.wf_iff] at he ⊢
    refine ⟨Tbl.pairwise_insert he.1 (fun x hx => (Tbl.mem_erase.mp hx).2), fun x hx => ?_⟩
    rcases Tbl.mem_insert.mp hx with rfl | hx
    · exact hv
    · exact he.2 x hx

/-- An update keeps the canonical form. -/
@[simp] theorem Tbl.wf_upd [DecidableEq α] (d : α) (k : Nat) (f : α → α) {t : Tbl α} (h : Tbl.wf d t = true) :
    Tbl.wf d (Tbl.upd d k f t) = true := Tbl.wf_set d k _ h

/-- A fold of writes keeps the canonical form. -/
theorem Tbl.wf_foldl_set [DecidableEq α] {β : Type} (d : α) (key : β → Nat) (val : β → α) (l : List β) {t : Tbl α}
    (h : Tbl.wf d t = true) : Tbl.wf d (l.foldl (fun acc x => Tbl.set d (key x) (val x) acc) t) = true := by
  induction l generalizing t with
  | nil => exact h
  | cons x l ih => exact ih (Tbl.wf_set d _ _ h)

/-- A canonical table reads as its default exactly at the keys it does not list. -/
theorem Tbl.get_eq_default_iff [DecidableEq α] (d : α) {t : Tbl α} (h : Tbl.wf d t = true) (k : Nat) :
    Tbl.get d k t = d ↔ ∀ x ∈ t, x.1 ≠ k := by
  rw [Tbl.wf_iff] at h
  have hn := h.2
  clear h
  induction t with
  | nil => simp
  | cons x t ih =>
    obtain ⟨i, v⟩ := x
    have hv : v ≠ d := hn (i, v) (by simp)
    by_cases hi : i = k
    · subst hi
      simp only [Tbl.get, if_true]
      constructor
      · intro h; exact absurd h hv
      · intro h; exact absurd rfl (h (i, v) (by simp))
    · simp only [Tbl.get, hi, if_false]
      have := ih (fun y hy => hn y (by simp [hy]))
      simp [this, hi]

end Sys2Proof.Machine
end

