-- ==== Sys2Proof/Laws/Memory.lean ====
section
/-! SUPPORT. Laws of device memory and host memory: a read after a write gives the byte written, a write leaves every other byte alone,
and every operation on memory keeps its canonical form. -/

namespace Sys2Proof.Machine

/-- A written byte reads back. -/
@[simp] theorem memByte_memSet_self (m : Cells) (a b : Nat) : memByte (memSet m a b) a = b % 256 := by
  simp [memByte, memSet]

/-- Writing a byte leaves every other byte alone. -/
@[simp] theorem memByte_memSet_other (m : Cells) {a x : Nat} (h : x ≠ a) (b : Nat) : memByte (memSet m a b) x = memByte m x := by
  simp [memByte, memSet, h]

@[simp] theorem memWf_memSet {m : Cells} (h : memWf m = true) (a b : Nat) : memWf (memSet m a b) = true :=
  Tbl.wf_set _ _ _ h

@[simp] theorem memWf_memPut {m : Cells} (h : memWf m = true) (a : Nat) (bs : List Nat) : memWf (memPut m a bs) = true := by
  induction bs generalizing m a with
  | nil => exact h
  | cons b bs ih => exact ih (memWf_memSet h a b) (a + 1)

@[simp] theorem memWf_memZero {m : Cells} (h : memWf m = true) (a n : Nat) : memWf (memZero m a n) = true :=
  Tbl.wf_filter _ _ h

@[simp] theorem memWf_memCopy {m : Cells} (h : memWf m = true) (src dst n : Nat) : memWf (memCopy m src dst n) = true :=
  Tbl.wf_foldl_set _ _ _ _ (Tbl.wf_filter _ _ h)

/-- A string of bytes written leaves every byte outside it alone. -/
theorem memByte_memPut_outside (m : Cells) (a x : Nat) (bs : List Nat) (h : x < a ∨ a + bs.length ≤ x) :
    memByte (memPut m a bs) x = memByte m x := by
  induction bs generalizing m a with
  | nil => rfl
  | cons b bs ih =>
    simp only [List.length_cons] at h
    rw [memPut, ih _ _ (by omega), memByte_memSet_other _ (by omega)]

/-- A string of bytes written reads back. -/
theorem memByte_memPut_inside (m : Cells) (a i : Nat) (bs : List Nat) (h : i < bs.length) :
    memByte (memPut m a bs) (a + i) = bs.getD i 0 % 256 := by
  induction bs generalizing m a i with
  | nil => simp at h
  | cons b bs ih =>
    cases i with
    | zero => rw [memPut, memByte_memPut_outside _ _ _ _ (by omega)]; simp
    | succ i =>
      have : a + (i + 1) = a + 1 + i := by omega
      rw [memPut, this, ih _ _ _ (by simpa using h)]
      rfl

/-- A cleared range reads as zero, and every other byte as before. -/
theorem memByte_memZero (m : Cells) (a n x : Nat) :
    memByte (memZero m a n) x = if a ≤ x ∧ x < a + n then 0 else memByte m x := by
  have key : ∀ m : Cells, Tbl.get (0 : Byte) x (m.filter (fun kv => decide (kv.1 < a ∨ a + n ≤ kv.1)))
      = if a ≤ x ∧ x < a + n then 0 else Tbl.get (0 : Byte) x m := by
    intro m
    induction m with
    | nil => simp
    | cons y m ih =>
      obtain ⟨i, v⟩ := y
      by_cases hi : i < a ∨ a + n ≤ i
      · rw [List.filter_cons_of_pos (by simpa using hi)]
        by_cases hx : i = x
        · subst hx; simp only [Tbl.get, if_true]; rw [if_neg (by omega)]
        · simp only [Tbl.get, hx, if_false, ih]
      · rw [List.filter_cons_of_neg (by simpa using hi), ih]
        by_cases hx : i = x
        · subst hx; rw [if_pos (by omega), if_pos (by omega)]
        · simp only [Tbl.get, hx, if_false]
  unfold memByte memZero
  rw [key]
  split <;> simp

theorem reset_memCanon : State.reset.memCanon = true := by decide

/-! The canonical form through the operations of State. -/

/-- The canonical form of the three memories, one by one. -/
theorem State.memCanon_iff (s : State) :
    s.memCanon = true ↔ memWf s.mem = true ∧ memWf s.portA.hostMem = true ∧ memWf s.portB.hostMem = true := by
  simp [State.memCanon, and_assoc]

@[simp] theorem State.putMem_memCanon {s : State} (h : s.memCanon = true) (a : Nat) (bs : List Nat) :
    (s.putMem a bs).memCanon = true := by
  rw [State.memCanon_iff] at h ⊢; exact ⟨memWf_memPut h.1 a bs, h.2⟩

@[simp] theorem State.copyMem_memCanon {s : State} (h : s.memCanon = true) (src dst n : Nat) :
    (s.copyMem src dst n).memCanon = true := by
  rw [State.memCanon_iff] at h ⊢; exact ⟨memWf_memCopy h.1 src dst n, h.2⟩

/-- A change to a port that keeps its host memory canonical. -/
theorem State.modPort_memCanon {s : State} (h : s.memCanon = true) (p : Port) {f : PortSt → PortSt}
    (hf : ∀ q : PortSt, memWf q.hostMem = true → memWf (f q).hostMem = true) : (s.modPort p f).memCanon = true := by
  rw [State.memCanon_iff] at h ⊢
  cases p
  · exact ⟨h.1, hf _ h.2.1, h.2.2⟩
  · exact ⟨h.1, h.2.1, hf _ h.2.2⟩

@[simp] theorem State.hostPut_memCanon {s : State} (h : s.memCanon = true) (p : Port) (a : Nat) (bs : List Nat) :
    (s.hostPut p a bs).memCanon = true := State.modPort_memCanon h p (fun _ hq => memWf_memPut hq a bs)

@[simp] theorem State.hostStore_memCanon {s : State} (h : s.memCanon = true) (p : Port) (cs : Cells) :
    (s.hostStore p cs).memCanon = true := by
  refine State.modPort_memCanon h p (fun q hq => ?_)
  show memWf (cs.foldl (fun m kv => memSet m kv.1 kv.2.toNat) q.hostMem) = true
  exact Tbl.wf_foldl_set _ _ _ _ hq

end Sys2Proof.Machine
end

