-- ==== Sys2Proof/Laws/Keeps.lean ====
section
/-! SUPPORT. What every operation keeps of a state: the waiting commands and the canonical form of memory. One lemma per operation (part 1: Ops, Flags, Operands, ArrayWords, Pages, PegWords, LinkFrames). -/

namespace Sys2Proof.Machine

open Sys2Proof

/-- What every operation keeps of the state `r`: the waiting commands, and the canonical form of memory. -/
def Keeps (r s : State) : Prop := s.pending = r.pending ∧ (r.memCanon = true → s.memCanon = true)

theorem Keeps.refl (s : State) : Keeps s s := ⟨rfl, id⟩

@[simp] theorem keeps_mk {r s : State} {a1 a3 a4 a5 a6 a7 a10 a11 a12 a13 a14 a15 a16 a17 a18} (h : Keeps r s) :
  Keeps r ⟨a1, s.mem, a3, a4, a5, a6, a7, s.portA, s.portB, a10, a11, a12, a13, a14, a15, a16, a17, a18, s.pending⟩ := h

theorem keeps_mem {r s : State} {m a1 a3 a4 a5 a6 a7 a10 a11 a12 a13 a14 a15 a16 a17 a18} (h : Keeps r s) (hm : memWf s.mem = true → memWf m = true) :
  Keeps r ⟨a1, m, a3, a4, a5, a6, a7, s.portA, s.portB, a10, a11, a12, a13, a14, a15, a16, a17, a18, s.pending⟩ :=
  ⟨h.1, fun hr => by have := h.2 hr; simp [State.memCanon] at this ⊢; exact ⟨⟨hm this.1.1, this.1.2⟩, this.2⟩⟩

@[simp] theorem keeps_nil {r s : State} {a1 a3 a4 a5 a6 a7 a10 a11 a12 a13 a14 a15 a16 a17 a18} (h : Keeps r s) :
  Keeps r ⟨a1, [], a3, a4, a5, a6, a7, s.portA, s.portB, a10, a11, a12, a13, a14, a15, a16, a17, a18, s.pending⟩ := keeps_mem h (fun _ => rfl)

@[simp] theorem keeps_zero {r s : State} {x n a1 a3 a4 a5 a6 a7 a10 a11 a12 a13 a14 a15 a16 a17 a18} (h : Keeps r s) :
  Keeps r ⟨a1, memZero s.mem x n, a3, a4, a5, a6, a7, s.portA, s.portB, a10, a11, a12, a13, a14, a15, a16, a17, a18, s.pending⟩ := keeps_mem h (fun hm => memWf_memZero hm _ _)

theorem keeps_reset {r s : State} {m : Cells} {a1 a3 a4 a5 a6 a7 a10 a11 a12 a13 a14 a15 a16 a17 a18} {p q : PortSt} (h : Keeps r s) (hm : memWf s.mem = true → memWf m = true)
  (hp : p.hostMem = s.portA.hostMem) (hq : q.hostMem = s.portB.hostMem) :
  Keeps r ⟨a1, m, a3, a4, a5, a6, a7, p, q, a10, a11, a12, a13, a14, a15, a16, a17, a18, s.pending⟩ :=
  ⟨h.1, fun hr => by have := h.2 hr; simp [State.memCanon, hp, hq] at this ⊢; exact ⟨⟨hm this.1.1, this.1.2⟩, this.2⟩⟩

@[simp] theorem keeps_ite {r a b : State} (c : Prop) [Decidable c] (ha : Keeps r a) (hb : Keeps r b) : Keeps r (if c then a else b) := by split <;> assumption

@[simp] theorem foldl_keeps {r : State} {α : Type} {f : State → α → State} (hf : ∀ s x, Keeps r s → Keeps r (f s x)) (l : List α) {s : State} (h : Keeps r s) :
    Keeps r (l.foldl f s) := by
  induction l generalizing s with
  | nil => exact h
  | cons x xs ih => exact ih (hf _ _ h)

theorem foldl_pair_keeps {r : State} {α β : Type} {f : State × β → α → State × β} (hf : ∀ s b x, Keeps r s → Keeps r (f (s, b) x).1) (l : List α) {s : State} {b : β} (h : Keeps r s) :
    Keeps r (l.foldl f (s, b)).1 := by
  induction l generalizing s b with
  | nil => exact h
  | cons x xs ih => exact ih (s := (f (s, b) x).1) (b := (f (s, b) x).2) (hf _ _ _ h)

theorem foldl_fst_keeps {r : State} {α β : Type} {f : State × β → α → State × β} (hf : ∀ (a : State × β) x, Keeps r a.1 → Keeps r (f a x).1) (l : List α) {a : State × β} (h : Keeps r a.1) :
    Keeps r (l.foldl f a).1 := by
  induction l generalizing a with
  | nil => exact h
  | cons x xs ih => exact ih (hf _ _ h)

@[simp] theorem State.modPort_keeps {r s : State} (h : Keeps r s) (p : Port) {f : PortSt → PortSt} (hf : ∀ q : PortSt, memWf q.hostMem = true → memWf (f q).hostMem = true) : Keeps r (s.modPort p f) :=
  ⟨by cases p <;> exact h.1, fun hr => State.modPort_memCanon (h.2 hr) p hf⟩

@[simp] theorem State.modCore_keeps {r0 : State} (s : State) (c : Nat) (f : Core → Core) (hK : Keeps r0 s) : Keeps r0 (State.modCore s c f) := by simp (maxDischargeDepth := 60) [State.modCore, *]

@[simp] theorem State.modRegs_keeps {r0 : State} (s : State) (c : Nat) (f : CoreRegs → CoreRegs) (hK : Keeps r0 s) : Keeps r0 (State.modRegs s c f) := by simp (maxDischargeDepth := 60) [State.modRegs, *]

@[simp] theorem State.modRun_keeps {r0 : State} (s : State) (c : Nat) (f : CoreRun → CoreRun) (hK : Keeps r0 s) : Keeps r0 (State.modRun s c f) := by simp (maxDischargeDepth := 60) [State.modRun, *]

@[simp] theorem State.useLanes_keeps {r0 : State} (s : State) (c : Nat) (hK : Keeps r0 s) : Keeps r0 (State.useLanes s c) := by simp (maxDischargeDepth := 60) [State.useLanes, *]

@[simp] theorem State.modSlot_keeps {r0 : State} (s : State) (n : Nat) (f : CoreSlot → CoreSlot) (hK : Keeps r0 s) : Keeps r0 (State.modSlot s n f) := by simp (maxDischargeDepth := 60) [State.modSlot, *]

@[simp] theorem State.modSync_keeps {r0 : State} (s : State) (f : Sync → Sync) (hK : Keeps r0 s) : Keeps r0 (State.modSync s f) := by simp (maxDischargeDepth := 60) [State.modSync, *]

@[simp] theorem State.modPages_keeps {r0 : State} (s : State) (f : Pages → Pages) (hK : Keeps r0 s) : Keeps r0 (State.modPages s f) := by simp (maxDischargeDepth := 60) [State.modPages, *]

@[simp] theorem State.modServe_keeps {r0 : State} (s : State) (f : Serve → Serve) (hK : Keeps r0 s) : Keeps r0 (State.modServe s f) := by simp (maxDischargeDepth := 60) [State.modServe, *]

@[simp] theorem State.modInteg_keeps {r0 : State} (s : State) (f : Integrity → Integrity) (hK : Keeps r0 s) : Keeps r0 (State.modInteg s f) := by simp (maxDischargeDepth := 60) [State.modInteg, *]

@[simp] theorem State.modGlob_keeps {r0 : State} (s : State) (f : Glob → Glob) (hK : Keeps r0 s) : Keeps r0 (State.modGlob s f) := by simp (maxDischargeDepth := 60) [State.modGlob, *]

@[simp] theorem State.count_keeps {r0 : State} (s : State) (f : Counters → Counters) (hK : Keeps r0 s) : Keeps r0 (State.count s f) := by simp (maxDischargeDepth := 60) [State.count, *]

@[simp] theorem State.modFunc_keeps {r0 : State} (s : State) (p : Port) (fn : Nat) (f : Func → Func) (hK : Keeps r0 s) : Keeps r0 (State.modFunc s p fn f) := by simp (maxDischargeDepth := 60) [State.modFunc, *]

@[simp] theorem State.emit_keeps {r0 : State} (s : State) (o : Output) (hK : Keeps r0 s) : Keeps r0 (State.emit s o) := by simp (maxDischargeDepth := 60) [State.emit, *]

@[simp] theorem State.putMem_keeps {r s : State} (h : Keeps r s) (a : Nat) (bs : List Nat) : Keeps r (s.putMem a bs) := ⟨h.1, fun hr => State.putMem_memCanon (h.2 hr) a bs⟩

@[simp] theorem State.copyMem_keeps {r s : State} (h : Keeps r s) (a b n : Nat) : Keeps r (s.copyMem a b n) := ⟨h.1, fun hr => State.copyMem_memCanon (h.2 hr) a b n⟩

@[simp] theorem State.markPoison_keeps {r0 : State} (s : State) (a n code : Nat) (hK : Keeps r0 s) : Keeps r0 (State.markPoison s a n code) := by simp (maxDischargeDepth := 60) [State.markPoison, *]

@[simp] theorem State.copyDev_keeps {r0 : State} (s : State) (src dst n : Nat) (hK : Keeps r0 s) : Keeps r0 (State.copyDev s src dst n) := by
  unfold State.copyDev
  split
  · exact foldl_pair_keeps (fun s b x h => State.copyMem_keeps h _ _ _) _ hK
  · exact hK

@[simp] theorem State.modSessions_keeps {r0 : State} (s : State) (f : Tbl Session → Tbl Session) (hK : Keeps r0 s) : Keeps r0 (State.modSessions s f) := by simp (maxDischargeDepth := 60) [State.modSessions, *]

@[simp] theorem State.putOver_keeps {r0 : State} (s : State) (a : Nat) (bs : List Nat) (hK : Keeps r0 s) : Keeps r0 (State.putOver s a bs) := by simp (maxDischargeDepth := 60) [State.putOver, *]

@[simp] theorem State.putPieces_keeps {r0 : State} (s : State) (ps : List (Nat × Nat)) (bs : List Nat) (p : Option Nat) (hK : Keeps r0 s) : Keeps r0 (s.putPieces ps bs p) := by
  unfold State.putPieces
  refine foldl_pair_keeps (fun s b x h => ?_) _ hK
  cases p <;> simp (maxDischargeDepth := 60) [h]

theorem State.writeDev_some {r s t : State} {a : Nat} {bs : List Nat} {p : Option Nat} (e : s.writeDev a bs p = some t) (h : Keeps r s) : Keeps r t := by
  unfold State.writeDev at e
  obtain ⟨ps, -, e⟩ := Option.map_eq_some_iff.mp e
  subst e; exact State.putPieces_keeps _ _ _ _ h

@[simp] theorem State.writeDev_getD_keeps {r s : State} {a : Nat} {bs : List Nat} {p : Option Nat} (h : Keeps r s) : Keeps r ((s.writeDev a bs p).getD s) := by
  cases e : s.writeDev a bs p with
  | none => exact h
  | some t => exact State.writeDev_some e h

@[simp] theorem State.message_keeps {r0 : State} (s : State) (p : Port) (fn vec : Nat) (hK : Keeps r0 s) : Keeps r0 (State.message s p fn vec) := by simp (maxDischargeDepth := 60) [State.message, *]

@[simp] theorem State.sendVector_keeps {r0 : State} (s : State) (p : Port) (fn vec : Nat) (hK : Keeps r0 s) : Keeps r0 (State.sendVector s p fn vec) := by simp (maxDischargeDepth := 60) [State.sendVector, *]

@[simp] theorem State.logVector_keeps {r0 : State} (s : State) (p : Port) (fn : Nat) (hK : Keeps r0 s) : Keeps r0 (State.logVector s p fn) := by simp (maxDischargeDepth := 60) [State.logVector, *]

@[simp] theorem State.writeLog_keeps {r0 : State} (s : State) (r : Report) (hK : Keeps r0 s) : Keeps r0 (State.writeLog s r) := by simp (maxDischargeDepth := 60) [State.writeLog, *]

@[simp] theorem State.stopService_keeps {r s : State} (h : Keeps r s) (c : Nat) : Keeps r (s.stopService c) := State.modGlob_keeps _ _ h

@[simp] theorem State.report_keeps {r0 : State} (s : State) (r : Report) (hK : Keeps r0 s) : Keeps r0 (State.report s r) := by simp (maxDischargeDepth := 60) [State.report, *]

@[simp] theorem State.reportTest_keeps {r s : State} (h : Keeps r s) (x : Report) (a : Activity) : Keeps r (s.reportTest x a) := State.modInteg_keeps _ _ (State.report_keeps _ _ h)

@[simp] theorem State.hostPut_keeps {r s : State} (h : Keeps r s) (p : Port) (a : Nat) (bs : List Nat) : Keeps r (s.hostPut p a bs) := State.modPort_keeps h p (fun _ hq => memWf_memPut hq a bs)

@[simp] theorem State.windowPut_keeps {r : State} (p : Port) (l : List (Nat × Nat)) {s : State} (bs : List Nat) (h : Keeps r s) : Keeps r (s.windowPut p l bs) := by
  induction l generalizing s bs with
  | nil => exact h
  | cons x l ih => exact ih _ (by simp [h])

@[simp] theorem State.hostStore_keeps {r s : State} (h : Keeps r s) (p : Port) (cs : Cells) : Keeps r (s.hostStore p cs) := by
  refine State.modPort_keeps h p (fun q hq => ?_)
  show memWf (cs.foldl (fun m kv => memSet m kv.1 kv.2.toNat) q.hostMem) = true
  exact Tbl.wf_foldl_set _ _ _ _ hq

@[simp] theorem State.dmaRefuse_keeps {r0 : State} (s : State) (p : Port) (hK : Keeps r0 s) : Keeps r0 (State.dmaRefuse s p) := by simp (maxDischargeDepth := 60) [State.dmaRefuse, *]

@[simp] theorem State.coreFault_keeps {r0 : State} (s : State) (c code : Nat) (hK : Keeps r0 s) : Keeps r0 (State.coreFault s c code) := by simp (maxDischargeDepth := 60) [State.coreFault, *]

theorem coreWord_next {b : Bool} {w : Nat} {s t : State} (e : coreWord b w s = .next t) : s = t := by
  unfold coreWord at e; split at e
  · injection e
  · cases e

theorem State.writeAny_inl {r s t : State} {a : Int} {bs : List Nat} {p : Option Nat} (e : s.writeAny a bs p = .inl t) (h : Keeps r s) : Keeps r t := by
  unfold State.writeAny at e
  repeat' split at e
  all_goals first
    | (injection e with e; subst e; first | (exact State.writeDev_some (by assumption) h) | simp [h])
    | cases e

@[simp] theorem State.wordFault_keeps {r0 : State} (s : State) (c code : Nat) (hK : Keeps r0 s) : Keeps r0 (State.wordFault s c code) := by simp (maxDischargeDepth := 60) [State.wordFault, *]

@[simp] theorem State.runWord_keeps {r0 : State} (s : State) (c w : Nat) (check : Option Nat) (foot : Footprint) (ready : Bool) (run : State → State) (hrun : ∀ x0, Keeps r0 x0 → Keeps r0 (run x0)) (hK : Keeps r0 s) : Keeps r0 (State.runWord s c w check foot ready run) := by
  unfold State.runWord
  dsimp only
  repeat' split
  all_goals simp (maxDischargeDepth := 60) [*]

@[simp] theorem State.pumpKfetch_keeps {r0 : State} (s : State) (c : Nat) (hK : Keeps r0 s) : Keeps r0 (State.pumpKfetch s c) := by
  unfold State.pumpKfetch
  repeat' (first | assumption | (intro _ _ _) | (intro _ _) | split | apply State.intake_keeps | apply State.receiveIn_keeps | apply State.receive_keeps | apply State.onObject_keeps | apply State.tap_keeps | apply State.smbus_keeps | apply foldl_keeps | simp +contextual (maxDischargeDepth := 60) [*])

@[simp] theorem State.takeLq_keeps {r0 : State} (s : State) (c n : Nat) (hK : Keeps r0 s) : Keeps r0 (State.takeLq s c n) := by simp (maxDischargeDepth := 60) [State.takeLq, *]

@[simp] theorem State.sramWrites_keeps {r0 : State} (s : State) (c : Nat) (ws : List (Nat × List Nat)) (hK : Keeps r0 s) : Keeps r0 (State.sramWrites s c ws) := by
  unfold State.sramWrites
  refine foldl_keeps ?_ _ ?_
  · intro s x hK
    all_goals simp (maxDischargeDepth := 60) [*]
  · simp (maxDischargeDepth := 60) [*]

@[simp] theorem State.runArray_keeps {r0 : State} (s : State) (c w : Nat) (a : AWord) (hK : Keeps r0 s) : Keeps r0 (State.runArray s c w a) := by simp (maxDischargeDepth := 60) [State.runArray, *]

@[simp] theorem execArray_keeps {r0 : State} (c w : Nat) (s : State) (hK : Keeps r0 s) : Keeps r0 (execArray c w s) := by
  unfold execArray
  (try dsimp only)
  all_goals simp +contextual (maxDischargeDepth := 60) [*]

theorem execMm_keeps {r0 : State} (c : Fin 64) (w : Word) (s : State) {tK : State} (hK : Keeps r0 s) (eK : execMm c w s = .next tK) : Keeps r0 tK := by
  unfold execMm at eK
  all_goals (rw [← coreWord_next eK])
  all_goals simp +contextual (maxDischargeDepth := 60) [*]

theorem execMmw_keeps {r0 : State} (c : Fin 64) (w : Word) (s : State) {tK : State} (hK : Keeps r0 s) (eK : execMmw c w s = .next tK) : Keeps r0 tK := by
  unfold execMmw at eK
  all_goals (rw [← coreWord_next eK])
  all_goals simp +contextual (maxDischargeDepth := 60) [*]

@[simp] theorem State.modModel_keeps {r0 : State} (s : State) (k : Nat) (f : ModelSlot → ModelSlot) (hK : Keeps r0 s) : Keeps r0 (State.modModel s k f) := by simp (maxDischargeDepth := 60) [State.modModel, *]

@[simp] theorem State.modPage_keeps {r0 : State} (s : State) (p : Nat) (f : PageDesc → PageDesc) (hK : Keeps r0 s) : Keeps r0 (State.modPage s p f) := by simp (maxDischargeDepth := 60) [State.modPage, *]

@[simp] theorem State.modPart_keeps {r0 : State} (s : State) (m k : Nat) (f : Part → Part) (hK : Keeps r0 s) : Keeps r0 (State.modPart s m k f) := by simp (maxDischargeDepth := 60) [State.modPart, *]

@[simp] theorem State.modPageCnt_keeps {r0 : State} (s : State) (m : Nat) (f : PageCounters → PageCounters) (hK : Keeps r0 s) : Keeps r0 (State.modPageCnt s m f) := by simp (maxDischargeDepth := 60) [State.modPageCnt, *]

@[simp] theorem State.writeHeader_keeps {r0 : State} (s : State) (p vkey : Nat) (hK : Keeps r0 s) : Keeps r0 (State.writeHeader s p vkey) := by simp (maxDischargeDepth := 60) [State.writeHeader, *]

@[simp] theorem State.writeToken_keeps {r0 : State} (s : State) (p t tok : Nat) (hK : Keeps r0 s) : Keeps r0 (State.writeToken s p t tok) := by simp (maxDischargeDepth := 60) [State.writeToken, *]

@[simp] theorem State.brokenPage_keeps {r0 : State} (s : State) (p : Nat) (hK : Keeps r0 s) : Keeps r0 (State.brokenPage s p) := by simp (maxDischargeDepth := 60) [State.brokenPage, *]

@[simp] theorem State.sweep_keeps {r0 : State} (s : State) (hK : Keeps r0 s) : Keeps r0 (State.sweep s) := by simp (maxDischargeDepth := 60) [State.sweep, *]

@[simp] theorem State.release_keeps {r0 : State} (s : State) (p : Nat) (hK : Keeps r0 s) : Keeps r0 (State.release s p) := by simp (maxDischargeDepth := 60) [State.release, *]

theorem State.take_some {r s t : State} {p : Nat} (e : s.take p = some t) (h : Keeps r s) : Keeps r t := by
  unfold State.take at e; dsimp only at e; split at e
  · injection e with e; subst e; simp [h]
  · cases e

theorem State.takeIfVine_taken {r s t : State} {p g : Nat} (e : s.takeIfVine p g = .taken t) (h : Keeps r s) : Keeps r t := by
  unfold State.takeIfVine at e; dsimp only at e
  split at e
  · cases e
  · split at e
    · cases e
    · injection e with e; subst e; simp [h]

@[simp] theorem State.pin_keeps {r0 : State} (s : State) (p e : Nat) (hK : Keeps r0 s) : Keeps r0 (State.pin s p e) := by simp (maxDischargeDepth := 60) [State.pin, *]

@[simp] theorem State.drawEpoch_keeps {r0 : State} (s : State) (hK : Keeps r0 s) : Keeps r0 (State.drawEpoch s) := by simp (maxDischargeDepth := 60) [State.drawEpoch, *]

@[simp] theorem State.retireEpoch_keeps {r0 : State} (s : State) (e : Nat) (hK : Keeps r0 s) : Keeps r0 (State.retireEpoch s e) := by simp (maxDischargeDepth := 60) [State.retireEpoch, *]

@[simp] theorem State.lookup_keeps {r s : State} (a b c d : Nat) (h : Keeps r s) : Keeps r (s.lookup a b c d).2 := by
  unfold State.lookup; dsimp only
  repeat' split
  all_goals simp (maxDischargeDepth := 60) [*]

@[simp] theorem State.verifyFailed_keeps {r0 : State} (s : State) (p : Nat) (hK : Keeps r0 s) : Keeps r0 (State.verifyFailed s p) := by simp (maxDischargeDepth := 60) [State.verifyFailed, *]

@[simp] theorem State.lookAhead_keeps {r : State} (k dom gen : Nat) (ts : List (List Nat)) (pk : Nat) {s : State} (h : Keeps r s) : Keeps r (State.lookAhead k dom gen ts pk s) := by
  induction ts generalizing pk s with
  | nil => exact h
  | cons t ts ih => exact ih _ (State.lookup_keeps _ _ _ _ h)

@[simp] theorem State.walk_keeps {r : State} (k dom gen ahead : Nat) (ts : List (List Nat)) (d pk pp : Nat) {s : State} (h : Keeps r s) : Keeps r (State.walk k dom gen ahead ts d pk pp s).s := by
  induction ts generalizing d pk pp s with
  | nil => exact h
  | cons t ts ih =>
    unfold State.walk; dsimp only
    have hl := State.lookup_keeps (vkey pk t k dom) k dom gen h
    generalize hx : s.lookup (vkey pk t k dom) k dom gen = x at hl
    obtain ⟨e, s1⟩ := x
    dsimp only at hl ⊢
    cases e with
    | none => simp (maxDischargeDepth := 60) [hl]
    | some e =>
      dsimp only
      split
      · simp (maxDischargeDepth := 60) [hl]
      · split
        · simp (maxDischargeDepth := 60) [hl]
        · exact hl
        · next e2 => exact ih _ _ _ (by simp [State.takeIfVine_taken e2 hl])

@[simp] theorem State.removeNode_keeps {r0 : State} (s : State) (p : Nat) (hK : Keeps r0 s) : Keeps r0 (State.removeNode s p) := by simp (maxDischargeDepth := 60) [State.removeNode, *]

@[simp] theorem State.pruneList_keeps {r : State} (m k g : Nat) (ps : List Nat) {s : State} (h : Keeps r s) : Keeps r (State.pruneList m k g ps s) := by
  induction ps generalizing s with
  | nil => exact h
  | cons p ps ih =>
    unfold State.pruneList
    split
    · exact h
    · exact ih (by split <;> simp [h])

@[simp] theorem State.pruneRound_keeps {r0 : State} (s : State) (m k goal : Nat) (hK : Keeps r0 s) : Keeps r0 (State.pruneRound s m k goal) := by simp (maxDischargeDepth := 60) [State.pruneRound, *]

@[simp] theorem State.pruneRun_keeps {r : State} (m k g n : Nat) {s : State} (h : Keeps r s) : Keeps r (State.pruneRun m k g n s) := by
  induction n generalizing s with
  | zero => exact h
  | succ n ih =>
    unfold State.pruneRun
    split
    · exact h
    · exact ih (by simp [h])

@[simp] theorem State.pruneAll_keeps {r0 : State} (s : State) (k : Nat) (hK : Keeps r0 s) : Keeps r0 (State.pruneAll s k) := by
  unfold State.pruneAll
  (try dsimp only)
  refine foldl_keeps ?_ _ ?_
  · intro s x hK
    all_goals simp (maxDischargeDepth := 60) [*]
  · simp (maxDischargeDepth := 60) [*]

@[simp] theorem State.startPruning_keeps {r0 : State} (s : State) (m k : Nat) (hK : Keeps r0 s) : Keeps r0 (State.startPruning s m k) := by simp (maxDischargeDepth := 60) [State.startPruning, *]

theorem execPruneRound_keeps {r0 : State} (m : Fin 6) (k : Fin 4) (s : State) {tK : State} (hK : Keeps r0 s) (eK : execPruneRound m k s = .next tK) : Keeps r0 tK := by
  unfold execPruneRound at eK
  (try dsimp only at eK)
  repeat' split at eK
  all_goals (injection eK with eK; subst eK)
  all_goals simp (maxDischargeDepth := 60) [*]

@[simp] theorem State.purge_keeps {r0 : State} (s : State) (f : PageDesc → Bool) (hK : Keeps r0 s) : Keeps r0 (State.purge s f) := by
  unfold State.purge
  refine foldl_keeps ?_ _ ?_
  · intro s x hK
    all_goals simp (maxDischargeDepth := 60) [*]
  · simp (maxDischargeDepth := 60) [*]

theorem State.allocIn_some {r s t : State} {m k d p x : Nat} (e : s.allocIn m k d p = some (x, t)) (h : Keeps r s) : Keeps r t := by
  unfold State.allocIn at e; dsimp only at e
  split at e
  · injection e with e; injection e with e1 e; subst e; simp (maxDischargeDepth := 60) [h]
  · cases e

theorem State.allocNow_some {r s t : State} {i k d p x : Nat} (e : s.allocNow i k d p = some (x, t)) (h : Keeps r s) : Keeps r t := by
  unfold State.allocNow at e
  obtain ⟨m, -, e⟩ := List.exists_of_findSome?_eq_some e
  exact State.allocIn_some e h

@[simp] theorem State.alloc_keeps {r s : State} (i k d p : Nat) (h : Keeps r s) : Keeps r (s.alloc i k d p).2 := by
  unfold State.alloc; dsimp only
  split
  · next e => exact State.allocNow_some e h
  · split
    · next e => exact State.allocNow_some e (by simp [h])
    · simp [h]

@[simp] theorem State.cowInto_keeps {r0 : State} (s : State) (p q : Nat) (hK : Keeps r0 s) : Keeps r0 (State.cowInto s p q) := by simp (maxDischargeDepth := 60) [State.cowInto, *]

@[simp] theorem State.decline_keeps {r0 : State} (s : State) (p : Nat) (hK : Keeps r0 s) : Keeps r0 (State.decline s p) := by simp (maxDischargeDepth := 60) [State.decline, *]

@[simp] theorem State.plant_keeps {r0 : State} (s : State) (p set w key parent : Nat) (hK : Keeps r0 s) : Keeps r0 (State.plant s p set w key parent) := by simp (maxDischargeDepth := 60) [State.plant, *]

theorem State.wayFor_some {r s t : State} {a b x : Nat} (e : s.wayFor a b = some (x, t)) (h : Keeps r s) : Keeps r t := by
  unfold State.wayFor at e; dsimp only at e
  split at e
  · injection e with e; injection e with e1 e; subst e; exact h
  · simp only [Option.map_eq_some_iff] at e
    obtain ⟨w, -, e⟩ := e
    injection e with e1 e; subst e; simp [h]

@[simp] theorem State.insertPage_keeps {r s : State} (p d k dom parent : Nat) (h : Keeps r s) : Keeps r (s.insertPage p d k dom parent).s := by
  unfold State.insertPage
  generalize (if parent = noIndex then 0 else (s.header parent).vkey) = pk
  dsimp only
  generalize vkey pk (s.header p).tokens k dom = key
  generalize key % 131072 = set
  have h2 : Keeps r (s.modPageCnt (set % 6) (fun c => { c with lookups := c.lookups + 1 })) := State.modPageCnt_keeps _ _ _ h
  generalize s.modPageCnt (set % 6) (fun c => { c with lookups := c.lookups + 1 }) = s2 at h2 ⊢
  repeat' split
  all_goals first
    | exact State.modPageCnt_keeps _ _ _ (State.release_keeps _ _ (State.takeIfVine_taken (by assumption) h2))
    | exact State.decline_keeps _ _ h2
    | exact State.plant_keeps _ _ _ _ _ _ (State.wayFor_some (by assumption) h2)

@[simp] theorem State.movePage_keeps {r0 : State} (s : State) (p x : Nat) (hK : Keeps r0 s) : Keeps r0 (State.movePage s p x) := by simp (maxDischargeDepth := 60) [State.movePage, *]

theorem execCompaction_keeps {r0 : State} (m : Fin 6) (page : Nat) (s : State) {tK : State} (hK : Keeps r0 s) (eK : execCompaction m page s = .next tK) : Keeps r0 tK := by
  unfold execCompaction at eK
  (try dsimp only at eK)
  repeat' split at eK
  all_goals (injection eK with eK; subst eK)
  all_goals simp (maxDischargeDepth := 60) [*]

@[simp] theorem State.setPeg_keeps {r s : State} (h : Keeps r s) (x : Home) (p : Nat) (v : Peg) : Keeps r (s.setPeg x p v) := by
  unfold State.setPeg; cases x <;> simp [h]

@[simp] theorem State.finishWait_keeps {r0 : State} (s : State) (c : Nat) (hK : Keeps r0 s) : Keeps r0 (State.finishWait s c) := by simp (maxDischargeDepth := 60) [State.finishWait, *]

@[simp] theorem State.testOwn_keeps {r0 : State} (s : State) (c p : Nat) (hK : Keeps r0 s) : Keeps r0 (State.testOwn s c p) := by
  unfold State.testOwn
  dsimp only
  repeat' split
  all_goals simp (maxDischargeDepth := 60) [*]

@[simp] theorem State.testColl_keeps {r0 : State} (s : State) (p : Nat) (hK : Keeps r0 s) : Keeps r0 (State.testColl s p) := by simp (maxDischargeDepth := 60) [State.testColl, *]

@[simp] theorem State.pegOp_keeps {r0 : State} (s : State) (h : Home) (p src : Nat) (op : PegOp) (hK : Keeps r0 s) : Keeps r0 (State.pegOp s h p src op) := by
  unfold State.pegOp
  dsimp only
  repeat' split
  all_goals simp (maxDischargeDepth := 60) [*]

@[simp] theorem State.arrive_keeps {r0 : State} (s : State) (c g : Nat) (hK : Keeps r0 s) : Keeps r0 (State.arrive s c g) := by simp (maxDischargeDepth := 60) [State.arrive, *]

@[simp] theorem State.sendPeg_keeps {r0 : State} (s : State) (c tk tcore p : Nat) (op : PegOp) (hK : Keeps r0 s) : Keeps r0 (State.sendPeg s c tk tcore p op) := by
  unfold State.sendPeg
  dsimp only
  repeat' split
  all_goals simp (maxDischargeDepth := 60) [*]

@[simp] theorem execPegSend_keeps {r0 : State} (c : Fin 64) (w : Word) (s : State) (hK : Keeps r0 s) : Keeps r0 (execPegSend c w s) := by
  unfold execPegSend
  (try dsimp only)
  repeat' split
  all_goals simp +contextual (maxDischargeDepth := 60) [*]

theorem execPegSet_keeps {r0 : State} (c : Fin 64) (w : Word) (s : State) {tK : State} (hK : Keeps r0 s) (eK : execPegSet c w s = .next tK) : Keeps r0 tK := by
  unfold execPegSet at eK
  all_goals (rw [← coreWord_next eK])
  all_goals simp +contextual (maxDischargeDepth := 60) [*]

theorem execPegAdd_keeps {r0 : State} (c : Fin 64) (w : Word) (s : State) {tK : State} (hK : Keeps r0 s) (eK : execPegAdd c w s = .next tK) : Keeps r0 tK := by
  unfold execPegAdd at eK
  all_goals (rw [← coreWord_next eK])
  all_goals simp +contextual (maxDischargeDepth := 60) [*]

@[simp] theorem execPegWait_keeps {r0 : State} (c : Fin 64) (w : Word) (s : State) (hK : Keeps r0 s) : Keeps r0 (execPegWait c w s) := by
  unfold execPegWait
  (try dsimp only)
  repeat' split
  all_goals simp +contextual (maxDischargeDepth := 60) [*]

theorem execAcquire_keeps {r0 : State} (c : Fin 64) (w : Word) (s : State) {tK : State} (hK : Keeps r0 s) (eK : execAcquire c w s = .next tK) : Keeps r0 tK := by
  unfold execAcquire at eK
  all_goals (rw [← coreWord_next eK])
  all_goals simp +contextual (maxDischargeDepth := 60) [*]

theorem execMonitor_keeps {r0 : State} (c : Fin 64) (w : Word) (s : State) {tK : State} (hK : Keeps r0 s) (eK : execMonitor c w s = .next tK) : Keeps r0 tK := by
  unfold execMonitor at eK
  all_goals (rw [← coreWord_next eK])
  all_goals simp +contextual (maxDischargeDepth := 60) [*]

@[simp] theorem State.register_keeps {r0 : State} (s : State) (g : Registration) (hK : Keeps r0 s) : Keeps r0 (State.register s g) := by simp (maxDischargeDepth := 60) [State.register, *]

theorem execPegRegister_keeps {r0 : State} (c : Fin 64) (s : State) {tK : State} (hK : Keeps r0 s) (eK : execPegRegister c s = .next tK) : Keeps r0 tK := by
  unfold execPegRegister at eK
  repeat' split at eK
  all_goals (injection eK with eK; subst eK)
  all_goals simp (maxDischargeDepth := 60) [*]

theorem execPegWake_keeps {r0 : State} (c : Fin 64) (s : State) {tK : State} (hK : Keeps r0 s) (eK : execPegWake c s = .next tK) : Keeps r0 tK := by
  unfold execPegWake at eK
  (try dsimp only at eK)
  repeat' split at eK
  all_goals (injection eK with eK; subst eK)
  all_goals simp (maxDischargeDepth := 60) [*]

theorem execPegClaim_keeps {r0 : State} (c : Fin 64) (s : State) {tK : State} (hK : Keeps r0 s) (eK : execPegClaim c s = .next tK) : Keeps r0 tK := by
  unfold execPegClaim at eK
  (try dsimp only at eK)
  repeat' split at eK
  all_goals (injection eK with eK; subst eK)
  all_goals simp (maxDischargeDepth := 60) [*]

@[simp] theorem State.modLink_keeps {r0 : State} (s : State) (l : Nat) (f : LinkSt → LinkSt) (hK : Keeps r0 s) : Keeps r0 (State.modLink s l f) := by simp (maxDischargeDepth := 60) [State.modLink, *]

@[simp] theorem State.modLGlob_keeps {r0 : State} (s : State) (f : LinkGlob → LinkGlob) (hK : Keeps r0 s) : Keeps r0 (State.modLGlob s f) := by simp (maxDischargeDepth := 60) [State.modLGlob, *]

@[simp] theorem State.modSec_keeps {r0 : State} (s : State) (f : Sec → Sec) (hK : Keeps r0 s) : Keeps r0 (State.modSec s f) := by simp (maxDischargeDepth := 60) [State.modSec, *]

@[simp] theorem State.random_keeps {r s : State} (h : Keeps r s) : Keeps r s.random.2 := by simp [State.random, h]

@[simp] theorem State.countLinkBy_keeps {r0 : State} (s : State) (l n v : Nat) (hK : Keeps r0 s) : Keeps r0 (State.countLinkBy s l n v) := by simp (maxDischargeDepth := 60) [State.countLinkBy, *]

@[simp] theorem State.countLink_keeps {r0 : State} (s : State) (l n : Nat) (hK : Keeps r0 s) : Keeps r0 (State.countLink s l n) := by simp (maxDischargeDepth := 60) [State.countLink, *]

@[simp] theorem State.noteBytes_keeps {r0 : State} (s : State) (f : TxFrame) (hK : Keeps r0 s) : Keeps r0 (State.noteBytes s f) := by
  unfold State.noteBytes
  dsimp only
  repeat' split
  all_goals simp (maxDischargeDepth := 60) [*]

@[simp] theorem State.transmit_keeps {r0 : State} (s : State) (l : Nat) (f : TxFrame) (hK : Keeps r0 s) : Keeps r0 (State.transmit s l f) := by simp (maxDischargeDepth := 60) [State.transmit, *]

@[simp] theorem State.repeatTx_keeps {r0 : State} (s : State) (l : Nat) (f : TxFrame) (hK : Keeps r0 s) : Keeps r0 (State.repeatTx s l f) := by simp (maxDischargeDepth := 60) [State.repeatTx, *]

@[simp] theorem State.pump_keeps {r : State} (l n : Nat) {s : State} (h : Keeps r s) : Keeps r (State.pump l n s) := by
  induction n generalizing s with
  | zero => exact h
  | succ n ih =>
    unfold State.pump
    dsimp only
    split
    · split
      · exact ih (by simp (maxDischargeDepth := 60) [h])
      · exact h
    · split
      · exact ih (by simp (maxDischargeDepth := 60) [h])
      · exact h

@[simp] theorem State.sendNull_keeps {r0 : State} (s : State) (l : Nat) (hK : Keeps r0 s) : Keeps r0 (State.sendNull s l) := by simp (maxDischargeDepth := 60) [State.sendNull, *]

@[simp] theorem State.sendQueued_keeps {r0 : State} (s : State) (l : Nat) (hK : Keeps r0 s) : Keeps r0 (State.sendQueued s l) := by 
  unfold State.sendQueued
  dsimp only
  split
  all_goals simp (maxDischargeDepth := 60) [*]

@[simp] theorem State.sendFor_keeps {r0 : State} (s : State) (rid : Option Nat) (l type args : Nat) (payload : List Nat) (hK : Keeps r0 s) : Keeps r0 (State.sendFor s rid l type args payload) := by simp (maxDischargeDepth := 60) [State.sendFor, *]

@[simp] theorem State.sendFrame_keeps {r0 : State} (s : State) (l type args : Nat) (payload : List Nat) (hK : Keeps r0 s) : Keeps r0 (State.sendFrame s l type args payload) := by simp (maxDischargeDepth := 60) [State.sendFrame, *]

@[simp] theorem State.sendObject_keeps {r0 : State} (s : State) (l type : Nat) (bs : List Nat) (hK : Keeps r0 s) : Keeps r0 (State.sendObject s l type bs) := by simp (maxDischargeDepth := 60) [State.sendObject, *]

@[simp] theorem State.writesFor_keeps {r0 : State} (s : State) (rid : Option Nat) (l window off : Nat) (bs : List Nat) (hK : Keeps r0 s) : Keeps r0 (State.writesFor s rid l window off bs) := by
  unfold State.writesFor
  (try dsimp only)
  refine foldl_keeps ?_ _ ?_
  · intro s x hK
    (try dsimp only)
    repeat' split
    all_goals simp (maxDischargeDepth := 60) [*]
  · simp (maxDischargeDepth := 60) [*]

@[simp] theorem State.sendWrites_keeps {r0 : State} (s : State) (l window off : Nat) (bs : List Nat) (hK : Keeps r0 s) : Keeps r0 (State.sendWrites s l window off bs) := by
  unfold State.sendWrites
  (try dsimp only)
  refine foldl_keeps ?_ _ ?_
  · intro s x hK
    all_goals simp (maxDischargeDepth := 60) [*]
  · simp (maxDischargeDepth := 60) [*]

@[simp] theorem State.modShip_keeps {r0 : State} (s : State) (id : Nat) (f : Shipment → Shipment) (hK : Keeps r0 s) : Keeps r0 (State.modShip s id f) := by simp (maxDischargeDepth := 60) [State.modShip, *]

@[simp] theorem State.sendPage_keeps {r0 : State} (s : State) (x : Shipment) (window off4k k l : Nat) (hK : Keeps r0 s) : Keeps r0 (State.sendPage s x window off4k k l) := by
  unfold State.sendPage
  dsimp only
  repeat' split
  all_goals simp (maxDischargeDepth := 60) [*]

end Sys2Proof.Machine
end

