-- ==== Sys2Proof/Laws/KeepsB.lean ====
section
/-! SUPPORT. What every operation keeps of a state: the waiting commands and the canonical form of memory. One lemma per operation (part 2: LinkFrames, StreamWords, SyncOps, Power, Sessions, Safety). -/

namespace Sys2Proof.Machine

open Sys2Proof

@[simp] theorem State.sendOpen_keeps {r0 : State} (s : State) (x : Shipment) (hK : Keeps r0 s) : Keeps r0 (State.sendOpen s x) := by
  unfold State.sendOpen
  (try dsimp only)
  repeat' split
  all_goals simp +contextual (maxDischargeDepth := 60) [*]

@[simp] theorem State.reassign_keeps {r0 : State} (s : State) (l : Nat) (hK : Keeps r0 s) : Keeps r0 (State.reassign s l) := by
  unfold State.reassign
  (try dsimp only)
  repeat' split
  all_goals simp +contextual (maxDischargeDepth := 60) [*]

@[simp] theorem State.leaveTo_keeps {r0 : State} (s : State) (l : Nat) (st : LState) (cause : Nat) (hK : Keeps r0 s) : Keeps r0 (State.leaveTo s l st cause) := by simp (maxDischargeDepth := 60) [State.leaveTo, *]

@[simp] theorem State.train_keeps {r0 : State} (s : State) (l cause : Nat) (hK : Keeps r0 s) : Keeps r0 (State.train s l cause) := by
  unfold State.train
  repeat' split
  all_goals simp (maxDischargeDepth := 60) [*]

@[simp] theorem State.trainAgain_keeps {r0 : State} (s : State) (l : Nat) (hK : Keeps r0 s) : Keeps r0 (State.trainAgain s l) := by simp (maxDischargeDepth := 60) [State.trainAgain, *]

@[simp] theorem State.hostile_keeps {r0 : State} (s : State) (l : Nat) (hK : Keeps r0 s) : Keeps r0 (State.hostile s l) := by simp (maxDischargeDepth := 60) [State.hostile, *]

@[simp] theorem State.malformed_keeps {r0 : State} (s : State) (l : Nat) (hK : Keeps r0 s) : Keeps r0 (State.malformed s l) := by simp (maxDischargeDepth := 60) [State.malformed, *]

@[simp] theorem State.askReplay_keeps {r0 : State} (s : State) (l : Nat) (limited : Bool) (hK : Keeps r0 s) : Keeps r0 (State.askReplay s l limited) := by simp (maxDischargeDepth := 60) [State.askReplay, *]

@[simp] theorem State.receive_keeps {r0 : State} (s : State) (l : Nat) (f : Frame) (act : State → State) (hact : ∀ x0, Keeps r0 x0 → Keeps r0 (act x0)) (hK : Keeps r0 s) : Keeps r0 (State.receive s l f act) := by
  unfold State.receive
  dsimp only
  repeat' split
  all_goals simp (maxDischargeDepth := 60) [*]

theorem frameCmd_next {ty : Nat} {f : Frame} {s t : State} (e : frameCmd ty f s = .next t) : s = t := by
  unfold frameCmd at e; split at e
  · injection e
  · cases e

@[simp] theorem State.receiveIn_keeps {r0 : State} (s : State) (l : Nat) (f : Frame) (ok : LinkSt → Bool) (act : State → State) (hact : ∀ x0, Keeps r0 x0 → Keeps r0 (act x0)) (hK : Keeps r0 s) : Keeps r0 (State.receiveIn s l f ok act) := by
  unfold State.receiveIn
  all_goals simp +contextual (maxDischargeDepth := 60) [*]

theorem execNull_keeps {r0 : State} (l : Fin 48) (f : Frame) (s : State) {tK : State} (hK : Keeps r0 s) (eK : execNull l f s = .next tK) : Keeps r0 tK := by
  unfold execNull at eK
  all_goals (rw [← frameCmd_next eK])
  all_goals simp +contextual (maxDischargeDepth := 60) [*]

@[simp] theorem State.resend_keeps {r0 : State} (s : State) (l q : Nat) (hK : Keeps r0 s) : Keeps r0 (State.resend s l q) := by
  simp (maxDischargeDepth := 60) [State.resend, *]

theorem execReplayReq_keeps {r0 : State} (l : Fin 48) (f : Frame) (s : State) {tK : State} (hK : Keeps r0 s) (eK : execReplayReq l f s = .next tK) : Keeps r0 tK := by
  unfold execReplayReq at eK
  (try dsimp only at eK)
  all_goals (rw [← frameCmd_next eK])
  all_goals simp +contextual (maxDischargeDepth := 60) [*]

@[simp] theorem State.runSubmit_keeps {r0 : State} (s : State) (c w : Nat) (hK : Keeps r0 s) : Keeps r0 (State.runSubmit s c w) := by simp (maxDischargeDepth := 60) [State.runSubmit, *]

theorem execSubmit_keeps {r0 : State} (c : Fin 64) (w : Word) (s : State) {tK : State} (hK : Keeps r0 s) (eK : execSubmit c w s = .next tK) : Keeps r0 tK := by
  unfold execSubmit at eK
  (try dsimp only at eK)
  all_goals (rw [← coreWord_next eK])
  all_goals simp +contextual (maxDischargeDepth := 60) [*]

@[simp] theorem State.runKfetch_keeps {r0 : State} (s : State) (c w : Nat) (hK : Keeps r0 s) : Keeps r0 (State.runKfetch s c w) := by
  unfold State.runKfetch
  dsimp only
  repeat' split
  all_goals simp (maxDischargeDepth := 60) [*]

theorem execKfetch_keeps {r0 : State} (c : Fin 64) (w : Word) (s : State) {tK : State} (hK : Keeps r0 s) (eK : execKfetch c w s = .next tK) : Keeps r0 tK := by
  unfold execKfetch at eK
  (try dsimp only at eK)
  all_goals (rw [← coreWord_next eK])
  all_goals simp +contextual (maxDischargeDepth := 60) [*]

@[simp] theorem State.runConvfeed_keeps {r0 : State} (s : State) (c w : Nat) (hK : Keeps r0 s) : Keeps r0 (State.runConvfeed s c w) := by simp (maxDischargeDepth := 60) [State.runConvfeed, *]

theorem execConvfeed_keeps {r0 : State} (c : Fin 64) (w : Word) (s : State) {tK : State} (hK : Keeps r0 s) (eK : execConvfeed c w s = .next tK) : Keeps r0 tK := by
  unfold execConvfeed at eK
  (try dsimp only at eK)
  repeat' split at eK
  all_goals (rw [← coreWord_next eK])
  all_goals simp +contextual (maxDischargeDepth := 60) [*]

theorem State.writeRun_inl {r s t : State} {c : Nat} {d : SDesc} {idx : List Nat} {x : Run} {bs : List Nat} {p : Option Nat} (e : s.writeRun c d idx x bs p = .inl t) (h : Keeps r s) : Keeps r t := by
  unfold State.writeRun at e; dsimp only at e
  repeat' split at e
  all_goals first
    | exact State.writeAny_inl e h
    | cases e

theorem State.putScales_inl {r t : State} {d : SDesc} (l : List (Nat × List Nat)) {s : State} (e : State.putScales d l s = .inl t) (h : Keeps r s) : Keeps r t := by
  induction l generalizing s with
  | nil => injection e with e; subst e; exact h
  | cons x l ih =>
    unfold State.putScales at e; dsimp only at e
    repeat' split at e
    all_goals first
      | exact ih e h
      | exact ih e (State.writeDev_some (by assumption) h)
      | cases e

theorem State.landGroup_inl {r s t : State} {c : Nat} {d : SDesc} {idx : List Nat} {v : Delivery} (e : s.landGroup c d idx v = .inl t) (h : Keeps r s) : Keeps r t := by
  unfold State.landGroup at e
  have key : ∀ (l : List (Run × List Nat × Option Nat)) (acc : State ⊕ Nat), (∀ u, acc = .inl u → Keeps r u) →
      ∀ t, l.foldl (fun (acc : State ⊕ Nat) x => match acc with
        | .inl s => s.writeRun c d idx x.1 x.2.1 x.2.2
        | .inr e => .inr e) acc = .inl t → Keeps r t := by
    intro l
    induction l with
    | nil => intro acc ha t e; exact ha t e
    | cons x l ih =>
      intro acc ha t e
      refine ih _ ?_ t e
      intro u hu
      cases acc with
      | inl s => exact State.writeRun_inl hu (ha s rfl)
      | inr e => cases hu
  exact key _ _ (fun u hu => State.putScales_inl _ hu h) t e

@[simp] theorem State.moveGroups_keeps {r : State} (c i : Nat) (d : SDesc) (idx : List Nat) (gs : List (List Run)) {s : State} (fl : Nat) (h : Keeps r s) : Keeps r (State.moveGroups c i d idx gs s fl).1 := by
  induction gs generalizing s fl with
  | nil => exact h
  | cons g gs ih =>
    unfold State.moveGroups
    split
    · exact h
    · split
      · exact h
      · next e => exact ih _ (State.landGroup_inl e h)

@[simp] theorem State.drainPegs_keeps {r : State} (c q : Nat) (es : List SqEntry) {s : State} (h : Keeps r s) : Keeps r (State.drainPegs c q es s) := by
  induction es generalizing s with
  | nil => exact h
  | cons e es ih =>
    cases e with
    | desc => exact h
    | peg => exact ih (by simp (maxDischargeDepth := 60) [h])

@[simp] theorem State.abortDesc_keeps {r0 : State} (s : State) (c q i : Nat) (d : SDesc) (rs : List Run) (code : Nat) (hK : Keeps r0 s) : Keeps r0 (State.abortDesc s c q i d rs code) := by
  unfold State.abortDesc
  dsimp only
  repeat' split
  all_goals simp (maxDischargeDepth := 60) [*]

@[simp] theorem State.putLqTile_keeps {r0 : State} (s : State) (c : Nat) (t : Nat) (tile : Nat) (off : Nat) (bs : List Nat) (ps : List (Nat × Nat × Nat)) (hK : Keeps r0 s) : Keeps r0 (State.putLqTile s c t tile off bs ps) := by
  unfold State.putLqTile
  (try dsimp only)
  refine foldl_keeps ?_ _ ?_
  · intro s x hK
    repeat' split
    all_goals simp (maxDischargeDepth := 60) [*]
  · simp (maxDischargeDepth := 60) [*]

@[simp] theorem State.moveDlq_keeps {r0 : State} (s : State) (c q i : Nat) (bits : BitVec 512) (donePeg index : Nat) (hK : Keeps r0 s) : Keeps r0 (State.moveDlq s c q i bits donePeg index) := by
  unfold State.moveDlq
  dsimp only
  split
  · simp [hK]
  · split
    · simp [hK]
    · split
      · simp [hK]
      · next e =>
        refine State.modRun_keeps _ _ _ (foldl_keeps (fun s k h => ?_) _ (State.putScales_inl _ e (State.modRun_keeps _ _ _ hK)))
        split
        · exact h
        · simp [h]

@[simp] theorem State.moveScale_keeps {r0 : State} (s : State) (c q i : Nat) (bits : BitVec 512) (donePeg index : Nat) (hK : Keeps r0 s) : Keeps r0 (State.moveScale s c q i bits donePeg index) := by
  unfold State.moveScale
  dsimp only
  repeat' split
  all_goals simp (maxDischargeDepth := 60) [*]

@[simp] theorem State.moveDesc_keeps {r s : State} (c q i : Nat) (bits : BitVec 512) (dp index : Nat) (h : Keeps r s) : Keeps r (s.moveDesc c q i bits dp index) := by
  unfold State.moveDesc; dsimp only
  generalize hg : (SDesc.decode bits.toNat).groups _ = gs
  have h1 := State.moveGroups_keeps c index (SDesc.decode bits.toNat) (s.indexList (SDesc.decode bits.toNat)) gs 0 h
  split
  · next e => rw [e] at h1; simp only at h1; simp [h1]
  · next e => rw [e] at h1; simp only at h1; simp [h1]

@[simp] theorem State.startStream_keeps {r0 : State} (s : State) (c q kind : Nat) (hK : Keeps r0 s) : Keeps r0 (State.startStream s c q kind) := by
  unfold State.startStream
  dsimp only
  repeat' split
  all_goals simp (maxDischargeDepth := 60) [*]

theorem elim_keeps {r s : State} {α : Type} {f : α → State} (o : Option α) (h : Keeps r s) (hf : ∀ x, Keeps r (f x)) : Keeps r (o.elim s f) := by
  cases o with
  | none => exact h
  | some x => exact hf x

@[simp] theorem State.hostByte_keeps {r0 : State} (s : State) (p : Port) (off v : Nat) (hK : Keeps r0 s) : Keeps r0 (State.hostByte s p off v) := by
  unfold State.hostByte
  exact elim_keeps _ hK (fun x => State.hostPut_keeps hK p x [v])

@[simp] theorem State.hostSeen_keeps {r0 : State} (s : State) (host : Cells) (hK : Keeps r0 s) : Keeps r0 (State.hostSeen s host) := by
  unfold State.hostSeen
  refine foldl_keeps (fun s x hK => ?_) _ hK
  split <;> simp [hK]

theorem execStreamCopy_keeps {r0 : State} (c : Fin 64) (q : Fin 16) (host : Cells) (s : State) {tK : State} (hK : Keeps r0 s) (eK : execStreamCopy c q host s = .next tK) : Keeps r0 tK := by
  unfold execStreamCopy at eK
  injection eK with eK
  subst eK
  simp (maxDischargeDepth := 60) [*]

theorem execStreamGather_keeps {r0 : State} (c : Fin 64) (q : Fin 16) (host : Cells) (s : State) {tK : State} (hK : Keeps r0 s) (eK : execStreamGather c q host s = .next tK) : Keeps r0 tK := by
  unfold execStreamGather at eK
  injection eK with eK
  subst eK
  simp (maxDischargeDepth := 60) [*]

theorem execStreamScatter_keeps {r0 : State} (c : Fin 64) (q : Fin 16) (host : Cells) (s : State) {tK : State} (hK : Keeps r0 s) (eK : execStreamScatter c q host s = .next tK) : Keeps r0 tK := by
  unfold execStreamScatter at eK
  injection eK with eK
  subst eK
  simp (maxDischargeDepth := 60) [*]

theorem execScalefeed_keeps {r0 : State} (c : Fin 64) (q : Fin 16) (host : Cells) (s : State) {tK : State} (hK : Keeps r0 s) (eK : execScalefeed c q host s = .next tK) : Keeps r0 tK := by
  unfold execScalefeed at eK
  injection eK with eK
  subst eK
  simp (maxDischargeDepth := 60) [*]

theorem execDescriptorComplete_keeps {r0 : State} (c : Fin 64) (q : Fin 16) (s : State) {tK : State} (hK : Keeps r0 s) (eK : execDescriptorComplete c q s = .next tK) : Keeps r0 tK := by
  unfold execDescriptorComplete at eK
  (try dsimp only at eK)
  repeat' split at eK
  all_goals (injection eK with eK; subst eK)
  all_goals simp (maxDischargeDepth := 60) [*]

@[simp] theorem State.modTable_keeps {r0 : State} (s : State) (t : Nat) (f : PassTable → PassTable) (hK : Keeps r0 s) : Keeps r0 (State.modTable s t f) := by simp (maxDischargeDepth := 60) [State.modTable, *]

@[simp] theorem State.dropTable_keeps {r0 : State} (s : State) (t : Nat) (hK : Keeps r0 s) : Keeps r0 (State.dropTable s t) := by simp (maxDischargeDepth := 60) [State.dropTable, *]

@[simp] theorem State.modGroup_keeps {r0 : State} (s : State) (g : Nat) (f : GroupRun → GroupRun) (hK : Keeps r0 s) : Keeps r0 (State.modGroup s g f) := by simp (maxDischargeDepth := 60) [State.modGroup, *]

@[simp] theorem State.releaseGroup_keeps {r0 : State} (s : State) (g : Nat) (d : GroupDecl) (sense : Bool) (hK : Keeps r0 s) : Keeps r0 (State.releaseGroup s g d sense) := by
  unfold State.releaseGroup
  (try dsimp only)
  all_goals simp +contextual (maxDischargeDepth := 60) [*]

@[simp] theorem State.chipPhase_keeps {r0 : State} (s : State) (g : Nat) (d : GroupDecl) (sense : Bool) (hK : Keeps r0 s) : Keeps r0 (State.chipPhase s g d sense) := by simp (maxDischargeDepth := 60) [State.chipPhase, *]

theorem execHandArrival_keeps {r0 : State} (h : Fin 18) (g : Fin 7) (sense : Bool) (s : State) {tK : State} (hK : Keeps r0 s) (eK : execHandArrival h g sense s = .next tK) : Keeps r0 tK := by
  unfold execHandArrival at eK
  (try dsimp only at eK)
  repeat' split at eK
  all_goals (injection eK with eK; subst eK)
  all_goals simp (maxDischargeDepth := 60) [*]

@[simp] theorem State.childArrival_keeps {r0 : State} (s : State) (l g : Nat) (sense : Bool) (hK : Keeps r0 s) : Keeps r0 (State.childArrival s l g sense) := by
  unfold State.childArrival
  dsimp only
  repeat' split
  all_goals simp (maxDischargeDepth := 60) [*]

theorem execSyncArrive_keeps {r0 : State} (l : Fin 48) (f : Frame) (s : State) {tK : State} (hK : Keeps r0 s) (eK : execSyncArrive l f s = .next tK) : Keeps r0 tK := by
  unfold execSyncArrive at eK
  (try dsimp only at eK)
  all_goals (rw [← frameCmd_next eK])
  all_goals simp +contextual (maxDischargeDepth := 60) [*]

theorem execSyncRelease_keeps {r0 : State} (l : Fin 48) (f : Frame) (s : State) {tK : State} (hK : Keeps r0 s) (eK : execSyncRelease l f s = .next tK) : Keeps r0 tK := by
  unfold execSyncRelease at eK
  rw [← frameCmd_next eK]
  refine State.receiveIn_keeps _ _ _ _ _ (fun u hu => ?_) hK
  split
  · split <;> simp [hu]
  · simp [hu]

theorem execWeightRoundRequest_keeps {r0 : State} (c : Fin 64) (s : State) {tK : State} (hK : Keeps r0 s) (eK : execWeightRoundRequest c s = .next tK) : Keeps r0 tK := by
  unfold execWeightRoundRequest at eK
  (try dsimp only at eK)
  repeat' split at eK
  all_goals (injection eK with eK; subst eK)
  all_goals simp (maxDischargeDepth := 60) [*]

@[simp] theorem State.carry_keeps {r s : State} (a n d : Nat) (h : Keeps r s) : Keeps r (s.carry a n d) := by
  unfold State.carry
  split
  · refine foldl_pair_keeps (fun s b x h => ?_) _ (State.putMem_keeps h _ _)
    refine foldl_keeps (fun s i h => ?_) _ h
    split <;> simp [h]
  · simp [h]

@[simp] theorem State.deliverTile_keeps {r0 : State} (s : State) (t c : Nat) (hK : Keeps r0 s) : Keeps r0 (State.deliverTile s t c) := by
  unfold State.deliverTile
  dsimp only
  repeat' split
  all_goals simp (maxDischargeDepth := 60) [*]

theorem execWeightRoundStart_keeps {r0 : State} (s : State) {tK : State} (hK : Keeps r0 s) (eK : execWeightRoundStart s = .next tK) : Keeps r0 tK := by
  unfold execWeightRoundStart at eK
  (try dsimp only at eK)
  repeat' split at eK
  all_goals (injection eK with eK; subst eK)
  all_goals simp +contextual (maxDischargeDepth := 60) [*]

@[simp] theorem State.abortPass_keeps {r0 : State} (s : State) (t code : Nat) (hK : Keeps r0 s) : Keeps r0 (State.abortPass s t code) := by
  unfold State.abortPass
  (try dsimp only)
  repeat' split
  all_goals simp +contextual (maxDischargeDepth := 60) [*]

@[simp] theorem State.abortLogged_keeps {r0 : State} (s : State) (t : Nat) (r : Report) (hK : Keeps r0 s) : Keeps r0 (State.abortLogged s t r) := by simp (maxDischargeDepth := 60) [State.abortLogged, *]

@[simp] theorem State.abortCores_keeps {r0 : State} (s : State) (t : Nat) (r : Report) (late : List Nat) (hK : Keeps r0 s) : Keeps r0 (State.abortCores s t r late) := by
  unfold State.abortCores
  (try dsimp only)
  repeat' split
  all_goals simp +contextual (maxDischargeDepth := 60) [*]

theorem execPassAbort_keeps {r0 : State} (t : Fin 4) (code : BitVec 16) (s : State) {tK : State} (hK : Keeps r0 s) (eK : execPassAbort t code s = .next tK) : Keeps r0 tK := by
  unfold execPassAbort at eK
  repeat' split at eK
  all_goals (first | (injection eK with eK; subst eK) | contradiction)
  all_goals simp (maxDischargeDepth := 60) [*]

@[simp] theorem State.closePass_keeps {r0 : State} (s : State) (t : Nat) (hK : Keeps r0 s) : Keeps r0 (State.closePass s t) := by simp (maxDischargeDepth := 60) [State.closePass, *]

@[simp] theorem State.commitSlot_keeps {r0 : State} (s : State) (t c v : Nat) (hK : Keeps r0 s) : Keeps r0 (State.commitSlot s t c v) := by simp (maxDischargeDepth := 60) [State.commitSlot, *]

theorem execCompletionSlotWrite_keeps {r0 : State} (c : Fin 64) (s : State) {tK : State} (hK : Keeps r0 s) (eK : execCompletionSlotWrite c s = .next tK) : Keeps r0 tK := by
  unfold execCompletionSlotWrite at eK
  (try dsimp only at eK)
  repeat' split at eK
  all_goals (injection eK with eK; subst eK)
  all_goals simp (maxDischargeDepth := 60) [*]

theorem execDrainLimitExpiry_keeps {r0 : State} (c : Fin 64) (s : State) {tK : State} (hK : Keeps r0 s) (eK : execDrainLimitExpiry c s = .next tK) : Keeps r0 tK := by
  unfold execDrainLimitExpiry at eK
  (try dsimp only at eK)
  repeat' split at eK
  all_goals (injection eK with eK; subst eK)
  all_goals simp (maxDischargeDepth := 60) [*]

theorem execPegWaitExpiry_keeps {r0 : State} (c : Fin 64) (s : State) {tK : State} (hK : Keeps r0 s) (eK : execPegWaitExpiry c s = .next tK) : Keeps r0 tK := by
  unfold execPegWaitExpiry at eK
  repeat' split at eK
  all_goals (injection eK with eK; subst eK)
  all_goals simp (maxDischargeDepth := 60) [*]

theorem execPassWatchdogExpiry_keeps {r0 : State} (t : Fin 4) (s : State) {tK : State} (hK : Keeps r0 s) (eK : execPassWatchdogExpiry t s = .next tK) : Keeps r0 tK := by
  unfold execPassWatchdogExpiry at eK
  (try dsimp only at eK)
  repeat' split at eK
  all_goals (injection eK with eK; subst eK)
  all_goals simp (maxDischargeDepth := 60) [*]

theorem execChipBarrierExpiry_keeps {r0 : State} (g : Fin 7) (s : State) {tK : State} (hK : Keeps r0 s) (eK : execChipBarrierExpiry g s = .next tK) : Keeps r0 tK := by
  unfold execChipBarrierExpiry at eK
  (try dsimp only at eK)
  repeat' split at eK
  all_goals (injection eK with eK; subst eK)
  all_goals simp (maxDischargeDepth := 60) [*]

theorem execStewardWatchdogExpiry_keeps {r0 : State} (n : Fin 4) (s : State) {tK : State} (hK : Keeps r0 s) (eK : execStewardWatchdogExpiry n s = .next tK) : Keeps r0 tK := by
  unfold execStewardWatchdogExpiry at eK
  repeat' split at eK
  all_goals (injection eK with eK; subst eK)
  all_goals simp (maxDischargeDepth := 60) [*]

@[simp] theorem State.pegAccess_keeps {r0 : State} (s : State) (src bytes addr data : Nat) (r : Report) (hK : Keeps r0 s) : Keeps r0 (State.pegAccess s src bytes addr data r) := by
  unfold State.pegAccess
  (try dsimp only)
  repeat' split
  all_goals simp (maxDischargeDepth := 60) [*]

@[simp] theorem State.stewardPeg_keeps {r0 : State} (s : State) (n : Fin 4) (bytes addr data : Nat) (hK : Keeps r0 s) : Keeps r0 (State.stewardPeg s n bytes addr data) := by
  unfold State.stewardPeg
  repeat' split
  all_goals simp (maxDischargeDepth := 60) [*]

@[simp] theorem State.stewardPegRead_keeps {r0 : State} (s : State) (n : Fin 4) (bytes addr : Nat) (hK : Keeps r0 s) : Keeps r0 (State.stewardPegRead s n bytes addr) := by
  unfold State.stewardPegRead
  repeat' split
  all_goals simp (maxDischargeDepth := 60) [*]

@[simp] theorem State.stewardAccess_keeps {r0 : State} (s : State) (n : Fin 4) (addr : Nat) (x : PegStore) (hK : Keeps r0 s) : Keeps r0 (State.stewardAccess s n addr x) := by simp (maxDischargeDepth := 60) [State.stewardAccess, *]

theorem execStewardPegSet_keeps {r0 : State} (n : Fin 4) (addr : BitVec 48) (store : PegStore) (s : State) {tK : State} (hK : Keeps r0 s) (eK : execStewardPegSet n addr store s = .next tK) : Keeps r0 tK := by
  unfold execStewardPegSet at eK
  repeat' split at eK
  all_goals (first | (injection eK with eK; subst eK) | contradiction)
  all_goals simp (maxDischargeDepth := 60) [*]

theorem execStewardPegAdd_keeps {r0 : State} (n : Fin 4) (addr : BitVec 48) (store : PegStore) (s : State) {tK : State} (hK : Keeps r0 s) (eK : execStewardPegAdd n addr store s = .next tK) : Keeps r0 tK := by
  unfold execStewardPegAdd at eK
  repeat' split at eK
  all_goals (first | (injection eK with eK; subst eK) | contradiction)
  all_goals simp (maxDischargeDepth := 60) [*]

@[simp] theorem State.modPow_keeps {r0 : State} (s : State) (f : Power → Power) (hK : Keeps r0 s) : Keeps r0 (State.modPow s f) := by simp (maxDischargeDepth := 60) [State.modPow, *]

@[simp] theorem State.noteActivity_keeps {r0 : State} (s : State) (hK : Keeps r0 s) : Keeps r0 (State.noteActivity s) := by simp (maxDischargeDepth := 60) [State.noteActivity, *]

@[simp] theorem State.attribute_keeps {r0 : State} (s : State) (chipNj linkNj : Nat) (hK : Keeps r0 s) : Keeps r0 (State.attribute s chipNj linkNj) := by
  unfold State.attribute
  (try dsimp only)
  repeat' split
  all_goals simp +contextual (maxDischargeDepth := 60) [*]

@[simp] theorem State.noteSkip_keeps {r0 : State} (s : State) (hK : Keeps r0 s) : Keeps r0 (State.noteSkip s) := by
  unfold State.noteSkip
  repeat' split
  all_goals simp (maxDischargeDepth := 60) [*]

theorem execEstimateIntervalEnd_keeps {r s t : State} (a : Activity2us) (h : Keeps r s) (e : execEstimateIntervalEnd a s = .next t) : Keeps r t := by
  unfold execEstimateIntervalEnd at e
  by_cases hm : s.pow.mstate = .standby ∨ s.pow.mstate = .tripped ∨ s.pow.intervalDue s.time = false
  · rw [if_pos hm] at e; have e := Host.Outcome.next.inj e; rw [← e]; exact h
  · rw [if_neg hm] at e
    extract_lets s0 mw linkMw s1 avg8 s2 s3 s4 s5 r1 due at e
    clear_value mw linkMw avg8
    have h0 : Keeps r s0 := State.modPow_keeps _ _ h
    have h1 : Keeps r s1 := State.modPow_keeps _ _ h0
    have h2 : Keeps r s2 := State.modPow_keeps _ _ h1
    have h3 : Keeps r s3 := State.modPow_keeps _ _ h2
    have h4 : Keeps r s4 := State.modPow_keeps _ _ (State.attribute_keeps _ _ _ h3)
    have h5 : Keeps r s5 := State.noteSkip_keeps _ h4
    clear_value s5
    clear_value r1 due
    by_cases hd : due = true
    · rw [if_pos hd] at e; have e := Host.Outcome.next.inj e; rw [← e]; exact State.report_keeps _ _ (State.modPow_keeps _ _ h5)
    · rw [if_neg hd] at e; have e := Host.Outcome.next.inj e; rw [← e]; exact h5

theorem execPmbusCalibration_keeps {r0 : State} (readings : List Nat) (s : State) {tK : State} (hK : Keeps r0 s) (eK : execPmbusCalibration readings s = .next tK) : Keeps r0 tK := by
  unfold execPmbusCalibration at eK
  repeat' split at eK
  all_goals (injection eK with eK; subst eK)
  all_goals simp (maxDischargeDepth := 60) [*]

theorem execBoostEntry_keeps {r0 : State} (s : State) {tK : State} (hK : Keeps r0 s) (eK : execBoostEntry s = .next tK) : Keeps r0 tK := by
  unfold execBoostEntry at eK
  (try dsimp only at eK)
  repeat' split at eK
  all_goals (injection eK with eK; subst eK)
  all_goals simp (maxDischargeDepth := 60) [*]

theorem execBoostPowerGood_keeps {r0 : State} (s : State) {tK : State} (hK : Keeps r0 s) (eK : execBoostPowerGood s = .next tK) : Keeps r0 tK := by
  unfold execBoostPowerGood at eK
  repeat' split at eK
  all_goals (injection eK with eK; subst eK)
  all_goals simp (maxDischargeDepth := 60) [*]

@[simp] theorem State.trip_keeps {r0 : State} (s : State) (cause : Nat) (r : Report) (hK : Keeps r0 s) : Keeps r0 (State.trip s cause r) := by simp (maxDischargeDepth := 60) [State.trip, *]

@[simp] theorem State.thermalTrip_keeps {r0 : State} (s : State) (cause : Nat) (hK : Keeps r0 s) : Keeps r0 (State.thermalTrip s cause) := by simp (maxDischargeDepth := 60) [State.thermalTrip, *]

@[simp] theorem State.tripTogether_keeps {r0 : State} (s : State) (cause : Nat) (r : Report) (hK : Keeps r0 s) : Keeps r0 (State.tripTogether s cause r) := by simp (maxDischargeDepth := 60) [State.tripTogether, *]

@[simp] theorem State.logTripFirst_keeps {r0 : State} (s : State) (hK : Keeps r0 s) : Keeps r0 (State.logTripFirst s) :=
  State.report_keeps _ _ (State.modGlob_keeps _ _ (State.modInteg_keeps _ _ hK))

@[simp] theorem State.thermalAgain_keeps {r0 : State} (s : State) (cause : Nat) (hK : Keeps r0 s) : Keeps r0 (State.thermalAgain s cause) := by simp (maxDischargeDepth := 60) [State.thermalAgain, *]

theorem execTemperatureReading_keeps {r0 : State} (temps : List Nat) (s : State) {tK : State} (hK : Keeps r0 s) (eK : execTemperatureReading temps s = .next tK) : Keeps r0 tK := by
  unfold execTemperatureReading at eK
  (try dsimp only at eK)
  repeat' split at eK
  all_goals (injection eK with eK; subst eK)
  all_goals simp (maxDischargeDepth := 60) [*]

theorem execHbmTemperatureReading_keeps {r0 : State} (t : List Nat) (s : State) {tK : State} (hK : Keeps r0 s) (eK : execHbmTemperatureReading t s = .next tK) : Keeps r0 tK := by
  unfold execHbmTemperatureReading at eK
  repeat' split at eK
  all_goals (injection eK with eK; subst eK)
  all_goals simp (maxDischargeDepth := 60) [*]

theorem execCoolantStop_keeps {r0 : State} (s : State) {tK : State} (hK : Keeps r0 s) (eK : execCoolantStop s = .next tK) : Keeps r0 tK := by
  unfold execCoolantStop at eK
  repeat' split at eK
  all_goals (first | (injection eK with eK; subst eK) | contradiction)
  all_goals simp (maxDischargeDepth := 60) [*]

theorem execCoolantOkFall_keeps {r0 : State} (s : State) {tK : State} (hK : Keeps r0 s) (eK : execCoolantOkFall s = .next tK) : Keeps r0 tK := by
  unfold execCoolantOkFall at eK
  injection eK with eK
  subst eK
  simp (maxDischargeDepth := 60) [*]

theorem execVrAlertAssert_keeps {r0 : State} (s : State) {tK : State} (hK : Keeps r0 s) (eK : execVrAlertAssert s = .next tK) : Keeps r0 tK := by
  unfold execVrAlertAssert at eK
  injection eK with eK
  subst eK
  simp (maxDischargeDepth := 60) [*]

theorem execVrStatusRead_keeps {r0 : State} (st : List VrFinding) (s : State) {tK : State} (hK : Keeps r0 s) (eK : execVrStatusRead st s = .next tK) : Keeps r0 tK := by
  unfold execVrStatusRead at eK
  (try dsimp only at eK)
  repeat' split at eK
  all_goals (first | (injection eK with eK; subst eK) | contradiction)
  all_goals simp (maxDischargeDepth := 60) [*]

theorem execVrAlertDeassert_keeps {r0 : State} (s : State) {tK : State} (hK : Keeps r0 s) (eK : execVrAlertDeassert s = .next tK) : Keeps r0 tK := by
  unfold execVrAlertDeassert at eK
  injection eK with eK
  subst eK
  simp (maxDischargeDepth := 60) [*]

theorem execFallbackWindowExpiry_keeps {r0 : State} (s : State) {tK : State} (hK : Keeps r0 s) (eK : execFallbackWindowExpiry s = .next tK) : Keeps r0 tK := by
  unfold execFallbackWindowExpiry at eK
  repeat' split at eK
  all_goals (injection eK with eK; subst eK)
  all_goals simp (maxDischargeDepth := 60) [*]

theorem execReadyIdleEntry_keeps {r0 : State} (s : State) {tK : State} (hK : Keeps r0 s) (eK : execReadyIdleEntry s = .next tK) : Keeps r0 tK := by
  unfold execReadyIdleEntry at eK
  repeat' split at eK
  all_goals (injection eK with eK; subst eK)
  all_goals simp (maxDischargeDepth := 60) [*]

@[simp] theorem State.wake_keeps {r0 : State} (s : State) (hK : Keeps r0 s) : Keeps r0 (State.wake s) := by simp (maxDischargeDepth := 60) [State.wake, *]

theorem execReadyIdleWake_keeps {r0 : State} (s : State) {tK : State} (hK : Keeps r0 s) (eK : execReadyIdleWake s = .next tK) : Keeps r0 tK := by
  unfold execReadyIdleWake at eK
  injection eK with eK
  subst eK
  simp (maxDischargeDepth := 60) [*]

theorem execReturnToGated_keeps {r0 : State} (d : Fin 34) (s : State) {tK : State} (hK : Keeps r0 s) (eK : execReturnToGated d s = .next tK) : Keeps r0 tK := by
  unfold execReturnToGated at eK
  repeat' split at eK
  all_goals (injection eK with eK; subst eK)
  all_goals simp (maxDischargeDepth := 60) [*]

theorem execRootPllLoss_keeps {r0 : State} (s : State) {tK : State} (hK : Keeps r0 s) (eK : execRootPllLoss s = .next tK) : Keeps r0 tK := by
  unfold execRootPllLoss at eK
  repeat' split at eK
  all_goals (first | (injection eK with eK; subst eK) | contradiction)
  all_goals simp (maxDischargeDepth := 60) [*]

@[simp] theorem State.modRing_keeps {r0 : State} (s : State) (p : Port) (n : Nat) (f : Ring → Ring) (hK : Keeps r0 s) : Keeps r0 (State.modRing s p n f) := by simp (maxDischargeDepth := 60) [State.modRing, *]

@[simp] theorem State.ringVector_keeps {r0 : State} (s : State) (p : Port) (n : Nat) (hK : Keeps r0 s) : Keeps r0 (State.ringVector s p n) := by simp (maxDischargeDepth := 60) [State.ringVector, *]

@[simp] theorem State.putRecord_keeps {r0 : State} (s : State) (c : CompRec) (hK : Keeps r0 s) : Keeps r0 (State.putRecord s c) := by simp (maxDischargeDepth := 60) [State.putRecord, *]

@[simp] theorem State.record_keeps {r0 : State} (s : State) (c : CompRec) (hK : Keeps r0 s) : Keeps r0 (State.record s c) := by simp (maxDischargeDepth := 60) [State.record, *]

theorem execCompletionRecordWrite_keeps {r0 : State} (p : Port) (n : Fin 16) (s : State) {tK : State} (hK : Keeps r0 s) (eK : execCompletionRecordWrite p n s = .next tK) : Keeps r0 tK := by
  unfold execCompletionRecordWrite at eK
  repeat' split at eK
  all_goals (injection eK with eK; subst eK)
  all_goals simp (maxDischargeDepth := 60) [*]

@[simp] theorem State.adminRecord_keeps {r0 : State} (s : State) (a : AdminReply) (outcome payload : Nat) (hK : Keeps r0 s) : Keeps r0 (State.adminRecord s a outcome payload) := by simp (maxDischargeDepth := 60) [State.adminRecord, *]

@[simp] theorem State.moveUsed_keeps {r0 : State} (s : State) (k : Nat) (d : Int) (hK : Keeps r0 s) : Keeps r0 (State.moveUsed s k d) := by simp (maxDischargeDepth := 60) [State.moveUsed, *]

@[simp] theorem State.adjust_keeps {r0 : State} (s : State) (r : Req) (goal : Nat) (hK : Keeps r0 s) : Keeps r0 (State.adjust s r goal) := by simp (maxDischargeDepth := 60) [State.adjust, *]

@[simp] theorem State.modReq_keeps {r0 : State} (s : State) (rid : Nat) (f : Req → Req) (hK : Keeps r0 s) : Keeps r0 (State.modReq s rid f) := by simp (maxDischargeDepth := 60) [State.modReq, *]

@[simp] theorem State.modSess_keeps {r0 : State} (s : State) (i : Nat) (f : Session → Session) (hK : Keeps r0 s) : Keeps r0 (State.modSess s i f) := by simp (maxDischargeDepth := 60) [State.modSess, *]

@[simp] theorem State.eventRecord_keeps {r0 : State} (s : State) (i code : Nat) (hK : Keeps r0 s) : Keeps r0 (State.eventRecord s i code) := by simp (maxDischargeDepth := 60) [State.eventRecord, *]

@[simp] theorem State.dropKicker_keeps {r0 : State} (s : State) (k : Option Nat) (hK : Keeps r0 s) : Keeps r0 (State.dropKicker s k) := by
  unfold State.dropKicker
  repeat' split
  all_goals simp (maxDischargeDepth := 60) [*]

@[simp] theorem State.closeSess_keeps {r0 : State} (s : State) (i : Nat) (hK : Keeps r0 s) : Keeps r0 (State.closeSess s i) := by
  unfold State.closeSess
  (try dsimp only)
  repeat' split
  all_goals simp +contextual (maxDischargeDepth := 60) [*]

@[simp] theorem State.closeVat_keeps {r s : State} (i : Nat) (h : Keeps r s) : Keeps r (s.closeVat i) := by
  unfold State.closeVat; dsimp only
  apply State.modSess_keeps
  apply foldl_keeps (fun s x h => State.release_keeps _ _ h)
  apply foldl_keeps _ _ h
  intro s x h
  split <;> simp [h]

theorem State.takes_some {r s t : State} (ps : List Nat) (e : ps.foldl (fun (o : Option State) p => o.bind (fun s => s.take p)) (some s) = some t) (h : Keeps r s) : Keeps r t := by
  induction ps generalizing s with
  | nil => injection e with e; subst e; exact h
  | cons p ps ih =>
    simp only [List.foldl_cons, Option.bind_some] at e
    cases e1 : s.take p with
    | some u => rw [e1] at e; exact ih e (State.take_some e1 h)
    | none =>
      rw [e1] at e
      have : ∀ l : List Nat, l.foldl (fun (o : Option State) p => o.bind (fun s => s.take p)) none = none := by
        intro l; induction l with
        | nil => rfl
        | cons x l ih => simpa using ih
      rw [this] at e; cases e

theorem State.takeAll_some {r s t : State} {ps : List Nat} (e : s.takeAll ps = some t) (h : Keeps r s) : Keeps r t := State.takes_some ps e h

@[simp] theorem State.rackTag_keeps {r0 : State} (s : State) (i : Nat) (hK : Keeps r0 s) : Keeps r0 (State.rackTag s i) := by
  unfold State.rackTag
  (try dsimp only)
  split
  · exact State.modSess_keeps _ _ _ (foldl_keeps (fun s x h => State.pin_keeps _ _ _ h) _ (State.drawEpoch_keeps _ hK))
  · exact hK

theorem State.startRack_some {r s t : State} {i why : Nat} (e : s.startRack i why = some t) (h : Keeps r s) : Keeps r t := by
  unfold State.startRack at e
  obtain ⟨u, hu, rfl⟩ := Option.map_eq_some_iff.mp e
  exact State.rackTag_keeps _ _ (State.modSess_keeps _ _ _ (State.takeAll_some hu h))

@[simp] theorem State.writeRack_keeps {r s : State} (i : Nat) (h : Keeps r s) : Keeps r (s.writeRack i) := by
  unfold State.writeRack; dsimp only
  apply State.hostPut_keeps; apply State.hostPut_keeps
  apply foldl_keeps _ _ h
  intro s x h
  split <;> simp [h]

@[simp] theorem State.finishReq_keeps {r0 : State} (s : State) (r : Req) (code handle tail : Nat) (hK : Keeps r0 s) : Keeps r0 (State.finishReq s r code handle tail) := by simp (maxDischargeDepth := 60) [State.finishReq, *]

@[simp] theorem State.dropUnrack_keeps {r0 : State} (s : State) (i : Nat) (hK : Keeps r0 s) : Keeps r0 (State.dropUnrack s i) := by
  unfold State.dropUnrack
  (try dsimp only)
  refine foldl_keeps ?_ _ ?_
  · intro s x hK
    all_goals simp (maxDischargeDepth := 60) [*]
  · simp (maxDischargeDepth := 60) [*]

@[simp] theorem State.settleVat_keeps {r0 : State} (s : State) (i : Nat) (hK : Keeps r0 s) : Keeps r0 (State.settleVat s i) := by simp (maxDischargeDepth := 60) [State.settleVat, *]

@[simp] theorem State.endReq_keeps {r0 : State} (s : State) (r : Req) (code : Nat) (closeIt : Bool) (hK : Keeps r0 s) : Keeps r0 (State.endReq s r code closeIt) := by
  unfold State.endReq
  split
  · simp [hK]
  · extract_lets i h s1 tail s2
    have h2 : Keeps r0 s2 := State.modSess_keeps _ _ _ (State.settleVat_keeps _ _ hK)
    clear_value s1 s2
    repeat' split
    all_goals first
      | (next e => exact State.modReq_keeps _ _ _ (State.startRack_some e h2))
      | simp [h2]

@[simp] theorem State.closeWith_keeps {r0 : State} (s : State) (r : Req) (code : Nat) (hK : Keeps r0 s) : Keeps r0 (State.closeWith s r code) := by simp (maxDischargeDepth := 60) [State.closeWith, *]

theorem execRackComplete_keeps {r0 : State} (i : Nat) (ok : Bool) (s : State) {tK : State} (hK : Keeps r0 s) (eK : execRackComplete i ok s = .next tK) : Keeps r0 tK := by
  unfold execRackComplete at eK
  (try dsimp only at eK)
  repeat' split at eK
  all_goals (injection eK with eK; subst eK)
  all_goals simp +contextual (maxDischargeDepth := 60) [*]

theorem execRackExpiry_keeps {r0 : State} (i : Nat) (s : State) {tK : State} (hK : Keeps r0 s) (eK : execRackExpiry i s = .next tK) : Keeps r0 tK := by
  unfold execRackExpiry at eK
  (try dsimp only at eK)
  repeat' split at eK
  all_goals (injection eK with eK; subst eK)
  all_goals simp (maxDischargeDepth := 60) [*]

@[simp] theorem State.countRead_keeps {r0 : State} (s : State) (p : Port) (fn a n : Nat) (hK : Keeps r0 s) : Keeps r0 (State.countRead s p fn a n) := by simp (maxDischargeDepth := 60) [State.countRead, *]

@[simp] theorem State.countRecord_keeps {r0 : State} (s : State) (i : Nat) (hK : Keeps r0 s) : Keeps r0 (State.countRecord s i) := by
  unfold State.countRecord
  dsimp only
  repeat' split
  all_goals simp (maxDischargeDepth := 60) [*]

@[simp] theorem State.countCopies_keeps {r0 : State} (s : State) (i : Nat) (es : List Nat) (hK : Keeps r0 s) : Keeps r0 (State.countCopies s i es) := by
  unfold State.countCopies
  dsimp only
  repeat' split
  all_goals simp (maxDischargeDepth := 60) [*]

/-- The state that a walked entry leaves. -/
def Walk1.st : Walk1 → State
  | .page _ s => s
  | .miss s => s
  | .refused s => s

theorem State.unrackWalk_keeps {r s : State} (a b c d e : Nat) (h : Keeps r s) : Keeps r (s.unrackWalk a b c d e).st := by
  unfold State.unrackWalk; dsimp only
  have hl := State.lookup_keeps (fld a 128 128) c d (s.model c).gen h
  generalize hx : s.lookup (fld a 128 128) c d (s.model c).gen = x at hl
  obtain ⟨v, s1⟩ := x
  dsimp only at hl ⊢
  split
  · exact hl
  · generalize (if e = noIndex then 0 else (s1.header e).vkey) = pk
    split
    · exact State.verifyFailed_keeps _ _ hl
    · split
      · next e2 => exact State.modPages_keeps _ (fun g => { g with hits := g.hits + 1 }) (State.takeIfVine_taken e2 hl)
      · exact hl
      · exact hl

/-- The state that a wanted page leaves. -/
def Want.st : Want → State
  | .got _ s => s
  | .wait s => s
  | .fail _ s => s

end Sys2Proof.Machine
end

