-- ==== Sys2Proof/Laws/KeepsC.lean ====
section
/-! SUPPORT. What every operation keeps of a state: the waiting commands and the canonical form of memory. One lemma per operation (part 3: Sessions, Handshake, Links, Intake, Passes). -/

namespace Sys2Proof.Machine

open Sys2Proof

theorem State.preemptRack_keeps {r s : State} (v why : Nat) (h : Keeps r s) : Keeps r (s.preemptRack v why).st := by
  unfold State.preemptRack
  split
  · next e => exact State.startRack_some e h
  · exact h

theorem State.wantPage_keeps {r : State} (i k dom pos0 prio n : Nat) {s : State} (h : Keeps r s) : Keeps r (State.wantPage i k dom pos0 prio n s).st := by
  induction n generalizing s with
  | zero => exact h
  | succ n ih =>
    unfold State.wantPage
    have hl := State.alloc_keeps i k dom pos0 h
    split
    · next e => rw [e] at hl; exact hl
    · next e =>
      rw [e] at hl
      repeat' split
      all_goals first
        | exact hl
        | exact State.preemptRack_keeps _ _ hl
        | (refine ih ?_; simp [hl])
        | (refine State.preemptRack_keeps _ _ ?_; simp [hl])

@[simp] theorem Unracked.entry_keeps {r : State} (i k dom : Nat) (u : Unracked) (e : Nat) (h : Keeps r u.s) : Keeps r (u.entry i k dom e).s := by
  unfold Unracked.entry; dsimp only
  split
  · exact h
  · split
    · exact h
    · split
      · split
        · exact h
        · have hw := State.unrackWalk_keeps e (16 * u.pages.length) k dom (u.pages.getLast?.getD noIndex) h
          split <;> (next q => rw [q] at hw; exact hw)
      · split
        · have hw := State.wantPage_keeps i k dom (16 * u.pages.length) (u.s.sess i).prio (u.s.serve.sessions.length + 2) h
          split <;> (next q => rw [q] at hw; exact hw)
        · exact h

theorem Unracked.foldl_keeps {r : State} (i k dom : Nat) (es : List Nat) {u : Unracked} (h : Keeps r u.s) : Keeps r (es.foldl (Unracked.entry i k dom) u).s := by
  induction es generalizing u with
  | nil => exact h
  | cons e es ih => exact ih (Unracked.entry_keeps _ _ _ _ _ h)

@[simp] theorem State.refuseUnrack_keeps {r0 : State} (s : State) (i code : Nat) (hK : Keeps r0 s) : Keeps r0 (State.refuseUnrack s i code) := by
  unfold State.refuseUnrack
  dsimp only
  repeat' split
  all_goals simp (maxDischargeDepth := 60) [*]

theorem execUnrack_keeps {r s t : State} (i : Nat) (host : Cells) (h : Keeps r s) (e : execUnrack i host s = .next t) : Keeps r t := by
  have hs := State.hostStore_keeps h (s.sess i).port host
  unfold execUnrack at e
  extract_lets x s1 at e
  change Keeps r s1 at hs
  generalize (x.state == .racked && match x.expiry with | some t => decide (t ≤ s1.time) | none => false) = late at e
  split at e
  · injection e with e; rw [← e]; exact hs
  · split at e
    · injection e with e; rw [← e]; exact State.refuseUnrack_keeps _ _ _ hs
    · split at e
      · injection e with e; rw [← e]; exact State.refuseUnrack_keeps _ _ _ (State.countRecord_keeps _ _ hs)
      · split at e
        · injection e with e; rw [← e]; exact hs
        · extract_lets u s2 at e
          have h2 : Keeps r s2 := State.modSess_keeps _ _ _ (Unracked.foldl_keeps _ _ _ _ hs)
          split at e
          · injection e with e; rw [← e]; exact State.refuseUnrack_keeps _ _ _ h2
          · injection e with e; rw [← e]; exact h2

theorem State.restorePage_some {r s t : State} {i p e : Nat} (hs : s.restorePage i p e = some t) (h : Keeps r s) : Keeps r t := by
  unfold State.restorePage at hs; dsimp only at hs
  repeat' split at hs
  all_goals first
    | (injection hs with hs; subst hs; simp (maxDischargeDepth := 60) [h])
    | cases hs

theorem execUnrackComplete_keeps {r s t : State} (i : Nat) (host : Cells) (h : Keeps r s) (e : execUnrackComplete i host s = .next t) : Keeps r t := by
  have hf : ∀ (l : List (Nat × Nat)) (o : Option State), (∀ u, o = some u → Keeps r u) → ∀ u, l.foldl (fun (o : Option State) y =>
        if fld y.2 0 2 = 2 then o.bind (fun s => s.restorePage i y.1 y.2) else o) o = some u → Keeps r u := by
    intro l
    induction l with
    | nil => intro o ho u e; exact ho u e
    | cons y l ih =>
      intro o ho u e
      refine ih _ ?_ u e
      intro v hv
      dsimp only at hv
      split at hv
      · cases o with
        | none => cases hv
        | some w => exact State.restorePage_some hv (ho w rfl)
      · exact ho v hv
  have hs := State.hostStore_keeps h (s.sess i).port host
  unfold execUnrackComplete at e; dsimp only at e
  split at e
  · injection e with e; subst e; exact hs
  · split at e
    · injection e with e; subst e; exact State.refuseUnrack_keeps _ _ _ (State.countRecord_keeps _ _ hs)
    · split at e
      · injection e with e; subst e; exact hs
      split at e
      · injection e with e; subst e; exact State.refuseUnrack_keeps _ _ _ (State.countCopies_keeps _ _ _ hs)
      · next e2 =>
        have h2 := hf _ _ (fun u hu => by injection hu with hu; subst hu; exact hs) _ e2
        have hm : ∀ (u : State) (o : Option Req), Keeps r u → Keeps r (match o with | some q => u.modSess i (fun x => x.named q.desc) | none => u) := by
          intro u o hu; cases o
          · exact hu
          · exact State.modSess_keeps _ _ _ hu
        split at e
        · split at e
          · injection e with e; rw [← e]
            exact State.modReq_keeps _ _ _ (State.report_keeps _ _ (State.modPow_keeps _ _ (hm _ _ (State.modSess_keeps _ _ _ h2))))
          · injection e with e; rw [← e]
            exact State.endReq_keeps _ _ _ _ (State.modReq_keeps _ _ _ (State.report_keeps _ _ (State.modPow_keeps _ _ (hm _ _ (State.modSess_keeps _ _ _ h2)))))
        · injection e with e; rw [← e]
          exact State.modPow_keeps _ _ (hm _ _ (State.modSess_keeps _ _ _ h2))

@[simp] theorem State.quarantine_keeps {r0 : State} (s : State) (l cause : Nat) (hK : Keeps r0 s) : Keeps r0 (State.quarantine s l cause) := by simp (maxDischargeDepth := 60) [State.quarantine, *]

@[simp] theorem State.faulty_keeps {r0 : State} (s : State) (l cause : Nat) (hK : Keeps r0 s) : Keeps r0 (State.faulty s l cause) := by simp (maxDischargeDepth := 60) [State.faulty, *]

@[simp] theorem State.sendHello_keeps {r0 : State} (s : State) (l : Nat) (hK : Keeps r0 s) : Keeps r0 (State.sendHello s l) := by simp (maxDischargeDepth := 60) [State.sendHello, *]

theorem execSignalDetect_keeps {r0 : State} (l : Fin 48) (s : State) {tK : State} (hK : Keeps r0 s) (eK : execSignalDetect l s = .next tK) : Keeps r0 tK := by
  unfold execSignalDetect at eK
  (try dsimp only at eK)
  repeat' split at eK
  all_goals (injection eK with eK; subst eK)
  all_goals simp (maxDischargeDepth := 60) [*]

theorem execSignalLoss_keeps {r0 : State} (l : Fin 48) (s : State) {tK : State} (hK : Keeps r0 s) (eK : execSignalLoss l s = .next tK) : Keeps r0 tK := by
  unfold execSignalLoss at eK
  (try dsimp only at eK)
  repeat' split at eK
  all_goals (injection eK with eK; subst eK)
  all_goals simp (maxDischargeDepth := 60) [*]

theorem execTrainingTimeout_keeps {r0 : State} (l : Fin 48) (s : State) {tK : State} (hK : Keeps r0 s) (eK : execTrainingTimeout l s = .next tK) : Keeps r0 tK := by
  unfold execTrainingTimeout at eK
  (try dsimp only at eK)
  repeat' split at eK
  all_goals (injection eK with eK; subst eK)
  all_goals simp (maxDischargeDepth := 60) [*]

theorem execTrainingRestart_keeps {r0 : State} (l : Fin 48) (s : State) {tK : State} (hK : Keeps r0 s) (eK : execTrainingRestart l s = .next tK) : Keeps r0 tK := by
  unfold execTrainingRestart at eK
  (try dsimp only at eK)
  repeat' split at eK
  all_goals (injection eK with eK; subst eK)
  all_goals simp (maxDischargeDepth := 60) [*]

theorem execFecLock_keeps {r0 : State} (l : Fin 48) (s : State) {tK : State} (hK : Keeps r0 s) (eK : execFecLock l s = .next tK) : Keeps r0 tK := by
  unfold execFecLock at eK
  (try dsimp only at eK)
  repeat' split at eK
  all_goals (injection eK with eK; subst eK)
  all_goals simp (maxDischargeDepth := 60) [*]

@[simp] theorem State.takeHello_keeps {r0 : State} (s : State) (l : Nat) (bs : List Nat) (hK : Keeps r0 s) : Keeps r0 (State.takeHello s l bs) := by simp (maxDischargeDepth := 60) [State.takeHello, *]

theorem execHello_keeps {r0 : State} (l : Fin 48) (f : Frame) (s : State) {tK : State} (hK : Keeps r0 s) (eK : execHello l f s = .next tK) : Keeps r0 tK := by
  unfold execHello at eK
  all_goals (rw [← frameCmd_next eK])
  all_goals simp +contextual (maxDischargeDepth := 60) [*]

@[simp] theorem State.agree_keeps {r0 : State} (s : State) (l : Nat) (hK : Keeps r0 s) : Keeps r0 (State.agree s l) := by simp (maxDischargeDepth := 60) [State.agree, *]

@[simp] theorem State.takeObject_keeps {r s : State} (l ty : Nat) (f : Frame) (legal : Nat → Bool) (h : Keeps r s) : Keeps r (s.takeObject l ty f legal).2.2 := by
  unfold State.takeObject; dsimp only
  repeat' split
  all_goals simp [h]

@[simp] theorem State.onObject_keeps {r s : State} (l ty : Nat) (f : Frame) (legal : Nat → Bool) {act : State → List Nat → State} (ha : ∀ s bs, Keeps r s → Keeps r (act s bs)) (h : Keeps r s) : Keeps r (s.onObject l ty f legal act) := by
  unfold State.onObject
  have ht := State.takeObject_keeps l ty f legal h
  split
  · next e => rw [e] at ht; exact State.malformed_keeps _ _ ht
  · next e => rw [e] at ht; exact ht
  · next e => rw [e] at ht; exact ha _ _ ht

@[simp] theorem State.takeChain_keeps {r0 : State} (s : State) (l : Nat) (bs : List Nat) (hK : Keeps r0 s) : Keeps r0 (State.takeChain s l bs) := by
  unfold State.takeChain
  dsimp only
  repeat' split
  all_goals simp (maxDischargeDepth := 60) [*]

theorem execCert_keeps {r0 : State} (l : Fin 48) (f : Frame) (s : State) {tK : State} (hK : Keeps r0 s) (eK : execCert l f s = .next tK) : Keeps r0 tK := by
  unfold execCert at eK
  all_goals (rw [← frameCmd_next eK])
  all_goals simp +contextual (maxDischargeDepth := 60) [*]

@[simp] theorem State.takeEk_keeps {r0 : State} (s : State) (l : Nat) (bs : List Nat) (hK : Keeps r0 s) : Keeps r0 (State.takeEk s l bs) := by simp (maxDischargeDepth := 60) [State.takeEk, *]

theorem execKemEk_keeps {r0 : State} (l : Fin 48) (f : Frame) (s : State) {tK : State} (hK : Keeps r0 s) (eK : execKemEk l f s = .next tK) : Keeps r0 tK := by
  unfold execKemEk at eK
  (try dsimp only at eK)
  all_goals (rw [← frameCmd_next eK])
  all_goals simp +contextual (maxDischargeDepth := 60) [*]

theorem execKemCt_keeps {r0 : State} (l : Fin 48) (f : Frame) (s : State) {tK : State} (hK : Keeps r0 s) (eK : execKemCt l f s = .next tK) : Keeps r0 tK := by
  unfold execKemCt at eK
  (try dsimp only at eK)
  all_goals (rw [← frameCmd_next eK])
  all_goals simp +contextual (maxDischargeDepth := 60) [*]

@[simp] theorem State.sendFinish_keeps {r0 : State} (s : State) (l : Nat) (hK : Keeps r0 s) : Keeps r0 (State.sendFinish s l) := by simp (maxDischargeDepth := 60) [State.sendFinish, *]

@[simp] theorem State.enterService_keeps {r0 : State} (s : State) (l : Nat) (hK : Keeps r0 s) : Keeps r0 (State.enterService s l) := by
  unfold State.enterService
  (try dsimp only)
  repeat' split
  all_goals simp +contextual (maxDischargeDepth := 60) [*]

theorem execAuthSigned_keeps {r0 : State} (l : Fin 48) (s : State) {tK : State} (hK : Keeps r0 s) (eK : execAuthSigned l s = .next tK) : Keeps r0 tK := by
  unfold execAuthSigned at eK
  repeat' split at eK
  all_goals (injection eK with eK; subst eK)
  all_goals simp (maxDischargeDepth := 60) [*]

theorem execAuth_keeps {r0 : State} (l : Fin 48) (f : Frame) (s : State) {tK : State} (hK : Keeps r0 s) (eK : execAuth l f s = .next tK) : Keeps r0 tK := by
  unfold execAuth at eK
  (try dsimp only at eK)
  all_goals (rw [← frameCmd_next eK])
  all_goals simp +contextual (maxDischargeDepth := 60) [*]

theorem execFinish_keeps {r0 : State} (l : Fin 48) (f : Frame) (s : State) {tK : State} (hK : Keeps r0 s) (eK : execFinish l f s = .next tK) : Keeps r0 tK := by
  unfold execFinish at eK
  (try dsimp only at eK)
  all_goals (rw [← frameCmd_next eK])
  all_goals simp +contextual (maxDischargeDepth := 60) [*]

@[simp] theorem State.certDone_keeps {r0 : State} (s : State) (l i : Nat) (hK : Keeps r0 s) : Keeps r0 (State.certDone s l i) := by
  unfold State.certDone
  dsimp only
  repeat' split
  all_goals simp (maxDischargeDepth := 60) [*]

@[simp] theorem State.authDone_keeps {r0 : State} (s : State) (l : Nat) (hK : Keeps r0 s) : Keeps r0 (State.authDone s l) := by simp (maxDischargeDepth := 60) [State.authDone, *]

theorem execVerificationDone_keeps {r0 : State} (s : State) {tK : State} (hK : Keeps r0 s) (eK : execVerificationDone s = .next tK) : Keeps r0 tK := by
  unfold execVerificationDone at eK
  repeat' split at eK
  all_goals (injection eK with eK; subst eK)
  all_goals simp (maxDischargeDepth := 60) [*]

theorem execHandshakeTimeout_keeps {r0 : State} (l : Fin 48) (s : State) {tK : State} (hK : Keeps r0 s) (eK : execHandshakeTimeout l s = .next tK) : Keeps r0 tK := by
  unfold execHandshakeTimeout at eK
  (try dsimp only at eK)
  repeat' split at eK
  all_goals (injection eK with eK; subst eK)
  all_goals simp (maxDischargeDepth := 60) [*]

theorem execHandshakeRefusedRetry_keeps {r0 : State} (l : Fin 48) (s : State) {tK : State} (hK : Keeps r0 s) (eK : execHandshakeRefusedRetry l s = .next tK) : Keeps r0 tK := by
  unfold execHandshakeRefusedRetry at eK
  (try dsimp only at eK)
  repeat' split at eK
  all_goals (injection eK with eK; subst eK)
  all_goals simp (maxDischargeDepth := 60) [*]

theorem execRekeyStart_keeps {r0 : State} (l : Fin 48) (s : State) {tK : State} (hK : Keeps r0 s) (eK : execRekeyStart l s = .next tK) : Keeps r0 tK := by
  unfold execRekeyStart at eK
  (try dsimp only at eK)
  repeat' split at eK
  all_goals (injection eK with eK; subst eK)
  all_goals simp (maxDischargeDepth := 60) [*]

theorem execRekeyTimeout_keeps {r0 : State} (l : Fin 48) (s : State) {tK : State} (hK : Keeps r0 s) (eK : execRekeyTimeout l s = .next tK) : Keeps r0 tK := by
  unfold execRekeyTimeout at eK
  (try dsimp only at eK)
  repeat' split at eK
  all_goals (injection eK with eK; subst eK)
  all_goals simp (maxDischargeDepth := 60) [*]

theorem execLivenessTimeout_keeps {r0 : State} (l : Fin 48) (s : State) {tK : State} (hK : Keeps r0 s) (eK : execLivenessTimeout l s = .next tK) : Keeps r0 tK := by
  unfold execLivenessTimeout at eK
  (try dsimp only at eK)
  repeat' split at eK
  all_goals (injection eK with eK; subst eK)
  all_goals simp (maxDischargeDepth := 60) [*]

theorem execFecUncorrLimit_keeps {r0 : State} (l : Fin 48) (n : Nat) (s : State) {tK : State} (hK : Keeps r0 s) (eK : execFecUncorrLimit l n s = .next tK) : Keeps r0 tK := by
  unfold execFecUncorrLimit at eK
  (try dsimp only at eK)
  repeat' split at eK
  all_goals (injection eK with eK; subst eK)
  all_goals simp (maxDischargeDepth := 60) [*]

theorem execReplayNoProgress_keeps {r0 : State} (l : Fin 48) (s : State) {tK : State} (hK : Keeps r0 s) (eK : execReplayNoProgress l s = .next tK) : Keeps r0 tK := by
  unfold execReplayNoProgress at eK
  (try dsimp only at eK)
  repeat' split at eK
  all_goals (injection eK with eK; subst eK)
  all_goals simp (maxDischargeDepth := 60) [*]

theorem execCreditStall_keeps {r0 : State} (l : Fin 48) (cls : Fin 3) (s : State) {tK : State} (hK : Keeps r0 s) (eK : execCreditStall l cls s = .next tK) : Keeps r0 tK := by
  unfold execCreditStall at eK
  (try dsimp only at eK)
  repeat' split at eK
  all_goals (injection eK with eK; subst eK)
  all_goals simp (maxDischargeDepth := 60) [*]

theorem execSlowExit_keeps {r0 : State} (l : Fin 48) (s : State) {tK : State} (hK : Keeps r0 s) (eK : execSlowExit l s = .next tK) : Keeps r0 tK := by
  unfold execSlowExit at eK
  (try dsimp only at eK)
  repeat' split at eK
  all_goals (injection eK with eK; subst eK)
  all_goals simp (maxDischargeDepth := 60) [*]

theorem execQuarantineHoldExpiry_keeps {r0 : State} (l : Fin 48) (s : State) {tK : State} (hK : Keeps r0 s) (eK : execQuarantineHoldExpiry l s = .next tK) : Keeps r0 tK := by
  unfold execQuarantineHoldExpiry at eK
  (try dsimp only at eK)
  repeat' split at eK
  all_goals (injection eK with eK; subst eK)
  all_goals simp (maxDischargeDepth := 60) [*]

@[simp] theorem State.retrain_keeps {r0 : State} (s : State) (l : Nat) (hK : Keeps r0 s) : Keeps r0 (State.retrain s l) := by simp (maxDischargeDepth := 60) [State.retrain, *]

@[simp] theorem State.linkControl_keeps {r0 : State} (s : State) (l v : Nat) (hK : Keeps r0 s) : Keeps r0 (State.linkControl s l v) := by simp (maxDischargeDepth := 60) [State.linkControl, *]

@[simp] theorem State.modLanding_keeps {r0 : State} (s : State) (w : Nat) (f : Landing → Landing) (hK : Keeps r0 s) : Keeps r0 (State.modLanding s w f) := by simp (maxDischargeDepth := 60) [State.modLanding, *]

@[simp] theorem State.outWindow_keeps {r0 : State} (s : State) (l : Nat) (hK : Keeps r0 s) : Keeps r0 (State.outWindow s l) := by simp (maxDischargeDepth := 60) [State.outWindow, *]

@[simp] theorem State.collCount_keeps {r0 : State} (s : State) (w l n : Nat) (hK : Keeps r0 s) : Keeps r0 (State.collCount s w l n) := by 
  unfold State.collCount
  dsimp only
  split
  · exact hK
  · split
    · split
      · exact foldl_keeps (fun s x h => State.pegOp_keeps _ _ _ _ _ h) _ (State.modLanding_keeps _ _ _ hK)
      · simp [hK]
    · simp [hK]

@[simp] theorem State.landWrite_keeps {r s : State} (l w off : Nat) (bs : List Nat) (h : Keeps r s) : Keeps r (s.landWrite l w off bs) := by
  unfold State.landWrite; dsimp only
  repeat' split
  all_goals first
    | (have := State.writeDev_some (by assumption) (State.wake_keeps _ h); simp [this])
    | simp [h]

theorem execWrite_keeps {r0 : State} (l : Fin 48) (f : Frame) (s : State) {tK : State} (hK : Keeps r0 s) (eK : execWrite l f s = .next tK) : Keeps r0 tK := by
  unfold execWrite at eK
  (try dsimp only at eK)
  all_goals (rw [← frameCmd_next eK])
  all_goals simp +contextual (maxDischargeDepth := 60) [*]

@[simp] theorem State.revoke_keeps {r0 : State} (s : State) (w : Nat) (hK : Keeps r0 s) : Keeps r0 (State.revoke s w) := by
  unfold State.revoke
  (try dsimp only)
  repeat' split
  all_goals simp +contextual (maxDischargeDepth := 60) [*]

theorem execWindowRevoke_keeps {r0 : State} (id : BitVec 8) (s : State) {tK : State} (hK : Keeps r0 s) (eK : execWindowRevoke id s = .next tK) : Keeps r0 tK := by
  unfold execWindowRevoke at eK
  repeat' split at eK
  all_goals (injection eK with eK; subst eK)
  all_goals simp (maxDischargeDepth := 60) [*]

@[simp] theorem State.tellGrant_keeps {r0 : State} (s : State) (l w kind size : Nat) (hK : Keeps r0 s) : Keeps r0 (State.tellGrant s l w kind size) := by simp (maxDischargeDepth := 60) [State.tellGrant, *]

@[simp] theorem State.revokeAck_keeps {r0 : State} (s : State) (l w : Nat) (hK : Keeps r0 s) : Keeps r0 (State.revokeAck s l w) := by simp (maxDischargeDepth := 60) [State.revokeAck, *]

theorem execRevokeAck_keeps {r0 : State} (l : Fin 48) (f : Frame) (s : State) {tK : State} (hK : Keeps r0 s) (eK : execRevokeAck l f s = .next tK) : Keeps r0 tK := by
  unfold execRevokeAck at eK
  all_goals (rw [← frameCmd_next eK])
  all_goals simp +contextual (maxDischargeDepth := 60) [*]

theorem execRevokeGraceExpiry_keeps {r0 : State} (id : BitVec 8) (s : State) {tK : State} (hK : Keeps r0 s) (eK : execRevokeGraceExpiry id s = .next tK) : Keeps r0 tK := by
  unfold execRevokeGraceExpiry at eK
  (try dsimp only at eK)
  repeat' split at eK
  all_goals (injection eK with eK; subst eK)
  all_goals simp (maxDischargeDepth := 60) [*]

@[simp] theorem State.partnerRevoke_keeps {r0 : State} (s : State) (l w : Nat) (hK : Keeps r0 s) : Keeps r0 (State.partnerRevoke s l w) := by simp (maxDischargeDepth := 60) [State.partnerRevoke, *]

theorem execWindowGrant_keeps {r0 : State} (l : Fin 48) (f : Frame) (s : State) {tK : State} (hK : Keeps r0 s) (eK : execWindowGrant l f s = .next tK) : Keeps r0 tK := by
  unfold execWindowGrant at eK
  (try dsimp only at eK)
  all_goals (rw [← frameCmd_next eK])
  all_goals simp +contextual (maxDischargeDepth := 60) [*]

@[simp] theorem State.grantColl_keeps {r0 : State} (s : State) (g : CollGrant) (hK : Keeps r0 s) : Keeps r0 (State.grantColl s g) := by
  unfold State.grantColl
  (try dsimp only)
  repeat' split
  all_goals simp +contextual (maxDischargeDepth := 60) [*]

theorem execAccept_keeps {r0 : State} (l : Fin 48) (f : Frame) (s : State) {tK : State} (hK : Keeps r0 s) (eK : execAccept l f s = .next tK) : Keeps r0 tK := by
  unfold execAccept at eK
  (try dsimp only at eK)
  all_goals (rw [← frameCmd_next eK])
  all_goals simp +contextual (maxDischargeDepth := 60) [*]

@[simp] theorem State.dropShip_keeps {r0 : State} (s : State) (x : Shipment) (ok : Bool) (reason : Option Nat) (hK : Keeps r0 s) : Keeps r0 (State.dropShip s x ok reason) := by
  unfold State.dropShip
  (try dsimp only)
  repeat' split
  all_goals simp +contextual (maxDischargeDepth := 60) [*]

@[simp] theorem State.endShip_keeps {r0 : State} (s : State) (x : Shipment) (code : Nat) (reason : Option Nat) (hK : Keeps r0 s) : Keeps r0 (State.endShip s x code reason) := by
  unfold State.endShip
  dsimp only
  repeat' split
  all_goals simp (maxDischargeDepth := 60) [*]

@[simp] theorem State.endSoon_keeps {r0 : State} (s : State) (r : Req) (code : Nat) (hK : Keeps r0 s) : Keeps r0 (State.endSoon s r code) := by
  unfold State.endSoon
  repeat' split
  all_goals simp (maxDischargeDepth := 60) [*]

theorem State.owners_else_keeps {r s : State} (a z : Nat) (o w : Option Nat) (ls : List Nat) (h : Keeps r s) :
    Keeps r (if z ≤ a then (ls, s)
      else match o with
        | some p =>
          ((s.serve.reqs.filter (fun r => r.admitted && (s.sess r.sess).pages.contains p)).map (fun r => r.rid), if (s.page p).state = .vine then s.removeNode p else s)
        | none => match w with
          | some k => (((s.serve.reqs.filter (fun r => r.inPass && r.desc.mslot == k)).map (fun r => r.rid)),
              s.modInteg (fun g => { g with poisonedSlots := if g.poisonedSlots.contains k then g.poisonedSlots else g.poisonedSlots ++ [k] }))
          | none => (ls, s)).2 := by
  repeat' split
  all_goals simp [h]

@[simp] theorem State.owners_keeps {r s : State} (a : Nat) (h : Keeps r s) : Keeps r (s.owners a).2 :=
  State.owners_else_keeps a 0x2400000000 (s.pageAt a) (s.weightsOf a) ((s.serve.reqs.filter (fun r : Req => r.inPass)).map (fun r : Req => r.rid)) h

@[simp] theorem State.endOwners_keeps {r0 : State} (s : State) (t : Option Nat) (rids : List Nat) (code : Nat) (hK : Keeps r0 s) : Keeps r0 (State.endOwners s t rids code) := by
  unfold State.endOwners
  refine foldl_keeps ?_ _ ?_
  · intro s x hK
    repeat' split
    all_goals simp (maxDischargeDepth := 60) [*]
  · simp (maxDischargeDepth := 60) [*]

@[simp] theorem State.linkPoison_keeps {r0 : State} (s : State) (l a code : Nat) (hK : Keeps r0 s) : Keeps r0 (State.linkPoison s l a code) := by simp (maxDischargeDepth := 60) [State.linkPoison, *]

@[simp] theorem State.sendColls_keeps {r0 : State} (s : State) (hK : Keeps r0 s) : Keeps r0 (State.sendColls s) := by
  unfold State.sendColls
  (try dsimp only)
  refine foldl_keeps ?_ _ ?_
  · intro s x hK
    (try dsimp only)
    repeat' split
    all_goals simp (maxDischargeDepth := 60) [*]
  · simp (maxDischargeDepth := 60) [*]

@[simp] theorem State.offerNext_keeps {r0 : State} (s : State) (x : Shipment) (hK : Keeps r0 s) : Keeps r0 (State.offerNext s x) := by
  unfold State.offerNext
  dsimp only
  repeat' split
  all_goals simp (maxDischargeDepth := 60) [*]

@[simp] theorem State.tagShip_keeps {r : State} (s : State) (x : Shipment) (h : Keeps r s) : Keeps r (s.tagShip x) := by
  unfold State.tagShip; dsimp only
  split
  · exact State.offerNext_keeps _ _ (State.modShip_keeps _ _ _ (foldl_keeps (fun s p h => State.pin_keeps _ _ _ h) _ (State.drawEpoch_keeps _ h)))
  · exact h

@[simp] theorem State.startShip_keeps {r s : State} (q : Req) (h : Keeps r s) : Keeps r (s.startShip q) := by
  unfold State.startShip; dsimp only
  split
  · simp [h]
  · next e =>
    have ht := State.takeAll_some e (State.closeVat_keeps q.sess h)
    exact State.tagShip_keeps _ _ (State.modReq_keeps _ _ _ (State.modLGlob_keeps _ _ ht))

@[simp] theorem State.shipMsg_keeps {r0 : State} (s : State) (l id : Nat) (act : State → Shipment → Bool → State) (hact : ∀ x0 x1 x2, Keeps r0 x0 → Keeps r0 (act x0 x1 x2)) (hK : Keeps r0 s) : Keeps r0 (State.shipMsg s l id act) := by
  unfold State.shipMsg
  dsimp only
  repeat' split
  all_goals simp (maxDischargeDepth := 60) [*]

theorem shipCmd_keeps {r s t : State} {ty : Nat} {l : Fin 48} {f : Frame} {act : State → Shipment → Bool → State} (ha : ∀ s x b, Keeps r s → Keeps r (act s x b)) (h : Keeps r s) (e : shipCmd ty l f s act = .next t) : Keeps r t := by
  unfold shipCmd at e
  rw [← frameCmd_next e]
  exact State.receiveIn_keeps _ _ _ _ _ (fun s hs => State.shipMsg_keeps _ _ _ _ (fun s x b h => ha s x b h) hs) h

theorem execLinkFrameMalformed_keeps {r0 : State} (l : Fin 48) (f : Frame) (s : State) {tK : State} (hK : Keeps r0 s) (eK : execLinkFrameMalformed l f s = .next tK) : Keeps r0 tK := by
  unfold execLinkFrameMalformed at eK
  extract_lets ty at eK
  split at eK
  · split at eK
    · injection eK with eK; rw [← eK]
      exact State.receiveIn_keeps _ _ _ _ _ (fun u h => State.partnerRevoke_keeps u _ _ h) hK
    · split at eK
      · injection eK with eK; rw [← eK]
        exact State.receiveIn_keeps _ _ _ _ _ (fun u h => State.shipMsg_keeps u _ _ _ (fun v _ _ h => h) h) hK
      · injection eK with eK; rw [← eK]; exact hK
  · injection eK with eK; rw [← eK]
    exact State.receive_keeps _ _ _ _ (fun u h => h) hK

@[simp] theorem State.shipGrant_keeps {r0 : State} (s : State) (l id window off4k : Nat) (hK : Keeps r0 s) : Keeps r0 (State.shipGrant s l id window off4k) := by
  unfold State.shipGrant
  split
  · simp [hK]
  · refine State.shipMsg_keeps s l id _ (fun s x b h => ?_) hK
    dsimp only
    split
    · exact h
    · split
      all_goals simp [h]

theorem execShipGrant_keeps {r0 : State} (l : Fin 48) (f : Frame) (s : State) {tK : State} (hK : Keeps r0 s) (eK : execShipGrant l f s = .next tK) : Keeps r0 tK := by
  unfold execShipGrant at eK
  (try dsimp only at eK)
  repeat' split at eK
  all_goals (rw [← frameCmd_next eK])
  all_goals simp +contextual (maxDischargeDepth := 60) [*]

@[simp] theorem State.moveOffer_keeps {r0 : State} (s : State) (x : Shipment) (hK : Keeps r0 s) : Keeps r0 (State.moveOffer s x) := by simp (maxDischargeDepth := 60) [State.moveOffer, *]

theorem execShipRefuse_keeps {r0 : State} (l : Fin 48) (f : Frame) (s : State) {tK : State} (hK : Keeps r0 s) (eK : execShipRefuse l f s = .next tK) : Keeps r0 tK := by
  unfold execShipRefuse at eK
  refine shipCmd_keeps (fun s x b h => ?_) hK eK
  repeat' split
  all_goals simp +contextual (maxDischargeDepth := 60) [*]

theorem execShipOfferTimeout_keeps {r0 : State} (id : BitVec 32) (s : State) {tK : State} (hK : Keeps r0 s) (eK : execShipOfferTimeout id s = .next tK) : Keeps r0 tK := by
  unfold execShipOfferTimeout at eK
  repeat' split at eK
  all_goals (injection eK with eK; subst eK)
  all_goals first
    | exact hK
    | exact State.tagShip_keeps _ _ hK
    | exact State.moveOffer_keeps _ _ hK

theorem execShipNack_keeps {r0 : State} (l : Fin 48) (f : Frame) (s : State) {tK : State} (hK : Keeps r0 s) (eK : execShipNack l f s = .next tK) : Keeps r0 tK := by
  unfold execShipNack at eK
  refine shipCmd_keeps (fun s x b h => ?_) hK eK
  (try dsimp only)
  repeat' split
  all_goals simp +contextual (maxDischargeDepth := 60) [*]

theorem execShipDone_keeps {r0 : State} (l : Fin 48) (f : Frame) (s : State) {tK : State} (hK : Keeps r0 s) (eK : execShipDone l f s = .next tK) : Keeps r0 tK := by
  unfold execShipDone at eK
  refine shipCmd_keeps (fun s x b h => ?_) hK eK
  repeat' split
  all_goals simp +contextual (maxDischargeDepth := 60) [*]

theorem execShipAbort_keeps {r0 : State} (l : Fin 48) (f : Frame) (s : State) {tK : State} (hK : Keeps r0 s) (eK : execShipAbort l f s = .next tK) : Keeps r0 tK := by
  unfold execShipAbort at eK
  refine shipCmd_keeps (fun s x b h => ?_) hK eK
  repeat' split
  all_goals simp +contextual (maxDischargeDepth := 60) [*]

theorem execShipOffer_keeps {r0 : State} (l : Fin 48) (f : Frame) (s : State) {tK : State} (hK : Keeps r0 s) (eK : execShipOffer l f s = .next tK) : Keeps r0 tK := by
  unfold execShipOffer at eK
  all_goals (rw [← frameCmd_next eK])
  all_goals simp +contextual (maxDischargeDepth := 60) [*]

theorem execShipLimitExpiry_keeps {r0 : State} (id : BitVec 32) (s : State) {tK : State} (hK : Keeps r0 s) (eK : execShipLimitExpiry id s = .next tK) : Keeps r0 tK := by
  unfold execShipLimitExpiry at eK
  repeat' split at eK
  all_goals (injection eK with eK; subst eK)
  all_goals simp (maxDischargeDepth := 60) [*]

@[simp] theorem State.failLoad_keeps {r0 : State} (s : State) (k code : Nat) (hK : Keeps r0 s) : Keeps r0 (State.failLoad s k code) := by
  unfold State.failLoad
  (try dsimp only)
  repeat' split
  all_goals simp +contextual (maxDischargeDepth := 60) [*]

@[simp] theorem State.beginFetch_keeps {r0 : State} (s : State) (k : Nat) (hK : Keeps r0 s) : Keeps r0 (State.beginFetch s k) := by
  unfold State.beginFetch
  (try dsimp only)
  repeat' split
  all_goals simp +contextual (maxDischargeDepth := 60) [*]

@[simp] theorem State.nextFetch_keeps {r : State} (n : Nat) {s : State} (h : Keeps r s) : Keeps r (State.nextFetch n s) := by
  induction n generalizing s with
  | zero => exact h
  | succ n ih =>
    unfold State.nextFetch
    split
    · exact ih (by simp (maxDischargeDepth := 60) [h])
    · exact h

@[simp] theorem State.queueFetch_keeps {r0 : State} (s : State) (k : Nat) (hK : Keeps r0 s) : Keeps r0 (State.queueFetch s k) := by simp (maxDischargeDepth := 60) [State.queueFetch, *]

@[simp] theorem State.endFetch_keeps {r0 : State} (s : State) (ok : Bool) (hK : Keeps r0 s) : Keeps r0 (State.endFetch s ok) := by
  unfold State.endFetch
  dsimp only
  repeat' split
  all_goals simp (maxDischargeDepth := 60) [*]

@[simp] theorem State.assignStripes_keeps {r0 : State} (s : State) (f : Fetch) (hK : Keeps r0 s) : Keeps r0 (State.assignStripes s f) := by
  unfold State.assignStripes
  (try dsimp only)
  repeat' split
  all_goals simp +contextual (maxDischargeDepth := 60) [*]

@[simp] theorem State.modelAnswer_keeps {r0 : State} (s : State) (l : Nat) (has : Bool) (hK : Keeps r0 s) : Keeps r0 (State.modelAnswer s l has) := by
  unfold State.modelAnswer
  repeat' split
  all_goals simp (maxDischargeDepth := 60) [*]

theorem execModelHave_keeps {r0 : State} (l : Fin 48) (f : Frame) (s : State) {tK : State} (hK : Keeps r0 s) (eK : execModelHave l f s = .next tK) : Keeps r0 tK := by
  unfold execModelHave at eK
  all_goals (rw [← frameCmd_next eK])
  all_goals simp +contextual (maxDischargeDepth := 60) [*]

theorem execModelNone_keeps {r0 : State} (l : Fin 48) (f : Frame) (s : State) {tK : State} (hK : Keeps r0 s) (eK : execModelNone l f s = .next tK) : Keeps r0 tK := by
  unfold execModelNone at eK
  all_goals (rw [← frameCmd_next eK])
  all_goals simp +contextual (maxDischargeDepth := 60) [*]

theorem execModelReplyTimeout_keeps {r0 : State} (l : Fin 48) (s : State) {tK : State} (hK : Keeps r0 s) (eK : execModelReplyTimeout l s = .next tK) : Keeps r0 tK := by
  unfold execModelReplyTimeout at eK
  repeat' split at eK
  all_goals (injection eK with eK; subst eK)
  all_goals simp (maxDischargeDepth := 60) [*]

@[simp] theorem State.stripeDone_keeps {r0 : State} (s : State) (l w off crc : Nat) (hK : Keeps r0 s) : Keeps r0 (State.stripeDone s l w off crc) := by
  unfold State.stripeDone
  dsimp only
  repeat' split
  all_goals simp (maxDischargeDepth := 60) [*]

theorem execModelDone_keeps {r0 : State} (l : Fin 48) (f : Frame) (s : State) {tK : State} (hK : Keeps r0 s) (eK : execModelDone l f s = .next tK) : Keeps r0 tK := by
  unfold execModelDone at eK
  (try dsimp only at eK)
  all_goals (rw [← frameCmd_next eK])
  all_goals simp +contextual (maxDischargeDepth := 60) [*]

theorem execModelLimitExpiry_keeps {r0 : State} (k : Fin 4) (s : State) {tK : State} (hK : Keeps r0 s) (eK : execModelLimitExpiry k s = .next tK) : Keeps r0 tK := by
  unfold execModelLimitExpiry at eK
  repeat' split at eK
  all_goals (injection eK with eK; subst eK)
  all_goals simp (maxDischargeDepth := 60) [*]

theorem execModelReq_keeps {r s t : State} (l : Fin 48) (f : Frame) (h : Keeps r s) (e : execModelReq l f s = .next t) : Keeps r t := by
  unfold execModelReq at e
  rw [← frameCmd_next e]
  refine State.receiveIn_keeps _ _ _ _ _ (fun u hu => ?_) h
  dsimp only
  repeat' split
  all_goals simp [hu]

@[simp] theorem State.serveStripe_keeps {r0 : State} (s : State) (l w off n : Nat) (hK : Keeps r0 s) : Keeps r0 (State.serveStripe s l w off n) := by
  unfold State.serveStripe
  dsimp only
  repeat' split
  all_goals simp (maxDischargeDepth := 60) [*]

theorem execModelStripe_keeps {r0 : State} (l : Fin 48) (f : Frame) (s : State) {tK : State} (hK : Keeps r0 s) (eK : execModelStripe l f s = .next tK) : Keeps r0 tK := by
  unfold execModelStripe at eK
  (try dsimp only at eK)
  all_goals (rw [← frameCmd_next eK])
  all_goals simp +contextual (maxDischargeDepth := 60) [*]

@[simp] theorem State.intake_keeps {r0 : State} (s : State) (p : Port) (n : Nat) (e : BitVec 256) (act : State → State) (hact : ∀ x0, Keeps r0 x0 → Keeps r0 (act x0)) (hK : Keeps r0 s) : Keeps r0 (State.intake s p n e act) := by simp (maxDischargeDepth := 60) [State.intake, *]

theorem entryCmd_next {op : Nat} {b : BitVec 256} {s t : State} (e : entryCmd op b s = .next t) : s = t := by
  unfold entryCmd at e; split at e
  · injection e
  · cases e

theorem execIntakeIllegalOpcode_keeps {r0 : State} (p : Port) (n : Fin 16) (e : BitVec 256) (s : State) {tK : State} (hK : Keeps r0 s) (eK : execIntakeIllegalOpcode p n e s = .next tK) : Keeps r0 tK := by
  unfold execIntakeIllegalOpcode at eK
  repeat' split at eK
  all_goals (first | (injection eK with eK; subst eK) | contradiction)
  all_goals simp +contextual (maxDischargeDepth := 60) [*]

@[simp] theorem State.refuseReq_keeps {r0 : State} (s : State) (r : Req) (code : Nat) (hK : Keeps r0 s) : Keeps r0 (State.refuseReq s r code) := by simp (maxDischargeDepth := 60) [State.refuseReq, *]

theorem State.openSession_some {r s t : State} {q : Req} {i : Nat} (e : s.openSession q = some (i, t)) (h : Keeps r s) : Keeps r t := by
  unfold State.openSession at e; dsimp only at e
  repeat' split at e
  · simp only [Option.map_eq_some_iff] at e
    obtain ⟨w, -, e⟩ := e
    injection e with e1 e; subst e; simp [h]
  · cases e
  · next e2 => injection e with e; injection e with e1 e; subst e; simp [State.takeAll_some e2 h]
  · cases e
  · injection e with e; injection e with e1 e; subst e; simp [h]
  · injection e with e; injection e with e1 e; subst e; simp [h]

@[simp] theorem State.letIn_keeps {r s : State} (q : Req) (h : Keeps r s) : Keeps r (s.letIn q) := by
  unfold State.letIn
  dsimp only
  split
  · exact State.refuseReq_keeps _ _ _ h
  · split
    · split
      · exact State.modServe_keeps _ _ h
      · exact State.refuseReq_keeps _ _ _ h
    · split
      · exact State.refuseReq_keeps _ _ _ h
      · next e =>
        have h1 := State.openSession_some e h
        refine State.count_keeps _ _ (State.modServe_keeps _ _ ?_)
        split
        · exact State.modServe_keeps _ _ (by simp [h1])
        · simp [h1]

@[simp] theorem State.enter_keeps {r0 : State} (s : State) (r : Req) (hK : Keeps r0 s) : Keeps r0 (State.enter s r) := by simp (maxDischargeDepth := 60) [State.enter, *]

@[simp] theorem State.readRequest_keeps {r0 : State} (s : State) (p : Port) (n : Nat) (e : BitVec 256) (hK : Keeps r0 s) : Keeps r0 (State.readRequest s p n e) := by
  unfold State.readRequest
  dsimp only
  repeat' split
  all_goals simp (maxDischargeDepth := 60) [*]

theorem execRequest_keeps {r0 : State} (p : Port) (n : Fin 16) (e : BitVec 256) (host : Cells) (s : State) {tK : State} (hK : Keeps r0 s) (eK : execRequest p n e host s = .next tK) : Keeps r0 tK := by
  unfold execRequest at eK
  all_goals (rw [← entryCmd_next eK])
  all_goals simp +contextual (maxDischargeDepth := 60) [*]

@[simp] theorem State.recheck_keeps {r0 : State} (s : State) (l : List Req) (hK : Keeps r0 s) : Keeps r0 (State.recheck s l) := by
  unfold State.recheck
  refine foldl_keeps ?_ _ ?_
  · intro s x hK
    repeat' split
    all_goals simp (maxDischargeDepth := 60) [*]
  · simp (maxDischargeDepth := 60) [*]

theorem execStakeIntervalStart_keeps {r0 : State} (k : BitVec 12) (s : State) {tK : State} (hK : Keeps r0 s) (eK : execStakeIntervalStart k s = .next tK) : Keeps r0 tK := by
  unfold execStakeIntervalStart at eK
  (try dsimp only at eK)
  repeat' split at eK
  all_goals (injection eK with eK; subst eK)
  all_goals simp (maxDischargeDepth := 60) [*]

theorem execVineWalk_keeps {r0 : State} (i : Nat) (ahead : Fin 16) (s : State) {tK : State} (hK : Keeps r0 s) (eK : execVineWalk i ahead s = .next tK) : Keeps r0 tK := by
  unfold execVineWalk at eK
  split at eK
  · injection eK with eK; rw [← eK]; exact hK
  · split at eK
    · injection eK with eK; rw [← eK]; exact hK
    · extract_lets d w all kept t s1 s2 at eK
      have h2 : Keeps r0 s2 := by
        refine State.modSess_keeps _ _ _ (foldl_keeps (fun s p h => State.release_keeps _ _ h) _ ?_)
        exact State.walk_keeps _ _ _ _ _ _ _ _ (State.wake_keeps _ hK)
      clear_value s2 w all kept t
      split at eK
      · injection eK with eK; rw [← eK]; exact State.endReq_keeps _ _ _ _ h2
      · injection eK with eK; rw [← eK]; exact State.modReq_keeps _ _ _ (State.adjust_keeps _ _ _ h2)

@[simp] theorem State.cancel_keeps {r0 : State} (s : State) (p : Port) (n : Nat) (e : BitVec 256) (hK : Keeps r0 s) : Keeps r0 (State.cancel s p n e) := by
  unfold State.cancel
  repeat' split
  all_goals simp (maxDischargeDepth := 60) [*]

theorem execCancel_keeps {r0 : State} (p : Port) (n : Fin 16) (e : BitVec 256) (ahead : Nat) (s : State) {tK : State} (hK : Keeps r0 s) (eK : execCancel p n e ahead s = .next tK) : Keeps r0 tK := by
  unfold execCancel at eK
  (try dsimp only at eK)
  repeat' split at eK
  all_goals (rw [← entryCmd_next eK])
  all_goals simp +contextual (maxDischargeDepth := 60) [*]

theorem execStakeLoad_keeps {r0 : State} (p : Port) (n : Fin 16) (e : BitVec 256) (host : Cells) (s : State) {tK : State} (hK : Keeps r0 s) (eK : execStakeLoad p n e host s = .next tK) : Keeps r0 tK := by
  unfold execStakeLoad at eK
  (try dsimp only at eK)
  all_goals (rw [← entryCmd_next eK])
  all_goals repeat' (first | assumption | (intro _ _ _) | (intro _ _) | split | apply State.intake_keeps | apply State.receiveIn_keeps | apply State.receive_keeps | apply State.onObject_keeps | apply State.tap_keeps | apply State.smbus_keeps | apply foldl_keeps | simp +contextual (maxDischargeDepth := 60) [*])

theorem execDomainLoad_keeps {r0 : State} (p : Port) (n : Fin 16) (e : BitVec 256) (host : Cells) (s : State) {tK : State} (hK : Keeps r0 s) (eK : execDomainLoad p n e host s = .next tK) : Keeps r0 tK := by
  unfold execDomainLoad at eK
  all_goals (rw [← entryCmd_next eK])
  all_goals repeat' (first | assumption | (intro _ _ _) | (intro _ _) | split | apply State.intake_keeps | apply State.receiveIn_keeps | apply State.receive_keeps | apply State.onObject_keeps | apply State.tap_keeps | apply State.smbus_keeps | apply foldl_keeps | simp +contextual (maxDischargeDepth := 60) [*])

theorem execDomainPurge_keeps {r0 : State} (p : Port) (n : Fin 16) (e : BitVec 256) (s : State) {tK : State} (hK : Keeps r0 s) (eK : execDomainPurge p n e s = .next tK) : Keeps r0 tK := by
  unfold execDomainPurge at eK
  all_goals (rw [← entryCmd_next eK])
  all_goals simp +contextual (maxDischargeDepth := 60) [*]

theorem execSessionClose_keeps {r0 : State} (p : Port) (n : Fin 16) (e : BitVec 256) (s : State) {tK : State} (hK : Keeps r0 s) (eK : execSessionClose p n e s = .next tK) : Keeps r0 tK := by
  unfold execSessionClose at eK
  all_goals (rw [← entryCmd_next eK])
  all_goals repeat' (first | assumption | (intro _ _ _) | (intro _ _) | split | apply State.intake_keeps | apply State.receiveIn_keeps | apply State.receive_keeps | apply State.onObject_keeps | apply State.tap_keeps | apply State.smbus_keeps | apply foldl_keeps | simp +contextual (maxDischargeDepth := 60) [*])

theorem execSessionQuery_keeps {r0 : State} (p : Port) (n : Fin 16) (e : BitVec 256) (s : State) {tK : State} (hK : Keeps r0 s) (eK : execSessionQuery p n e s = .next tK) : Keeps r0 tK := by
  unfold execSessionQuery at eK
  all_goals (rw [← entryCmd_next eK])
  all_goals repeat' (first | assumption | (intro _ _ _) | (intro _ _) | split | apply State.intake_keeps | apply State.receiveIn_keeps | apply State.receive_keeps | apply State.onObject_keeps | apply State.tap_keeps | apply State.smbus_keeps | apply foldl_keeps | simp +contextual (maxDischargeDepth := 60) [*])

@[simp] theorem State.promote_keeps {r0 : State} (s : State) (hK : Keeps r0 s) : Keeps r0 (State.promote s) := by
  unfold State.promote
  refine foldl_keeps ?_ _ ?_
  · intro s x hK
    repeat' split
    all_goals simp (maxDischargeDepth := 60) [*]
  · simp (maxDischargeDepth := 60) [*]

@[simp] theorem State.putPage_keeps {r0 : State} (s : State) (i j p : Nat) (hK : Keeps r0 s) : Keeps r0 (State.putPage s i j p) := by simp (maxDischargeDepth := 60) [State.putPage, *]

def Prep.st : Prep → State
  | .ok s => s
  | .wait s => s
  | .fail _ s => s

@[simp] theorem State.prepPage_keeps {r s : State} (q : Req) (j : Nat) (h : Keeps r s) : Keeps r (s.prepPage q j).st := by
  unfold State.prepPage; dsimp only
  have hw := State.wantPage_keeps q.sess q.desc.mslot q.desc.domain (16 * j) q.desc.prio (s.serve.sessions.length + 2) h
  repeat' split
  all_goals (first | (rename_i e; rw [e] at hw) | skip)
  all_goals simp_all (maxDischargeDepth := 60) [Prep.st, Want.st]

@[simp] theorem State.prepPages_keeps {r : State} (q : Req) (js : List Nat) {s : State} (h : Keeps r s) : Keeps r (State.prepPages q js s).st := by
  induction js generalizing s with
  | nil => exact h
  | cons j js ih =>
    unfold State.prepPages
    have hp := State.prepPage_keeps q j h
    split
    · next e => rw [e] at hp; exact ih hp
    · exact hp

@[simp] theorem State.writeTokens_keeps {r0 : State} (s : State) (i a : Nat) (toks : List Nat) (hK : Keeps r0 s) : Keeps r0 (State.writeTokens s i a toks) := by
  unfold State.writeTokens
  refine foldl_keeps ?_ _ ?_
  · intro s x hK
    all_goals simp (maxDischargeDepth := 60) [*]
  · simp (maxDischargeDepth := 60) [*]

@[simp] theorem State.prepItem_keeps {r s : State} (i : PassItem) (h : Keeps r s) : Keeps r (s.prepItem i).st := by
  unfold State.prepItem
  split
  · exact h
  · next q hq =>
    dsimp only
    split
    · exact h
    · split
      · exact h
      · generalize List.drop _ (List.range _) = js
        have hp := State.prepPages_keeps q js h
        split
        · next e => rw [e] at hp; simp only [Prep.st] at hp ⊢; split <;> simp [hp]
        · exact hp

@[simp] theorem State.prepItems_keeps {r : State} (is : List PassItem) {s : State} (h : Keeps r s) : Keeps r (State.prepItems is s).2.2 := by
  induction is generalizing s with
  | nil => exact h
  | cons i is ih =>
    unfold State.prepItems
    have hp := State.prepItem_keeps i h
    split
    · next e => rw [e] at hp; exact ih hp
    · next e => rw [e] at hp; exact hp
    · next e => rw [e] at hp; dsimp only; apply ih; simp only [Prep.st] at hp; split <;> simp [hp]

end Sys2Proof.Machine
end

