-- ==== Sys2Proof/Laws/KeepsD.lean ====
section
/-! SUPPORT. What every operation keeps of a state: the waiting commands and the canonical form of memory. One lemma per operation (part 4: Passes, Integrity, Security, Ports, Models). -/

namespace Sys2Proof.Machine

open Sys2Proof

@[simp] theorem State.refuseLaunch_keeps {r0 : State} (s : State) (k : Nat) (l : Launch) (code : Nat) (rids : List Nat) (hK : Keeps r0 s) : Keeps r0 (State.refuseLaunch s k l code rids) := by
  unfold State.refuseLaunch
  (try dsimp only)
  refine foldl_keeps ?_ _ ?_
  · intro s x hK
    repeat' split
    all_goals simp (maxDischargeDepth := 60) [*]
  · simp (maxDischargeDepth := 60) [*]

@[simp] theorem State.presentLatches_keeps {r0 : State} (s : State) (hK : Keeps r0 s) : Keeps r0 (State.presentLatches s) := by
  unfold State.presentLatches
  (try dsimp only)
  all_goals simp +contextual (maxDischargeDepth := 60) [*]

@[simp] theorem State.startPass_keeps {r0 : State} (s : State) (t : Nat) (x : PassTable) (l : Launch) (segs : List Seg) (hK : Keeps r0 s) : Keeps r0 (State.startPass s t x l segs) := by
  unfold State.startPass
  (try dsimp only)
  repeat' split
  all_goals simp +contextual (maxDischargeDepth := 60) [*]

@[simp] theorem State.pinItems_keeps {r0 : State} (s : State) (e : Nat) (items : List PassItem) (hK : Keeps r0 s) : Keeps r0 (State.pinItems s e items) := by
  unfold State.pinItems
  repeat' (first | assumption | (intro _ _ _) | (intro _ _) | split | apply State.intake_keeps | apply State.receiveIn_keeps | apply State.receive_keeps | apply State.onObject_keeps | apply State.tap_keeps | apply State.smbus_keeps | apply foldl_keeps | simp +contextual (maxDischargeDepth := 60) [*])

@[simp] theorem State.launch_keeps {r0 : State} (s : State) (k t : Nat) (l : Launch) (segs : List Seg) (rotation : Bool) (items : List PassItem) (hK : Keeps r0 s) : Keeps r0 (State.launch s k t l segs rotation items) := by simp (maxDischargeDepth := 60) [State.launch, *]

theorem execPassLaunch_keeps {r0 : State} (k : Fin 4) (l : Launch) (s : State) {tK : State} (hK : Keeps r0 s) (eK : execPassLaunch k l s = .next tK) : Keeps r0 tK := by
  unfold execPassLaunch at eK
  (try dsimp only at eK)
  repeat' split at eK
  all_goals (injection eK with eK; subst eK)
  all_goals simp (maxDischargeDepth := 60) [*]

@[simp] theorem State.commitTail_keeps {r0 : State} (s : State) (i n : Nat) (hK : Keeps r0 s) : Keeps r0 (State.commitTail s i n) := by
  unfold State.commitTail
  (try dsimp only)
  refine foldl_keeps ?_ _ ?_
  · intro s x hK
    repeat' split
    all_goals simp (maxDischargeDepth := 60) [*]
  · simp (maxDischargeDepth := 60) [*]

@[simp] theorem State.accept_keeps {r0 : State} (s : State) (i a c n : Nat) (hK : Keeps r0 s) : Keeps r0 (State.accept s i a c n) := by
  unfold State.accept
  (try dsimp only)
  refine foldl_keeps ?_ _ ?_
  · intro s x hK
    repeat' split
    all_goals simp (maxDischargeDepth := 60) [*]
  · simp (maxDischargeDepth := 60) [*]

@[simp] theorem State.commitItem_keeps {r0 : State} (s : State) (x : PassTable) (i : PassItem) (hK : Keeps r0 s) : Keeps r0 (State.commitItem s x i) := by
  unfold State.commitItem
  dsimp only
  repeat' split
  all_goals simp (maxDischargeDepth := 60) [*]

@[simp] theorem State.sampleItem_keeps {r s : State} (rows : List LogitRow) (i : PassItem) (h : Keeps r s) : Keeps r (s.sampleItem rows i).2 := by
  unfold State.sampleItem; dsimp only
  repeat' split
  all_goals simp [h]

@[simp] theorem State.sampleAll_keeps {r : State} (rows : List LogitRow) (is : List PassItem) {s : State} (h : Keeps r s) : Keeps r (State.sampleAll rows is s).2 := by
  induction is generalizing s with
  | nil => exact h
  | cons i is ih => exact ih (State.sampleItem_keeps rows i h)

@[simp] theorem State.insertAll_keeps {r0 : State} (s : State) (rid : Nat) (hK : Keeps r0 s) : Keeps r0 (State.insertAll s rid) := by
  unfold State.insertAll
  (try dsimp only)
  repeat' split
  all_goals simp +contextual (maxDischargeDepth := 60) [*]

@[simp] theorem State.pour_keeps {r : State} (q : Req) (a b : Bool) (ts : List Nat) (i : Nat) {s : State} (h : Keeps r s) : Keeps r (State.pour q a b ts i s).2.2 := by
  induction ts generalizing i s with
  | nil => exact h
  | cons t ts ih =>
    unfold State.pour; dsimp only
    split
    · exact ih _ (State.hostPut_keeps h _ _ _)
    · exact State.dmaRefuse_keeps _ _ h

@[simp] theorem State.pourItem_keeps {r s : State} (p : Produced) (h : Keeps r s) : Keeps r (s.pourItem p).2 := by
  unfold State.pourItem
  split
  · exact h
  · simp (maxDischargeDepth := 60) [h]

@[simp] theorem State.pourAll_keeps {r : State} (ps : List Produced) {s : State} (h : Keeps r s) : Keeps r (State.pourAll ps s).2 := by
  induction ps generalizing s with
  | nil => exact h
  | cons p ps ih => exact ih (State.pourItem_keeps p h)

@[simp] theorem State.settle_keeps {r0 : State} (s : State) (i : PassItem) (a : After) (hK : Keeps r0 s) : Keeps r0 (State.settle s i a) := by
  unfold State.settle
  repeat' split
  all_goals simp (maxDischargeDepth := 60) [*]

theorem execPassCommit_keeps {r0 : State} (t : Fin 4) (logits : List LogitRow) (s : State) {tK : State} (hK : Keeps r0 s) (eK : execPassCommit t logits s = .next tK) : Keeps r0 tK := by
  unfold execPassCommit at eK
  (try dsimp only at eK)
  repeat' split at eK
  all_goals (injection eK with eK; subst eK)
  all_goals simp +contextual (maxDischargeDepth := 60) [*]

@[simp] theorem State.endAborted_keeps {r0 : State} (s : State) (rid code : Nat) (hK : Keeps r0 s) : Keeps r0 (State.endAborted s rid code) := by
  unfold State.endAborted
  repeat' split
  all_goals simp (maxDischargeDepth := 60) [*]

@[simp] theorem State.abandon_keeps {r0 : State} (s : State) (x : PassTable) (code : Nat) (hK : Keeps r0 s) : Keeps r0 (State.abandon s x code) := by
  unfold State.abandon
  (try dsimp only)
  refine foldl_keeps ?_ _ ?_
  · intro s x hK
    all_goals simp (maxDischargeDepth := 60) [*]
  · simp (maxDischargeDepth := 60) [*]

theorem execPassRetry_keeps {r0 : State} (t : Fin 4) (s : State) {tK : State} (hK : Keeps r0 s) (eK : execPassRetry t s = .next tK) : Keeps r0 tK := by
  unfold execPassRetry at eK
  extract_lets x u v keep at eK
  have hv : Keeps r0 v := foldl_keeps (fun s i h => State.modReq_keeps _ _ _ h) _ (State.dropTable_keeps _ _ hK)
  clear_value u v keep
  split at eK
  · injection eK with eK; rw [← eK]; exact hK
  · split at eK
    · split at eK
      · injection eK with eK; rw [← eK]; exact State.abandon_keeps _ _ _ hv
      · split at eK
        · injection eK with eK; rw [← eK]
          refine State.startPass_keeps _ _ _ _ _ (State.count_keeps _ _ (foldl_keeps (fun s i h => ?_) _ hv))
          split
          · exact State.endAborted_keeps _ _ _ h
          · exact h
        · injection eK with eK; rw [← eK]; exact State.abandon_keeps _ _ _ hv
        · injection eK with eK; rw [← eK]; exact State.abandon_keeps _ _ _ hv
    · injection eK with eK; rw [← eK]; exact State.abandon_keeps _ _ _ hv

@[simp] theorem State.testFeed_keeps {r0 : State} (s : State) (n : Nat) (hK : Keeps r0 s) : Keeps r0 (State.testFeed s n) := by
  unfold State.testFeed
  repeat' split
  all_goals simp (maxDischargeDepth := 60) [*]

@[simp] theorem State.takeRow_keeps {r0 : State} (s : State) (m a : Nat) (hK : Keeps r0 s) : Keeps r0 (State.takeRow s m a) := by
  unfold State.takeRow
  (try dsimp only)
  repeat' split
  all_goals simp +contextual (maxDischargeDepth := 60) [*]

@[simp] theorem State.takeRows_keeps {r0 : State} (s : State) (m : Nat) (hK : Keeps r0 s) : Keeps r0 (State.takeRows s m) := by
  unfold State.takeRows
  (try dsimp only)
  refine foldl_keeps ?_ _ ?_
  · intro s x hK
    (try dsimp only)
    repeat' split
    all_goals simp (maxDischargeDepth := 60) [*]
  · simp (maxDischargeDepth := 60) [*]

@[simp] theorem State.grantKey_keeps {r0 : State} (s : State) (a : Activity) (hK : Keeps r0 s) : Keeps r0 (State.grantKey s a) := by
  unfold State.grantKey
  dsimp only
  repeat' split
  all_goals simp (maxDischargeDepth := 60) [*]

@[simp] theorem State.grantKeys_keeps {r : State} (as rest : List Activity) {s : State} (h : Keeps r s) : Keeps r (State.grantKeys as rest s) := by
  induction as generalizing rest s with
  | nil => exact State.modInteg_keeps _ _ h
  | cons a as ih =>
    unfold State.grantKeys
    split
    · exact ih _ (by simp [h])
    · exact ih _ h

@[simp] theorem State.askKeys_keeps {r0 : State} (s : State) (a : Activity) (hK : Keeps r0 s) : Keeps r0 (State.askKeys s a) := by simp (maxDischargeDepth := 60) [State.askKeys, *]

@[simp] theorem State.releaseKeys_keeps {r0 : State} (s : State) (a : Activity) (hK : Keeps r0 s) : Keeps r0 (State.releaseKeys s a) := by
  unfold State.releaseKeys
  split
  · exact hK
  · dsimp only
    refine State.grantKeys_keeps _ _ ?_
    split
    all_goals simp (maxDischargeDepth := 60) [*]

theorem execCellarKeyRequest_keeps {r0 : State} (a : Activity) (s : State) {tK : State} (hK : Keeps r0 s) (eK : execCellarKeyRequest a s = .next tK) : Keeps r0 tK := by
  unfold execCellarKeyRequest at eK
  repeat' split at eK
  all_goals (injection eK with eK; subst eK)
  all_goals simp (maxDischargeDepth := 60) [*]

theorem execCellarKeyRelease_keeps {r0 : State} (a : Activity) (s : State) {tK : State} (hK : Keeps r0 s) (eK : execCellarKeyRelease a s = .next tK) : Keeps r0 tK := by
  unfold execCellarKeyRelease at eK
  repeat' split at eK
  all_goals (injection eK with eK; subst eK)
  all_goals simp (maxDischargeDepth := 60) [*]

@[simp] theorem State.abortTest_keeps {r0 : State} (s : State) (r : Report) (a : Activity) (hK : Keeps r0 s) : Keeps r0 (State.abortTest s r a) := by
  unfold State.abortTest
  repeat' split
  all_goals simp (maxDischargeDepth := 60) [*]

@[simp] theorem State.poisonBuffer_keeps {r0 : State} (s : State) (dst : Option (BitVec 48)) (hK : Keeps r0 s) : Keeps r0 (State.poisonBuffer s dst) := by
  unfold State.poisonBuffer
  repeat' split
  all_goals simp (maxDischargeDepth := 60) [*]

theorem execUncorrectableDetect_keeps {r0 : State} (d : Detect) (s : State) {tK : State} (hK : Keeps r0 s) (eK : execUncorrectableDetect d s = .next tK) : Keeps r0 tK := by
  unfold execUncorrectableDetect at eK
  (try dsimp only at eK)
  repeat' split at eK
  all_goals (injection eK with eK; subst eK)
  all_goals simp (maxDischargeDepth := 60) [*]

theorem execPoisonConsume_keeps {r0 : State} (c : Consumer) (addr : BitVec 48) (s : State) {tK : State} (hK : Keeps r0 s) (eK : execPoisonConsume c addr s = .next tK) : Keeps r0 tK := by
  unfold execPoisonConsume at eK
  (try dsimp only at eK)
  repeat' split at eK
  all_goals (injection eK with eK; subst eK)
  all_goals simp +contextual (maxDischargeDepth := 60) [*]

@[simp] theorem State.corrected_keeps {r0 : State} (s : State) (r : Report) (a : Activity) (n : Nat) (hK : Keeps r0 s) : Keeps r0 (State.corrected s r a n) := by simp (maxDischargeDepth := 60) [State.corrected, *]

@[simp] theorem State.correctedHbm_keeps {r0 : State} (s : State) (m a n : Nat) (hK : Keeps r0 s) : Keeps r0 (State.correctedHbm s m a n) := by simp (maxDischargeDepth := 60) [State.correctedHbm, *]

@[simp] theorem State.correctedSram_keeps {r0 : State} (s : State) (slot off n : Nat) (hK : Keeps r0 s) : Keeps r0 (State.correctedSram s slot off n) := by simp (maxDischargeDepth := 60) [State.correctedSram, *]

theorem execCeLimitReached_keeps {r0 : State} (d : CeSource) (n : Nat) (s : State) {tK : State} (hK : Keeps r0 s) (eK : execCeLimitReached d n s = .next tK) : Keeps r0 tK := by
  unfold execCeLimitReached at eK
  repeat' split at eK
  all_goals (injection eK with eK; subst eK)
  all_goals simp (maxDischargeDepth := 60) [*]

theorem execHbmPatrolScrub_keeps {r0 : State} (m : Fin 6) (sector : BitVec 48) (r : ScrubResult) (s : State) {tK : State} (hK : Keeps r0 s) (eK : execHbmPatrolScrub m sector r s = .next tK) : Keeps r0 tK := by
  unfold execHbmPatrolScrub at eK
  (try dsimp only at eK)
  repeat' split at eK
  all_goals (injection eK with eK; subst eK)
  all_goals simp (maxDischargeDepth := 60) [*]

theorem execSramPatrolScrub_keeps {r0 : State} (slot : Fin 72) (line : Fin 12288) (r : ScrubResult) (s : State) {tK : State} (hK : Keeps r0 s) (eK : execSramPatrolScrub slot line r s = .next tK) : Keeps r0 tK := by
  unfold execSramPatrolScrub at eK
  repeat' split at eK
  all_goals (injection eK with eK; subst eK)
  all_goals simp (maxDischargeDepth := 60) [*]

@[simp] theorem State.verdict_keeps {r0 : State} (s : State) (t : PendingTest) (v : Nat) (hK : Keeps r0 s) : Keeps r0 (State.verdict s t v) := by simp (maxDischargeDepth := 60) [State.verdict, *]

@[simp] theorem State.doomSlot_keeps {r0 : State} (s : State) (n code : Nat) (hK : Keeps r0 s) : Keeps r0 (State.doomSlot s n code) := by simp (maxDischargeDepth := 60) [State.doomSlot, *]

@[simp] theorem State.retireSlot_keeps {r0 : State} (s : State) (n code : Nat) (hK : Keeps r0 s) : Keeps r0 (State.retireSlot s n code) := by simp (maxDischargeDepth := 60) [State.retireSlot, *]

@[simp] theorem State.seekKitty_keeps {r0 : State} (s : State) (old : Nat) (hK : Keeps r0 s) : Keeps r0 (State.seekKitty s old) := by
  unfold State.seekKitty
  repeat' split
  all_goals simp (maxDischargeDepth := 60) [*]

@[simp] theorem State.moveCore_keeps {r0 : State} (s : State) (old new : Nat) (hK : Keeps r0 s) : Keeps r0 (State.moveCore s old new) := by simp (maxDischargeDepth := 60) [State.moveCore, *]

@[simp] theorem State.loseCore_keeps {r0 : State} (s : State) (n code : Nat) (hK : Keeps r0 s) : Keeps r0 (State.loseCore s n code) := by
  unfold State.loseCore
  (try dsimp only)
  repeat' split
  all_goals simp +contextual (maxDischargeDepth := 60) [*]

@[simp] theorem State.withdrawRow_keeps {r0 : State} (s : State) (m a : Nat) (hK : Keeps r0 s) : Keeps r0 (State.withdrawRow s m a) := by simp (maxDischargeDepth := 60) [State.withdrawRow, *]

@[simp] theorem State.repairRow_keeps {r0 : State} (s : State) (m : Nat) (t : PendingTest) (second : Bool) (hK : Keeps r0 s) : Keeps r0 (State.repairRow s m t second) := by simp (maxDischargeDepth := 60) [State.repairRow, *]

@[simp] theorem State.linkPassed_keeps {r0 : State} (s : State) (l : Nat) (hK : Keeps r0 s) : Keeps r0 (State.linkPassed s l) := by
  unfold State.linkPassed
  dsimp only
  repeat' split
  all_goals simp (maxDischargeDepth := 60) [*]

@[simp] theorem State.linkRetired_keeps {r0 : State} (s : State) (l : Nat) (hK : Keeps r0 s) : Keeps r0 (State.linkRetired s l) := by simp (maxDischargeDepth := 60) [State.linkRetired, *]

@[simp] theorem State.lasting_keeps {r0 : State} (s : State) (t : PendingTest) (second : Bool) (hK : Keeps r0 s) : Keeps r0 (State.lasting s t second) := by
  unfold State.lasting
  repeat' split
  all_goals simp (maxDischargeDepth := 60) [*]

@[simp] theorem State.replaced_keeps {r0 : State} (s : State) (old new : Nat) (pass : Bool) (hK : Keeps r0 s) : Keeps r0 (State.replaced s old new pass) := by simp (maxDischargeDepth := 60) [State.replaced, *]

theorem execTargetedTestVerdict_keeps {r0 : State} (a : Activity) (pass second : Bool) (s : State) {tK : State} (hK : Keeps r0 s) (eK : execTargetedTestVerdict a pass second s = .next tK) : Keeps r0 tK := by
  unfold execTargetedTestVerdict at eK
  repeat' split at eK
  all_goals (injection eK with eK; subst eK)
  all_goals simp (maxDischargeDepth := 60) [*]

@[simp] theorem State.setIr_keeps {r0 : State} (s : State) (code : Nat) (hK : Keeps r0 s) : Keeps r0 (State.setIr s code) := by simp (maxDischargeDepth := 60) [State.setIr, *]

@[simp] theorem State.bypass_keeps {r0 : State} (s : State) (hK : Keeps r0 s) : Keeps r0 (State.bypass s) := by simp (maxDischargeDepth := 60) [State.bypass, *]

@[simp] theorem State.tap_keeps {r0 : State} (s : State) (code : Nat) (ok : Bool) (act : State → State) (hact : ∀ x0, Keeps r0 x0 → Keeps r0 (act x0)) (hK : Keeps r0 s) : Keeps r0 (State.tap s code ok act) := by simp (maxDischargeDepth := 60) [State.tap, *]

@[simp] theorem State.dropWork_keeps {r0 : State} (s : State) (hK : Keeps r0 s) : Keeps r0 (State.dropWork s) := by simp (maxDischargeDepth := 60) [State.dropWork, *]

@[simp] theorem State.dropKeys_keeps {r0 : State} (s : State) (hK : Keeps r0 s) : Keeps r0 (State.dropKeys s) := by
  unfold State.dropKeys
  refine foldl_keeps (fun s x h => ?_) _ (State.modInteg_keeps _ _ hK)
  split <;> simp [h]

@[simp] theorem State.zeroise_keeps {r0 : State} (s : State) (hK : Keeps r0 s) : Keeps r0 (State.zeroise s) := by simp (maxDischargeDepth := 60) [State.zeroise, *]

@[simp] theorem State.eraseData_keeps {r0 : State} (s : State) (hK : Keeps r0 s) : Keeps r0 (State.eraseData s) := by simp (maxDischargeDepth := 60) [State.eraseData, *]

@[simp] theorem State.holdLinks_keeps {r0 : State} (s : State) (hK : Keeps r0 s) : Keeps r0 (State.holdLinks s) := by
  unfold State.holdLinks
  (try dsimp only)
  refine foldl_keeps ?_ _ ?_
  · intro s x hK
    (try dsimp only)
    repeat' split
    all_goals simp (maxDischargeDepth := 60) [*]
  · simp (maxDischargeDepth := 60) [*]

theorem execZeroisationComplete_keeps {r0 : State} (s : State) {tK : State} (hK : Keeps r0 s) (eK : execZeroisationComplete s = .next tK) : Keeps r0 tK := by
  unfold execZeroisationComplete at eK
  repeat' split at eK
  all_goals (injection eK with eK; subst eK)
  all_goals simp (maxDischargeDepth := 60) [*]

@[simp] theorem State.invade_keeps {r0 : State} (s : State) (hK : Keeps r0 s) : Keeps r0 (State.invade s) := by
  unfold State.invade
  (try dsimp only)
  repeat' split
  all_goals simp +contextual (maxDischargeDepth := 60) [*]

@[simp] theorem State.raiseLevel_keeps {r0 : State} (s : State) (n : Nat) (hK : Keeps r0 s) : Keeps r0 (State.raiseLevel s n) := by simp (maxDischargeDepth := 60) [State.raiseLevel, *]

@[simp] theorem State.refuseToken_keeps {r0 : State} (s : State) (hK : Keeps r0 s) : Keeps r0 (State.refuseToken s) := by simp (maxDischargeDepth := 60) [State.refuseToken, *]

theorem execDbgChal_keeps {r0 : State} (s : State) {tK : State} (hK : Keeps r0 s) (eK : execDbgChal s = .next tK) : Keeps r0 tK := by
  unfold execDbgChal at eK
  (try dsimp only at eK)
  all_goals (injection eK with eK; subst eK)
  all_goals simp +contextual (maxDischargeDepth := 60) [*]

theorem execDbgToken_keeps {r0 : State} (token : List Nat) (s : State) {tK : State} (hK : Keeps r0 s) (eK : execDbgToken token s = .next tK) : Keeps r0 tK := by
  unfold execDbgToken at eK
  all_goals (injection eK with eK; subst eK)
  all_goals simp +contextual (maxDischargeDepth := 60) [*]

@[simp] theorem State.grantToken_keeps {r0 : State} (s : State) (t : Token) (hK : Keeps r0 s) : Keeps r0 (State.grantToken s t) := by
  unfold State.grantToken
  dsimp only
  repeat' split
  all_goals simp (maxDischargeDepth := 60) [*]

theorem execTokenVerified_keeps {r0 : State} (s : State) {tK : State} (hK : Keeps r0 s) (eK : execTokenVerified s = .next tK) : Keeps r0 tK := by
  unfold execTokenVerified at eK
  repeat' split at eK
  all_goals (injection eK with eK; subst eK)
  all_goals simp (maxDischargeDepth := 60) [*]

theorem execUnlockLockoutExpiry_keeps {r0 : State} (s : State) {tK : State} (hK : Keeps r0 s) (eK : execUnlockLockoutExpiry s = .next tK) : Keeps r0 tK := by
  unfold execUnlockLockoutExpiry at eK
  repeat' split at eK
  all_goals (injection eK with eK; subst eK)
  all_goals simp (maxDischargeDepth := 60) [*]

theorem execDbgStatus_keeps {r0 : State} (lower : Option (Fin 4)) (s : State) {tK : State} (hK : Keeps r0 s) (eK : execDbgStatus lower s = .next tK) : Keeps r0 tK := by
  unfold execDbgStatus at eK
  (try dsimp only at eK)
  repeat' split at eK
  all_goals (injection eK with eK; subst eK)
  all_goals simp +contextual (maxDischargeDepth := 60) [*]

@[simp] theorem State.attest_keeps {r0 : State} (s : State) (p : Port) (hK : Keeps r0 s) : Keeps r0 (State.attest s p) := by simp (maxDischargeDepth := 60) [State.attest, *]

theorem execAttestationSigned_keeps {r0 : State} (s : State) {tK : State} (hK : Keeps r0 s) (eK : execAttestationSigned s = .next tK) : Keeps r0 tK := by
  unfold execAttestationSigned at eK
  (try dsimp only at eK)
  repeat' split at eK
  all_goals (injection eK with eK; subst eK)
  all_goals simp (maxDischargeDepth := 60) [*]

theorem execRngHealthFail_keeps {r0 : State} (s : State) {tK : State} (hK : Keeps r0 s) (eK : execRngHealthFail s = .next tK) : Keeps r0 tK := by
  unfold execRngHealthFail at eK
  injection eK with eK
  subst eK
  simp (maxDischargeDepth := 60) [*]

theorem execDrbgReseed_keeps {r0 : State} (s : State) {tK : State} (hK : Keeps r0 s) (eK : execDrbgReseed s = .next tK) : Keeps r0 tK := by
  unfold execDrbgReseed at eK
  repeat' split at eK
  all_goals (injection eK with eK; subst eK)
  all_goals simp (maxDischargeDepth := 60) [*]

@[simp] theorem State.dropFn_keeps {r0 : State} (s : State) (p : Port) (fn : Nat) (hK : Keeps r0 s) : Keeps r0 (State.dropFn s p fn) := by
  unfold State.dropFn
  (try dsimp only)
  all_goals simp +contextual (maxDischargeDepth := 60) [*]

@[simp] theorem State.endLost_keeps {r0 : State} (s : State) (r : Req) (hK : Keeps r0 s) : Keeps r0 (State.endLost s r) := by
  unfold State.endLost
  repeat' split
  all_goals simp (maxDischargeDepth := 60) [*]

@[simp] theorem State.dropReport_keeps {r0 : State} (s : State) (p : Port) (hK : Keeps r0 s) : Keeps r0 (State.dropReport s p) := by simp (maxDischargeDepth := 60) [State.dropReport, *]

@[simp] theorem State.clearFn_keeps {r0 : State} (s : State) (p : Port) (wide : Bool) (fn : Nat) (hK : Keeps r0 s) : Keeps r0 (State.clearFn s p wide fn) := by
  unfold State.clearFn
  (try dsimp only)
  repeat' split
  all_goals simp +contextual (maxDischargeDepth := 60) [*]

@[simp] theorem State.endFn_keeps {r0 : State} (s : State) (p : Port) (fn : Nat) (hK : Keeps r0 s) : Keeps r0 (State.endFn s p fn) := by
  unfold State.endFn
  (try dsimp only)
  all_goals simp +contextual (maxDischargeDepth := 60) [*]

@[simp] theorem State.loseFn_keeps {r0 : State} (s : State) (p : Port) (wide : Bool) (fn : Nat) (hK : Keeps r0 s) : Keeps r0 (State.loseFn s p wide fn) := by
  simp (maxDischargeDepth := 60) [State.loseFn, *]

@[simp] theorem State.countLoss_keeps {r0 : State} (s : State) (p : Port) (cause : Nat) (hK : Keeps r0 s) : Keeps r0 (State.countLoss s p cause) := by simp (maxDischargeDepth := 60) [State.countLoss, *]

@[simp] theorem State.losePort_keeps {r0 : State} (s : State) (p : Port) (cause : Nat) (hK : Keeps r0 s) : Keeps r0 (State.losePort s p cause) := by
  unfold State.losePort
  repeat' split
  all_goals simp +contextual (maxDischargeDepth := 60) [*]

@[simp] theorem State.linkAway_keeps {r0 : State} (s : State) (p : Port) (x : PortLink) (hK : Keeps r0 s) : Keeps r0 (State.linkAway s p x) := by simp (maxDischargeDepth := 60) [State.linkAway, *]

theorem execPerstAssert_keeps {r0 : State} (p : Port) (s : State) {tK : State} (hK : Keeps r0 s) (eK : execPerstAssert p s = .next tK) : Keeps r0 tK := by
  unfold execPerstAssert at eK
  injection eK with eK
  subst eK
  simp (maxDischargeDepth := 60) [*]

@[simp] theorem State.trainPort_keeps {r0 : State} (s : State) (p : Port) (hK : Keeps r0 s) : Keeps r0 (State.trainPort s p) := by simp (maxDischargeDepth := 60) [State.trainPort, *]

theorem execPerstDeassert_keeps {r0 : State} (p : Port) (s : State) {tK : State} (hK : Keeps r0 s) (eK : execPerstDeassert p s = .next tK) : Keeps r0 tK := by
  unfold execPerstDeassert at eK
  (try dsimp only at eK)
  repeat' split at eK
  all_goals (injection eK with eK; subst eK)
  all_goals simp (maxDischargeDepth := 60) [*]

theorem execDataLinkDown_keeps {r0 : State} (p : Port) (refclkLost : Bool) (s : State) {tK : State} (hK : Keeps r0 s) (eK : execDataLinkDown p refclkLost s = .next tK) : Keeps r0 tK := by
  unfold execDataLinkDown at eK
  injection eK with eK
  subst eK
  simp (maxDischargeDepth := 60) [*]

theorem execHotReset_keeps {r0 : State} (p : Port) (s : State) {tK : State} (hK : Keeps r0 s) (eK : execHotReset p s = .next tK) : Keeps r0 tK := by
  unfold execHotReset at eK
  repeat' split at eK
  all_goals (injection eK with eK; subst eK)
  all_goals simp (maxDischargeDepth := 60) [*]

theorem execPfFlr_keeps {r0 : State} (p : Port) (s : State) {tK : State} (hK : Keeps r0 s) (eK : execPfFlr p s = .next tK) : Keeps r0 tK := by
  unfold execPfFlr at eK
  repeat' split at eK
  all_goals (injection eK with eK; subst eK)
  all_goals simp (maxDischargeDepth := 60) [*]

theorem execPfBmeClear_keeps {r0 : State} (p : Port) (s : State) {tK : State} (hK : Keeps r0 s) (eK : execPfBmeClear p s = .next tK) : Keeps r0 tK := by
  unfold execPfBmeClear at eK
  repeat' split at eK
  all_goals (first | (injection eK with eK; subst eK) | contradiction)
  all_goals simp (maxDischargeDepth := 60) [*]

@[simp] theorem State.lowerVfs_keeps {r0 : State} (s : State) (p : Port) (n : Nat) (hK : Keeps r0 s) : Keeps r0 (State.lowerVfs s p n) := by
  unfold State.lowerVfs
  (try dsimp only)
  all_goals simp +contextual (maxDischargeDepth := 60) [*]

theorem execVfEnableClear_keeps {r0 : State} (p : Port) (numVf : Fin 16) (s : State) {tK : State} (hK : Keeps r0 s) (eK : execVfEnableClear p numVf s = .next tK) : Keeps r0 tK := by
  unfold execVfEnableClear at eK
  repeat' split at eK
  all_goals (injection eK with eK; subst eK)
  all_goals simp (maxDischargeDepth := 60) [*]

@[simp] theorem State.loseSeat_keeps {r0 : State} (s : State) (p : Port) (n : Nat) (hK : Keeps r0 s) : Keeps r0 (State.loseSeat s p n) := by simp (maxDischargeDepth := 60) [State.loseSeat, *]

theorem execSeatFlr_keeps {r0 : State} (p : Port) (n : Fin 16) (s : State) {tK : State} (hK : Keeps r0 s) (eK : execSeatFlr p n s = .next tK) : Keeps r0 tK := by
  unfold execSeatFlr at eK
  injection eK with eK
  subst eK
  simp (maxDischargeDepth := 60) [*]

theorem execSeatBmeClear_keeps {r0 : State} (p : Port) (n : Fin 16) (s : State) {tK : State} (hK : Keeps r0 s) (eK : execSeatBmeClear p n s = .next tK) : Keeps r0 tK := by
  unfold execSeatBmeClear at eK
  injection eK with eK
  subst eK
  simp (maxDischargeDepth := 60) [*]

theorem execD3hotEntry_keeps {r0 : State} (p : Port) (n : Fin 16) (s : State) {tK : State} (hK : Keeps r0 s) (eK : execD3hotEntry p n s = .next tK) : Keeps r0 tK := by
  unfold execD3hotEntry at eK
  repeat' split at eK
  all_goals (injection eK with eK; subst eK)
  all_goals simp (maxDischargeDepth := 60) [*]

theorem execReturnToD0_keeps {r0 : State} (p : Port) (n : Fin 16) (s : State) {tK : State} (hK : Keeps r0 s) (eK : execReturnToD0 p n s = .next tK) : Keeps r0 tK := by
  unfold execReturnToD0 at eK
  repeat' split at eK
  all_goals (injection eK with eK; subst eK)
  all_goals simp (maxDischargeDepth := 60) [*]

theorem execQuiesceDone_keeps {r0 : State} (p : Port) (n : Fin 16) (s : State) {tK : State} (hK : Keeps r0 s) (eK : execQuiesceDone p n s = .next tK) : Keeps r0 tK := by
  unfold execQuiesceDone at eK
  (try dsimp only at eK)
  repeat' split at eK
  all_goals (injection eK with eK; subst eK)
  all_goals simp (maxDischargeDepth := 60) [*]

theorem execBusMasterEnableSet_keeps {r0 : State} (p : Port) (n : Fin 16) (s : State) {tK : State} (hK : Keeps r0 s) (eK : execBusMasterEnableSet p n s = .next tK) : Keeps r0 tK := by
  unfold execBusMasterEnableSet at eK
  repeat' split at eK
  all_goals (injection eK with eK; subst eK)
  all_goals simp (maxDischargeDepth := 60) [*]

theorem execPcieLinkUp_keeps {r0 : State} (p : Port) (speed : Fin 6) (width : Fin 17) (s : State) {tK : State} (hK : Keeps r0 s) (eK : execPcieLinkUp p speed width s = .next tK) : Keeps r0 tK := by
  unfold execPcieLinkUp at eK
  (try dsimp only at eK)
  repeat' split at eK
  all_goals (first | (injection eK with eK; subst eK) | contradiction)
  all_goals simp (maxDischargeDepth := 60) [*]

theorem execRefclkDetect_keeps {r0 : State} (p : Port) (s : State) {tK : State} (hK : Keeps r0 s) (eK : execRefclkDetect p s = .next tK) : Keeps r0 tK := by
  unfold execRefclkDetect at eK
  injection eK with eK
  subst eK
  simp (maxDischargeDepth := 60) [*]

theorem execRateWidthChange_keeps {r s t : State} (p : Port) (a : Fin 6) (b : Fin 17) (h : Keeps r s) (e : execRateWidthChange p a b s = .next t) : Keeps r t := by
  unfold execRateWidthChange at e; split at e
  · cases e
  · injection e with e; subst e
    exact State.modPort_keeps h p (fun q hq => by split <;> exact hq)

theorem execVfEnableSet_keeps {r0 : State} (p : Port) (numVf : Fin 16) (s : State) {tK : State} (hK : Keeps r0 s) (eK : execVfEnableSet p numVf s = .next tK) : Keeps r0 tK := by
  unfold execVfEnableSet at eK
  (try dsimp only at eK)
  repeat' split at eK
  all_goals (injection eK with eK; subst eK)
  all_goals simp (maxDischargeDepth := 60) [*]

@[simp] theorem State.maskVector_keeps {r0 : State} (s : State) (p : Port) (n vec : Nat) (mask : Bool) (hK : Keeps r0 s) : Keeps r0 (State.maskVector s p n vec mask) := by
  unfold State.maskVector
  exact keeps_ite _ (State.sendVector_keeps _ _ _ _ (State.modFunc_keeps _ _ _ _ (State.modFunc_keeps _ _ _ _ hK))) (State.modFunc_keeps _ _ _ _ hK)

theorem execVectorUnmask_keeps {r0 : State} (p : Port) (n : Fin 16) (vec : Fin 64) (s : State) {tK : State} (hK : Keeps r0 s) (eK : execVectorUnmask p n vec s = .next tK) : Keeps r0 tK := by
  unfold execVectorUnmask at eK
  dsimp only at eK
  split at eK
  · injection eK with eK; rw [← eK]; exact hK
  · injection eK with eK; rw [← eK]; exact State.maskVector_keeps _ _ _ _ _ hK

@[simp] theorem State.writeVectors_keeps {r0 : State} (s : State) (p : Port) (n off size v : Nat) (hK : Keeps r0 s) : Keeps r0 (State.writeVectors s p n off size v) := by
  unfold State.writeVectors
  dsimp only
  repeat' split
  all_goals simp [hK]

@[simp] theorem State.writeMsix_keeps {r0 : State} (s : State) (p : Port) (n v : Nat) (hK : Keeps r0 s) : Keeps r0 (State.writeMsix s p n v) := by simp [State.writeMsix, hK]

theorem execAspmL1Entry_keeps {r0 : State} (p : Port) (s : State) {tK : State} (hK : Keeps r0 s) (eK : execAspmL1Entry p s = .next tK) : Keeps r0 tK := by
  unfold execAspmL1Entry at eK
  repeat' split at eK
  all_goals (injection eK with eK; subst eK)
  all_goals simp (maxDischargeDepth := 60) [*]

theorem execAspmL1Exit_keeps {r0 : State} (p : Port) (s : State) {tK : State} (hK : Keeps r0 s) (eK : execAspmL1Exit p s = .next tK) : Keeps r0 tK := by
  unfold execAspmL1Exit at eK
  repeat' split at eK
  all_goals (injection eK with eK; subst eK)
  all_goals simp (maxDischargeDepth := 60) [*]

@[simp] theorem State.setWin_keeps {r0 : State} (s : State) (p : Port) (w : Nat) (x : RackWindow) (hK : Keeps r0 s) : Keeps r0 (State.setWin s p w x) := by simp (maxDischargeDepth := 60) [State.setWin, *]

@[simp] theorem State.writeWin0_keeps {r0 : State} (s : State) (p : Port) (w v : Nat) (hK : Keeps r0 s) : Keeps r0 (State.writeWin0 s p w v) := by simp (maxDischargeDepth := 60) [State.writeWin0, *]

@[simp] theorem State.writeWin1_keeps {r0 : State} (s : State) (p : Port) (w v : Nat) (hK : Keeps r0 s) : Keeps r0 (State.writeWin1 s p w v) := by simp (maxDischargeDepth := 60) [State.writeWin1, *]

@[simp] theorem State.writeWin2_keeps {r0 : State} (s : State) (p : Port) (w v : Nat) (hK : Keeps r0 s) : Keeps r0 (State.writeWin2 s p w v) := by simp (maxDischargeDepth := 60) [State.writeWin2, *]

@[simp] theorem State.writeRing0_keeps {r0 : State} (s : State) (p : Port) (n v : Nat) (hK : Keeps r0 s) : Keeps r0 (State.writeRing0 s p n v) := by simp (maxDischargeDepth := 60) [State.writeRing0, *]

@[simp] theorem State.writeRing1_keeps {r0 : State} (s : State) (p : Port) (n v : Nat) (hK : Keeps r0 s) : Keeps r0 (State.writeRing1 s p n v) := by simp (maxDischargeDepth := 60) [State.writeRing1, *]

@[simp] theorem State.writeHead_keeps {r0 : State} (s : State) (p : Port) (n v : Nat) (hK : Keeps r0 s) : Keeps r0 (State.writeHead s p n v) := by simp (maxDischargeDepth := 60) [State.writeHead, *]

@[simp] theorem State.writeRing2_keeps {r0 : State} (s : State) (p : Port) (n v : Nat) (hK : Keeps r0 s) : Keeps r0 (State.writeRing2 s p n v) := by simp (maxDischargeDepth := 60) [State.writeRing2, *]

@[simp] theorem State.writeSeat_keeps {r0 : State} (s : State) (p : Port) (n v : Nat) (hK : Keeps r0 s) : Keeps r0 (State.writeSeat s p n v) := by simp (maxDischargeDepth := 60) [State.writeSeat, *]

@[simp] theorem State.closeIdle_keeps {r0 : State} (s : State) (k : Nat) (hK : Keeps r0 s) : Keeps r0 (State.closeIdle s k) := by
  unfold State.closeIdle
  refine foldl_keeps ?_ _ ?_
  · intro s x hK
    all_goals simp (maxDischargeDepth := 60) [*]
  · simp (maxDischargeDepth := 60) [*]

@[simp] theorem State.clearSlot_keeps {r0 : State} (s : State) (k : Nat) (hK : Keeps r0 s) : Keeps r0 (State.clearSlot s k) := by simp (maxDischargeDepth := 60) [State.clearSlot, *]

@[simp] theorem State.startLoad_keeps {r0 : State} (s : State) (k : Nat) (b : ModelBlock) (id : Nat) (a : Option AdminReply) (hK : Keeps r0 s) : Keeps r0 (State.startLoad s k b id a) := by
  unfold State.startLoad
  dsimp only
  repeat' split
  all_goals simp (maxDischargeDepth := 60) [*]

@[simp] theorem State.takeModel_keeps {r0 : State} (s : State) (k : Nat) (next : Option ModelBlock) (id : Nat) (a : AdminReply) (hK : Keeps r0 s) : Keeps r0 (State.takeModel s k next id a) := by simp (maxDischargeDepth := 60) [State.takeModel, *]

theorem execModelLoad_keeps {r0 : State} (p : Port) (n : Fin 16) (e : BitVec 256) (host : Cells) (s : State) {tK : State} (hK : Keeps r0 s) (eK : execModelLoad p n e host s = .next tK) : Keeps r0 tK := by
  unfold execModelLoad at eK
  (try dsimp only at eK)
  all_goals (rw [← entryCmd_next eK])
  all_goals repeat' (first | assumption | (intro _ _ _) | (intro _ _) | split | apply State.intake_keeps | apply State.receiveIn_keeps | apply State.receive_keeps | apply State.onObject_keeps | apply State.tap_keeps | apply State.smbus_keeps | apply foldl_keeps | simp +contextual (maxDischargeDepth := 60) [*])

theorem execModelUnload_keeps {r0 : State} (p : Port) (n : Fin 16) (e : BitVec 256) (s : State) {tK : State} (hK : Keeps r0 s) (eK : execModelUnload p n e s = .next tK) : Keeps r0 tK := by
  unfold execModelUnload at eK
  (try dsimp only at eK)
  all_goals (rw [← entryCmd_next eK])
  all_goals repeat' (first | assumption | (intro _ _ _) | (intro _ _) | split | apply State.intake_keeps | apply State.receiveIn_keeps | apply State.receive_keeps | apply State.onObject_keeps | apply State.tap_keeps | apply State.smbus_keeps | apply foldl_keeps | simp +contextual (maxDischargeDepth := 60) [*])

theorem execModelDrained_keeps {r0 : State} (k : Fin 4) (s : State) {tK : State} (hK : Keeps r0 s) (eK : execModelDrained k s = .next tK) : Keeps r0 tK := by
  unfold execModelDrained at eK
  (try dsimp only at eK)
  repeat' split at eK
  all_goals (injection eK with eK; subst eK)
  all_goals simp (maxDischargeDepth := 60) [*]

theorem execModelDrainTimeout_keeps {r0 : State} (k : Fin 4) (s : State) {tK : State} (hK : Keeps r0 s) (eK : execModelDrainTimeout k s = .next tK) : Keeps r0 tK := by
  unfold execModelDrainTimeout at eK
  (try dsimp only at eK)
  repeat' split at eK
  all_goals (injection eK with eK; subst eK)
  all_goals simp +contextual (maxDischargeDepth := 60) [*]

@[simp] theorem State.setParts_keeps {r0 : State} (s : State) (k slot4k : Nat) (ds : List PartDecl) (hK : Keeps r0 s) : Keeps r0 (State.setParts s k slot4k ds) := by
  unfold State.setParts
  (try dsimp only)
  all_goals simp +contextual (maxDischargeDepth := 60) [*]

theorem execModelPartitionsSet_keeps {r0 : State} (k : Fin 4) (parts : List PartDecl) (weights : Cells) (s : State) {tK : State} (hK : Keeps r0 s) (eK : execModelPartitionsSet k parts weights s = .next tK) : Keeps r0 tK := by
  unfold execModelPartitionsSet at eK
  (try dsimp only at eK)
  repeat' split at eK
  all_goals (injection eK with eK; subst eK)
  all_goals simp +contextual (maxDischargeDepth := 60) [*]

theorem execKickerLoad_keeps {r s t : State} (p : Port) (n : Fin 16) (e : BitVec 256) (host : Cells) (k : KickerBlock) (h : Keeps r s) (eK : execKickerLoad p n e host k s = .next t) : Keeps r t := by
  unfold execKickerLoad at eK
  rw [← entryCmd_next eK]
  refine State.intake_keeps _ _ _ _ _ (fun u hu => ?_) (State.hostStore_keeps h _ _)
  dsimp only
  split
  · simp [hu]
  · simp [hu]
  · split
    · simp [hu]
    · split
      · split
        · next e => exact State.adminRecord_keeps _ _ _ _ (State.modServe_keeps _ _ (State.writeDev_some e hu))
        · simp [hu]
      · simp [hu]

theorem execKickerDrop_keeps {r s t : State} (p : Port) (n : Fin 16) (e : BitVec 256) (h : Keeps r s) (eK : execKickerDrop p n e s = .next t) : Keeps r t := by
  unfold execKickerDrop at eK
  rw [← entryCmd_next eK]
  refine State.intake_keeps _ _ _ _ _ (fun u hu => ?_) h
  dsimp only
  repeat' split
  all_goals simp [hu]

end Sys2Proof.Machine
end

