-- ==== Sys2Proof/Laws/KeepsE.lean ====
section
/-! SUPPORT. What every operation keeps of a state: the waiting commands and the canonical form of memory. One lemma per operation (part 5: RegisterMap, Boot, DecanterWords, Clock, ControlWords, Registers, Tap, Module, SfuWords, Step, Safety). -/

namespace Sys2Proof.Machine

open Sys2Proof

@[simp] theorem State.putConfig_keeps {r0 : State} (s : State) (b : Blk) (o v : Nat) (hK : Keeps r0 s) : Keeps r0 (State.putConfig s b o v) := by
  unfold State.putConfig
  repeat' split
  all_goals simp (maxDischargeDepth := 60) [*]

@[simp] theorem State.modBoot_keeps {r0 : State} (s : State) (f : Boot → Boot) (hK : Keeps r0 s) : Keeps r0 (State.modBoot s f) := by simp (maxDischargeDepth := 60) [State.modBoot, *]

@[simp] theorem State.setStage_keeps {r0 : State} (s : State) (n : Nat) (hK : Keeps r0 s) : Keeps r0 (State.setStage s n) := by simp (maxDischargeDepth := 60) [State.setStage, *]

@[simp] theorem State.moduleReset_keeps {r s : State} (h : Keeps r s) : Keeps r s.moduleReset := keeps_reset h id rfl rfl

@[simp] theorem State.atFuses_keeps {r0 : State} (s : State) (hK : Keeps r0 s) : Keeps r0 (State.atFuses s) := by simp (maxDischargeDepth := 60) [State.atFuses, *]

@[simp] theorem State.placeCore_keeps {r0 : State} (s : State) (c : Nat) (hK : Keeps r0 s) : Keeps r0 (State.placeCore s c) := by
  unfold State.placeCore
  repeat' split
  all_goals simp (maxDischargeDepth := 60) [*]

@[simp] theorem State.rebuildMap_keeps {r0 : State} (s : State) (hK : Keeps r0 s) : Keeps r0 (State.rebuildMap s) := by
  unfold State.rebuildMap
  refine foldl_keeps ?_ _ ?_
  · intro s x hK
    all_goals simp (maxDischargeDepth := 60) [*]
  · simp (maxDischargeDepth := 60) [*]

@[simp] theorem State.bootReplace_keeps {r0 : State} (s : State) (n : Nat) (hK : Keeps r0 s) : Keeps r0 (State.bootReplace s n) := by
  unfold State.bootReplace
  dsimp only
  repeat' split
  all_goals simp (maxDischargeDepth := 60) [*]

@[simp] theorem State.arrayTest_keeps {r0 : State} (s : State) (bad : List Nat) (hK : Keeps r0 s) : Keeps r0 (State.arrayTest s bad) := by
  unfold State.arrayTest
  (try dsimp only)
  all_goals simp +contextual (maxDischargeDepth := 60) [*]

@[simp] theorem State.startPorts_keeps {r0 : State} (s : State) (clocks : Nat) (hK : Keeps r0 s) : Keeps r0 (State.startPorts s clocks) := by simp (maxDischargeDepth := 60) [State.startPorts, *]

@[simp] theorem State.enterRescue_keeps {r0 : State} (s : State) (cause clocks : Nat) (hK : Keeps r0 s) : Keeps r0 (State.enterRescue s cause clocks) := by simp (maxDischargeDepth := 60) [State.enterRescue, *]

@[simp] theorem State.applySettings_keeps {r0 : State} (s : State) (l : List Setting) (hK : Keeps r0 s) : Keeps r0 (State.applySettings s l) := by
  unfold State.applySettings
  refine foldl_keeps ?_ _ ?_
  · intro s x hK
    repeat' split
    all_goals simp (maxDischargeDepth := 60) [*]
  · simp (maxDischargeDepth := 60) [*]

@[simp] theorem State.ownTimers_keeps {r0 : State} (s : State) (l : List Owner) (hK : Keeps r0 s) : Keeps r0 (State.ownTimers s l) := by simp (maxDischargeDepth := 60) [State.ownTimers, *]

@[simp] theorem State.applyImage_keeps {r0 : State} (s : State) (x : Image) (hK : Keeps r0 s) : Keeps r0 (State.applyImage s x) := by
  unfold State.applyImage
  refine State.modServe_keeps _ _ (State.modBoot_keeps _ _ (State.modSec_keeps _ _ (foldl_keeps (fun s l h => ?_) _ ?_)))
  · exact State.modLink_keeps _ _ _ h
  · exact State.modPow_keeps _ _ (State.applySettings_keeps _ _ hK)

@[simp] theorem State.startFirmware_keeps {r0 : State} (s : State) (hK : Keeps r0 s) : Keeps r0 (State.startFirmware s) := by simp (maxDischargeDepth := 60) [State.startFirmware, *]

@[simp] theorem State.powerUp_keeps {r0 : State} (s : State) (bad : List Nat) (hK : Keeps r0 s) : Keeps r0 (State.powerUp s bad) := by simp (maxDischargeDepth := 60) [State.powerUp, *]

@[simp] theorem State.passCoolant_keeps {r0 : State} (s : State) (bad : List Nat) (hK : Keeps r0 s) : Keeps r0 (State.passCoolant s bad) := by simp (maxDischargeDepth := 60) [State.passCoolant, *]

@[simp] theorem State.checkImage_keeps {r0 : State} (s : State) (bad : List Nat) (hK : Keeps r0 s) : Keeps r0 (State.checkImage s bad) := by
  unfold State.checkImage
  dsimp only
  repeat' split
  all_goals simp (maxDischargeDepth := 60) [*]

@[simp] theorem State.runBoot_keeps {r0 : State} (s : State) (f : BootFacts) (hK : Keeps r0 s) : Keeps r0 (State.runBoot s f) := by simp (maxDischargeDepth := 60) [State.runBoot, *]

theorem execResetInDeassert_keeps {r0 : State} (f : BootFacts) (s : State) {tK : State} (hK : Keeps r0 s) (eK : execResetInDeassert f s = .next tK) : Keeps r0 tK := by
  unfold execResetInDeassert at eK
  repeat' split at eK
  all_goals (injection eK with eK; subst eK)
  all_goals simp (maxDischargeDepth := 60) [*]

theorem execResetInAssert_keeps {r0 : State} (ns : Nat) (s : State) {tK : State} (hK : Keeps r0 s) (eK : execResetInAssert ns s = .next tK) : Keeps r0 tK := by
  unfold execResetInAssert at eK
  repeat' split at eK
  all_goals (injection eK with eK; subst eK)
  all_goals simp (maxDischargeDepth := 60) [*]

theorem execCoolantOkRise_keeps {r0 : State} (s : State) {tK : State} (hK : Keeps r0 s) (eK : execCoolantOkRise s = .next tK) : Keeps r0 tK := by
  unfold execCoolantOkRise at eK
  repeat' split at eK
  all_goals (injection eK with eK; subst eK)
  all_goals simp (maxDischargeDepth := 60) [*]

@[simp] theorem State.readyPorts_keeps {r0 : State} (s : State) (hK : Keeps r0 s) : Keeps r0 (State.readyPorts s) := by simp (maxDischargeDepth := 60) [State.readyPorts, *]

@[simp] theorem State.freeLinks_keeps {r0 : State} (s : State) (hK : Keeps r0 s) : Keeps r0 (State.freeLinks s) := by
  unfold State.freeLinks
  refine foldl_keeps ?_ _ ?_
  · intro s x hK
    repeat' split
    all_goals simp (maxDischargeDepth := 60) [*]
  · simp (maxDischargeDepth := 60) [*]

theorem execFirmwareReady_keeps {r0 : State} (s : State) {tK : State} (hK : Keeps r0 s) (eK : execFirmwareReady s = .next tK) : Keeps r0 tK := by
  unfold execFirmwareReady at eK
  (try dsimp only at eK)
  repeat' split at eK
  all_goals (injection eK with eK; subst eK)
  all_goals simp (maxDischargeDepth := 60) [*]

@[simp] theorem State.askRescue_keeps {r0 : State} (s : State) (hK : Keeps r0 s) : Keeps r0 (State.askRescue s) := by simp (maxDischargeDepth := 60) [State.askRescue, *]

@[simp] theorem State.refuseRescue_keeps {r0 : State} (s : State) (code detail : Nat) (hK : Keeps r0 s) : Keeps r0 (State.refuseRescue s code detail) := by simp (maxDischargeDepth := 60) [State.refuseRescue, *]

@[simp] theorem State.rescueGo_keeps {r0 : State} (s : State) (p : Port) (hK : Keeps r0 s) : Keeps r0 (State.rescueGo s p) := by
  unfold State.rescueGo
  dsimp only
  repeat' split
  all_goals simp (maxDischargeDepth := 60) [*]

theorem execPcieCompletionTimeout_keeps {r0 : State} (p : Port) (rid : Nat) (s : State) {tK : State} (hK : Keeps r0 s) (eK : execPcieCompletionTimeout p rid s = .next tK) : Keeps r0 tK := by
  unfold execPcieCompletionTimeout at eK
  repeat' split at eK
  all_goals (injection eK with eK; subst eK)
  all_goals simp (maxDischargeDepth := 60) [*]

theorem execRescueInstallDone_keeps {r0 : State} (ok : Bool) (s : State) {tK : State} (hK : Keeps r0 s) (eK : execRescueInstallDone ok s = .next tK) : Keeps r0 tK := by
  unfold execRescueInstallDone at eK
  repeat' split at eK
  all_goals (injection eK with eK; subst eK)
  all_goals simp (maxDischargeDepth := 60) [*]

theorem execLoaderReboot_keeps {r0 : State} (s : State) {tK : State} (hK : Keeps r0 s) (eK : execLoaderReboot s = .next tK) : Keeps r0 tK := by
  unfold execLoaderReboot at eK
  repeat' split at eK
  all_goals (injection eK with eK; subst eK)
  all_goals simp (maxDischargeDepth := 60) [*]

@[simp] theorem State.endForward_keeps {r0 : State} (s : State) (c : Nat) (j : DecJob) (g : DecProg) (hK : Keeps r0 s) : Keeps r0 (State.endForward s c j g) := by simp (maxDischargeDepth := 60) [State.endForward, *]

@[simp] theorem State.decBlocks_keeps {r : State} {reads : State → DecProg → List Range} {one : State → DecProg → State × DecProg} (h1 : ∀ s g, Keeps r s → Keeps r (one s g).1) (c nb n : Nat) {s : State} (g : DecProg) (h : Keeps r s) : Keeps r (State.decBlocks reads one c nb n s g).1 := by
  induction n generalizing s g with
  | zero => exact h
  | succ n ih =>
    unfold State.decBlocks; dsimp only
    split
    · exact h
    · split
      · exact h
      · exact ih _ (by simp [h1 s g h])

@[simp] theorem forwardBlock_keeps {r s : State} (c : Nat) (j : DecJob) (g : DecProg) (h : Keeps r s) : Keeps r (forwardBlock c j s g).1 := by
  unfold forwardBlock; dsimp only; exact State.useLanes_keeps _ _ (State.modRegs_keeps _ _ _ (State.sramWrites_keeps _ _ _ h))

@[simp] theorem recomputeBlock_keeps {r s : State} (c : Nat) (j : DecJob) (g : DecProg) (h : Keeps r s) : Keeps r (recomputeBlock c j s g).1 := by
  unfold recomputeBlock; dsimp only; exact State.useLanes_keeps _ _ (State.modRegs_keeps _ _ _ (State.sramWrites_keeps _ _ _ h))

@[simp] theorem State.decRun_keeps {r0 : State} (s : State) (c : Nat) (j : DecJob) (g : DecProg) (hK : Keeps r0 s) : Keeps r0 (State.decRun s c j g).1 := by
  unfold State.decRun
  refine State.decBlocks_keeps (fun s g h => ?_) _ _ _ _ hK
  split
  · exact recomputeBlock_keeps _ _ _ h
  · exact forwardBlock_keeps _ _ _ h

@[simp] theorem State.decGoOn_keeps {r0 : State} (s : State) (c : Nat) (j : DecJob) (g : DecProg) (hK : Keeps r0 s) : Keeps r0 (State.decGoOn s c j g) := by
  unfold State.decGoOn
  dsimp only
  repeat' split
  all_goals simp (maxDischargeDepth := 60) [*]

@[simp] theorem State.runDec_keeps {r0 : State} (s : State) (c w : Nat) (hK : Keeps r0 s) : Keeps r0 (State.runDec s c w) := by
  unfold State.runDec
  split
  · exact State.coreFault_keeps _ _ _ hK
  · exact State.decGoOn_keeps _ _ _ _ hK

@[simp] theorem execDec_keeps {r0 : State} (c w : Nat) (s : State) (hK : Keeps r0 s) : Keeps r0 (execDec c w s) := by
  unfold execDec
  dsimp only
  split
  · exact State.runWord_keeps _ _ _ _ _ _ _ (fun u h => State.runDec_keeps _ _ _ h) hK
  · split
    · exact hK
    · have h := fun j g => State.decGoOn_keeps s c j g hK
      split
      · exact h _ _
      · exact State.modRun_keeps _ _ _ (h _ _)

theorem execDecanterForward_keeps {r0 : State} (c : Fin 64) (w : Word) (s : State) {tK : State} (hK : Keeps r0 s) (eK : execDecanterForward c w s = .next tK) : Keeps r0 tK := by
  unfold execDecanterForward at eK
  all_goals (rw [← coreWord_next eK])
  all_goals simp +contextual (maxDischargeDepth := 60) [*]

theorem execDecanterRecompute_keeps {r0 : State} (c : Fin 64) (w : Word) (s : State) {tK : State} (hK : Keeps r0 s) (eK : execDecanterRecompute c w s = .next tK) : Keeps r0 tK := by
  unfold execDecanterRecompute at eK
  all_goals (rw [← coreWord_next eK])
  all_goals simp +contextual (maxDischargeDepth := 60) [*]

@[simp] theorem State.clocks_keeps {r0 : State} (s : State) (hK : Keeps r0 s) : Keeps r0 (State.clocks s) := by
  unfold State.clocks; split <;> simp (maxDischargeDepth := 60) [*]

@[simp] theorem State.tick_keeps {r0 : State} (s : State) (hK : Keeps r0 s) : Keeps r0 (State.tick s) := by
  have hC := State.clocks_keeps _ (keeps_ite (s.alive = true) (State.sendColls_keeps s hK) hK)
  unfold State.tick; split
  · exact hC
  · exact hK

theorem execNop_keeps {r0 : State} (c : Fin 64) (w : Word) (s : State) {tK : State} (hK : Keeps r0 s) (eK : execNop c w s = .next tK) : Keeps r0 tK := by
  unfold execNop at eK
  all_goals (rw [← coreWord_next eK])
  all_goals simp +contextual (maxDischargeDepth := 60) [*]

theorem execEndPart_keeps {r0 : State} (c : Fin 64) (w : Word) (s : State) {tK : State} (hK : Keeps r0 s) (eK : execEndPart c w s = .next tK) : Keeps r0 tK := by
  unfold execEndPart at eK
  (try dsimp only at eK)
  all_goals (rw [← coreWord_next eK])
  all_goals simp +contextual (maxDischargeDepth := 60) [*]

theorem execLoop_keeps {r0 : State} (c : Fin 64) (w : Word) (s : State) {tK : State} (hK : Keeps r0 s) (eK : execLoop c w s = .next tK) : Keeps r0 tK := by
  unfold execLoop at eK
  (try dsimp only at eK)
  repeat' split at eK
  all_goals (rw [← coreWord_next eK])
  all_goals simp +contextual (maxDischargeDepth := 60) [*]

theorem execSetc_keeps {r0 : State} (c : Fin 64) (w : Word) (s : State) {tK : State} (hK : Keeps r0 s) (eK : execSetc c w s = .next tK) : Keeps r0 tK := by
  unfold execSetc at eK
  (try dsimp only at eK)
  all_goals (rw [← coreWord_next eK])
  all_goals simp +contextual (maxDischargeDepth := 60) [*]

theorem execLdcx_keeps {r0 : State} (c : Fin 64) (w : Word) (s : State) {tK : State} (hK : Keeps r0 s) (eK : execLdcx c w s = .next tK) : Keeps r0 tK := by
  unfold execLdcx at eK
  (try dsimp only at eK)
  all_goals (rw [← coreWord_next eK])
  all_goals simp +contextual (maxDischargeDepth := 60) [*]

@[simp] theorem State.noteRefusal_keeps {r0 : State} (s : State) (r : Requester) (reason off : Nat) (hK : Keeps r0 s) : Keeps r0 (State.noteRefusal s r reason off) := by simp (maxDischargeDepth := 60) [State.noteRefusal, *]

@[simp] theorem State.refuseWrite_keeps {r0 : State} (s : State) (r : Requester) (b : Blk) (o reason code : Nat) (hK : Keeps r0 s) : Keeps r0 (State.refuseWrite s r b o reason code) := by
  unfold State.refuseWrite
  dsimp only
  repeat' split
  all_goals simp (maxDischargeDepth := 60) [*]

@[simp] theorem State.writeLink_keeps {r0 : State} (s : State) (l v : Nat) (hK : Keeps r0 s) : Keeps r0 (State.writeLink s l v) := by simp (maxDischargeDepth := 60) [State.writeLink, *]

@[simp] theorem State.writeSec_keeps {r0 : State} (s : State) (r : Requester) (o v : Nat) (hK : Keeps r0 s) : Keeps r0 (State.writeSec s r o v) := by
  unfold State.writeSec
  dsimp only
  repeat' split
  all_goals simp (maxDischargeDepth := 60) [*]

@[simp] theorem State.writeBoot_keeps {r0 : State} (s : State) (r : Requester) (o v : Nat) (hK : Keeps r0 s) : Keeps r0 (State.writeBoot s r o v) := by
  unfold State.writeBoot
  dsimp only
  repeat' split
  all_goals simp (maxDischargeDepth := 60) [*]

@[simp] theorem State.writeKick_keeps {r0 : State} (s : State) (r : Requester) (v : Nat) (hK : Keeps r0 s) : Keeps r0 (State.writeKick s r v) := by
  unfold State.writeKick
  repeat' split
  all_goals simp (maxDischargeDepth := 60) [*]

@[simp] theorem State.writeIntake_keeps {r0 : State} (s : State) (p : Port) (n i v : Nat) (hK : Keeps r0 s) : Keeps r0 (State.writeIntake s p n i v) := by
  unfold State.writeIntake
  repeat' split
  all_goals simp (maxDischargeDepth := 60) [*]

@[simp] theorem State.writeWindow_keeps {r0 : State} (s : State) (p : Port) (w i v : Nat) (hK : Keeps r0 s) : Keeps r0 (State.writeWindow s p w i v) := by
  unfold State.writeWindow
  repeat' split
  all_goals simp (maxDischargeDepth := 60) [*]

@[simp] theorem State.applyWrite_keeps {r0 : State} (s : State) (r : Requester) (b : Blk) (o v : Nat) (hK : Keeps r0 s) : Keeps r0 (State.applyWrite s r b o v) := by
  unfold State.applyWrite
  repeat' split
  all_goals simp (maxDischargeDepth := 60) [*]

@[simp] theorem State.touchDom_keeps {r0 : State} (s : State) (d : Nat) (hK : Keeps r0 s) : Keeps r0 (State.touchDom s d) := by simp (maxDischargeDepth := 60) [State.touchDom, *]

@[simp] theorem State.touch_keeps {r0 : State} (s : State) (b : Blk) (hK : Keeps r0 s) : Keeps r0 (State.touch s b) := by
  unfold State.touch
  repeat' split
  all_goals simp (maxDischargeDepth := 60) [*]

@[simp] theorem State.regWrite_keeps {r0 : State} (s : State) (r : Requester) (off v : Nat) (hK : Keeps r0 s) : Keeps r0 (State.regWrite s r off v) := by
  unfold State.regWrite
  dsimp only
  repeat' split
  all_goals simp (maxDischargeDepth := 60) [*]

@[simp] theorem State.badSized_keeps {r0 : State} (s : State) (r : Requester) (off : Nat) (hK : Keeps r0 s) : Keeps r0 (State.badSized s r off) := by simp (maxDischargeDepth := 60) [State.badSized, *]

@[simp] theorem State.sizedWrite_keeps {r0 : State} (s : State) (r : Requester) (off size v : Nat) (hK : Keeps r0 s) : Keeps r0 (State.sizedWrite s r off size v) := by simp (maxDischargeDepth := 60) [State.sizedWrite, *]

theorem execRegisterWrite_keeps {r0 : State} (r : Requester) (t : RegTarget) (size : Nat) (v : BitVec 64) (s : State) {tK : State} (hK : Keeps r0 s) (eK : execRegisterWrite r t size v s = .next tK) : Keeps r0 tK := by
  unfold execRegisterWrite at eK
  repeat' split at eK
  all_goals (first | (injection eK with eK; subst eK) | contradiction)
  all_goals simp (maxDischargeDepth := 60) [*]

theorem execKick_keeps {r0 : State} (r : Requester) (v : BitVec 64) (s : State) {tK : State} (hK : Keeps r0 s) (eK : execKick r v s = .next tK) : Keeps r0 tK := by
  unfold execKick at eK
  injection eK with eK
  subst eK
  simp (maxDischargeDepth := 60) [*]

theorem execCtrClear_keeps {r0 : State} (r : Requester) (c : Fin 64) (v : BitVec 64) (s : State) {tK : State} (hK : Keeps r0 s) (eK : execCtrClear r c v s = .next tK) : Keeps r0 tK := by
  unfold execCtrClear at eK
  injection eK with eK
  subst eK
  simp (maxDischargeDepth := 60) [*]

theorem linkCmd_next {b : Bool} {q : Requester} {l : Nat} {v : BitVec 64} {s t : State} (e : linkCmd b q l v s = .next t) : s.regWrite q ((Blk.link l).base + 0x010) v.toNat = t := by
  unfold linkCmd at e; split at e
  · injection e
  · cases e

theorem execLinkEnable_keeps {r0 : State} (r : Requester) (l : Fin 48) (v : BitVec 64) (s : State) {tK : State} (hK : Keeps r0 s) (eK : execLinkEnable r l v s = .next tK) : Keeps r0 tK := by
  unfold execLinkEnable at eK
  all_goals (rw [← linkCmd_next eK])
  all_goals simp +contextual (maxDischargeDepth := 60) [*]

theorem execLinkDisable_keeps {r0 : State} (r : Requester) (l : Fin 48) (v : BitVec 64) (s : State) {tK : State} (hK : Keeps r0 s) (eK : execLinkDisable r l v s = .next tK) : Keeps r0 tK := by
  unfold execLinkDisable at eK
  all_goals (rw [← linkCmd_next eK])
  all_goals simp +contextual (maxDischargeDepth := 60) [*]

theorem execRetrain_keeps {r0 : State} (r : Requester) (l : Fin 48) (v : BitVec 64) (s : State) {tK : State} (hK : Keeps r0 s) (eK : execRetrain r l v s = .next tK) : Keeps r0 tK := by
  unfold execRetrain at eK
  all_goals (rw [← linkCmd_next eK])
  all_goals simp +contextual (maxDischargeDepth := 60) [*]

theorem execQuarRelease_keeps {r0 : State} (r : Requester) (l : Fin 48) (v : BitVec 64) (s : State) {tK : State} (hK : Keeps r0 s) (eK : execQuarRelease r l v s = .next tK) : Keeps r0 tK := by
  unfold execQuarRelease at eK
  all_goals (rw [← linkCmd_next eK])
  all_goals simp +contextual (maxDischargeDepth := 60) [*]

theorem execRackingWindowEnable_keeps {r0 : State} (r : Requester) (p : Port) (win : Fin 64) (v : BitVec 64) (s : State) {tK : State} (hK : Keeps r0 s) (eK : execRackingWindowEnable r p win v s = .next tK) : Keeps r0 tK := by
  unfold execRackingWindowEnable at eK
  repeat' split at eK
  all_goals (first | (injection eK with eK; subst eK) | contradiction)
  all_goals simp (maxDischargeDepth := 60) [*]

theorem execRingEnable_keeps {r0 : State} (r : Requester) (p : Port) (n : Fin 16) (v : BitVec 64) (s : State) {tK : State} (hK : Keeps r0 s) (eK : execRingEnable r p n v s = .next tK) : Keeps r0 tK := by
  unfold execRingEnable at eK
  repeat' split at eK
  all_goals (first | (injection eK with eK; subst eK) | contradiction)
  all_goals simp (maxDischargeDepth := 60) [*]

theorem execRingDisable_keeps {r0 : State} (r : Requester) (p : Port) (n : Fin 16) (v : BitVec 64) (s : State) {tK : State} (hK : Keeps r0 s) (eK : execRingDisable r p n v s = .next tK) : Keeps r0 tK := by
  unfold execRingDisable at eK
  repeat' split at eK
  all_goals (first | (injection eK with eK; subst eK) | contradiction)
  all_goals simp (maxDischargeDepth := 60) [*]

theorem execCqHeadWrite_keeps {r0 : State} (r : Requester) (p : Port) (n : Fin 16) (v : BitVec 64) (s : State) {tK : State} (hK : Keeps r0 s) (eK : execCqHeadWrite r p n v s = .next tK) : Keeps r0 tK := by
  unfold execCqHeadWrite at eK
  injection eK with eK
  subst eK
  simp (maxDischargeDepth := 60) [*]

theorem execZeroise_keeps {r0 : State} (r : Requester) (v : BitVec 64) (s : State) {tK : State} (hK : Keeps r0 s) (eK : execZeroise r v s = .next tK) : Keeps r0 tK := by
  unfold execZeroise at eK
  repeat' split at eK
  all_goals (first | (injection eK with eK; subst eK) | contradiction)
  all_goals simp (maxDischargeDepth := 60) [*]

theorem execAttestationGo_keeps {r0 : State} (r : Requester) (v : BitVec 64) (s : State) {tK : State} (hK : Keeps r0 s) (eK : execAttestationGo r v s = .next tK) : Keeps r0 tK := by
  unfold execAttestationGo at eK
  repeat' split at eK
  all_goals (first | (injection eK with eK; subst eK) | contradiction)
  all_goals simp (maxDischargeDepth := 60) [*]

theorem execRescueNext_keeps {r0 : State} (r : Requester) (v : BitVec 64) (s : State) {tK : State} (hK : Keeps r0 s) (eK : execRescueNext r v s = .next tK) : Keeps r0 tK := by
  unfold execRescueNext at eK
  repeat' split at eK
  all_goals (first | (injection eK with eK; subst eK) | contradiction)
  all_goals simp (maxDischargeDepth := 60) [*]

theorem execRescueGo_keeps {r0 : State} (r : Requester) (v : BitVec 64) (host : Cells) (s : State) {tK : State} (hK : Keeps r0 s) (eK : execRescueGo r v host s = .next tK) : Keeps r0 tK := by
  unfold execRescueGo at eK
  repeat' split at eK
  all_goals (first | (injection eK with eK; subst eK) | contradiction)
  all_goals simp (maxDischargeDepth := 60) [*]

theorem execLocalTimeLowRead_keeps {r0 : State} (r : Requester) (s : State) {tK : State} (hK : Keeps r0 s) (eK : execLocalTimeLowRead r s = .next tK) : Keeps r0 tK := by
  unfold execLocalTimeLowRead at eK
  repeat' split at eK
  all_goals (injection eK with eK; subst eK)
  all_goals simp (maxDischargeDepth := 60) [*]

@[simp] theorem State.setDomainOff_keeps {r0 : State} (s : State) (b : Bool) (hK : Keeps r0 s) : Keeps r0 (State.setDomainOff s b) := by simp (maxDischargeDepth := 60) [State.setDomainOff, *]

@[simp] theorem State.dbgTouch_keeps {r0 : State} (s : State) (a : Nat) (hK : Keeps r0 s) : Keeps r0 (State.dbgTouch s a) := by
  unfold State.dbgTouch
  repeat' split
  all_goals simp (maxDischargeDepth := 60) [*]

@[simp] theorem State.dbgWrite_keeps {r s : State} (a v : Nat) (h : Keeps r s) : Keeps r (s.dbgWrite a v) := by
  unfold State.dbgWrite
  repeat' split
  all_goals first
    | exact State.writeDev_some (by assumption) h
    | simp [h]

theorem execDbgAccess_keeps {r0 : State} (x : DbgAccess) (s : State) {tK : State} (hK : Keeps r0 s) (eK : execDbgAccess x s = .next tK) : Keeps r0 tK := by
  unfold execDbgAccess at eK
  (try dsimp only at eK)
  repeat' split at eK
  all_goals (injection eK with eK; subst eK)
  all_goals simp +contextual (maxDischargeDepth := 60) [*]

theorem execDbgScan_keeps {r0 : State} (chain : Nat) (bits : List Bool) (s : State) {tK : State} (hK : Keeps r0 s) (eK : execDbgScan chain bits s = .next tK) : Keeps r0 tK := by
  unfold execDbgScan at eK
  (try dsimp only at eK)
  all_goals (injection eK with eK; subst eK)
  all_goals simp +contextual (maxDischargeDepth := 60) [*]

@[simp] theorem State.boundaryScan_keeps {r0 : State} (s : State) (bits : List Bool) (hK : Keeps r0 s) : Keeps r0 (State.boundaryScan s bits) := by simp (maxDischargeDepth := 60) [State.boundaryScan, *]

theorem execExtest_keeps {r0 : State} (bits : List Bool) (s : State) {tK : State} (hK : Keeps r0 s) (eK : execExtest bits s = .next tK) : Keeps r0 tK := by
  unfold execExtest at eK
  all_goals (injection eK with eK; subst eK)
  all_goals simp +contextual (maxDischargeDepth := 60) [*]

theorem execSamplePreload_keeps {r0 : State} (bits : List Bool) (s : State) {tK : State} (hK : Keeps r0 s) (eK : execSamplePreload bits s = .next tK) : Keeps r0 tK := by
  unfold execSamplePreload at eK
  all_goals (injection eK with eK; subst eK)
  all_goals simp +contextual (maxDischargeDepth := 60) [*]

theorem execIdcode_keeps {r0 : State} (s : State) {tK : State} (hK : Keeps r0 s) (eK : execIdcode s = .next tK) : Keeps r0 tK := by
  unfold execIdcode at eK
  all_goals (injection eK with eK; subst eK)
  all_goals simp +contextual (maxDischargeDepth := 60) [*]

theorem execClamp_keeps {r0 : State} (bits : List Bool) (s : State) {tK : State} (hK : Keeps r0 s) (eK : execClamp bits s = .next tK) : Keeps r0 tK := by
  unfold execClamp at eK
  all_goals (injection eK with eK; subst eK)
  all_goals simp +contextual (maxDischargeDepth := 60) [*]

theorem execHighz_keeps {r0 : State} (bits : List Bool) (s : State) {tK : State} (hK : Keeps r0 s) (eK : execHighz bits s = .next tK) : Keeps r0 tK := by
  unfold execHighz at eK
  all_goals (injection eK with eK; subst eK)
  all_goals simp +contextual (maxDischargeDepth := 60) [*]

theorem execBypass_keeps {r0 : State} (s : State) {tK : State} (hK : Keeps r0 s) (eK : execBypass s = .next tK) : Keeps r0 tK := by
  unfold execBypass at eK
  all_goals (injection eK with eK; subst eK)
  all_goals simp +contextual (maxDischargeDepth := 60) [*]

@[simp] theorem State.losePower_keeps {r s : State} (h : Keeps r s) : Keeps r s.losePower := keeps_reset h (fun _ => rfl) rfl rfl

theorem execSupply52vApply_keeps {r0 : State} (s : State) {tK : State} (hK : Keeps r0 s) (eK : execSupply52vApply s = .next tK) : Keeps r0 tK := by
  unfold execSupply52vApply at eK
  injection eK with eK
  subst eK
  simp (maxDischargeDepth := 60) [*]

theorem execEnMate_keeps {r0 : State} (s : State) {tK : State} (hK : Keeps r0 s) (eK : execEnMate s = .next tK) : Keeps r0 tK := by
  unfold execEnMate at eK
  injection eK with eK
  subst eK
  simp (maxDischargeDepth := 60) [*]

theorem execPowerOnResetEnd_keeps {r0 : State} (s : State) {tK : State} (hK : Keeps r0 s) (eK : execPowerOnResetEnd s = .next tK) : Keeps r0 tK := by
  unfold execPowerOnResetEnd at eK
  repeat' split at eK
  all_goals (injection eK with eK; subst eK)
  all_goals simp (maxDischargeDepth := 60) [*]

theorem execEnBreak_keeps {r0 : State} (s : State) {tK : State} (hK : Keeps r0 s) (eK : execEnBreak s = .next tK) : Keeps r0 tK := by
  unfold execEnBreak at eK
  injection eK with eK
  subst eK
  simp (maxDischargeDepth := 60) [*]

theorem execInputLockout_keeps {r0 : State} (s : State) {tK : State} (hK : Keeps r0 s) (eK : execInputLockout s = .next tK) : Keeps r0 tK := by
  unfold execInputLockout at eK
  injection eK with eK
  subst eK
  simp (maxDischargeDepth := 60) [*]

theorem execCircuitBreakerTrip_keeps {r0 : State} (s : State) {tK : State} (hK : Keeps r0 s) (eK : execCircuitBreakerTrip s = .next tK) : Keeps r0 tK := by
  unfold execCircuitBreakerTrip at eK
  injection eK with eK
  subst eK
  simp (maxDischargeDepth := 60) [*]

@[simp] theorem State.smbus_keeps {r0 : State} (s : State) (x : SmbCall) (sent : List Nat) (act : State → State) (hact : ∀ x0, Keeps r0 x0 → Keeps r0 (act x0)) (hK : Keeps r0 s) : Keeps r0 (State.smbus s x sent act) := by simp (maxDischargeDepth := 60) [State.smbus, *]

@[simp] theorem State.smbDrive_keeps {r0 : State} (s : State) (x : SmbCall) (hK : Keeps r0 s) : Keeps r0 (State.smbDrive s x) := by simp (maxDischargeDepth := 60) [State.smbDrive, *]

@[simp] theorem State.answer_keeps {r0 : State} (s : State) (x : SmbCall) (sent : List Nat) (block : Bool) (bs : List Nat) (hK : Keeps r0 s) : Keeps r0 (State.answer s x sent block bs) := by simp (maxDischargeDepth := 60) [State.answer, *]

@[simp] theorem State.smbRead_keeps {r0 : State} (s : State) (x : SmbCall) (sent : List Nat) (block : Bool) (bs : List Nat) (hK : Keeps r0 s) : Keeps r0 (State.smbRead s x sent block bs) := by
  unfold State.smbRead
  (try dsimp only)
  repeat' split
  all_goals simp +contextual (maxDischargeDepth := 60) [*]

theorem execReadId_keeps {r0 : State} (s : State) {tK : State} (hK : Keeps r0 s) (eK : execReadId s = .next tK) : Keeps r0 tK := by
  unfold execReadId at eK
  injection eK with eK
  subst eK
  simp (maxDischargeDepth := 60) [*]

theorem execReadStatus_keeps {r0 : State} (s : State) {tK : State} (hK : Keeps r0 s) (eK : execReadStatus s = .next tK) : Keeps r0 tK := by
  unfold execReadStatus at eK
  injection eK with eK
  subst eK
  simp (maxDischargeDepth := 60) [*]

theorem execReadPower_keeps {r0 : State} (s : State) {tK : State} (hK : Keeps r0 s) (eK : execReadPower s = .next tK) : Keeps r0 tK := by
  unfold execReadPower at eK
  injection eK with eK
  subst eK
  simp (maxDischargeDepth := 60) [*]

theorem execReadTrip_keeps {r0 : State} (s : State) {tK : State} (hK : Keeps r0 s) (eK : execReadTrip s = .next tK) : Keeps r0 tK := by
  unfold execReadTrip at eK
  injection eK with eK
  subst eK
  simp (maxDischargeDepth := 60) [*]

theorem execReadLog_keeps {r0 : State} (k : BitVec 16) (s : State) {tK : State} (hK : Keeps r0 s) (eK : execReadLog k s = .next tK) : Keeps r0 tK := by
  unfold execReadLog at eK
  injection eK with eK
  subst eK
  simp (maxDischargeDepth := 60) [*]

theorem execReadRepair_keeps {r0 : State} (k : BitVec 16) (s : State) {tK : State} (hK : Keeps r0 s) (eK : execReadRepair k s = .next tK) : Keeps r0 tK := by
  unfold execReadRepair at eK
  injection eK with eK
  subst eK
  simp (maxDischargeDepth := 60) [*]

theorem execReadTime_keeps {r0 : State} (s : State) {tK : State} (hK : Keeps r0 s) (eK : execReadTime s = .next tK) : Keeps r0 tK := by
  unfold execReadTime at eK
  injection eK with eK
  subst eK
  simp (maxDischargeDepth := 60) [*]

theorem execZarm_keeps {r0 : State} (s : State) {tK : State} (hK : Keeps r0 s) (eK : execZarm s = .next tK) : Keeps r0 tK := by
  unfold execZarm at eK
  (try dsimp only at eK)
  repeat' split at eK
  all_goals (first | (injection eK with eK; subst eK) | contradiction)
  all_goals (repeat (rename _ = (_, _) => hq; have h1 := congrArg Prod.snd hq; dsimp only at h1; subst h1; clear hq))
  all_goals simp +contextual (maxDischargeDepth := 60) [*]

theorem execZarmExpiry_keeps {r0 : State} (s : State) {tK : State} (hK : Keeps r0 s) (eK : execZarmExpiry s = .next tK) : Keeps r0 tK := by
  unfold execZarmExpiry at eK
  repeat' split at eK
  all_goals (injection eK with eK; subst eK)
  all_goals simp (maxDischargeDepth := 60) [*]

@[simp] theorem State.smbZeroise_keeps {r0 : State} (s : State) (hK : Keeps r0 s) : Keeps r0 (State.smbZeroise s) := by simp (maxDischargeDepth := 60) [State.smbZeroise, *]

theorem execSmbZeroise_keeps {r0 : State} (x : SmbCall) (s : State) {tK : State} (hK : Keeps r0 s) (eK : execSmbZeroise x s = .next tK) : Keeps r0 tK := by
  unfold execSmbZeroise at eK
  (try dsimp only at eK)
  repeat' split at eK
  all_goals (first | (injection eK with eK; subst eK) | contradiction)
  all_goals (repeat (rename _ = (_, _) => hq; have h1 := congrArg Prod.snd hq; dsimp only at h1; subst h1; clear hq))
  all_goals simp +contextual (maxDischargeDepth := 60) [*]

theorem execSmbRescue_keeps {r0 : State} (x : SmbCall) (s : State) {tK : State} (hK : Keeps r0 s) (eK : execSmbRescue x s = .next tK) : Keeps r0 tK := by
  unfold execSmbRescue at eK
  (try dsimp only at eK)
  repeat' split at eK
  all_goals (first | (injection eK with eK; subst eK) | contradiction)
  all_goals (repeat (rename _ = (_, _) => hq; have h1 := congrArg Prod.snd hq; dsimp only at h1; subst h1; clear hq))
  all_goals simp +contextual (maxDischargeDepth := 60) [*]

@[simp] theorem State.runMap_keeps {r0 : State} (s : State) (c w : Nat) (hK : Keeps r0 s) : Keeps r0 (State.runMap s c w) := by simp (maxDischargeDepth := 60) [State.runMap, *]

theorem execMap_keeps {r0 : State} (c : Fin 64) (w : Word) (s : State) {tK : State} (hK : Keeps r0 s) (eK : execMap c w s = .next tK) : Keeps r0 tK := by
  unfold execMap at eK
  (try dsimp only at eK)
  all_goals (rw [← coreWord_next eK])
  all_goals simp +contextual (maxDischargeDepth := 60) [*]

theorem execEpiset_keeps {r0 : State} (c : Fin 64) (w : Word) (s : State) {tK : State} (hK : Keeps r0 s) (eK : execEpiset c w s = .next tK) : Keeps r0 tK := by
  unfold execEpiset at eK
  (try dsimp only at eK)
  all_goals (rw [← coreWord_next eK])
  all_goals simp +contextual (maxDischargeDepth := 60) [*]

@[simp] theorem State.runRowstat_keeps {r0 : State} (s : State) (c w : Nat) (hK : Keeps r0 s) : Keeps r0 (State.runRowstat s c w) := by simp (maxDischargeDepth := 60) [State.runRowstat, *]

theorem execRowstat_keeps {r0 : State} (c : Fin 64) (w : Word) (s : State) {tK : State} (hK : Keeps r0 s) (eK : execRowstat c w s = .next tK) : Keeps r0 tK := by
  unfold execRowstat at eK
  (try dsimp only at eK)
  all_goals (rw [← coreWord_next eK])
  all_goals simp +contextual (maxDischargeDepth := 60) [*]

@[simp] theorem State.runCombine_keeps {r0 : State} (s : State) (c w : Nat) (hK : Keeps r0 s) : Keeps r0 (State.runCombine s c w) := by simp (maxDischargeDepth := 60) [State.runCombine, *]

theorem execRowstatCombine_keeps {r0 : State} (c : Fin 64) (w : Word) (s : State) {tK : State} (hK : Keeps r0 s) (eK : execRowstatCombine c w s = .next tK) : Keeps r0 tK := by
  unfold execRowstatCombine at eK
  (try dsimp only at eK)
  all_goals (rw [← coreWord_next eK])
  all_goals simp +contextual (maxDischargeDepth := 60) [*]

@[simp] theorem State.runRownorm_keeps {r0 : State} (s : State) (c w : Nat) (hK : Keeps r0 s) : Keeps r0 (State.runRownorm s c w) := by simp (maxDischargeDepth := 60) [State.runRownorm, *]

theorem execRownorm_keeps {r0 : State} (c : Fin 64) (w : Word) (s : State) {tK : State} (hK : Keeps r0 s) (eK : execRownorm c w s = .next tK) : Keeps r0 tK := by
  unfold execRownorm at eK
  (try dsimp only at eK)
  all_goals (rw [← coreWord_next eK])
  all_goals simp +contextual (maxDischargeDepth := 60) [*]

@[simp] theorem State.runTbload_keeps {r0 : State} (s : State) (c w : Nat) (hK : Keeps r0 s) : Keeps r0 (State.runTbload s c w) := by simp (maxDischargeDepth := 60) [State.runTbload, *]

theorem execTbload_keeps {r0 : State} (c : Fin 64) (w : Word) (s : State) {tK : State} (hK : Keeps r0 s) (eK : execTbload c w s = .next tK) : Keeps r0 tK := by
  unfold execTbload at eK
  (try dsimp only at eK)
  all_goals (rw [← coreWord_next eK])
  all_goals simp +contextual (maxDischargeDepth := 60) [*]

@[simp] theorem State.withFetchWord_keeps {r0 : State} (s : State) (nbits w : Nat) (hK : Keeps r0 s) : Keeps r0 (State.withFetchWord s nbits w) := by
  unfold State.withFetchWord
  repeat' (first | assumption | (intro _ _ _) | (intro _ _) | split | apply State.intake_keeps | apply State.receiveIn_keeps | apply State.receive_keeps | apply State.onObject_keeps | apply State.tap_keeps | apply State.smbus_keeps | apply foldl_keeps | simp +contextual (maxDischargeDepth := 60) [*] | dsimp only)

@[simp] theorem State.taken_keeps {r0 : State} (s : State) (l : Nat) (f : Frame) (hK : Keeps r0 s) : Keeps r0 (State.taken s l f) := by simp (maxDischargeDepth := 60) [State.taken, *]

@[simp] theorem State.entryTaken_keeps {r0 : State} (s : State) (p : Port) (n : Nat) (e : BitVec 256) (hK : Keeps r0 s) : Keeps r0 (State.entryTaken s p n e) := by simp (maxDischargeDepth := 60) [State.entryTaken, *]

end Sys2Proof.Machine
end

