-- ==== Sys2Proof/Laws/State.lean ====
section
/-! SUPPORT. What each update of State does to each field: one lemma per update and field, so that no proof unfolds a record update;
then the entry read back from a table after an update. -/

namespace Sys2Proof.Machine

@[simp] theorem State.modCore_time (s : State) (c : Nat) (f : Core → Core) : (s.modCore c f).time = s.time := rfl
@[simp] theorem State.modCore_mem (s : State) (c : Nat) (f : Core → Core) : (s.modCore c f).mem = s.mem := rfl
@[simp] theorem State.modCore_cores (s : State) (c : Nat) (f : Core → Core) : (s.modCore c f).cores = Tbl.upd {} c f s.cores := rfl
@[simp] theorem State.modCore_slots (s : State) (c : Nat) (f : Core → Core) : (s.modCore c f).slots = s.slots := rfl
@[simp] theorem State.modCore_sync (s : State) (c : Nat) (f : Core → Core) : (s.modCore c f).sync = s.sync := rfl
@[simp] theorem State.modCore_pages (s : State) (c : Nat) (f : Core → Core) : (s.modCore c f).pages = s.pages := rfl
@[simp] theorem State.modCore_serve (s : State) (c : Nat) (f : Core → Core) : (s.modCore c f).serve = s.serve := rfl
@[simp] theorem State.modCore_portA (s : State) (c : Nat) (f : Core → Core) : (s.modCore c f).portA = s.portA := rfl
@[simp] theorem State.modCore_portB (s : State) (c : Nat) (f : Core → Core) : (s.modCore c f).portB = s.portB := rfl
@[simp] theorem State.modCore_integ (s : State) (c : Nat) (f : Core → Core) : (s.modCore c f).integ = s.integ := rfl
@[simp] theorem State.modCore_links (s : State) (c : Nat) (f : Core → Core) : (s.modCore c f).links = s.links := rfl
@[simp] theorem State.modCore_lglob (s : State) (c : Nat) (f : Core → Core) : (s.modCore c f).lglob = s.lglob := rfl
@[simp] theorem State.modCore_sec (s : State) (c : Nat) (f : Core → Core) : (s.modCore c f).sec = s.sec := rfl
@[simp] theorem State.modCore_pow (s : State) (c : Nat) (f : Core → Core) : (s.modCore c f).pow = s.pow := rfl
@[simp] theorem State.modCore_glob (s : State) (c : Nat) (f : Core → Core) : (s.modCore c f).glob = s.glob := rfl
@[simp] theorem State.modCore_boot (s : State) (c : Nat) (f : Core → Core) : (s.modCore c f).boot = s.boot := rfl
@[simp] theorem State.modCore_board (s : State) (c : Nat) (f : Core → Core) : (s.modCore c f).board = s.board := rfl
@[simp] theorem State.modCore_out (s : State) (c : Nat) (f : Core → Core) : (s.modCore c f).out = s.out := rfl
@[simp] theorem State.modCore_pending (s : State) (c : Nat) (f : Core → Core) : (s.modCore c f).pending = s.pending := rfl

@[simp] theorem State.modRegs_time (s : State) (c : Nat) (f : CoreRegs → CoreRegs) : (s.modRegs c f).time = s.time := rfl
@[simp] theorem State.modRegs_mem (s : State) (c : Nat) (f : CoreRegs → CoreRegs) : (s.modRegs c f).mem = s.mem := rfl
@[simp] theorem State.modRegs_cores (s : State) (c : Nat) (f : CoreRegs → CoreRegs) : (s.modRegs c f).cores = Tbl.upd {} c (fun k => { k with regs := f k.regs }) s.cores := rfl
@[simp] theorem State.modRegs_slots (s : State) (c : Nat) (f : CoreRegs → CoreRegs) : (s.modRegs c f).slots = s.slots := rfl
@[simp] theorem State.modRegs_sync (s : State) (c : Nat) (f : CoreRegs → CoreRegs) : (s.modRegs c f).sync = s.sync := rfl
@[simp] theorem State.modRegs_pages (s : State) (c : Nat) (f : CoreRegs → CoreRegs) : (s.modRegs c f).pages = s.pages := rfl
@[simp] theorem State.modRegs_serve (s : State) (c : Nat) (f : CoreRegs → CoreRegs) : (s.modRegs c f).serve = s.serve := rfl
@[simp] theorem State.modRegs_portA (s : State) (c : Nat) (f : CoreRegs → CoreRegs) : (s.modRegs c f).portA = s.portA := rfl
@[simp] theorem State.modRegs_portB (s : State) (c : Nat) (f : CoreRegs → CoreRegs) : (s.modRegs c f).portB = s.portB := rfl
@[simp] theorem State.modRegs_integ (s : State) (c : Nat) (f : CoreRegs → CoreRegs) : (s.modRegs c f).integ = s.integ := rfl
@[simp] theorem State.modRegs_links (s : State) (c : Nat) (f : CoreRegs → CoreRegs) : (s.modRegs c f).links = s.links := rfl
@[simp] theorem State.modRegs_lglob (s : State) (c : Nat) (f : CoreRegs → CoreRegs) : (s.modRegs c f).lglob = s.lglob := rfl
@[simp] theorem State.modRegs_sec (s : State) (c : Nat) (f : CoreRegs → CoreRegs) : (s.modRegs c f).sec = s.sec := rfl
@[simp] theorem State.modRegs_pow (s : State) (c : Nat) (f : CoreRegs → CoreRegs) : (s.modRegs c f).pow = s.pow := rfl
@[simp] theorem State.modRegs_glob (s : State) (c : Nat) (f : CoreRegs → CoreRegs) : (s.modRegs c f).glob = s.glob := rfl
@[simp] theorem State.modRegs_boot (s : State) (c : Nat) (f : CoreRegs → CoreRegs) : (s.modRegs c f).boot = s.boot := rfl
@[simp] theorem State.modRegs_board (s : State) (c : Nat) (f : CoreRegs → CoreRegs) : (s.modRegs c f).board = s.board := rfl
@[simp] theorem State.modRegs_out (s : State) (c : Nat) (f : CoreRegs → CoreRegs) : (s.modRegs c f).out = s.out := rfl
@[simp] theorem State.modRegs_pending (s : State) (c : Nat) (f : CoreRegs → CoreRegs) : (s.modRegs c f).pending = s.pending := rfl

@[simp] theorem State.modRun_time (s : State) (c : Nat) (f : CoreRun → CoreRun) : (s.modRun c f).time = s.time := rfl
@[simp] theorem State.modRun_mem (s : State) (c : Nat) (f : CoreRun → CoreRun) : (s.modRun c f).mem = s.mem := rfl
@[simp] theorem State.modRun_cores (s : State) (c : Nat) (f : CoreRun → CoreRun) : (s.modRun c f).cores = Tbl.upd {} c (fun k => { k with run := f k.run }) s.cores := rfl
@[simp] theorem State.modRun_slots (s : State) (c : Nat) (f : CoreRun → CoreRun) : (s.modRun c f).slots = s.slots := rfl
@[simp] theorem State.modRun_sync (s : State) (c : Nat) (f : CoreRun → CoreRun) : (s.modRun c f).sync = s.sync := rfl
@[simp] theorem State.modRun_pages (s : State) (c : Nat) (f : CoreRun → CoreRun) : (s.modRun c f).pages = s.pages := rfl
@[simp] theorem State.modRun_serve (s : State) (c : Nat) (f : CoreRun → CoreRun) : (s.modRun c f).serve = s.serve := rfl
@[simp] theorem State.modRun_portA (s : State) (c : Nat) (f : CoreRun → CoreRun) : (s.modRun c f).portA = s.portA := rfl
@[simp] theorem State.modRun_portB (s : State) (c : Nat) (f : CoreRun → CoreRun) : (s.modRun c f).portB = s.portB := rfl
@[simp] theorem State.modRun_integ (s : State) (c : Nat) (f : CoreRun → CoreRun) : (s.modRun c f).integ = s.integ := rfl
@[simp] theorem State.modRun_links (s : State) (c : Nat) (f : CoreRun → CoreRun) : (s.modRun c f).links = s.links := rfl
@[simp] theorem State.modRun_lglob (s : State) (c : Nat) (f : CoreRun → CoreRun) : (s.modRun c f).lglob = s.lglob := rfl
@[simp] theorem State.modRun_sec (s : State) (c : Nat) (f : CoreRun → CoreRun) : (s.modRun c f).sec = s.sec := rfl
@[simp] theorem State.modRun_pow (s : State) (c : Nat) (f : CoreRun → CoreRun) : (s.modRun c f).pow = s.pow := rfl
@[simp] theorem State.modRun_glob (s : State) (c : Nat) (f : CoreRun → CoreRun) : (s.modRun c f).glob = s.glob := rfl
@[simp] theorem State.modRun_boot (s : State) (c : Nat) (f : CoreRun → CoreRun) : (s.modRun c f).boot = s.boot := rfl
@[simp] theorem State.modRun_board (s : State) (c : Nat) (f : CoreRun → CoreRun) : (s.modRun c f).board = s.board := rfl
@[simp] theorem State.modRun_out (s : State) (c : Nat) (f : CoreRun → CoreRun) : (s.modRun c f).out = s.out := rfl
@[simp] theorem State.modRun_pending (s : State) (c : Nat) (f : CoreRun → CoreRun) : (s.modRun c f).pending = s.pending := rfl

@[simp] theorem State.modSlot_time (s : State) (n : Nat) (f : CoreSlot → CoreSlot) : (s.modSlot n f).time = s.time := rfl
@[simp] theorem State.modSlot_mem (s : State) (n : Nat) (f : CoreSlot → CoreSlot) : (s.modSlot n f).mem = s.mem := rfl
@[simp] theorem State.modSlot_cores (s : State) (n : Nat) (f : CoreSlot → CoreSlot) : (s.modSlot n f).cores = s.cores := rfl
@[simp] theorem State.modSlot_slots (s : State) (n : Nat) (f : CoreSlot → CoreSlot) : (s.modSlot n f).slots = s.slots.set n (f (s.slot n)) := rfl
@[simp] theorem State.modSlot_sync (s : State) (n : Nat) (f : CoreSlot → CoreSlot) : (s.modSlot n f).sync = s.sync := rfl
@[simp] theorem State.modSlot_pages (s : State) (n : Nat) (f : CoreSlot → CoreSlot) : (s.modSlot n f).pages = s.pages := rfl
@[simp] theorem State.modSlot_serve (s : State) (n : Nat) (f : CoreSlot → CoreSlot) : (s.modSlot n f).serve = s.serve := rfl
@[simp] theorem State.modSlot_portA (s : State) (n : Nat) (f : CoreSlot → CoreSlot) : (s.modSlot n f).portA = s.portA := rfl
@[simp] theorem State.modSlot_portB (s : State) (n : Nat) (f : CoreSlot → CoreSlot) : (s.modSlot n f).portB = s.portB := rfl
@[simp] theorem State.modSlot_integ (s : State) (n : Nat) (f : CoreSlot → CoreSlot) : (s.modSlot n f).integ = s.integ := rfl
@[simp] theorem State.modSlot_links (s : State) (n : Nat) (f : CoreSlot → CoreSlot) : (s.modSlot n f).links = s.links := rfl
@[simp] theorem State.modSlot_lglob (s : State) (n : Nat) (f : CoreSlot → CoreSlot) : (s.modSlot n f).lglob = s.lglob := rfl
@[simp] theorem State.modSlot_sec (s : State) (n : Nat) (f : CoreSlot → CoreSlot) : (s.modSlot n f).sec = s.sec := rfl
@[simp] theorem State.modSlot_pow (s : State) (n : Nat) (f : CoreSlot → CoreSlot) : (s.modSlot n f).pow = s.pow := rfl
@[simp] theorem State.modSlot_glob (s : State) (n : Nat) (f : CoreSlot → CoreSlot) : (s.modSlot n f).glob = s.glob := rfl
@[simp] theorem State.modSlot_boot (s : State) (n : Nat) (f : CoreSlot → CoreSlot) : (s.modSlot n f).boot = s.boot := rfl
@[simp] theorem State.modSlot_board (s : State) (n : Nat) (f : CoreSlot → CoreSlot) : (s.modSlot n f).board = s.board := rfl
@[simp] theorem State.modSlot_out (s : State) (n : Nat) (f : CoreSlot → CoreSlot) : (s.modSlot n f).out = s.out := rfl
@[simp] theorem State.modSlot_pending (s : State) (n : Nat) (f : CoreSlot → CoreSlot) : (s.modSlot n f).pending = s.pending := rfl

@[simp] theorem State.modSync_time (s : State) (f : Sync → Sync) : (s.modSync f).time = s.time := rfl
@[simp] theorem State.modSync_mem (s : State) (f : Sync → Sync) : (s.modSync f).mem = s.mem := rfl
@[simp] theorem State.modSync_cores (s : State) (f : Sync → Sync) : (s.modSync f).cores = s.cores := rfl
@[simp] theorem State.modSync_slots (s : State) (f : Sync → Sync) : (s.modSync f).slots = s.slots := rfl
@[simp] theorem State.modSync_sync (s : State) (f : Sync → Sync) : (s.modSync f).sync = f s.sync := rfl
@[simp] theorem State.modSync_pages (s : State) (f : Sync → Sync) : (s.modSync f).pages = s.pages := rfl
@[simp] theorem State.modSync_serve (s : State) (f : Sync → Sync) : (s.modSync f).serve = s.serve := rfl
@[simp] theorem State.modSync_portA (s : State) (f : Sync → Sync) : (s.modSync f).portA = s.portA := rfl
@[simp] theorem State.modSync_portB (s : State) (f : Sync → Sync) : (s.modSync f).portB = s.portB := rfl
@[simp] theorem State.modSync_integ (s : State) (f : Sync → Sync) : (s.modSync f).integ = s.integ := rfl
@[simp] theorem State.modSync_links (s : State) (f : Sync → Sync) : (s.modSync f).links = s.links := rfl
@[simp] theorem State.modSync_lglob (s : State) (f : Sync → Sync) : (s.modSync f).lglob = s.lglob := rfl
@[simp] theorem State.modSync_sec (s : State) (f : Sync → Sync) : (s.modSync f).sec = s.sec := rfl
@[simp] theorem State.modSync_pow (s : State) (f : Sync → Sync) : (s.modSync f).pow = s.pow := rfl
@[simp] theorem State.modSync_glob (s : State) (f : Sync → Sync) : (s.modSync f).glob = s.glob := rfl
@[simp] theorem State.modSync_boot (s : State) (f : Sync → Sync) : (s.modSync f).boot = s.boot := rfl
@[simp] theorem State.modSync_board (s : State) (f : Sync → Sync) : (s.modSync f).board = s.board := rfl
@[simp] theorem State.modSync_out (s : State) (f : Sync → Sync) : (s.modSync f).out = s.out := rfl
@[simp] theorem State.modSync_pending (s : State) (f : Sync → Sync) : (s.modSync f).pending = s.pending := rfl

@[simp] theorem State.modTable_time (s : State) (n : Nat) (f : PassTable → PassTable) : (s.modTable n f).time = s.time := rfl
@[simp] theorem State.modTable_mem (s : State) (n : Nat) (f : PassTable → PassTable) : (s.modTable n f).mem = s.mem := rfl
@[simp] theorem State.modTable_cores (s : State) (n : Nat) (f : PassTable → PassTable) : (s.modTable n f).cores = s.cores := rfl
@[simp] theorem State.modTable_slots (s : State) (n : Nat) (f : PassTable → PassTable) : (s.modTable n f).slots = s.slots := rfl
@[simp] theorem State.modTable_pages (s : State) (n : Nat) (f : PassTable → PassTable) : (s.modTable n f).pages = s.pages := rfl
@[simp] theorem State.modTable_serve (s : State) (n : Nat) (f : PassTable → PassTable) : (s.modTable n f).serve = s.serve := rfl
@[simp] theorem State.modTable_portA (s : State) (n : Nat) (f : PassTable → PassTable) : (s.modTable n f).portA = s.portA := rfl
@[simp] theorem State.modTable_portB (s : State) (n : Nat) (f : PassTable → PassTable) : (s.modTable n f).portB = s.portB := rfl
@[simp] theorem State.modTable_integ (s : State) (n : Nat) (f : PassTable → PassTable) : (s.modTable n f).integ = s.integ := rfl
@[simp] theorem State.modTable_links (s : State) (n : Nat) (f : PassTable → PassTable) : (s.modTable n f).links = s.links := rfl
@[simp] theorem State.modTable_lglob (s : State) (n : Nat) (f : PassTable → PassTable) : (s.modTable n f).lglob = s.lglob := rfl
@[simp] theorem State.modTable_sec (s : State) (n : Nat) (f : PassTable → PassTable) : (s.modTable n f).sec = s.sec := rfl
@[simp] theorem State.modTable_pow (s : State) (n : Nat) (f : PassTable → PassTable) : (s.modTable n f).pow = s.pow := rfl
@[simp] theorem State.modTable_glob (s : State) (n : Nat) (f : PassTable → PassTable) : (s.modTable n f).glob = s.glob := rfl
@[simp] theorem State.modTable_boot (s : State) (n : Nat) (f : PassTable → PassTable) : (s.modTable n f).boot = s.boot := rfl
@[simp] theorem State.modTable_board (s : State) (n : Nat) (f : PassTable → PassTable) : (s.modTable n f).board = s.board := rfl
@[simp] theorem State.modTable_out (s : State) (n : Nat) (f : PassTable → PassTable) : (s.modTable n f).out = s.out := rfl
@[simp] theorem State.modTable_pending (s : State) (n : Nat) (f : PassTable → PassTable) : (s.modTable n f).pending = s.pending := rfl

@[simp] theorem State.modGroup_time (s : State) (g : Nat) (f : GroupRun → GroupRun) : (s.modGroup g f).time = s.time := rfl
@[simp] theorem State.modGroup_mem (s : State) (g : Nat) (f : GroupRun → GroupRun) : (s.modGroup g f).mem = s.mem := rfl
@[simp] theorem State.modGroup_cores (s : State) (g : Nat) (f : GroupRun → GroupRun) : (s.modGroup g f).cores = s.cores := rfl
@[simp] theorem State.modGroup_slots (s : State) (g : Nat) (f : GroupRun → GroupRun) : (s.modGroup g f).slots = s.slots := rfl
@[simp] theorem State.modGroup_pages (s : State) (g : Nat) (f : GroupRun → GroupRun) : (s.modGroup g f).pages = s.pages := rfl
@[simp] theorem State.modGroup_serve (s : State) (g : Nat) (f : GroupRun → GroupRun) : (s.modGroup g f).serve = s.serve := rfl
@[simp] theorem State.modGroup_portA (s : State) (g : Nat) (f : GroupRun → GroupRun) : (s.modGroup g f).portA = s.portA := rfl
@[simp] theorem State.modGroup_portB (s : State) (g : Nat) (f : GroupRun → GroupRun) : (s.modGroup g f).portB = s.portB := rfl
@[simp] theorem State.modGroup_integ (s : State) (g : Nat) (f : GroupRun → GroupRun) : (s.modGroup g f).integ = s.integ := rfl
@[simp] theorem State.modGroup_links (s : State) (g : Nat) (f : GroupRun → GroupRun) : (s.modGroup g f).links = s.links := rfl
@[simp] theorem State.modGroup_lglob (s : State) (g : Nat) (f : GroupRun → GroupRun) : (s.modGroup g f).lglob = s.lglob := rfl
@[simp] theorem State.modGroup_sec (s : State) (g : Nat) (f : GroupRun → GroupRun) : (s.modGroup g f).sec = s.sec := rfl
@[simp] theorem State.modGroup_pow (s : State) (g : Nat) (f : GroupRun → GroupRun) : (s.modGroup g f).pow = s.pow := rfl
@[simp] theorem State.modGroup_glob (s : State) (g : Nat) (f : GroupRun → GroupRun) : (s.modGroup g f).glob = s.glob := rfl
@[simp] theorem State.modGroup_boot (s : State) (g : Nat) (f : GroupRun → GroupRun) : (s.modGroup g f).boot = s.boot := rfl
@[simp] theorem State.modGroup_board (s : State) (g : Nat) (f : GroupRun → GroupRun) : (s.modGroup g f).board = s.board := rfl
@[simp] theorem State.modGroup_out (s : State) (g : Nat) (f : GroupRun → GroupRun) : (s.modGroup g f).out = s.out := rfl
@[simp] theorem State.modGroup_pending (s : State) (g : Nat) (f : GroupRun → GroupRun) : (s.modGroup g f).pending = s.pending := rfl

@[simp] theorem State.modPages_time (s : State) (f : Pages → Pages) : (s.modPages f).time = s.time := rfl
@[simp] theorem State.modPages_mem (s : State) (f : Pages → Pages) : (s.modPages f).mem = s.mem := rfl
@[simp] theorem State.modPages_cores (s : State) (f : Pages → Pages) : (s.modPages f).cores = s.cores := rfl
@[simp] theorem State.modPages_slots (s : State) (f : Pages → Pages) : (s.modPages f).slots = s.slots := rfl
@[simp] theorem State.modPages_sync (s : State) (f : Pages → Pages) : (s.modPages f).sync = s.sync := rfl
@[simp] theorem State.modPages_pages (s : State) (f : Pages → Pages) : (s.modPages f).pages = f s.pages := rfl
@[simp] theorem State.modPages_serve (s : State) (f : Pages → Pages) : (s.modPages f).serve = s.serve := rfl
@[simp] theorem State.modPages_portA (s : State) (f : Pages → Pages) : (s.modPages f).portA = s.portA := rfl
@[simp] theorem State.modPages_portB (s : State) (f : Pages → Pages) : (s.modPages f).portB = s.portB := rfl
@[simp] theorem State.modPages_integ (s : State) (f : Pages → Pages) : (s.modPages f).integ = s.integ := rfl
@[simp] theorem State.modPages_links (s : State) (f : Pages → Pages) : (s.modPages f).links = s.links := rfl
@[simp] theorem State.modPages_lglob (s : State) (f : Pages → Pages) : (s.modPages f).lglob = s.lglob := rfl
@[simp] theorem State.modPages_sec (s : State) (f : Pages → Pages) : (s.modPages f).sec = s.sec := rfl
@[simp] theorem State.modPages_pow (s : State) (f : Pages → Pages) : (s.modPages f).pow = s.pow := rfl
@[simp] theorem State.modPages_glob (s : State) (f : Pages → Pages) : (s.modPages f).glob = s.glob := rfl
@[simp] theorem State.modPages_boot (s : State) (f : Pages → Pages) : (s.modPages f).boot = s.boot := rfl
@[simp] theorem State.modPages_board (s : State) (f : Pages → Pages) : (s.modPages f).board = s.board := rfl
@[simp] theorem State.modPages_out (s : State) (f : Pages → Pages) : (s.modPages f).out = s.out := rfl
@[simp] theorem State.modPages_pending (s : State) (f : Pages → Pages) : (s.modPages f).pending = s.pending := rfl

@[simp] theorem State.modPage_time (s : State) (p : Nat) (f : PageDesc → PageDesc) : (s.modPage p f).time = s.time := rfl
@[simp] theorem State.modPage_mem (s : State) (p : Nat) (f : PageDesc → PageDesc) : (s.modPage p f).mem = s.mem := rfl
@[simp] theorem State.modPage_cores (s : State) (p : Nat) (f : PageDesc → PageDesc) : (s.modPage p f).cores = s.cores := rfl
@[simp] theorem State.modPage_slots (s : State) (p : Nat) (f : PageDesc → PageDesc) : (s.modPage p f).slots = s.slots := rfl
@[simp] theorem State.modPage_sync (s : State) (p : Nat) (f : PageDesc → PageDesc) : (s.modPage p f).sync = s.sync := rfl
@[simp] theorem State.modPage_serve (s : State) (p : Nat) (f : PageDesc → PageDesc) : (s.modPage p f).serve = s.serve := rfl
@[simp] theorem State.modPage_portA (s : State) (p : Nat) (f : PageDesc → PageDesc) : (s.modPage p f).portA = s.portA := rfl
@[simp] theorem State.modPage_portB (s : State) (p : Nat) (f : PageDesc → PageDesc) : (s.modPage p f).portB = s.portB := rfl
@[simp] theorem State.modPage_integ (s : State) (p : Nat) (f : PageDesc → PageDesc) : (s.modPage p f).integ = s.integ := rfl
@[simp] theorem State.modPage_links (s : State) (p : Nat) (f : PageDesc → PageDesc) : (s.modPage p f).links = s.links := rfl
@[simp] theorem State.modPage_lglob (s : State) (p : Nat) (f : PageDesc → PageDesc) : (s.modPage p f).lglob = s.lglob := rfl
@[simp] theorem State.modPage_sec (s : State) (p : Nat) (f : PageDesc → PageDesc) : (s.modPage p f).sec = s.sec := rfl
@[simp] theorem State.modPage_pow (s : State) (p : Nat) (f : PageDesc → PageDesc) : (s.modPage p f).pow = s.pow := rfl
@[simp] theorem State.modPage_glob (s : State) (p : Nat) (f : PageDesc → PageDesc) : (s.modPage p f).glob = s.glob := rfl
@[simp] theorem State.modPage_boot (s : State) (p : Nat) (f : PageDesc → PageDesc) : (s.modPage p f).boot = s.boot := rfl
@[simp] theorem State.modPage_board (s : State) (p : Nat) (f : PageDesc → PageDesc) : (s.modPage p f).board = s.board := rfl
@[simp] theorem State.modPage_out (s : State) (p : Nat) (f : PageDesc → PageDesc) : (s.modPage p f).out = s.out := rfl
@[simp] theorem State.modPage_pending (s : State) (p : Nat) (f : PageDesc → PageDesc) : (s.modPage p f).pending = s.pending := rfl

@[simp] theorem State.modPart_time (s : State) (m k : Nat) (f : Part → Part) : (s.modPart m k f).time = s.time := rfl
@[simp] theorem State.modPart_mem (s : State) (m k : Nat) (f : Part → Part) : (s.modPart m k f).mem = s.mem := rfl
@[simp] theorem State.modPart_cores (s : State) (m k : Nat) (f : Part → Part) : (s.modPart m k f).cores = s.cores := rfl
@[simp] theorem State.modPart_slots (s : State) (m k : Nat) (f : Part → Part) : (s.modPart m k f).slots = s.slots := rfl
@[simp] theorem State.modPart_sync (s : State) (m k : Nat) (f : Part → Part) : (s.modPart m k f).sync = s.sync := rfl
@[simp] theorem State.modPart_serve (s : State) (m k : Nat) (f : Part → Part) : (s.modPart m k f).serve = s.serve := rfl
@[simp] theorem State.modPart_portA (s : State) (m k : Nat) (f : Part → Part) : (s.modPart m k f).portA = s.portA := rfl
@[simp] theorem State.modPart_portB (s : State) (m k : Nat) (f : Part → Part) : (s.modPart m k f).portB = s.portB := rfl
@[simp] theorem State.modPart_integ (s : State) (m k : Nat) (f : Part → Part) : (s.modPart m k f).integ = s.integ := rfl
@[simp] theorem State.modPart_links (s : State) (m k : Nat) (f : Part → Part) : (s.modPart m k f).links = s.links := rfl
@[simp] theorem State.modPart_lglob (s : State) (m k : Nat) (f : Part → Part) : (s.modPart m k f).lglob = s.lglob := rfl
@[simp] theorem State.modPart_sec (s : State) (m k : Nat) (f : Part → Part) : (s.modPart m k f).sec = s.sec := rfl
@[simp] theorem State.modPart_pow (s : State) (m k : Nat) (f : Part → Part) : (s.modPart m k f).pow = s.pow := rfl
@[simp] theorem State.modPart_glob (s : State) (m k : Nat) (f : Part → Part) : (s.modPart m k f).glob = s.glob := rfl
@[simp] theorem State.modPart_boot (s : State) (m k : Nat) (f : Part → Part) : (s.modPart m k f).boot = s.boot := rfl
@[simp] theorem State.modPart_board (s : State) (m k : Nat) (f : Part → Part) : (s.modPart m k f).board = s.board := rfl
@[simp] theorem State.modPart_out (s : State) (m k : Nat) (f : Part → Part) : (s.modPart m k f).out = s.out := rfl
@[simp] theorem State.modPart_pending (s : State) (m k : Nat) (f : Part → Part) : (s.modPart m k f).pending = s.pending := rfl

@[simp] theorem State.modPageCnt_time (s : State) (m : Nat) (f : PageCounters → PageCounters) : (s.modPageCnt m f).time = s.time := rfl
@[simp] theorem State.modPageCnt_mem (s : State) (m : Nat) (f : PageCounters → PageCounters) : (s.modPageCnt m f).mem = s.mem := rfl
@[simp] theorem State.modPageCnt_cores (s : State) (m : Nat) (f : PageCounters → PageCounters) : (s.modPageCnt m f).cores = s.cores := rfl
@[simp] theorem State.modPageCnt_slots (s : State) (m : Nat) (f : PageCounters → PageCounters) : (s.modPageCnt m f).slots = s.slots := rfl
@[simp] theorem State.modPageCnt_sync (s : State) (m : Nat) (f : PageCounters → PageCounters) : (s.modPageCnt m f).sync = s.sync := rfl
@[simp] theorem State.modPageCnt_serve (s : State) (m : Nat) (f : PageCounters → PageCounters) : (s.modPageCnt m f).serve = s.serve := rfl
@[simp] theorem State.modPageCnt_portA (s : State) (m : Nat) (f : PageCounters → PageCounters) : (s.modPageCnt m f).portA = s.portA := rfl
@[simp] theorem State.modPageCnt_portB (s : State) (m : Nat) (f : PageCounters → PageCounters) : (s.modPageCnt m f).portB = s.portB := rfl
@[simp] theorem State.modPageCnt_integ (s : State) (m : Nat) (f : PageCounters → PageCounters) : (s.modPageCnt m f).integ = s.integ := rfl
@[simp] theorem State.modPageCnt_links (s : State) (m : Nat) (f : PageCounters → PageCounters) : (s.modPageCnt m f).links = s.links := rfl
@[simp] theorem State.modPageCnt_lglob (s : State) (m : Nat) (f : PageCounters → PageCounters) : (s.modPageCnt m f).lglob = s.lglob := rfl
@[simp] theorem State.modPageCnt_sec (s : State) (m : Nat) (f : PageCounters → PageCounters) : (s.modPageCnt m f).sec = s.sec := rfl
@[simp] theorem State.modPageCnt_pow (s : State) (m : Nat) (f : PageCounters → PageCounters) : (s.modPageCnt m f).pow = s.pow := rfl
@[simp] theorem State.modPageCnt_glob (s : State) (m : Nat) (f : PageCounters → PageCounters) : (s.modPageCnt m f).glob = s.glob := rfl
@[simp] theorem State.modPageCnt_boot (s : State) (m : Nat) (f : PageCounters → PageCounters) : (s.modPageCnt m f).boot = s.boot := rfl
@[simp] theorem State.modPageCnt_board (s : State) (m : Nat) (f : PageCounters → PageCounters) : (s.modPageCnt m f).board = s.board := rfl
@[simp] theorem State.modPageCnt_out (s : State) (m : Nat) (f : PageCounters → PageCounters) : (s.modPageCnt m f).out = s.out := rfl
@[simp] theorem State.modPageCnt_pending (s : State) (m : Nat) (f : PageCounters → PageCounters) : (s.modPageCnt m f).pending = s.pending := rfl

@[simp] theorem State.modServe_time (s : State) (f : Serve → Serve) : (s.modServe f).time = s.time := rfl
@[simp] theorem State.modServe_mem (s : State) (f : Serve → Serve) : (s.modServe f).mem = s.mem := rfl
@[simp] theorem State.modServe_cores (s : State) (f : Serve → Serve) : (s.modServe f).cores = s.cores := rfl
@[simp] theorem State.modServe_slots (s : State) (f : Serve → Serve) : (s.modServe f).slots = s.slots := rfl
@[simp] theorem State.modServe_sync (s : State) (f : Serve → Serve) : (s.modServe f).sync = s.sync := rfl
@[simp] theorem State.modServe_pages (s : State) (f : Serve → Serve) : (s.modServe f).pages = s.pages := rfl
@[simp] theorem State.modServe_serve (s : State) (f : Serve → Serve) : (s.modServe f).serve = f s.serve := rfl
@[simp] theorem State.modServe_portA (s : State) (f : Serve → Serve) : (s.modServe f).portA = s.portA := rfl
@[simp] theorem State.modServe_portB (s : State) (f : Serve → Serve) : (s.modServe f).portB = s.portB := rfl
@[simp] theorem State.modServe_integ (s : State) (f : Serve → Serve) : (s.modServe f).integ = s.integ := rfl
@[simp] theorem State.modServe_links (s : State) (f : Serve → Serve) : (s.modServe f).links = s.links := rfl
@[simp] theorem State.modServe_lglob (s : State) (f : Serve → Serve) : (s.modServe f).lglob = s.lglob := rfl
@[simp] theorem State.modServe_sec (s : State) (f : Serve → Serve) : (s.modServe f).sec = s.sec := rfl
@[simp] theorem State.modServe_pow (s : State) (f : Serve → Serve) : (s.modServe f).pow = s.pow := rfl
@[simp] theorem State.modServe_glob (s : State) (f : Serve → Serve) : (s.modServe f).glob = s.glob := rfl
@[simp] theorem State.modServe_boot (s : State) (f : Serve → Serve) : (s.modServe f).boot = s.boot := rfl
@[simp] theorem State.modServe_board (s : State) (f : Serve → Serve) : (s.modServe f).board = s.board := rfl
@[simp] theorem State.modServe_out (s : State) (f : Serve → Serve) : (s.modServe f).out = s.out := rfl
@[simp] theorem State.modServe_pending (s : State) (f : Serve → Serve) : (s.modServe f).pending = s.pending := rfl

@[simp] theorem State.modModel_time (s : State) (k : Nat) (f : ModelSlot → ModelSlot) : (s.modModel k f).time = s.time := rfl
@[simp] theorem State.modModel_mem (s : State) (k : Nat) (f : ModelSlot → ModelSlot) : (s.modModel k f).mem = s.mem := rfl
@[simp] theorem State.modModel_cores (s : State) (k : Nat) (f : ModelSlot → ModelSlot) : (s.modModel k f).cores = s.cores := rfl
@[simp] theorem State.modModel_slots (s : State) (k : Nat) (f : ModelSlot → ModelSlot) : (s.modModel k f).slots = s.slots := rfl
@[simp] theorem State.modModel_sync (s : State) (k : Nat) (f : ModelSlot → ModelSlot) : (s.modModel k f).sync = s.sync := rfl
@[simp] theorem State.modModel_pages (s : State) (k : Nat) (f : ModelSlot → ModelSlot) : (s.modModel k f).pages = s.pages := rfl
@[simp] theorem State.modModel_portA (s : State) (k : Nat) (f : ModelSlot → ModelSlot) : (s.modModel k f).portA = s.portA := rfl
@[simp] theorem State.modModel_portB (s : State) (k : Nat) (f : ModelSlot → ModelSlot) : (s.modModel k f).portB = s.portB := rfl
@[simp] theorem State.modModel_integ (s : State) (k : Nat) (f : ModelSlot → ModelSlot) : (s.modModel k f).integ = s.integ := rfl
@[simp] theorem State.modModel_links (s : State) (k : Nat) (f : ModelSlot → ModelSlot) : (s.modModel k f).links = s.links := rfl
@[simp] theorem State.modModel_lglob (s : State) (k : Nat) (f : ModelSlot → ModelSlot) : (s.modModel k f).lglob = s.lglob := rfl
@[simp] theorem State.modModel_sec (s : State) (k : Nat) (f : ModelSlot → ModelSlot) : (s.modModel k f).sec = s.sec := rfl
@[simp] theorem State.modModel_pow (s : State) (k : Nat) (f : ModelSlot → ModelSlot) : (s.modModel k f).pow = s.pow := rfl
@[simp] theorem State.modModel_glob (s : State) (k : Nat) (f : ModelSlot → ModelSlot) : (s.modModel k f).glob = s.glob := rfl
@[simp] theorem State.modModel_boot (s : State) (k : Nat) (f : ModelSlot → ModelSlot) : (s.modModel k f).boot = s.boot := rfl
@[simp] theorem State.modModel_board (s : State) (k : Nat) (f : ModelSlot → ModelSlot) : (s.modModel k f).board = s.board := rfl
@[simp] theorem State.modModel_out (s : State) (k : Nat) (f : ModelSlot → ModelSlot) : (s.modModel k f).out = s.out := rfl
@[simp] theorem State.modModel_pending (s : State) (k : Nat) (f : ModelSlot → ModelSlot) : (s.modModel k f).pending = s.pending := rfl

@[simp] theorem State.modRing_time (s : State) (p : Port) (n : Nat) (f : Ring → Ring) : (s.modRing p n f).time = s.time := rfl
@[simp] theorem State.modRing_mem (s : State) (p : Port) (n : Nat) (f : Ring → Ring) : (s.modRing p n f).mem = s.mem := rfl
@[simp] theorem State.modRing_cores (s : State) (p : Port) (n : Nat) (f : Ring → Ring) : (s.modRing p n f).cores = s.cores := rfl
@[simp] theorem State.modRing_slots (s : State) (p : Port) (n : Nat) (f : Ring → Ring) : (s.modRing p n f).slots = s.slots := rfl
@[simp] theorem State.modRing_sync (s : State) (p : Port) (n : Nat) (f : Ring → Ring) : (s.modRing p n f).sync = s.sync := rfl
@[simp] theorem State.modRing_pages (s : State) (p : Port) (n : Nat) (f : Ring → Ring) : (s.modRing p n f).pages = s.pages := rfl
@[simp] theorem State.modRing_portA (s : State) (p : Port) (n : Nat) (f : Ring → Ring) : (s.modRing p n f).portA = s.portA := rfl
@[simp] theorem State.modRing_portB (s : State) (p : Port) (n : Nat) (f : Ring → Ring) : (s.modRing p n f).portB = s.portB := rfl
@[simp] theorem State.modRing_integ (s : State) (p : Port) (n : Nat) (f : Ring → Ring) : (s.modRing p n f).integ = s.integ := rfl
@[simp] theorem State.modRing_links (s : State) (p : Port) (n : Nat) (f : Ring → Ring) : (s.modRing p n f).links = s.links := rfl
@[simp] theorem State.modRing_lglob (s : State) (p : Port) (n : Nat) (f : Ring → Ring) : (s.modRing p n f).lglob = s.lglob := rfl
@[simp] theorem State.modRing_sec (s : State) (p : Port) (n : Nat) (f : Ring → Ring) : (s.modRing p n f).sec = s.sec := rfl
@[simp] theorem State.modRing_pow (s : State) (p : Port) (n : Nat) (f : Ring → Ring) : (s.modRing p n f).pow = s.pow := rfl
@[simp] theorem State.modRing_glob (s : State) (p : Port) (n : Nat) (f : Ring → Ring) : (s.modRing p n f).glob = s.glob := rfl
@[simp] theorem State.modRing_boot (s : State) (p : Port) (n : Nat) (f : Ring → Ring) : (s.modRing p n f).boot = s.boot := rfl
@[simp] theorem State.modRing_board (s : State) (p : Port) (n : Nat) (f : Ring → Ring) : (s.modRing p n f).board = s.board := rfl
@[simp] theorem State.modRing_out (s : State) (p : Port) (n : Nat) (f : Ring → Ring) : (s.modRing p n f).out = s.out := rfl
@[simp] theorem State.modRing_pending (s : State) (p : Port) (n : Nat) (f : Ring → Ring) : (s.modRing p n f).pending = s.pending := rfl

@[simp] theorem State.modReq_time (s : State) (rid : Nat) (f : Req → Req) : (s.modReq rid f).time = s.time := rfl
@[simp] theorem State.modReq_mem (s : State) (rid : Nat) (f : Req → Req) : (s.modReq rid f).mem = s.mem := rfl
@[simp] theorem State.modReq_cores (s : State) (rid : Nat) (f : Req → Req) : (s.modReq rid f).cores = s.cores := rfl
@[simp] theorem State.modReq_slots (s : State) (rid : Nat) (f : Req → Req) : (s.modReq rid f).slots = s.slots := rfl
@[simp] theorem State.modReq_sync (s : State) (rid : Nat) (f : Req → Req) : (s.modReq rid f).sync = s.sync := rfl
@[simp] theorem State.modReq_pages (s : State) (rid : Nat) (f : Req → Req) : (s.modReq rid f).pages = s.pages := rfl
@[simp] theorem State.modReq_portA (s : State) (rid : Nat) (f : Req → Req) : (s.modReq rid f).portA = s.portA := rfl
@[simp] theorem State.modReq_portB (s : State) (rid : Nat) (f : Req → Req) : (s.modReq rid f).portB = s.portB := rfl
@[simp] theorem State.modReq_integ (s : State) (rid : Nat) (f : Req → Req) : (s.modReq rid f).integ = s.integ := rfl
@[simp] theorem State.modReq_links (s : State) (rid : Nat) (f : Req → Req) : (s.modReq rid f).links = s.links := rfl
@[simp] theorem State.modReq_lglob (s : State) (rid : Nat) (f : Req → Req) : (s.modReq rid f).lglob = s.lglob := rfl
@[simp] theorem State.modReq_sec (s : State) (rid : Nat) (f : Req → Req) : (s.modReq rid f).sec = s.sec := rfl
@[simp] theorem State.modReq_pow (s : State) (rid : Nat) (f : Req → Req) : (s.modReq rid f).pow = s.pow := rfl
@[simp] theorem State.modReq_glob (s : State) (rid : Nat) (f : Req → Req) : (s.modReq rid f).glob = s.glob := rfl
@[simp] theorem State.modReq_boot (s : State) (rid : Nat) (f : Req → Req) : (s.modReq rid f).boot = s.boot := rfl
@[simp] theorem State.modReq_board (s : State) (rid : Nat) (f : Req → Req) : (s.modReq rid f).board = s.board := rfl
@[simp] theorem State.modReq_out (s : State) (rid : Nat) (f : Req → Req) : (s.modReq rid f).out = s.out := rfl
@[simp] theorem State.modReq_pending (s : State) (rid : Nat) (f : Req → Req) : (s.modReq rid f).pending = s.pending := rfl

@[simp] theorem State.modSess_time (s : State) (i : Nat) (f : Session → Session) : (s.modSess i f).time = s.time := rfl
@[simp] theorem State.modSess_mem (s : State) (i : Nat) (f : Session → Session) : (s.modSess i f).mem = s.mem := rfl
@[simp] theorem State.modSess_cores (s : State) (i : Nat) (f : Session → Session) : (s.modSess i f).cores = s.cores := rfl
@[simp] theorem State.modSess_slots (s : State) (i : Nat) (f : Session → Session) : (s.modSess i f).slots = s.slots := rfl
@[simp] theorem State.modSess_sync (s : State) (i : Nat) (f : Session → Session) : (s.modSess i f).sync = s.sync := rfl
@[simp] theorem State.modSess_pages (s : State) (i : Nat) (f : Session → Session) : (s.modSess i f).pages = s.pages := rfl
@[simp] theorem State.modSess_portA (s : State) (i : Nat) (f : Session → Session) : (s.modSess i f).portA = s.portA := rfl
@[simp] theorem State.modSess_portB (s : State) (i : Nat) (f : Session → Session) : (s.modSess i f).portB = s.portB := rfl
@[simp] theorem State.modSess_integ (s : State) (i : Nat) (f : Session → Session) : (s.modSess i f).integ = s.integ := rfl
@[simp] theorem State.modSess_links (s : State) (i : Nat) (f : Session → Session) : (s.modSess i f).links = s.links := rfl
@[simp] theorem State.modSess_lglob (s : State) (i : Nat) (f : Session → Session) : (s.modSess i f).lglob = s.lglob := rfl
@[simp] theorem State.modSess_sec (s : State) (i : Nat) (f : Session → Session) : (s.modSess i f).sec = s.sec := rfl
@[simp] theorem State.modSess_pow (s : State) (i : Nat) (f : Session → Session) : (s.modSess i f).pow = s.pow := rfl
@[simp] theorem State.modSess_glob (s : State) (i : Nat) (f : Session → Session) : (s.modSess i f).glob = s.glob := rfl
@[simp] theorem State.modSess_boot (s : State) (i : Nat) (f : Session → Session) : (s.modSess i f).boot = s.boot := rfl
@[simp] theorem State.modSess_board (s : State) (i : Nat) (f : Session → Session) : (s.modSess i f).board = s.board := rfl
@[simp] theorem State.modSess_out (s : State) (i : Nat) (f : Session → Session) : (s.modSess i f).out = s.out := rfl
@[simp] theorem State.modSess_pending (s : State) (i : Nat) (f : Session → Session) : (s.modSess i f).pending = s.pending := rfl

@[simp] theorem State.modInteg_time (s : State) (f : Integrity → Integrity) : (s.modInteg f).time = s.time := rfl
@[simp] theorem State.modInteg_mem (s : State) (f : Integrity → Integrity) : (s.modInteg f).mem = s.mem := rfl
@[simp] theorem State.modInteg_cores (s : State) (f : Integrity → Integrity) : (s.modInteg f).cores = s.cores := rfl
@[simp] theorem State.modInteg_slots (s : State) (f : Integrity → Integrity) : (s.modInteg f).slots = s.slots := rfl
@[simp] theorem State.modInteg_sync (s : State) (f : Integrity → Integrity) : (s.modInteg f).sync = s.sync := rfl
@[simp] theorem State.modInteg_pages (s : State) (f : Integrity → Integrity) : (s.modInteg f).pages = s.pages := rfl
@[simp] theorem State.modInteg_serve (s : State) (f : Integrity → Integrity) : (s.modInteg f).serve = s.serve := rfl
@[simp] theorem State.modInteg_portA (s : State) (f : Integrity → Integrity) : (s.modInteg f).portA = s.portA := rfl
@[simp] theorem State.modInteg_portB (s : State) (f : Integrity → Integrity) : (s.modInteg f).portB = s.portB := rfl
@[simp] theorem State.modInteg_integ (s : State) (f : Integrity → Integrity) : (s.modInteg f).integ = f s.integ := rfl
@[simp] theorem State.modInteg_links (s : State) (f : Integrity → Integrity) : (s.modInteg f).links = s.links := rfl
@[simp] theorem State.modInteg_lglob (s : State) (f : Integrity → Integrity) : (s.modInteg f).lglob = s.lglob := rfl
@[simp] theorem State.modInteg_sec (s : State) (f : Integrity → Integrity) : (s.modInteg f).sec = s.sec := rfl
@[simp] theorem State.modInteg_pow (s : State) (f : Integrity → Integrity) : (s.modInteg f).pow = s.pow := rfl
@[simp] theorem State.modInteg_glob (s : State) (f : Integrity → Integrity) : (s.modInteg f).glob = s.glob := rfl
@[simp] theorem State.modInteg_boot (s : State) (f : Integrity → Integrity) : (s.modInteg f).boot = s.boot := rfl
@[simp] theorem State.modInteg_board (s : State) (f : Integrity → Integrity) : (s.modInteg f).board = s.board := rfl
@[simp] theorem State.modInteg_out (s : State) (f : Integrity → Integrity) : (s.modInteg f).out = s.out := rfl
@[simp] theorem State.modInteg_pending (s : State) (f : Integrity → Integrity) : (s.modInteg f).pending = s.pending := rfl

@[simp] theorem State.markPoison_time (s : State) (a n code : Nat) : (s.markPoison a n code).time = s.time := rfl
@[simp] theorem State.markPoison_mem (s : State) (a n code : Nat) : (s.markPoison a n code).mem = s.mem := rfl
@[simp] theorem State.markPoison_cores (s : State) (a n code : Nat) : (s.markPoison a n code).cores = s.cores := rfl
@[simp] theorem State.markPoison_slots (s : State) (a n code : Nat) : (s.markPoison a n code).slots = s.slots := rfl
@[simp] theorem State.markPoison_sync (s : State) (a n code : Nat) : (s.markPoison a n code).sync = s.sync := rfl
@[simp] theorem State.markPoison_pages (s : State) (a n code : Nat) : (s.markPoison a n code).pages = s.pages := rfl
@[simp] theorem State.markPoison_serve (s : State) (a n code : Nat) : (s.markPoison a n code).serve = s.serve := rfl
@[simp] theorem State.markPoison_portA (s : State) (a n code : Nat) : (s.markPoison a n code).portA = s.portA := rfl
@[simp] theorem State.markPoison_portB (s : State) (a n code : Nat) : (s.markPoison a n code).portB = s.portB := rfl
@[simp] theorem State.markPoison_links (s : State) (a n code : Nat) : (s.markPoison a n code).links = s.links := rfl
@[simp] theorem State.markPoison_lglob (s : State) (a n code : Nat) : (s.markPoison a n code).lglob = s.lglob := rfl
@[simp] theorem State.markPoison_sec (s : State) (a n code : Nat) : (s.markPoison a n code).sec = s.sec := rfl
@[simp] theorem State.markPoison_pow (s : State) (a n code : Nat) : (s.markPoison a n code).pow = s.pow := rfl
@[simp] theorem State.markPoison_glob (s : State) (a n code : Nat) : (s.markPoison a n code).glob = s.glob := rfl
@[simp] theorem State.markPoison_boot (s : State) (a n code : Nat) : (s.markPoison a n code).boot = s.boot := rfl
@[simp] theorem State.markPoison_board (s : State) (a n code : Nat) : (s.markPoison a n code).board = s.board := rfl
@[simp] theorem State.markPoison_out (s : State) (a n code : Nat) : (s.markPoison a n code).out = s.out := rfl
@[simp] theorem State.markPoison_pending (s : State) (a n code : Nat) : (s.markPoison a n code).pending = s.pending := rfl

@[simp] theorem State.modGlob_time (s : State) (f : Glob → Glob) : (s.modGlob f).time = s.time := rfl
@[simp] theorem State.modGlob_mem (s : State) (f : Glob → Glob) : (s.modGlob f).mem = s.mem := rfl
@[simp] theorem State.modGlob_cores (s : State) (f : Glob → Glob) : (s.modGlob f).cores = s.cores := rfl
@[simp] theorem State.modGlob_slots (s : State) (f : Glob → Glob) : (s.modGlob f).slots = s.slots := rfl
@[simp] theorem State.modGlob_sync (s : State) (f : Glob → Glob) : (s.modGlob f).sync = s.sync := rfl
@[simp] theorem State.modGlob_pages (s : State) (f : Glob → Glob) : (s.modGlob f).pages = s.pages := rfl
@[simp] theorem State.modGlob_serve (s : State) (f : Glob → Glob) : (s.modGlob f).serve = s.serve := rfl
@[simp] theorem State.modGlob_portA (s : State) (f : Glob → Glob) : (s.modGlob f).portA = s.portA := rfl
@[simp] theorem State.modGlob_portB (s : State) (f : Glob → Glob) : (s.modGlob f).portB = s.portB := rfl
@[simp] theorem State.modGlob_integ (s : State) (f : Glob → Glob) : (s.modGlob f).integ = s.integ := rfl
@[simp] theorem State.modGlob_links (s : State) (f : Glob → Glob) : (s.modGlob f).links = s.links := rfl
@[simp] theorem State.modGlob_lglob (s : State) (f : Glob → Glob) : (s.modGlob f).lglob = s.lglob := rfl
@[simp] theorem State.modGlob_sec (s : State) (f : Glob → Glob) : (s.modGlob f).sec = s.sec := rfl
@[simp] theorem State.modGlob_pow (s : State) (f : Glob → Glob) : (s.modGlob f).pow = s.pow := rfl
@[simp] theorem State.modGlob_glob (s : State) (f : Glob → Glob) : (s.modGlob f).glob = f s.glob := rfl
@[simp] theorem State.modGlob_boot (s : State) (f : Glob → Glob) : (s.modGlob f).boot = s.boot := rfl
@[simp] theorem State.modGlob_board (s : State) (f : Glob → Glob) : (s.modGlob f).board = s.board := rfl
@[simp] theorem State.modGlob_out (s : State) (f : Glob → Glob) : (s.modGlob f).out = s.out := rfl
@[simp] theorem State.modGlob_pending (s : State) (f : Glob → Glob) : (s.modGlob f).pending = s.pending := rfl

@[simp] theorem State.count_time (s : State) (f : Counters → Counters) : (s.count f).time = s.time := rfl
@[simp] theorem State.count_mem (s : State) (f : Counters → Counters) : (s.count f).mem = s.mem := rfl
@[simp] theorem State.count_cores (s : State) (f : Counters → Counters) : (s.count f).cores = s.cores := rfl
@[simp] theorem State.count_slots (s : State) (f : Counters → Counters) : (s.count f).slots = s.slots := rfl
@[simp] theorem State.count_sync (s : State) (f : Counters → Counters) : (s.count f).sync = s.sync := rfl
@[simp] theorem State.count_pages (s : State) (f : Counters → Counters) : (s.count f).pages = s.pages := rfl
@[simp] theorem State.count_serve (s : State) (f : Counters → Counters) : (s.count f).serve = s.serve := rfl
@[simp] theorem State.count_portA (s : State) (f : Counters → Counters) : (s.count f).portA = s.portA := rfl
@[simp] theorem State.count_portB (s : State) (f : Counters → Counters) : (s.count f).portB = s.portB := rfl
@[simp] theorem State.count_integ (s : State) (f : Counters → Counters) : (s.count f).integ = s.integ := rfl
@[simp] theorem State.count_links (s : State) (f : Counters → Counters) : (s.count f).links = s.links := rfl
@[simp] theorem State.count_lglob (s : State) (f : Counters → Counters) : (s.count f).lglob = s.lglob := rfl
@[simp] theorem State.count_sec (s : State) (f : Counters → Counters) : (s.count f).sec = s.sec := rfl
@[simp] theorem State.count_pow (s : State) (f : Counters → Counters) : (s.count f).pow = s.pow := rfl
@[simp] theorem State.count_glob (s : State) (f : Counters → Counters) : (s.count f).glob = { s.glob with cnt := f s.glob.cnt } := rfl
@[simp] theorem State.count_boot (s : State) (f : Counters → Counters) : (s.count f).boot = s.boot := rfl
@[simp] theorem State.count_board (s : State) (f : Counters → Counters) : (s.count f).board = s.board := rfl
@[simp] theorem State.count_out (s : State) (f : Counters → Counters) : (s.count f).out = s.out := rfl
@[simp] theorem State.count_pending (s : State) (f : Counters → Counters) : (s.count f).pending = s.pending := rfl

@[simp] theorem State.emit_time (s : State) (o : Output) : (s.emit o).time = s.time := rfl
@[simp] theorem State.emit_mem (s : State) (o : Output) : (s.emit o).mem = s.mem := rfl
@[simp] theorem State.emit_cores (s : State) (o : Output) : (s.emit o).cores = s.cores := rfl
@[simp] theorem State.emit_slots (s : State) (o : Output) : (s.emit o).slots = s.slots := rfl
@[simp] theorem State.emit_sync (s : State) (o : Output) : (s.emit o).sync = s.sync := rfl
@[simp] theorem State.emit_pages (s : State) (o : Output) : (s.emit o).pages = s.pages := rfl
@[simp] theorem State.emit_serve (s : State) (o : Output) : (s.emit o).serve = s.serve := rfl
@[simp] theorem State.emit_portA (s : State) (o : Output) : (s.emit o).portA = s.portA := rfl
@[simp] theorem State.emit_portB (s : State) (o : Output) : (s.emit o).portB = s.portB := rfl
@[simp] theorem State.emit_integ (s : State) (o : Output) : (s.emit o).integ = s.integ := rfl
@[simp] theorem State.emit_links (s : State) (o : Output) : (s.emit o).links = s.links := rfl
@[simp] theorem State.emit_lglob (s : State) (o : Output) : (s.emit o).lglob = s.lglob := rfl
@[simp] theorem State.emit_sec (s : State) (o : Output) : (s.emit o).sec = s.sec := rfl
@[simp] theorem State.emit_pow (s : State) (o : Output) : (s.emit o).pow = s.pow := rfl
@[simp] theorem State.emit_glob (s : State) (o : Output) : (s.emit o).glob = s.glob := rfl
@[simp] theorem State.emit_boot (s : State) (o : Output) : (s.emit o).boot = s.boot := rfl
@[simp] theorem State.emit_board (s : State) (o : Output) : (s.emit o).board = s.board := rfl
@[simp] theorem State.emit_out (s : State) (o : Output) : (s.emit o).out = s.out ++ [o] := rfl
@[simp] theorem State.emit_pending (s : State) (o : Output) : (s.emit o).pending = s.pending := rfl

@[simp] theorem State.modLink_time (s : State) (l : Nat) (f : LinkSt → LinkSt) : (s.modLink l f).time = s.time := rfl
@[simp] theorem State.modLink_mem (s : State) (l : Nat) (f : LinkSt → LinkSt) : (s.modLink l f).mem = s.mem := rfl
@[simp] theorem State.modLink_cores (s : State) (l : Nat) (f : LinkSt → LinkSt) : (s.modLink l f).cores = s.cores := rfl
@[simp] theorem State.modLink_slots (s : State) (l : Nat) (f : LinkSt → LinkSt) : (s.modLink l f).slots = s.slots := rfl
@[simp] theorem State.modLink_sync (s : State) (l : Nat) (f : LinkSt → LinkSt) : (s.modLink l f).sync = s.sync := rfl
@[simp] theorem State.modLink_pages (s : State) (l : Nat) (f : LinkSt → LinkSt) : (s.modLink l f).pages = s.pages := rfl
@[simp] theorem State.modLink_serve (s : State) (l : Nat) (f : LinkSt → LinkSt) : (s.modLink l f).serve = s.serve := rfl
@[simp] theorem State.modLink_portA (s : State) (l : Nat) (f : LinkSt → LinkSt) : (s.modLink l f).portA = s.portA := rfl
@[simp] theorem State.modLink_portB (s : State) (l : Nat) (f : LinkSt → LinkSt) : (s.modLink l f).portB = s.portB := rfl
@[simp] theorem State.modLink_integ (s : State) (l : Nat) (f : LinkSt → LinkSt) : (s.modLink l f).integ = s.integ := rfl
@[simp] theorem State.modLink_links (s : State) (l : Nat) (f : LinkSt → LinkSt) : (s.modLink l f).links = Tbl.upd {} l f s.links := rfl
@[simp] theorem State.modLink_lglob (s : State) (l : Nat) (f : LinkSt → LinkSt) : (s.modLink l f).lglob = s.lglob := rfl
@[simp] theorem State.modLink_sec (s : State) (l : Nat) (f : LinkSt → LinkSt) : (s.modLink l f).sec = s.sec := rfl
@[simp] theorem State.modLink_pow (s : State) (l : Nat) (f : LinkSt → LinkSt) : (s.modLink l f).pow = s.pow := rfl
@[simp] theorem State.modLink_glob (s : State) (l : Nat) (f : LinkSt → LinkSt) : (s.modLink l f).glob = s.glob := rfl
@[simp] theorem State.modLink_boot (s : State) (l : Nat) (f : LinkSt → LinkSt) : (s.modLink l f).boot = s.boot := rfl
@[simp] theorem State.modLink_board (s : State) (l : Nat) (f : LinkSt → LinkSt) : (s.modLink l f).board = s.board := rfl
@[simp] theorem State.modLink_out (s : State) (l : Nat) (f : LinkSt → LinkSt) : (s.modLink l f).out = s.out := rfl
@[simp] theorem State.modLink_pending (s : State) (l : Nat) (f : LinkSt → LinkSt) : (s.modLink l f).pending = s.pending := rfl

@[simp] theorem State.modLGlob_time (s : State) (f : LinkGlob → LinkGlob) : (s.modLGlob f).time = s.time := rfl
@[simp] theorem State.modLGlob_mem (s : State) (f : LinkGlob → LinkGlob) : (s.modLGlob f).mem = s.mem := rfl
@[simp] theorem State.modLGlob_cores (s : State) (f : LinkGlob → LinkGlob) : (s.modLGlob f).cores = s.cores := rfl
@[simp] theorem State.modLGlob_slots (s : State) (f : LinkGlob → LinkGlob) : (s.modLGlob f).slots = s.slots := rfl
@[simp] theorem State.modLGlob_sync (s : State) (f : LinkGlob → LinkGlob) : (s.modLGlob f).sync = s.sync := rfl
@[simp] theorem State.modLGlob_pages (s : State) (f : LinkGlob → LinkGlob) : (s.modLGlob f).pages = s.pages := rfl
@[simp] theorem State.modLGlob_serve (s : State) (f : LinkGlob → LinkGlob) : (s.modLGlob f).serve = s.serve := rfl
@[simp] theorem State.modLGlob_portA (s : State) (f : LinkGlob → LinkGlob) : (s.modLGlob f).portA = s.portA := rfl
@[simp] theorem State.modLGlob_portB (s : State) (f : LinkGlob → LinkGlob) : (s.modLGlob f).portB = s.portB := rfl
@[simp] theorem State.modLGlob_integ (s : State) (f : LinkGlob → LinkGlob) : (s.modLGlob f).integ = s.integ := rfl
@[simp] theorem State.modLGlob_links (s : State) (f : LinkGlob → LinkGlob) : (s.modLGlob f).links = s.links := rfl
@[simp] theorem State.modLGlob_lglob (s : State) (f : LinkGlob → LinkGlob) : (s.modLGlob f).lglob = f s.lglob := rfl
@[simp] theorem State.modLGlob_sec (s : State) (f : LinkGlob → LinkGlob) : (s.modLGlob f).sec = s.sec := rfl
@[simp] theorem State.modLGlob_pow (s : State) (f : LinkGlob → LinkGlob) : (s.modLGlob f).pow = s.pow := rfl
@[simp] theorem State.modLGlob_glob (s : State) (f : LinkGlob → LinkGlob) : (s.modLGlob f).glob = s.glob := rfl
@[simp] theorem State.modLGlob_boot (s : State) (f : LinkGlob → LinkGlob) : (s.modLGlob f).boot = s.boot := rfl
@[simp] theorem State.modLGlob_board (s : State) (f : LinkGlob → LinkGlob) : (s.modLGlob f).board = s.board := rfl
@[simp] theorem State.modLGlob_out (s : State) (f : LinkGlob → LinkGlob) : (s.modLGlob f).out = s.out := rfl
@[simp] theorem State.modLGlob_pending (s : State) (f : LinkGlob → LinkGlob) : (s.modLGlob f).pending = s.pending := rfl

@[simp] theorem State.modSec_time (s : State) (f : Sec → Sec) : (s.modSec f).time = s.time := rfl
@[simp] theorem State.modSec_mem (s : State) (f : Sec → Sec) : (s.modSec f).mem = s.mem := rfl
@[simp] theorem State.modSec_cores (s : State) (f : Sec → Sec) : (s.modSec f).cores = s.cores := rfl
@[simp] theorem State.modSec_slots (s : State) (f : Sec → Sec) : (s.modSec f).slots = s.slots := rfl
@[simp] theorem State.modSec_sync (s : State) (f : Sec → Sec) : (s.modSec f).sync = s.sync := rfl
@[simp] theorem State.modSec_pages (s : State) (f : Sec → Sec) : (s.modSec f).pages = s.pages := rfl
@[simp] theorem State.modSec_serve (s : State) (f : Sec → Sec) : (s.modSec f).serve = s.serve := rfl
@[simp] theorem State.modSec_portA (s : State) (f : Sec → Sec) : (s.modSec f).portA = s.portA := rfl
@[simp] theorem State.modSec_portB (s : State) (f : Sec → Sec) : (s.modSec f).portB = s.portB := rfl
@[simp] theorem State.modSec_integ (s : State) (f : Sec → Sec) : (s.modSec f).integ = s.integ := rfl
@[simp] theorem State.modSec_links (s : State) (f : Sec → Sec) : (s.modSec f).links = s.links := rfl
@[simp] theorem State.modSec_lglob (s : State) (f : Sec → Sec) : (s.modSec f).lglob = s.lglob := rfl
@[simp] theorem State.modSec_sec (s : State) (f : Sec → Sec) : (s.modSec f).sec = f s.sec := rfl
@[simp] theorem State.modSec_pow (s : State) (f : Sec → Sec) : (s.modSec f).pow = s.pow := rfl
@[simp] theorem State.modSec_glob (s : State) (f : Sec → Sec) : (s.modSec f).glob = s.glob := rfl
@[simp] theorem State.modSec_boot (s : State) (f : Sec → Sec) : (s.modSec f).boot = s.boot := rfl
@[simp] theorem State.modSec_board (s : State) (f : Sec → Sec) : (s.modSec f).board = s.board := rfl
@[simp] theorem State.modSec_out (s : State) (f : Sec → Sec) : (s.modSec f).out = s.out := rfl
@[simp] theorem State.modSec_pending (s : State) (f : Sec → Sec) : (s.modSec f).pending = s.pending := rfl

@[simp] theorem State.modBoot_time (s : State) (f : Boot → Boot) : (s.modBoot f).time = s.time := rfl
@[simp] theorem State.modBoot_mem (s : State) (f : Boot → Boot) : (s.modBoot f).mem = s.mem := rfl
@[simp] theorem State.modBoot_cores (s : State) (f : Boot → Boot) : (s.modBoot f).cores = s.cores := rfl
@[simp] theorem State.modBoot_slots (s : State) (f : Boot → Boot) : (s.modBoot f).slots = s.slots := rfl
@[simp] theorem State.modBoot_sync (s : State) (f : Boot → Boot) : (s.modBoot f).sync = s.sync := rfl
@[simp] theorem State.modBoot_pages (s : State) (f : Boot → Boot) : (s.modBoot f).pages = s.pages := rfl
@[simp] theorem State.modBoot_serve (s : State) (f : Boot → Boot) : (s.modBoot f).serve = s.serve := rfl
@[simp] theorem State.modBoot_portA (s : State) (f : Boot → Boot) : (s.modBoot f).portA = s.portA := rfl
@[simp] theorem State.modBoot_portB (s : State) (f : Boot → Boot) : (s.modBoot f).portB = s.portB := rfl
@[simp] theorem State.modBoot_integ (s : State) (f : Boot → Boot) : (s.modBoot f).integ = s.integ := rfl
@[simp] theorem State.modBoot_links (s : State) (f : Boot → Boot) : (s.modBoot f).links = s.links := rfl
@[simp] theorem State.modBoot_lglob (s : State) (f : Boot → Boot) : (s.modBoot f).lglob = s.lglob := rfl
@[simp] theorem State.modBoot_sec (s : State) (f : Boot → Boot) : (s.modBoot f).sec = s.sec := rfl
@[simp] theorem State.modBoot_pow (s : State) (f : Boot → Boot) : (s.modBoot f).pow = s.pow := rfl
@[simp] theorem State.modBoot_glob (s : State) (f : Boot → Boot) : (s.modBoot f).glob = s.glob := rfl
@[simp] theorem State.modBoot_boot (s : State) (f : Boot → Boot) : (s.modBoot f).boot = f s.boot := rfl
@[simp] theorem State.modBoot_board (s : State) (f : Boot → Boot) : (s.modBoot f).board = s.board := rfl
@[simp] theorem State.modBoot_out (s : State) (f : Boot → Boot) : (s.modBoot f).out = s.out := rfl
@[simp] theorem State.modBoot_pending (s : State) (f : Boot → Boot) : (s.modBoot f).pending = s.pending := rfl

@[simp] theorem State.smbDrive_time (s : State) (x : SmbCall) : (s.smbDrive x).time = s.time := rfl
@[simp] theorem State.smbDrive_mem (s : State) (x : SmbCall) : (s.smbDrive x).mem = s.mem := rfl
@[simp] theorem State.smbDrive_cores (s : State) (x : SmbCall) : (s.smbDrive x).cores = s.cores := rfl
@[simp] theorem State.smbDrive_slots (s : State) (x : SmbCall) : (s.smbDrive x).slots = s.slots := rfl
@[simp] theorem State.smbDrive_sync (s : State) (x : SmbCall) : (s.smbDrive x).sync = s.sync := rfl
@[simp] theorem State.smbDrive_pages (s : State) (x : SmbCall) : (s.smbDrive x).pages = s.pages := rfl
@[simp] theorem State.smbDrive_serve (s : State) (x : SmbCall) : (s.smbDrive x).serve = s.serve := rfl
@[simp] theorem State.smbDrive_portA (s : State) (x : SmbCall) : (s.smbDrive x).portA = s.portA := rfl
@[simp] theorem State.smbDrive_portB (s : State) (x : SmbCall) : (s.smbDrive x).portB = s.portB := rfl
@[simp] theorem State.smbDrive_integ (s : State) (x : SmbCall) : (s.smbDrive x).integ = s.integ := rfl
@[simp] theorem State.smbDrive_links (s : State) (x : SmbCall) : (s.smbDrive x).links = s.links := rfl
@[simp] theorem State.smbDrive_lglob (s : State) (x : SmbCall) : (s.smbDrive x).lglob = s.lglob := rfl
@[simp] theorem State.smbDrive_sec (s : State) (x : SmbCall) : (s.smbDrive x).sec = s.sec := rfl
@[simp] theorem State.smbDrive_pow (s : State) (x : SmbCall) : (s.smbDrive x).pow = s.pow := rfl
@[simp] theorem State.smbDrive_glob (s : State) (x : SmbCall) : (s.smbDrive x).glob = s.glob := rfl
@[simp] theorem State.smbDrive_boot (s : State) (x : SmbCall) : (s.smbDrive x).boot = s.boot := rfl
@[simp] theorem State.smbDrive_board (s : State) (x : SmbCall) : (s.smbDrive x).board = { s.board with smb := x } := rfl
@[simp] theorem State.smbDrive_out (s : State) (x : SmbCall) : (s.smbDrive x).out = s.out := rfl
@[simp] theorem State.smbDrive_pending (s : State) (x : SmbCall) : (s.smbDrive x).pending = s.pending := rfl

@[simp] theorem State.modPow_time (s : State) (f : Power → Power) : (s.modPow f).time = s.time := rfl
@[simp] theorem State.modPow_mem (s : State) (f : Power → Power) : (s.modPow f).mem = s.mem := rfl
@[simp] theorem State.modPow_cores (s : State) (f : Power → Power) : (s.modPow f).cores = s.cores := rfl
@[simp] theorem State.modPow_slots (s : State) (f : Power → Power) : (s.modPow f).slots = s.slots := rfl
@[simp] theorem State.modPow_sync (s : State) (f : Power → Power) : (s.modPow f).sync = s.sync := rfl
@[simp] theorem State.modPow_pages (s : State) (f : Power → Power) : (s.modPow f).pages = s.pages := rfl
@[simp] theorem State.modPow_serve (s : State) (f : Power → Power) : (s.modPow f).serve = s.serve := rfl
@[simp] theorem State.modPow_portA (s : State) (f : Power → Power) : (s.modPow f).portA = s.portA := rfl
@[simp] theorem State.modPow_portB (s : State) (f : Power → Power) : (s.modPow f).portB = s.portB := rfl
@[simp] theorem State.modPow_integ (s : State) (f : Power → Power) : (s.modPow f).integ = s.integ := rfl
@[simp] theorem State.modPow_links (s : State) (f : Power → Power) : (s.modPow f).links = s.links := rfl
@[simp] theorem State.modPow_lglob (s : State) (f : Power → Power) : (s.modPow f).lglob = s.lglob := rfl
@[simp] theorem State.modPow_sec (s : State) (f : Power → Power) : (s.modPow f).sec = s.sec := rfl
@[simp] theorem State.modPow_pow (s : State) (f : Power → Power) : (s.modPow f).pow = f s.pow := rfl
@[simp] theorem State.modPow_glob (s : State) (f : Power → Power) : (s.modPow f).glob = s.glob := rfl
@[simp] theorem State.modPow_boot (s : State) (f : Power → Power) : (s.modPow f).boot = s.boot := rfl
@[simp] theorem State.modPow_board (s : State) (f : Power → Power) : (s.modPow f).board = s.board := rfl
@[simp] theorem State.modPow_out (s : State) (f : Power → Power) : (s.modPow f).out = s.out := rfl
@[simp] theorem State.modPow_pending (s : State) (f : Power → Power) : (s.modPow f).pending = s.pending := rfl

@[simp] theorem State.putMem_time (s : State) (a : Nat) (bs : List Nat) : (s.putMem a bs).time = s.time := rfl
@[simp] theorem State.putMem_mem (s : State) (a : Nat) (bs : List Nat) : (s.putMem a bs).mem = memPut s.mem a bs := rfl
@[simp] theorem State.putMem_cores (s : State) (a : Nat) (bs : List Nat) : (s.putMem a bs).cores = s.cores := rfl
@[simp] theorem State.putMem_slots (s : State) (a : Nat) (bs : List Nat) : (s.putMem a bs).slots = s.slots := rfl
@[simp] theorem State.putMem_sync (s : State) (a : Nat) (bs : List Nat) : (s.putMem a bs).sync = s.sync := rfl
@[simp] theorem State.putMem_pages (s : State) (a : Nat) (bs : List Nat) : (s.putMem a bs).pages = s.pages := rfl
@[simp] theorem State.putMem_serve (s : State) (a : Nat) (bs : List Nat) : (s.putMem a bs).serve = s.serve := rfl
@[simp] theorem State.putMem_portA (s : State) (a : Nat) (bs : List Nat) : (s.putMem a bs).portA = s.portA := rfl
@[simp] theorem State.putMem_portB (s : State) (a : Nat) (bs : List Nat) : (s.putMem a bs).portB = s.portB := rfl
@[simp] theorem State.putMem_integ (s : State) (a : Nat) (bs : List Nat) : (s.putMem a bs).integ = { s.integ with poison := unpoison s.integ.poison a bs.length } := rfl
@[simp] theorem State.putMem_links (s : State) (a : Nat) (bs : List Nat) : (s.putMem a bs).links = s.links := rfl
@[simp] theorem State.putMem_lglob (s : State) (a : Nat) (bs : List Nat) : (s.putMem a bs).lglob = s.lglob := rfl
@[simp] theorem State.putMem_sec (s : State) (a : Nat) (bs : List Nat) : (s.putMem a bs).sec = s.sec := rfl
@[simp] theorem State.putMem_pow (s : State) (a : Nat) (bs : List Nat) : (s.putMem a bs).pow = s.pow := rfl
@[simp] theorem State.putMem_glob (s : State) (a : Nat) (bs : List Nat) : (s.putMem a bs).glob = s.glob := rfl
@[simp] theorem State.putMem_boot (s : State) (a : Nat) (bs : List Nat) : (s.putMem a bs).boot = s.boot := rfl
@[simp] theorem State.putMem_board (s : State) (a : Nat) (bs : List Nat) : (s.putMem a bs).board = s.board := rfl
@[simp] theorem State.putMem_out (s : State) (a : Nat) (bs : List Nat) : (s.putMem a bs).out = s.out := rfl
@[simp] theorem State.putMem_pending (s : State) (a : Nat) (bs : List Nat) : (s.putMem a bs).pending = s.pending := rfl

@[simp] theorem State.copyMem_time (s : State) (src dst n : Nat) : (s.copyMem src dst n).time = s.time := rfl
@[simp] theorem State.copyMem_mem (s : State) (src dst n : Nat) : (s.copyMem src dst n).mem = memCopy s.mem src dst n := rfl
@[simp] theorem State.copyMem_cores (s : State) (src dst n : Nat) : (s.copyMem src dst n).cores = s.cores := rfl
@[simp] theorem State.copyMem_slots (s : State) (src dst n : Nat) : (s.copyMem src dst n).slots = s.slots := rfl
@[simp] theorem State.copyMem_sync (s : State) (src dst n : Nat) : (s.copyMem src dst n).sync = s.sync := rfl
@[simp] theorem State.copyMem_pages (s : State) (src dst n : Nat) : (s.copyMem src dst n).pages = s.pages := rfl
@[simp] theorem State.copyMem_serve (s : State) (src dst n : Nat) : (s.copyMem src dst n).serve = s.serve := rfl
@[simp] theorem State.copyMem_portA (s : State) (src dst n : Nat) : (s.copyMem src dst n).portA = s.portA := rfl
@[simp] theorem State.copyMem_portB (s : State) (src dst n : Nat) : (s.copyMem src dst n).portB = s.portB := rfl
@[simp] theorem State.copyMem_integ (s : State) (src dst n : Nat) : (s.copyMem src dst n).integ = { s.integ with poison := copyPoison s.integ.poison src dst n } := rfl
@[simp] theorem State.copyMem_links (s : State) (src dst n : Nat) : (s.copyMem src dst n).links = s.links := rfl
@[simp] theorem State.copyMem_lglob (s : State) (src dst n : Nat) : (s.copyMem src dst n).lglob = s.lglob := rfl
@[simp] theorem State.copyMem_sec (s : State) (src dst n : Nat) : (s.copyMem src dst n).sec = s.sec := rfl
@[simp] theorem State.copyMem_pow (s : State) (src dst n : Nat) : (s.copyMem src dst n).pow = s.pow := rfl
@[simp] theorem State.copyMem_glob (s : State) (src dst n : Nat) : (s.copyMem src dst n).glob = s.glob := rfl
@[simp] theorem State.copyMem_boot (s : State) (src dst n : Nat) : (s.copyMem src dst n).boot = s.boot := rfl
@[simp] theorem State.copyMem_board (s : State) (src dst n : Nat) : (s.copyMem src dst n).board = s.board := rfl
@[simp] theorem State.copyMem_out (s : State) (src dst n : Nat) : (s.copyMem src dst n).out = s.out := rfl
@[simp] theorem State.copyMem_pending (s : State) (src dst n : Nat) : (s.copyMem src dst n).pending = s.pending := rfl

@[simp] theorem State.modPort_time (s : State) (p : Port) (f : PortSt → PortSt) : (s.modPort p f).time = s.time := by cases p <;> rfl
@[simp] theorem State.modPort_mem (s : State) (p : Port) (f : PortSt → PortSt) : (s.modPort p f).mem = s.mem := by cases p <;> rfl
@[simp] theorem State.modPort_cores (s : State) (p : Port) (f : PortSt → PortSt) : (s.modPort p f).cores = s.cores := by cases p <;> rfl
@[simp] theorem State.modPort_slots (s : State) (p : Port) (f : PortSt → PortSt) : (s.modPort p f).slots = s.slots := by cases p <;> rfl
@[simp] theorem State.modPort_sync (s : State) (p : Port) (f : PortSt → PortSt) : (s.modPort p f).sync = s.sync := by cases p <;> rfl
@[simp] theorem State.modPort_pages (s : State) (p : Port) (f : PortSt → PortSt) : (s.modPort p f).pages = s.pages := by cases p <;> rfl
@[simp] theorem State.modPort_serve (s : State) (p : Port) (f : PortSt → PortSt) : (s.modPort p f).serve = s.serve := by cases p <;> rfl
@[simp] theorem State.modPort_integ (s : State) (p : Port) (f : PortSt → PortSt) : (s.modPort p f).integ = s.integ := by cases p <;> rfl
@[simp] theorem State.modPort_links (s : State) (p : Port) (f : PortSt → PortSt) : (s.modPort p f).links = s.links := by cases p <;> rfl
@[simp] theorem State.modPort_lglob (s : State) (p : Port) (f : PortSt → PortSt) : (s.modPort p f).lglob = s.lglob := by cases p <;> rfl
@[simp] theorem State.modPort_sec (s : State) (p : Port) (f : PortSt → PortSt) : (s.modPort p f).sec = s.sec := by cases p <;> rfl
@[simp] theorem State.modPort_pow (s : State) (p : Port) (f : PortSt → PortSt) : (s.modPort p f).pow = s.pow := by cases p <;> rfl
@[simp] theorem State.modPort_glob (s : State) (p : Port) (f : PortSt → PortSt) : (s.modPort p f).glob = s.glob := by cases p <;> rfl
@[simp] theorem State.modPort_boot (s : State) (p : Port) (f : PortSt → PortSt) : (s.modPort p f).boot = s.boot := by cases p <;> rfl
@[simp] theorem State.modPort_board (s : State) (p : Port) (f : PortSt → PortSt) : (s.modPort p f).board = s.board := by cases p <;> rfl
@[simp] theorem State.modPort_out (s : State) (p : Port) (f : PortSt → PortSt) : (s.modPort p f).out = s.out := by cases p <;> rfl
@[simp] theorem State.modPort_pending (s : State) (p : Port) (f : PortSt → PortSt) : (s.modPort p f).pending = s.pending := by cases p <;> rfl

@[simp] theorem State.modFunc_time (s : State) (p : Port) (fn : Nat) (f : Func → Func) : (s.modFunc p fn f).time = s.time := by cases p <;> rfl
@[simp] theorem State.modFunc_mem (s : State) (p : Port) (fn : Nat) (f : Func → Func) : (s.modFunc p fn f).mem = s.mem := by cases p <;> rfl
@[simp] theorem State.modFunc_cores (s : State) (p : Port) (fn : Nat) (f : Func → Func) : (s.modFunc p fn f).cores = s.cores := by cases p <;> rfl
@[simp] theorem State.modFunc_slots (s : State) (p : Port) (fn : Nat) (f : Func → Func) : (s.modFunc p fn f).slots = s.slots := by cases p <;> rfl
@[simp] theorem State.modFunc_sync (s : State) (p : Port) (fn : Nat) (f : Func → Func) : (s.modFunc p fn f).sync = s.sync := by cases p <;> rfl
@[simp] theorem State.modFunc_pages (s : State) (p : Port) (fn : Nat) (f : Func → Func) : (s.modFunc p fn f).pages = s.pages := by cases p <;> rfl
@[simp] theorem State.modFunc_serve (s : State) (p : Port) (fn : Nat) (f : Func → Func) : (s.modFunc p fn f).serve = s.serve := by cases p <;> rfl
@[simp] theorem State.modFunc_integ (s : State) (p : Port) (fn : Nat) (f : Func → Func) : (s.modFunc p fn f).integ = s.integ := by cases p <;> rfl
@[simp] theorem State.modFunc_links (s : State) (p : Port) (fn : Nat) (f : Func → Func) : (s.modFunc p fn f).links = s.links := by cases p <;> rfl
@[simp] theorem State.modFunc_lglob (s : State) (p : Port) (fn : Nat) (f : Func → Func) : (s.modFunc p fn f).lglob = s.lglob := by cases p <;> rfl
@[simp] theorem State.modFunc_sec (s : State) (p : Port) (fn : Nat) (f : Func → Func) : (s.modFunc p fn f).sec = s.sec := by cases p <;> rfl
@[simp] theorem State.modFunc_pow (s : State) (p : Port) (fn : Nat) (f : Func → Func) : (s.modFunc p fn f).pow = s.pow := by cases p <;> rfl
@[simp] theorem State.modFunc_glob (s : State) (p : Port) (fn : Nat) (f : Func → Func) : (s.modFunc p fn f).glob = s.glob := by cases p <;> rfl
@[simp] theorem State.modFunc_boot (s : State) (p : Port) (fn : Nat) (f : Func → Func) : (s.modFunc p fn f).boot = s.boot := by cases p <;> rfl
@[simp] theorem State.modFunc_board (s : State) (p : Port) (fn : Nat) (f : Func → Func) : (s.modFunc p fn f).board = s.board := by cases p <;> rfl
@[simp] theorem State.modFunc_out (s : State) (p : Port) (fn : Nat) (f : Func → Func) : (s.modFunc p fn f).out = s.out := by cases p <;> rfl
@[simp] theorem State.modFunc_pending (s : State) (p : Port) (fn : Nat) (f : Func → Func) : (s.modFunc p fn f).pending = s.pending := by cases p <;> rfl

@[simp] theorem State.hostPut_time (s : State) (p : Port) (a : Nat) (bs : List Nat) : (s.hostPut p a bs).time = s.time := by cases p <;> rfl
@[simp] theorem State.hostPut_mem (s : State) (p : Port) (a : Nat) (bs : List Nat) : (s.hostPut p a bs).mem = s.mem := by cases p <;> rfl
@[simp] theorem State.hostPut_cores (s : State) (p : Port) (a : Nat) (bs : List Nat) : (s.hostPut p a bs).cores = s.cores := by cases p <;> rfl
@[simp] theorem State.hostPut_slots (s : State) (p : Port) (a : Nat) (bs : List Nat) : (s.hostPut p a bs).slots = s.slots := by cases p <;> rfl
@[simp] theorem State.hostPut_sync (s : State) (p : Port) (a : Nat) (bs : List Nat) : (s.hostPut p a bs).sync = s.sync := by cases p <;> rfl
@[simp] theorem State.hostPut_pages (s : State) (p : Port) (a : Nat) (bs : List Nat) : (s.hostPut p a bs).pages = s.pages := by cases p <;> rfl
@[simp] theorem State.hostPut_serve (s : State) (p : Port) (a : Nat) (bs : List Nat) : (s.hostPut p a bs).serve = s.serve := by cases p <;> rfl
@[simp] theorem State.hostPut_integ (s : State) (p : Port) (a : Nat) (bs : List Nat) : (s.hostPut p a bs).integ = s.integ := by cases p <;> rfl
@[simp] theorem State.hostPut_links (s : State) (p : Port) (a : Nat) (bs : List Nat) : (s.hostPut p a bs).links = s.links := by cases p <;> rfl
@[simp] theorem State.hostPut_lglob (s : State) (p : Port) (a : Nat) (bs : List Nat) : (s.hostPut p a bs).lglob = s.lglob := by cases p <;> rfl
@[simp] theorem State.hostPut_sec (s : State) (p : Port) (a : Nat) (bs : List Nat) : (s.hostPut p a bs).sec = s.sec := by cases p <;> rfl
@[simp] theorem State.hostPut_pow (s : State) (p : Port) (a : Nat) (bs : List Nat) : (s.hostPut p a bs).pow = s.pow := by cases p <;> rfl
@[simp] theorem State.hostPut_glob (s : State) (p : Port) (a : Nat) (bs : List Nat) : (s.hostPut p a bs).glob = s.glob := by cases p <;> rfl
@[simp] theorem State.hostPut_boot (s : State) (p : Port) (a : Nat) (bs : List Nat) : (s.hostPut p a bs).boot = s.boot := by cases p <;> rfl
@[simp] theorem State.hostPut_board (s : State) (p : Port) (a : Nat) (bs : List Nat) : (s.hostPut p a bs).board = s.board := by cases p <;> rfl
@[simp] theorem State.hostPut_out (s : State) (p : Port) (a : Nat) (bs : List Nat) : (s.hostPut p a bs).out = s.out := by cases p <;> rfl
@[simp] theorem State.hostPut_pending (s : State) (p : Port) (a : Nat) (bs : List Nat) : (s.hostPut p a bs).pending = s.pending := by cases p <;> rfl

@[simp] theorem State.hostStore_time (s : State) (p : Port) (cs : Cells) : (s.hostStore p cs).time = s.time := by cases p <;> rfl
@[simp] theorem State.hostStore_mem (s : State) (p : Port) (cs : Cells) : (s.hostStore p cs).mem = s.mem := by cases p <;> rfl
@[simp] theorem State.hostStore_cores (s : State) (p : Port) (cs : Cells) : (s.hostStore p cs).cores = s.cores := by cases p <;> rfl
@[simp] theorem State.hostStore_slots (s : State) (p : Port) (cs : Cells) : (s.hostStore p cs).slots = s.slots := by cases p <;> rfl
@[simp] theorem State.hostStore_sync (s : State) (p : Port) (cs : Cells) : (s.hostStore p cs).sync = s.sync := by cases p <;> rfl
@[simp] theorem State.hostStore_pages (s : State) (p : Port) (cs : Cells) : (s.hostStore p cs).pages = s.pages := by cases p <;> rfl
@[simp] theorem State.hostStore_serve (s : State) (p : Port) (cs : Cells) : (s.hostStore p cs).serve = s.serve := by cases p <;> rfl
@[simp] theorem State.hostStore_integ (s : State) (p : Port) (cs : Cells) : (s.hostStore p cs).integ = s.integ := by cases p <;> rfl
@[simp] theorem State.hostStore_links (s : State) (p : Port) (cs : Cells) : (s.hostStore p cs).links = s.links := by cases p <;> rfl
@[simp] theorem State.hostStore_lglob (s : State) (p : Port) (cs : Cells) : (s.hostStore p cs).lglob = s.lglob := by cases p <;> rfl
@[simp] theorem State.hostStore_sec (s : State) (p : Port) (cs : Cells) : (s.hostStore p cs).sec = s.sec := by cases p <;> rfl
@[simp] theorem State.hostStore_pow (s : State) (p : Port) (cs : Cells) : (s.hostStore p cs).pow = s.pow := by cases p <;> rfl
@[simp] theorem State.hostStore_glob (s : State) (p : Port) (cs : Cells) : (s.hostStore p cs).glob = s.glob := by cases p <;> rfl
@[simp] theorem State.hostStore_boot (s : State) (p : Port) (cs : Cells) : (s.hostStore p cs).boot = s.boot := by cases p <;> rfl
@[simp] theorem State.hostStore_board (s : State) (p : Port) (cs : Cells) : (s.hostStore p cs).board = s.board := by cases p <;> rfl
@[simp] theorem State.hostStore_out (s : State) (p : Port) (cs : Cells) : (s.hostStore p cs).out = s.out := by cases p <;> rfl
@[simp] theorem State.hostStore_pending (s : State) (p : Port) (cs : Cells) : (s.hostStore p cs).pending = s.pending := by cases p <;> rfl

/-! What a table's entry reads after an update. -/

@[simp] theorem State.modPort_port_self (s : State) (p : Port) (f : PortSt → PortSt) : (s.modPort p f).port p = f (s.port p) := by
  cases p <;> rfl

@[simp] theorem State.modPort_port_other (s : State) {p q : Port} (h : q ≠ p) (f : PortSt → PortSt) : (s.modPort p f).port q = s.port q := by
  cases p <;> cases q <;> first | rfl | exact absurd rfl h

@[simp] theorem State.modFunc_func_self (s : State) (p : Port) (fn : Nat) (f : Func → Func) :
    ((s.modFunc p fn f).port p).func fn = f ((s.port p).func fn) := by simp [State.modFunc, PortSt.func]

@[simp] theorem State.modFunc_func_other (s : State) (p : Port) {fn g : Nat} (h : g ≠ fn) (f : Func → Func) :
    ((s.modFunc p fn f).port p).func g = (s.port p).func g := by simp [State.modFunc, PortSt.func, h]

@[simp] theorem State.modCore_core_self (s : State) (c : Nat) (f : Core → Core) : (s.modCore c f).core c = f (s.core c) := by
  simp [State.core]

@[simp] theorem State.modCore_core_other (s : State) {c d : Nat} (h : d ≠ c) (f : Core → Core) : (s.modCore c f).core d = s.core d := by
  simp [State.core, h]

@[simp] theorem State.modRun_core_self (s : State) (c : Nat) (f : CoreRun → CoreRun) :
    (s.modRun c f).core c = { s.core c with run := f (s.core c).run } := State.modCore_core_self s c _

@[simp] theorem State.modRun_core_other (s : State) {c d : Nat} (h : d ≠ c) (f : CoreRun → CoreRun) : (s.modRun c f).core d = s.core d :=
  State.modCore_core_other s h _

@[simp] theorem State.modRegs_core_self (s : State) (c : Nat) (f : CoreRegs → CoreRegs) :
    (s.modRegs c f).core c = { s.core c with regs := f (s.core c).regs } := State.modCore_core_self s c _

@[simp] theorem State.modRegs_core_other (s : State) {c d : Nat} (h : d ≠ c) (f : CoreRegs → CoreRegs) : (s.modRegs c f).core d = s.core d :=
  State.modCore_core_other s h _

@[simp] theorem State.modLink_link_self (s : State) (l : Nat) (f : LinkSt → LinkSt) : (s.modLink l f).link l = f (s.link l) := by
  simp [State.link]

@[simp] theorem State.modLink_link_other (s : State) {l k : Nat} (h : k ≠ l) (f : LinkSt → LinkSt) : (s.modLink l f).link k = s.link k := by
  simp [State.link, h]

@[simp] theorem State.modTable_table_self (s : State) (t : Nat) (f : PassTable → PassTable) : (s.modTable t f).table t = f (s.table t) := by
  simp [State.table, State.modTable]

@[simp] theorem State.modTable_table_other (s : State) {t u : Nat} (h : u ≠ t) (f : PassTable → PassTable) :
    (s.modTable t f).table u = s.table u := by simp [State.table, State.modTable, h]

@[simp] theorem State.modSess_sess_self (s : State) (i : Nat) (f : Session → Session) : (s.modSess i f).sess i = f (s.sess i) := by
  simp [State.sess, State.modSess, State.modSessions, Serve.session]

@[simp] theorem State.modSess_sess_other (s : State) {i j : Nat} (h : j ≠ i) (f : Session → Session) : (s.modSess i f).sess j = s.sess j := by
  simp [State.sess, State.modSess, State.modSessions, Serve.session, h]

@[simp] theorem State.modPage_page_self (s : State) (p : Nat) (f : PageDesc → PageDesc) : (s.modPage p f).page p = f (s.page p) := by
  simp [State.page, State.modPage, Pages.desc]

@[simp] theorem State.modPage_page_other (s : State) {p q : Nat} (h : q ≠ p) (f : PageDesc → PageDesc) : (s.modPage p f).page q = s.page q := by
  simp [State.page, State.modPage, Pages.desc, h]

@[simp] theorem State.modModel_model_self (s : State) (k : Nat) (f : ModelSlot → ModelSlot) : (s.modModel k f).model k = f (s.model k) := by
  simp [State.model, State.modModel]

@[simp] theorem State.modModel_model_other (s : State) {k j : Nat} (h : j ≠ k) (f : ModelSlot → ModelSlot) :
    (s.modModel k f).model j = s.model j := by simp [State.model, State.modModel, h]

@[simp] theorem State.modRing_ring_self (s : State) (p : Port) (n : Nat) (f : Ring → Ring) : (s.modRing p n f).ring p n = f (s.ring p n) := by
  simp [State.ring, State.modRing]

/-! Two updates of one part are one, and updates that agree on the present value are equal. -/

@[simp] theorem State.modCore_modCore (s : State) (c : Nat) (f g : Core → Core) :
    (s.modCore c f).modCore c g = s.modCore c (fun k => g (f k)) := by simp [State.modCore]

@[simp] theorem State.modRun_modRun (s : State) (c : Nat) (f g : CoreRun → CoreRun) :
    (s.modRun c f).modRun c g = s.modRun c (fun r => g (f r)) := State.modCore_modCore s c _ _

@[simp] theorem State.modRegs_modRegs (s : State) (c : Nat) (f g : CoreRegs → CoreRegs) :
    (s.modRegs c f).modRegs c g = s.modRegs c (fun r => g (f r)) := State.modCore_modCore s c _ _

@[simp] theorem State.modLink_modLink (s : State) (l : Nat) (f g : LinkSt → LinkSt) :
    (s.modLink l f).modLink l g = s.modLink l (fun k => g (f k)) := by simp [State.modLink]

@[simp] theorem State.modSync_modSync (s : State) (f g : Sync → Sync) : (s.modSync f).modSync g = s.modSync (fun y => g (f y)) := rfl

@[simp] theorem State.modServe_modServe (s : State) (f g : Serve → Serve) : (s.modServe f).modServe g = s.modServe (fun v => g (f v)) := rfl

@[simp] theorem State.modPages_modPages (s : State) (f g : Pages → Pages) : (s.modPages f).modPages g = s.modPages (fun v => g (f v)) := rfl

@[simp] theorem State.modPow_modPow (s : State) (f g : Power → Power) : (s.modPow f).modPow g = s.modPow (fun v => g (f v)) := rfl

theorem State.modCore_congr (s : State) (c : Nat) {f g : Core → Core} (h : f (s.core c) = g (s.core c)) : s.modCore c f = s.modCore c g := by
  simp only [State.modCore]; rw [Tbl.upd_congr _ _ _ h]

theorem State.modRun_congr (s : State) (c : Nat) {f g : CoreRun → CoreRun} (h : f (s.core c).run = g (s.core c).run) :
    s.modRun c f = s.modRun c g := State.modCore_congr s c (by simp only [h])

theorem State.modRegs_congr (s : State) (c : Nat) {f g : CoreRegs → CoreRegs} (h : f (s.core c).regs = g (s.core c).regs) :
    s.modRegs c f = s.modRegs c g := State.modCore_congr s c (by simp only [h])

theorem State.modLink_congr (s : State) (l : Nat) {f g : LinkSt → LinkSt} (h : f (s.link l) = g (s.link l)) : s.modLink l f = s.modLink l g := by
  simp only [State.modLink]; rw [Tbl.upd_congr _ _ _ h]

end Sys2Proof.Machine
end

