-- ==== Sys2Proof/Laws/Shared.lean ====
section
/-! SUPPORT. What the shared frames of commands do: core words, link frames, intake entries, the queue. -/

namespace Sys2Proof.Machine

open Sys2Proof

/-! The queue. -/

/-- A step with a command in front is that command on the state with the queue's rest. -/
theorem step_cons {s : State} {c : Instr} {rest : List Instr} (h : s.pending = c :: rest) :
    step s = exec c { s with pending := rest } := by simp [step, h]

/-- A step on an empty queue is a tick. -/
theorem step_nil {s : State} (h : s.pending = []) : step s = .next s.tick := by simp [step, h]

/-! Core words. -/

/-- The two ways of telling an illegal word agree (R77, R102). -/
theorem wIllegal_eq_coreIllegal (w : Word) : wIllegal w.toNat = coreIllegal w := by
  unfold wIllegal coreIllegal wClass wOp
  generalize fld w.toNat 0 4 = a
  generalize fld w.toNat 4 3 = b
  match a with
  | 0 => rfl
  | 1 => rfl
  | 2 => rfl
  | 3 => rfl
  | 4 => rfl
  | 5 => rfl
  | n + 6 => simp [classOps]

theorem wIs_eq_coreOwn (cls op : Nat) (w : Word) : wIs cls op w.toNat = coreOwn cls op w := rfl

/-- A core-word command goes on when the word is of its own kind or illegal. -/
theorem coreWord_of_own {w : Nat} (s : State) : coreWord true w s = .next s := by simp [coreWord]

theorem coreWord_of_illegal {own : Bool} {w : Nat} (h : wIllegal w = true) (s : State) : coreWord own w s = .next s := by
  simp [coreWord, h]

/-- The conditions under which a word issues, taken apart. -/
theorem State.issues_iff (s : State) (c : Nat) (w : Word) (check : Option Nat) (foot : Footprint) (ready : Bool) :
    s.issues c w check foot ready = true ↔
      s.alive = true ∧ (s.core c).run.active = true ∧ (s.core c).run.stopped = none ∧ (s.core c).run.underWay = false ∧ (s.core c).run.wait = none ∧
      s.fetchWord c = some w.toNat ∧ coreIllegal w = false ∧ check = none ∧ s.fenceOpen c w.toNat = true ∧ ready = true ∧
      s.streamHazard c foot = false ∧ s.poisonRead c (foot.reads ++ foot.tiles) = none := by
  simp [State.issues, State.atWord, and_assoc]

/-- A word that issues has its effect, and the sequencer moves on unless the word stopped it or waits (R95–R102). -/
theorem State.runWord_issues {s : State} {c : Nat} {w : Word} {check : Option Nat} {foot : Footprint} {ready : Bool} (run : State → State)
    (h : s.issues c w check foot ready = true) :
    s.runWord c w.toNat check foot ready run =
      if ((run s).core c).run.stopped.isSome || ((run s).core c).run.underWay || ((run s).core c).run.wait.isSome then run s
      else (run s).modRun c (CoreRun.issued w.toNat) := by
  obtain ⟨ha, hact, hst, hd, hw, hf, hi, hc, hfe, hr, hh, hp⟩ := (State.issues_iff s c w check foot ready).mp h
  have hs : ∀ o : Option (Nat × Nat), decide (o ≠ none) = o.isSome := by intro o; cases o <;> rfl
  have hcan : s.canDecode c = true := by simp [State.canDecode, ha, hact, hst, hw]
  unfold State.runWord
  simp only [hcan, hf, wIllegal_eq_coreIllegal, hi, hc, hfe, hr, hh, hp, hst]
  simp [hs]

/-- A word that issues, neither stops nor waits, and leaves the sequencer's state to its own effect. -/
theorem State.runWord_goes {s : State} {c : Nat} {w : Word} {check : Option Nat} {foot : Footprint} {ready : Bool} (run : State → State)
    (h : s.issues c w check foot ready = true) (hs : ((run s).core c).run.stopped = none) (hd : ((run s).core c).run.underWay = false)
    (hw : ((run s).core c).run.wait = none) :
    s.runWord c w.toNat check foot ready run = (run s).modRun c (CoreRun.issued w.toNat) := by
  rw [State.runWord_issues run h]; simp [hs, hd, hw]

/-- A core that does not decode, or stands at another word, ignores the command. -/
theorem State.runWord_waits {s : State} {c w : Nat} {check : Option Nat} {foot : Footprint} {ready : Bool} {run : State → State}
    (h : s.canDecode c = false ∨ ∃ m, s.fetchWord c = some m ∧ m ≠ w) : s.runWord c w check foot ready run = s := by
  unfold State.runWord
  rcases h with h | ⟨m, h, hm⟩
  · simp [h]
  · split
    · rfl
    · simp [h, hm]

/-- What a core word's command can answer: the unchanged state, a fault of its core, its effect, or its effect and the sequencer's move. -/
theorem State.runWord_cases (s : State) (c w : Nat) (check : Option Nat) (foot : Footprint) (ready : Bool) (run : State → State) :
    s.runWord c w check foot ready run = s ∨ (∃ code, s.runWord c w check foot ready run = s.wordFault c code) ∨
      s.runWord c w check foot ready run = run s ∨ s.runWord c w check foot ready run = (run s).modRun c (CoreRun.issued w) := by
  unfold State.runWord
  dsimp only
  repeat' split
  all_goals first
    | exact .inl rfl
    | exact .inr (.inl ⟨_, rfl⟩)
    | exact .inr (.inr (.inl rfl))
    | exact .inr (.inr (.inr rfl))

/-! Link frames. -/

theorem frameCmd_of_fits {type : Nat} {f : Frame} (h : frameFits type f = true) (s : State) : frameCmd type f s = .next s := by
  have : f.head.type = type := beq_iff_eq.mp h
  simp [frameCmd, this]

/-- A frame that the link takes: its bookkeeping, its own effect, and what the link then sends (R289–R291). -/
theorem State.receive_takes {s : State} {l : Nat} {f : Frame} (act : State → State) (h : s.takes l f = true) :
    s.receive l f act = (act (s.taken l f)).sendQueued l := by
  have hh : s.alive = true ∧ (s.link l).hears = true ∧ (s.link l).judge f = .accepted := by
    simpa [State.takes, and_assoc] using h
  unfold State.receive State.taken
  rw [if_neg (by simp [hh.1, hh.2.1])]
  simp only [hh.2.2]
  rfl

/-- The same for a frame that only some link states may take. -/
theorem State.receiveIn_takes {s : State} {l : Nat} {f : Frame} (ok : LinkSt → Bool) (act : State → State) (h : s.takes l f = true) :
    s.receiveIn l f ok act = (if ok ((s.taken l f).link l) then act (s.taken l f) else (s.taken l f).malformed l).sendQueued l :=
  State.receive_takes _ h

/-- A device that has stopped or a link that hears nothing ignores a frame. -/
theorem State.receive_deaf {s : State} {l : Nat} {f : Frame} {act : State → State} (h : s.alive = false ∨ (s.link l).hears = false) :
    s.receive l f act = s := by
  unfold State.receive
  rcases h with h | h <;> simp [h]

/-! Intake entries. -/

theorem entryCmd_of_fits {op : Nat} {e : BitVec 256} (h : entryFits op e = true) (s : State) : entryCmd op e s = .next s := by
  have : opcodeOf e = op := by simpa [entryFits, opcodeOf] using h
  simp [entryCmd, this]

/-- An entry that the watcher reads: stored, counted, the module awake, and then its own effect (R222–R224, R345). -/
theorem State.intake_reads {s : State} {p : Port} {n : Nat} {e : BitVec 256} (act : State → State) (h : s.readsEntry p n e = true) :
    s.intake p n e act = act (s.entryTaken p n e) := by
  simp only [State.readsEntry, Bool.and_eq_true, Bool.not_eq_true', beq_iff_eq, Bool.or_eq_true] at h
  obtain ⟨⟨⟨⟨⟨⟨hw, hp⟩, hf⟩, hph⟩, hh⟩, ha⟩, had⟩ := h
  have hans : ∀ g, (s.modRing p n g).answersOnly = s.answersOnly := fun _ => rfl
  have hport : ∀ g, (s.modRing p n g).port p = s.port p := fun _ => by cases p <;> rfl
  have hnot : (isAdmin (opcodeOf e) && !(s.port p).adminRings.getLsbD n) = false := by
    rcases had with had | had
    · have : isAdmin (opcodeOf e) = false := had
      simp [this]
    · simp [had]
  unfold State.intake State.entryTaken
  simp only [hw, hp, hf, hph, hh, hans, ha, hport, hnot]
  simp
  rfl

/-- A ring that is not watched, is held back, or shows the other phase keeps its entry unread. -/
theorem State.intake_waits {s : State} {p : Port} {n : Nat} {e : BitVec 256} {act : State → State}
    (h : s.watches p n = false ∨ s.paused p n = true ∨ s.seatFull p n = true ∨ phaseOf e ≠ (s.ring p n).inPhase) : s.intake p n e act = s := by
  unfold State.intake
  rcases h with h | h | h | h
  · simp [h]
  · simp [h]
  · simp [h]
  · simp [h]

end Sys2Proof.Machine
end

