-- ==== Sys2Proof/Machine/Pins.lean ====
section
/-! DEFINITION. What the module shows outside: the pins in each state (R457), and what a read of the register space returns
(R432). No command of the table reads these, so nothing calls them. -/

namespace Sys2Proof.Machine

/-! Pins (R457). -/

/-- What a pin does: released, PCIe electrical idle, driven low or high, an input, working as its standard or its owner says. -/
inductive PinState where
  | highZ | idle | low | high | input | working
deriving DecidableEq, Repr

/-- Whether the module is absent from the table's view, in STANDBY with RESET_IN# asserted, or TRIPPED. -/
def State.pinsOff (s : State) : Bool := !s.board.aux || s.board.resetIn || s.dark

/-- The PCIe transmitters of a port. -/
def State.pcieTx (s : State) (p : Port) : PinState :=
  if s.pinsOff then .highZ else if (s.port p).link = .down then .idle else .working

/-- The PCIe receivers of a port: terminated from the start of training on. -/
def State.pcieRx (s : State) (p : Port) : PinState :=
  if s.pinsOff || (s.port p).link == .down then .highZ else .working

/-- Transmitters and receivers of a link. -/
def State.linkPins (s : State) (l : Nat) : PinState :=
  if s.pinsOff || s.booting || (s.link l).state == .disabled || (s.link l).state == .retired then .highZ else .working

/-- The REFCLK inputs of the ports. -/
def State.refclkPins (s : State) : PinState := if s.pinsOff then .highZ else .input

/-- THERM_TRIP#. -/
def State.thermTripPin (s : State) : PinState := if s.board.aux && s.pow.tripLow then .low else .highZ

/-- MOD_READY. -/
def State.modReadyPin (s : State) : PinState := if !s.board.aux then .highZ else if s.glob.modReady then .high else .low

/-- VR_ALERT#, which only a regulator or the tray drives low. -/
def State.vrAlertPin (s : State) : PinState := if !s.pinsOff && s.pow.vrAlert then .low else .highZ

/-- GP pin `n`: as its owner in the image says, once CHECK has applied it (R415). -/
def State.gpPin (s : State) (n : Nat) : PinState :=
  if s.pinsOff || !s.boot.owners.any (fun o => o.kind == 6 && decide (o.first ≤ n ∧ n < o.first + o.count)) then .highZ else .working

/-! Reads (R432, R433). -/

/-- An aligned 4-byte read of a port or a steward: half of the register; of LOCAL_TIME_HI the latched half. -/
def State.readHalf (s : State) (who off : Nat) : Nat := s.readReg who (off / 8 * 8) / 2 ^ (8 * (off % 8)) % 2 ^ 32

/-- Whether an 8-byte aligned read lies within one block. -/
def oneBlock (off size : Nat) : Bool := (blockOf off).map Prod.fst == (blockOf (off + size - 8)).map Prod.fst

/-- The bytes that a read returns; none where it returns 0 for every byte and is counted in BAD_SIZE. -/
def State.readSized (s : State) (who off size : Nat) : Option (List Nat) :=
  if size = 4 ∧ off % 4 = 0 then some (leBytes 4 (s.readHalf who off))
  else if size % 8 = 0 ∧ 8 ≤ size ∧ size ≤ 4096 ∧ off % 8 = 0 ∧ oneBlock off size = true then
    some ((List.range (size / 8)).flatMap (fun i => leBytes 8 (s.readReg who (off + 8 * i))))
  else none

/-- A read of a port or a steward served (R432, R437): its bytes, and the state after it, in which a low domain is awake or BAD_SIZE has counted it. -/
def State.serveRead (s : State) (r : Requester) (off size : Nat) : List Nat × State :=
  match s.readSized r.key off size with
  | none => (List.replicate size 0, s.badSized r off)
  | some bs => (bs, match blockOf off with | some (b, _) => s.touch b | none => s)

end Sys2Proof.Machine
end

