-- ==== Sys2Proof/Tests/Slice0.lean ====
section
/-! SUPPORT. Tests of the model on small states, and a witness for the hypotheses of every statement. -/

namespace Sys2Proof.Tests

open Sys2Proof Sys2Proof.Machine

-- One test after another: each waits for the kernel, and tests that wait side by side hold a thread each.
set_option Elab.async false

/-- A state in which core 0 runs a pass whose program lies at HBM address 0, with the given words from the sequencer's position on. -/
def coreState (run : CoreRun) (ws : List Nat) : State :=
  { State.reset with mem := memPut [] 0 (ws.flatMap (leBytes 16)), cores := [(0, { run := { run with active := true } })] }

/-- The state an outcome answers; the reset state where it answers none. -/
def after (o : Host.Outcome State Fault Refusal) : State := match o with | .next t => t | _ => State.reset

/-- Whether an outcome is the fault of an ill-formed command. -/
def isIll (o : Host.Outcome State Fault Refusal) : Bool := match o with | .fault .illFormed => true | _ => false

theorem witness_memory_canonical : State.reset.memCanon = true ∧ ∃ t, step State.reset = .next t := ⟨by decide, _, rfl⟩
theorem witness_tick : State.reset.board.aux = true ∧ ({ State.reset with board := { aux := false } } : State).board.aux = false ∧
    State.reset.clocked = false ∧ ({ State.reset with boot := { stage := 0x0B } } : State).clocked = true := by decide

theorem witness_tick_align : let s : State := { State.reset with time := 5, boot := { stage := 0x0B }, pow := { boosting := true } }
    (if s.alive then s.sendColls else s).clocked = true ∧ (if s.alive then s.sendColls else s).time % 2 = 1 ∧
    s.tick.pow.div8 = true ∧ s.tick.pow.pulses32 = 384 := by decide

theorem witness_tick_core : let s : State := { State.reset with boot := { stage := 0x0B }, cores := [(3, { run := { active := true } })] }
    s.clocked = true ∧ (s.core 3).run.active = true ∧ (s.core 3).run.stopped = none ∧ (s.core 3).regs.clearedAt ≤ s.pow.arrayCycles ∧
    (s.core 4).run.active = false := by decide
theorem witness_nop : coreOwn 0 0 0 = true ∧ (coreState {} [0]).issues 0 0 none {} true = true := by decide
theorem witness_end : coreOwn 0 1 0x10 = true ∧ (coreState {} [0x10]).issues 0 0x10 none {} true = true ∧
    ((coreState {} [0x10]).core 0).run.loops = [] := by decide
theorem witness_loop : coreOwn 0 2 0x20 = true ∧ (coreState {} [0x20]).issues 0 0x20 none {} true = true ∧
    ((coreState {} [0x20]).core 0).run.loops.length < 4 := by decide
theorem witness_setc : coreOwn 0 3 0x7830 = true ∧ (coreState {} [0x7830]).issues 0 0x7830 none {} true = true ∧ fld 0x7830 11 5 = 15 := by decide
theorem witness_ldcx : coreOwn 0 4 0x40 = true ∧ (coreState {} [0x40]).issues 0 0x40 none { reads := [⟨0, 64⟩] } true = true := by decide
theorem witness_word_waits : State.reset.canDecode 0 = false ∧ coreOwn 0 0 0 = true := by decide
theorem witness_word_elsewhere : (coreState {} [0x10]).fetchWord 0 = some 0x10 ∧ coreOwn 0 0 0 = true := by decide
theorem witness_word_illegal : coreIllegal 0x7 = true ∧ (coreState {} [0x7]).canDecode 0 = true ∧ (coreState {} [0x7]).fetchWord 0 = some 7 := by decide
theorem witness_fetch_refused : (coreState { prog := 0x2400000000 } [0]).canDecode 0 = true ∧
    (coreState { prog := 0x2400000000 } [0]).fetchWord 0 = none := by decide
/-- MM of four rows in BF16 with the zero partial sum, converted to FP32 at the end (KB 31, DRAIN 1, M4 3, strides 8 and 4). -/
def mmWord (op : Nat) : Nat :=
  1 + op * 16 + 31 * 2 ^ 11 + 2 * 2 ^ 16 + 2 * 2 ^ 20 + 4 * 2 ^ 24 + 1 * 2 ^ 36 + 3 * 2 ^ 43 + 8 * 2 ^ 72 + 4096 * 2 ^ 99 + 16 * 2 ^ 116
/-- A core at an array word with a plan of four BF16 tiles that have arrived. -/
def mmState (op : Nat) : State :=
  { coreState { rqBase := 16384, rqLines := 16 } [mmWord op] with
    sync := { seq := { segs := [{ base := 0, fmt := 2, fs := false, k128 := false, ntiles := 4, scaleBase := 0 }], ntiles := 4, started := 1 } } }
/-- Whether an array word issues in a state, as the statement puts it. -/
def arrayIssues (s : State) (w : Nat) : Bool :=
  let a := AWord.decode w
  let j := s.arrayJob 0 w a
  s.issues 0 (BitVec.ofNat 128 w) (s.checkArray 0 w a) (a.foot j.r w) (s.tilesHere 0 a && (a.scalesHere j.r || a.scalesSome j.r)) && a.scalesHere j.r
/-- Whether an array word that has begun goes on with all its scales there. -/
def arrayResumes (s : State) (w : Nat) : Bool :=
  let a := AWord.decode w
  let j := s.arrayJob 0 w a
  s.resumes 0 (BitVec.ofNat 128 w) (s.checkArray 0 w a) (a.foot j.r w) (s.tilesHere 0 a && (a.scalesHere j.r || a.scalesSome j.r)) && a.scalesHere j.r
/-- The word with DRAIN 2, and a core whose epilogue slot 0 is set for the custom function of table 4, which is empty. -/
def epiWord (op : Nat) : Nat := mmWord op + 2 ^ 36
/-- As `mmState`, at that word. -/
def epiState (op : Nat) : State :=
  { mmState op with
    mem := memPut [] 0 (leBytes 16 (epiWord op))
    cores := [(0, { run := { active := true, rqBase := 16384, rqLines := 16, epis := [(0, { isSet := true, func := 0x44, cols := 256 })] } })] }
theorem witness_epilogue : arrayIssues (epiState 0) (epiWord 0) = true ∧ arrayIssues (epiState 1) (epiWord 1) = true ∧
    (AWord.decode (epiWord 0)).drainNow ((epiState 0).core 0).run = 2 ∧ ((epiState 0).core 0).tableEmpty 0x44 = true ∧
    coreOwn 1 0 (BitVec.ofNat 128 (epiWord 0)) = true ∧ coreOwn 1 1 (BitVec.ofNat 128 (epiWord 1)) = true := by decide +kernel
/-- An array word of 1040 rows in F4, which needs 8,320 fine scales. -/
def longWord (op : Nat) : Nat :=
  1 + op * 16 + 31 * 2 ^ 11 + 5 * 2 ^ 16 + 5 * 2 ^ 20 + 4 * 2 ^ 24 + 2 ^ 31 + 2 ^ 32 + 1 * 2 ^ 36 + 259 * 2 ^ 43 + 2 ^ 72 + 4096 * 2 ^ 99 + (if op = 0 then 1 else 4) * 2 ^ 116
/-- A core at that word with its tiles there, eight scales in the FIFO and a SCALEFEED of 8,320 bytes under way. -/
def longState (op : Nat) : State :=
  { coreState { rqBase := 16384, rqLines := 16, scaleFifo := List.replicate 8 0x38, queues := [(0, [.desc (BitVec.ofNat 512 (4 + 8320 * 2 ^ 128)) 63 0 false 0])] } [longWord op] with
    sync := { seq := { segs := [{ base := 0, fmt := 5, fs := true, k128 := true, ntiles := 4, scaleBase := 0 }], ntiles := 4, started := 1 } } }
/-- Whether it takes the first scales. -/
def longTakes (op : Nat) : Bool :=
  let s := longState op
  let w := longWord op
  let a := AWord.decode w
  let r := (s.core 0).run
  s.issues 0 (BitVec.ofNat 128 w) (s.checkArray 0 w a) (a.foot r w) (s.tilesHere 0 a && (a.scalesHere r || a.scalesSome r)) && !a.scalesHere r
theorem witness_array_long : longTakes 0 = true ∧ longTakes 1 = true := by decide +kernel
theorem witness_array_resumes : arrayResumes ((mmState 0).modRun 0 (fun r => { r with scaleHeld := [0x38] })) (mmWord 0) = true ∧
    arrayResumes ((mmState 1).modRun 0 (fun r => { r with scaleHeld := [0x38] })) (mmWord 1) = true := by decide +kernel
theorem witness_mm : arrayIssues (mmState 0) (mmWord 0) = true ∧ (AWord.decode (mmWord 0)).drainNow ((mmState 0).core 0).run = 1 ∧ coreOwn 1 0 (BitVec.ofNat 128 (mmWord 0)) = true := by decide +kernel
theorem witness_mmw : arrayIssues (mmState 1) (mmWord 1) = true ∧ (AWord.decode (mmWord 1)).drainNow ((mmState 1).core 0).run = 1 ∧ coreOwn 1 1 (BitVec.ofNat 128 (mmWord 1)) = true := by decide +kernel
/-- A decanter word over `nb` blocks in BF16, four rows by a length table, final FP32 output: Q at 0, O at 4096, S at 8192. -/
def decWord (op nb : Nat) : Nat :=
  2 + op * 16 + 2 ^ 16 + 2 ^ 20 + op * 2 ^ 31 + 2 ^ 34 + 2 ^ 35 + nb * 2 ^ 48 + 128 * 2 ^ 81 + 64 * 2 ^ 98
/-- A core at a decanter word with the tiles of one block in its local queue, and a length table of one row that sees no key. -/
def decState (op nb : Nat) : State :=
  { coreState { ctxs := [(0, BitVec.ofNat 512 (1 + 256 * 2 ^ 25))], lqBase := 1024, lqPlan := [(0, some (2 * nb))], lqFilled := [0, 1] } [decWord op nb] with
    mem := memPut (memPut [] 0 (leBytes 16 (decWord op nb))) (sramAddr 0 16384) (leBytes 16 (0x4C + 2 ^ 16) ++ leBytes 16 (2 ^ 16 + 2 ^ 48)) }
/-- The state after the command of a decanter word has taken one of two blocks, with the tiles of the next block there. -/
def decMidway (op : Nat) : State :=
  let w : Word := BitVec.ofNat 128 (decWord op 2)
  (after (exec (if op = 0 then .decanterForward 0 w else .decanterRecompute 0 w) (decState op 2))).modRun 0 (fun r => { r with lqFilled := [2, 3] })
/-- Whether a decanter word issues in a state and its job exists, with the blocks it takes. -/
def decIssues (s : State) (w : Nat) : Option Nat :=
  match s.decJob 0 w with
  | .inl j =>
    if s.issues 0 (BitVec.ofNat 128 w) (s.checkDec 0 w) (s.decFoot 0 w) (s.core 0).run.blockHere then
      match s.decRun 0 j (j.start w (s.window 0)) with
      | (_, g, none) => some g.block
      | _ => none
    else none
  | .inr _ => none
/-- Blocks taken in all by a word under way that goes on. -/
def decGoes (s : State) (w : Nat) : Option Nat :=
  match (s.core 0).run.dec with
  | some st =>
    if s.canDecode 0 && st.word == w && (s.core 0).run.blockHere then
      match s.decRun 0 (s.decTask 0 w st.rows st.mask) st with
      | (_, g, none) => some g.block
      | _ => none
    else none
  | none => none
/-- The code that poison in the Kᵀ tile gives a word whose row sees one key. -/
def decPoisoned (op : Nat) : Option Nat :=
  let w := decWord op 1
  let s := { decState op 1 with
    mem := memPut (decState op 1).mem (sramAddr 0 16384) (leBytes 16 (0x4C + 2 ^ 16) ++ leBytes 16 (2 ^ 16 + 2 ^ 48 + 2 ^ 64))
    integ := { poison := [(sramAddr 0 (64 * 1024), 0x1A10)] } }
  match s.decJob 0 w with
  | .inl j => if s.issues 0 (BitVec.ofNat 128 w) (s.checkDec 0 w) (s.decFoot 0 w) (s.core 0).run.blockHere then (s.decRun 0 j (j.start w (s.window 0))).2.2 else none
  | .inr _ => none
/-- A core at a decanter word whose length table has no header. -/
def decRefused (op : Nat) : Bool :=
  let w := decWord op 1
  let s := { decState op 1 with mem := memPut [] 0 (leBytes 16 w) }
  s.issues 0 (BitVec.ofNat 128 w) (s.checkDec 0 w) (s.decFoot 0 w) (s.core 0).run.blockHere && (match s.decJob 0 w with | .inr code => code == 0x2442 | _ => false)
theorem witness_dec_refused : decRefused 0 = true ∧ decRefused 1 = true := by decide +kernel
theorem witness_dec_poison : decPoisoned 0 = some 0x1A10 ∧ decPoisoned 1 = some 0x1A10 := by decide +kernel
theorem witness_dec_goes_on : decGoes (decMidway 0) (decWord 0 2) = some 2 ∧ decGoes (decMidway 1) (decWord 1 2) = some 2 := by decide +kernel
theorem witness_forward : decIssues (decState 0 1) (decWord 0 1) = some 1 ∧ decIssues (decState 0 2) (decWord 0 2) = some 1 ∧
    coreOwn 2 0 (BitVec.ofNat 128 (decWord 0 1)) = true := by decide +kernel
theorem witness_recompute : decIssues (decState 1 1) (decWord 1 1) = some 1 ∧ decIssues (decState 1 2) (decWord 1 2) = some 1 ∧
    coreOwn 2 1 (BitVec.ofNat 128 (decWord 1 1)) = true := by decide +kernel
/-- An SFU word at FP32 in and out: class 3, one row of 16 columns, zero addresses but DST (in 64-byte units). -/
def sfuWord (op func dst : Nat) : Nat := 3 + op * 16 + func * 2 ^ 16 + dst * 2 ^ 78
/-- A core at an SFU word whose SRAM begins with two statistics records of KIND 0x53, with epilogue slot 0 set. -/
def sfuState (w : Nat) (ks : List Nat) : State :=
  { coreState { epis := [(0, { isSet := true, cols := 16 })] } [w] with
    mem := memPut (memPut [] 0 (leBytes 16 w)) (sramAddr 0 0) (ks.flatMap (fun k => leBytes 16 (k * 2 ^ 32))) }
theorem witness_map : let w := sfuWord 0 0 64; let s := sfuState w []; let r := (s.core 0).run
    coreOwn 3 0 (BitVec.ofNat 128 w) = true ∧ (s.core 0).tableEmpty (SWord.decode w).func = false ∧
    s.issues 0 (BitVec.ofNat 128 w) ((SWord.decode w).checkMap r w) ((SWord.decode w).mapFoot r w) true = true := by decide +kernel
/-- The word that maps by the custom function of table 4, which is empty. -/
theorem witness_map_empty : let w := sfuWord 0 0x44 64; let s := sfuState w []; let r := (s.core 0).run
    coreOwn 3 0 (BitVec.ofNat 128 w) = true ∧ (s.core 0).tableEmpty (SWord.decode w).func = true ∧
    s.issues 0 (BitVec.ofNat 128 w) ((SWord.decode w).checkMap r w) ((SWord.decode w).mapFoot r w) true = true := by decide +kernel
theorem witness_episet : let w := sfuWord 1 1 64; let s := sfuState w []; let r := (s.core 0).run
    coreOwn 3 1 (BitVec.ofNat 128 w) = true ∧ s.issues 0 (BitVec.ofNat 128 w) ((SWord.decode w).checkEpiset r w) {} true = true := by decide +kernel
theorem witness_rowstat : let w := sfuWord 2 0 64; let s := sfuState w []; let x := SWord.decode w; let r := (s.core 0).run
    coreOwn 3 2 (BitVec.ofNat 128 w) = true ∧ x.func = 0 ∧ s.issues 0 (BitVec.ofNat 128 w) (firstFault (x.checks false true ++
      [(x.strideBad ((Fmt.ofCode x.ifmt).getD .fp32), 0x2133), (!(x.statFoot r w).inWindow, 0x2132)])) (x.statFoot r w) true = true := by decide +kernel
/-- The pair of records of the row of a combining word, combined. -/
def pairOfRecords (s : State) : Option (StatRec × Nat) :=
  combineStat (StatRec.ofBytes (memGet s.mem (sramAddr 0 0) 16)) (StatRec.ofBytes (memGet s.mem (sramAddr 0 0) 16))
theorem witness_combine : let w := sfuWord 2 1 64; let s := sfuState w [0x53]; let x := SWord.decode w; let r := (s.core 0).run
    coreOwn 3 2 (BitVec.ofNat 128 w) = true ∧ x.func = 1 ∧ x.rows = 1 ∧ (pairOfRecords s).isSome = true ∧ pairOfRecords (sfuState w []) = none ∧
    s.issues 0 (BitVec.ofNat 128 w) (firstFault [((Fmt.ofCode x.ifmt).isNone || (Fmt.ofCode x.ofmt).isNone, 0x2130), (sfuFmtBad x.ifmt || sfuFmtBad x.ofmt, 0x2330),
      (!(x.combineFoot r w).inWindow, 0x2132)]) (x.combineFoot r w) true = true := by decide +kernel
theorem witness_rownorm : let w := sfuWord 3 0 64; let s := sfuState w [0x53]; let x := SWord.decode w; let r := (s.core 0).run
    coreOwn 3 3 (BitVec.ofNat 128 w) = true ∧ x.rows = 1 ∧ (StatRec.ofBytes (memGet s.mem (sramAddr 0 0) 16)).kind = 0x53 ∧
    (StatRec.ofBytes (memGet (sfuState w []).mem (sramAddr 0 0) 16)).kind ≠ 0x53 ∧
    s.issues 0 (BitVec.ofNat 128 w) (firstFault (x.checks true (decide (x.func % 8 ≤ 1)) ++
      [((x.cscEn || x.biasEn) && !(Tbl.get {} x.eslot r.epis).isSet, 0x2135),
       (x.strideBad ((Fmt.ofCode x.ifmt).getD .fp32) || x.strideBad ((Fmt.ofCode x.ofmt).getD .fp32), 0x2133),
       (!(x.normFoot r w).inWindow, 0x2132)])) (x.normFoot r w) true = true := by decide +kernel
/-- A core at TBLOAD of table 4 with an image of one zero entry over [0, 1), or with another header byte. -/
def tbloadState (magic : Nat) : State :=
  { coreState {} [sfuWord 4 4 0] with
    mem := memPut (memPut [] 0 (leBytes 16 (sfuWord 4 4 0))) (sramAddr 0 0) (leBytes 64 (magic + 379304569339122166701165684820776609889541947392)) }
theorem witness_tbload_seen : let s := { tbloadState 0x5D with sync := { tables := [(0, { customSeen := true })] } }
    s.issues 0 (BitVec.ofNat 128 (sfuWord 4 4 0)) none { reads := [⟨0, 80⟩] } true = true ∧ tableOk 4 (s.tableImage 0 0) = true ∧
    (Tbl.get ({} : PassTable) (s.core 0).run.table s.sync.tables).customSeen = true := by decide +kernel
theorem witness_tbload : let w := sfuWord 4 4 0; let s := tbloadState 0x5D
    coreOwn 3 4 (BitVec.ofNat 128 w) = true ∧ tableOk 4 (s.tableImage 0 0) = true ∧ tableOk 4 ((tbloadState 0).tableImage 0 0) = false ∧
    s.issues 0 (BitVec.ofNat 128 w) none { reads := [⟨0, 80⟩] } true = true ∧
    (tbloadState 0).issues 0 (BitVec.ofNat 128 w) none { reads := [⟨0, 80⟩] } true = true := by decide +kernel
/-- A core at a SUBMIT of queue 0 with DONE_PEG 63, whose SRAM begins with a descriptor of KIND 1 that copies 64 bytes, or with zeros. -/
def submitState (kind : Nat) : State :=
  let w := 4 + 63 * 2 ^ 37
  { coreState {} [w] with
    mem := memPut (memPut [] 0 (leBytes 16 w)) (sramAddr 0 0) (leBytes 64 (kind + 0x100000 * 2 ^ 32 + 0x200000 * 2 ^ 80 + 64 * 2 ^ 128)) }
/-- The descriptor that the core is about to submit, and whether the engine refuses it. -/
def submitRefused (s : State) : Bool :=
  let d := SDesc.decode (ofLeBytes (memGet s.mem (sramAddr 0 0) 64))
  d.refused
/-- A state whose stream queues hold 16 entries in all, for core 0. -/
def fullQueue (s : State) : State := s.modRun 0 (fun r => { r with queues := [(15, List.replicate 16 (.peg 0 0 0 (.add 0)))] })
theorem witness_submit_full : (fullQueue (submitState 1)).issues 0 (BitVec.ofNat 128 (4 + 63 * 2 ^ 37)) none { reads := [⟨0, 64⟩] } true = true ∧
    ((fullQueue (submitState 1)).core 0).run.queueLoad = 16 := by decide +kernel
theorem witness_submit : let w : Nat := 4 + 63 * 2 ^ 37
    coreOwn 4 0 (BitVec.ofNat 128 w) = true ∧ fld w 37 6 = 63 ∧ submitRefused (submitState 1) = false ∧ submitRefused (submitState 0) = true ∧
    (submitState 1).issues 0 (BitVec.ofNat 128 w) none { reads := [⟨0, 64⟩] } true = true ∧
    (submitState 0).issues 0 (BitVec.ofNat 128 w) none { reads := [⟨0, 64⟩] } true = true := by decide +kernel
/-- A core at a KFETCH of its only binding, with the kicker it names. -/
def kfetchState : State :=
  { coreState { bindings := [{ r0 := 0, n := 16, kicker := 3 }], lqBase := 1024 } [0x14] with
    serve := { kickers := [(3, some { name := 1, mslot := 0, rank := 16, fmt := 1, sites := [0], dims := [(1, 1)], base := 0, bytes := 16384 })] } }
theorem witness_kfetch_full : (fullQueue kfetchState).issues 0 0x14 none {} true = true ∧ ((fullQueue kfetchState).core 0).run.queueLoad = 16 := by decide +kernel
theorem witness_kfetch : coreOwn 4 1 0x14 = true ∧ kfetchState.issues 0 0x14 none {} true = true ∧ fld 0x14 11 5 = 0 ∧
    (Tbl.get none 3 kfetchState.serve.kickers).isSome = true := by decide +kernel
/-- CONVFEED of four rows of a 1 × 1 convolution over one 4 × 4 image of BF16 with one channel, to offset 4096 with DRS 16. -/
def convWord : Nat := 0x24 + 64 * 2 ^ 35 + 16 * 2 ^ 96
/-- The context of that convolution. -/
def convCtx : Nat := 2 + 2 ^ 8 + 4 * 2 ^ 16 + 4 * 2 ^ 32 + 2 ^ 48 + 2 ^ 64 + 2 ^ 72 + 2 ^ 80 + 2 ^ 84 + 2 ^ 88 + 2 ^ 92 + 4 * 2 ^ 128 + 4 * 2 ^ 144 + 2 ^ 160
theorem witness_convfeed : let s := coreState { ctxs := [(0, BitVec.ofNat 512 convCtx)] } [convWord]; let r := (s.core 0).run
    let x := CWord.decode r convWord; let cx := ConvCtx.decode convCtx
    coreOwn 4 2 (BitVec.ofNat 128 convWord) = true ∧ cx.kind = 2 ∧ cx.efmt ∈ [0, 1, 2, 3, 4, 7] ∧ cx.bad = false ∧ cx.bytes ≤ x.drs ∧
    (x.foot r cx).inWindow = true ∧ s.issues 0 (BitVec.ofNat 128 convWord) none (x.foot r cx) true = true := by decide +kernel
theorem witness_convfeed_full : let s := fullQueue (coreState { ctxs := [(0, BitVec.ofNat 512 convCtx)] } [convWord]); let r := (s.core 0).run
    let x := CWord.decode r convWord; let cx := ConvCtx.decode convCtx
    r.queueLoad = 16 ∧ s.issues 0 (BitVec.ofNat 128 convWord) none (x.foot r cx) true = true := by decide +kernel
theorem witness_core_frame : ∃ t, exec (.nop 0 0) State.reset = .next t := ⟨_, rfl⟩
theorem witness_peg_operations : State.reset.alive = true ∧ pegAt 0x8100040000 = some (.coll, 0) ∧ pegAt 0x8100000178 = some (.core 0, 47) ∧
    pegAt 0x8100000180 = none ∧ (State.reset.core 0).run.wait = none ∧ (State.reset.peg .coll 0).barrier = false ∧
    fld (2 ^ 56 + 5) 56 3 = 1 ∧ fld (2 ^ 56 + 5) 59 5 = 0 ∧ fld (2 ^ 56 + 5) 24 32 = 0 := by decide
/-- A state with a claim of core 5 at collector peg 9. -/
def claimState (v : Nat) : State := { State.reset with sync := { claims := [(5, 9)], pegs := Tbl.set {} 9 { value := v } [] } }
theorem witness_claim : (claimState 1).sync.claims.find? (fun k => k.1 == 5) = some (5, 9) ∧ ((claimState 1).peg .coll 9).value = 1 ∧
    ((claimState 0).peg .coll 9).value = 0 ∧ (claimState 0).sync.claims.find? (fun k => k.1 == 5) = some (5, 9) := by decide
theorem witness_monitor : coreOwn 5 3 0x35 = true ∧ ∃ t, exec (.monitor 0 0x35) State.reset = .next t := ⟨by decide, _, rfl⟩
/-- R263's example, rows 3 to 5: at VALUE 1 one of two claims succeeds and the other is counted and registered again. -/
theorem test_claims_one_wins :
    let s : State := { State.reset with sync := { claims := [(30, 9), (62, 9)], pegs := Tbl.set {} 9 { value := 1 } [] } }
    let t := after (execPegClaim 62 (after (execPegClaim 30 s)))
    ((t.peg .coll 9).value, (t.peg .coll 9).fails, t.sync.regs.map (fun r => r.core)) = (0, 1, [62]) := by decide
theorem witness_steward_refused : State.reset.alive = true ∧ (Instr.stewardPegSet 0 0 ⟨8, 0, false⟩).wf = true ∧ (Instr.stewardPegAdd 0 0 ⟨8, (2 ^ 56), false⟩).wf = true ∧
    pegAt 0 = none ∧ pegAt 0x8100040000 = some (.coll, 0) ∧ (Instr.stewardPegAdd 0 0x8100040000 ⟨8, (2 ^ 57), false⟩).wf = true ∧
    (Instr.stewardPegSet 0 0x8100040000 ⟨4, 0, false⟩).wf = true := by decide
theorem witness_steward_acts : pegAt 0x8100040008 = some (.coll, 1) ∧ (State.reset.peg .coll 1).barrier = false ∧ fld (2 ^ 56 + 5) 56 3 = 1 := by decide
theorem witness_steward_barrier : let s : State := { State.reset with sync := { pegs := Tbl.set {} 0 { barrier := true } [] } }
    (s.peg .coll 0).barrier = true ∧ s.alive = true ∧ s.running = none := by decide
theorem witness_steward_barrier_pass : let s : State := { State.reset with sync := { pegs := Tbl.set {} 0 { barrier := true } [], tables := [(0, { state := .running })] } }
    (s.peg .coll 0).barrier = true ∧ s.alive = true ∧ s.running.isSome = true := by decide
theorem witness_steward_next : ∃ t, exec (.stewardPegSet 0 0 ⟨8, 0, false⟩) State.reset = .next t := ⟨_, rfl⟩
/-- A peg word: RELQ, PRED, VALUE, PEG and TK. -/
def pegWord (op relq pred value peg tk : Nat) : Nat := 5 + op * 16 + relq * 2 ^ 60 + pred * 2 ^ 54 + value * 2 ^ 30 + peg * 2 ^ 24 + tk * 2 ^ 16
/-- Whether a peg word issues in a state, as the statement puts it. -/
def pegIssues (s : State) (w : Nat) : Bool :=
  let x := PWord.decode w
  s.issues 0 (BitVec.ofNat 128 w) (s.checkPeg 0 x) {} (!(s.core 0).run.releaseOpen x) && (x.relq == 31 || decide ((s.core 0).run.queueLoad < 16))
theorem witness_peg_send : pegIssues (coreState {} [pegWord 0 31 0 7 3 0]) (pegWord 0 31 0 7 3 0) = true ∧
    coreOwn 5 0 (BitVec.ofNat 128 (pegWord 0 31 0 7 3 0)) = true ∧ homeOf 0 0 0 ≠ .coll ∧
    pegIssues (coreState {} [pegWord 1 31 0 1 3 2]) (pegWord 1 31 0 1 3 2) = true ∧ (State.reset.peg .coll 3).barrier = false := by decide +kernel
theorem witness_peg_queue : let w := pegWord 1 2 0 1 3 0; let s := coreState { queues := [(2, [.peg 0 0 4 (.set 0)])] } [w]
    pegIssues s w = true ∧ Tbl.get [] 2 (s.core 0).run.queues ≠ [] ∧ (PWord.decode w).relq ≠ 31 := by decide +kernel
/-- A pass of core 0 whose barrier group 0 arrives at collector peg 3 and releases board peg 4. -/
def barrierPass : PassTable :=
  { state := .running, tag := 1, mask := 1
    launch := some { program := 0, runs := 1, sync := BitVec.ofNat 1024 (1 + (1 + 4 * 2 ^ 64 + 3 * 2 ^ 58) * 2 ^ 128), weights := 0 } }
/-- The synchronisation state of a pass launched last, in table 0. -/
def passSync (p : PassTable) : Sync := { tables := [(0, p)], last := p.launch.map (fun l => (p.mask, l)) }
theorem witness_peg_arrive : let w := pegWord 1 31 0 1 3 2
    let s := { coreState {} [w] with sync := { passSync barrierPass with pegs := Tbl.set {} 3 { barrier := true } [] } }
    pegIssues s w = true ∧ s.arriveGroup 3 = some 0 ∧ (s.peg .coll 3).barrier = true ∧ homeOf 0 2 0 = .coll := by decide +kernel
theorem witness_acquire : pegIssues (coreState {} [pegWord 2 31 0 0 3 0]) (pegWord 2 31 0 0 3 0) = true ∧
    ((coreState {} [pegWord 2 31 0 0 3 0]).peg (.core 0) 3).value = 0 ∧ coreOwn 5 2 (BitVec.ofNat 128 (pegWord 2 31 0 0 3 0)) = true := by decide +kernel
theorem witness_acquire_now : let w := pegWord 2 31 0 0 3 0
    let s := { coreState {} [w] with cores := [(0, { run := { active := true }, pegs := Tbl.set {} 3 { value := 1 } [] })] }
    pegIssues s w = true ∧ (s.peg (.core 0) 3).value = 1 := by decide +kernel
theorem witness_monitor_word : pegIssues (coreState {} [pegWord 3 31 0 1 3 0]) (pegWord 3 31 0 1 3 0) = true ∧ predHolds 0 0 1 = false ∧
    predHolds 0 1 1 = true ∧ coreOwn 5 3 (BitVec.ofNat 128 (pegWord 3 31 0 1 3 0)) = true := by decide +kernel
/-- Core 5 waits at collector peg 9. -/
def waiting (acquire : Bool) (y : Sync) : State :=
  { State.reset with sync := y
                     cores := [(5, { run := { active := true, wait := some { acquire := acquire, coll := true, peg := 9, pred := 0, value := 1, started := 0, limitUs := 50000, word := BitVec.ofNat 128 (if acquire then 0x25 else 0x35) } } })] }
theorem witness_register : ((waiting false {}).core 5).run.wait.isSome = true ∧ (waiting false {}).sync.engaged 5 = false ∧ (waiting false {}).alive = true := by decide
theorem witness_wake : (waiting true { wakes := [(5, 9, 1)] }).sync.wakes.find? (fun k => k.1 == 5) = some (5, 9, 1) ∧
    ((waiting true { wakes := [(5, 9, 1)] }).core 5).run.wait.isSome = true ∧ predHolds 0 1 1 = true ∧ predHolds 0 0 1 = false := by decide
theorem witness_pegclaim : (waiting true { claims := [(5, 9)] }).sync.claims.find? (fun k => k.1 == 5) = some (5, 9) ∧
    ((waiting true { claims := [(5, 9)] }).peg .coll 9).value = 0 ∧
    ((waiting true { claims := [(5, 9)], pegs := Tbl.set {} 9 { value := 1 } [] }).peg .coll 9).value = 1 := by decide
/-- Core 0 with one descriptor in stream queue 2: `kind` moves `len` bytes from its SRAM at 0 to its SRAM at 4096. -/
def streamState (kind len : Nat) (moved : Bool) : State :=
  coreState { queues := [(2, [.desc (BitVec.ofNat 512 (kind + 0x8000000000 * 2 ^ 32 + (if kind = 4 then 0 else 0x8000001000) * 2 ^ 80 + len * 2 ^ 128 + 0x8000002000 * 2 ^ 384)) 5 0 moved 0])] } []
/-- The premises about the queue, the index and the movement, for a descriptor of `kind` that is about to start. -/
def streamReady (kind len : Nat) : Bool :=
  let s := streamState kind len false
  match firstUnmoved (Tbl.get [] 2 (s.core 0).run.queues) with
  | some (0, .desc bits 5 0 false 0) =>
    let d := SDesc.decode bits.toNat
    let idx := s.indexList d
    d.kind == kind && !d.dlq && (s.startError 0 d).isNone && s.alive && (s.core 0).run.active
      && !s.streamConflict 0 (fun k => decide (k < 0)) { s.descFootprint 0 d with slots := (s.core 0).run.dlqSlots 0 d }
      && (if kind = 4 then decide ((d.runs []).map (s.readRun 0 d []) = [.inl ([0], none)])
          else (State.moveGroups 0 0 d idx (d.groups (d.runs idx)) s 0).2.2.isNone)
  | _ => false
/-- A descriptor of 64 bytes from the SRAM of core 0 at an offset to an address, with an index in stream queue 2 or 3. -/
def copyEntry (src dst ix : Nat) : SqEntry := .desc (BitVec.ofNat 512 (1 + (0x8000000000 + src) * 2 ^ 32 + dst * 2 ^ 80 + 64 * 2 ^ 128)) 63 ix false 0
/-- An earlier word of queue 3 writes the line that the one of queue 2 reads. -/
theorem witness_stream_waits : let s := coreState { queues := [(2, [copyEntry 0 0x8000001000 1]), (3, [copyEntry 0x4000 0x8000000000 0])] } []
    (match firstUnmoved (Tbl.get [] 2 (s.core 0).run.queues) with
    | some (0, .desc bits 63 1 false 0) =>
      let d := SDesc.decode bits.toNat
      s.streamConflict 0 (fun k => decide (k < 1)) { s.descFootprint 0 d with slots := (s.core 0).run.dlqSlots 1 d }
    | _ => false) = true := by decide +kernel
/-- A GATHER whose index stream lies where nothing is mapped, and one whose index leads into register space. -/
theorem witness_stream_barred : let s := coreState {} []
    s.startError 0 (SDesc.decode (2 + 0x8000000000 * 2 ^ 32 + 0x8000001000 * 2 ^ 80 + 64 * 2 ^ 128 + 0x7000000000 * 2 ^ 384)) = some 0x2201 ∧
    s.startError 0 (SDesc.decode (2 + 0xF000000000 * 2 ^ 32 + 0x8000001000 * 2 ^ 80 + 64 * 2 ^ 128 + 0x8000002000 * 2 ^ 384)) = some 0x2202 := by decide +kernel
/-- A DLQ copy of 512 bytes as one tile. -/
theorem witness_stream_dlq : let s := coreState {} []
    let d := SDesc.decode (1 + 2 ^ 20 + 0x8000000000 * 2 ^ 32 + 512 * 2 ^ 80 + 512 * 2 ^ 128)
    d.dlq = true ∧ d.kind = 1 ∧ s.startError 0 d = none := by decide +kernel
theorem witness_streams : [streamReady 1 64, streamReady 2 64, streamReady 3 64, streamReady 4 1] = [true, true, true, true] := by decide +kernel
/-- A COPY to register space is refused when it moves. -/
theorem witness_stream_abort : let s := coreState {} []
    let d := SDesc.decode (1 + 0x8000000000 * 2 ^ 32 + 0xF000000000 * 2 ^ 80 + 64 * 2 ^ 128)
    (State.moveGroups 0 0 d [] (d.groups (d.runs [])) s 0).2.2 = some 0x2201 := by decide +kernel
theorem witness_descriptor_complete : let s := streamState 1 64 true
    (match Tbl.get [] 2 (s.core 0).run.queues with | [.desc _ 5 0 true 0] => true | _ => false) = true ∧ s.alive = true ∧ (s.core 0).run.active = true := by decide
/-- R108: a COPY puts the source's bytes at the destination. -/
theorem test_copy_moves_bytes :
    let s := { streamState 1 2 false with mem := [(0x8000000000, 7), (0x8000000001, 9)] }
    memGet (after (execStreamCopy 0 2 [] s)).mem 0x8000001000 3 = [7, 9, 0] := by decide +kernel
/-- One core of a running pass with a plan of seven tiles. -/
def planState (req : Nat) : State :=
  { State.reset with
    cores := [(0, { run := { active := true, rqBase := 16384, rqLines := 8, roundsReq := req } })]
    sync := { tables := [(0, { state := .running, tag := 1, mask := 1 })], last := some (1, { program := 0, runs := 1, sync := 1, weights := 0 })
              seq := { segs := [{ base := 0, fmt := 7, fs := false, k128 := false, ntiles := 7, scaleBase := 0 }], ntiles := 7, active := true } } }
theorem witness_round_request : ((planState 0).core 0).run.active = true ∧ (planState 0).sync.seq.active = true ∧ (0 : Nat) < ceilDiv 7 6 ∧ (planState 0).alive = true := by decide
theorem witness_round_start : (planState 1).passCores = [0] ∧ ((planState 1).core 0).run.roundsReq = 1 ∧ (planState 1).sync.seq.started = 0 := by decide
theorem witness_round_waits : (planState 0).passCores = [0] ∧ ((planState 0).core 0).run.roundsReq = 0 ∧ ∃ t, exec .weightRoundStart (planState 0) = .next t :=
  ⟨by decide, by decide, _, rfl⟩
/-- A frame of a TYPE and CLASS, encrypted or not, with LEN, SEQ and ARGS, that FEC and the tag pass. -/
def testFrame (type cls enc len seq args : Nat) : Frame :=
  { hdr := BitVec.ofNat 512 (0x59 + type * 2 ^ 8 + cls * 2 ^ 16 + enc * 2 ^ 18 + len * 2 ^ 24 + seq * 2 ^ 32 + (2 ^ 64 - 1) * 2 ^ 96 + args * 2 ^ 256)
    payload := List.replicate len 0, fecOk := true, tagOk := true }
/-- A link in service that carries barriers. -/
def liveLink : LinkSt := { state := .inService, enable := true, kr := true, rates := 7, syncOk := true, partnerId := 7, pcaps := 0xFF, shake := { peer := some 1 } }
/-- The reset state with link 4 in the given state. -/
def linkState (k : LinkSt) : State := { State.reset with links := [(4, k)] }
/-- A pass of core 0 whose group 0 spans chips, by a parent or a child link 4. -/
def spanPass (parent child : Bool) : PassTable :=
  { state := .running, tag := 1, mask := 1
    launch := some { program := 0, runs := 1, sync := BitVec.ofNat 1024 (1 + (1 + (if child then 2 ^ 84 else 0) + 4 * 2 ^ 74 + (if parent then 2 ^ 73 else 0) + 4 * 2 ^ 64 + 3 * 2 ^ 58) * 2 ^ 128), weights := 0 } }
theorem witness_hand_arrival : let s := { State.reset with sync := { passSync (spanPass true false) with handMsgs := [(0, 0, false)] } }
    (s.groupDecl 0).isSome = true ∧ (0, 0, false) ∈ s.sync.handMsgs ∧ (s.sync.group 0).hand false + 1 = s.passHands.length ∧ s.alive = true := by decide +kernel
theorem witness_hand_arrival_counts : let s := { State.reset with sync := { passSync { spanPass true false with mask := 0x11 } with handMsgs := [(0, 0, false)] } }
    (s.groupDecl 0).isSome = true ∧ (s.sync.group 0).hand false + 1 ≠ s.passHands.length := by decide +kernel
theorem witness_sync_arrive : frameFits 0x20 (testFrame 0x20 0 1 0 0 0) = true ∧ (linkState liveLink).takes 4 (testFrame 0x20 0 1 0 0 0) = true ∧
    (linkState liveLink).running = none ∧ (linkState { liveLink with latch := [(0, false)] }).takes 4 (testFrame 0x20 0 1 0 0 0) = true := by decide +kernel
theorem witness_sync_arrive_pass : let s := { linkState liveLink with sync := passSync (spanPass false true) }
    s.running.isSome = true ∧ s.takes 4 (testFrame 0x20 0 1 0 0 0) = true ∧ (s.link 4).syncOk = true := by decide +kernel
theorem witness_sync_release : let s := { linkState liveLink with sync := { passSync (spanPass true false) with groups := [(0, { upSent := [false] })] } }
    frameFits 0x21 (testFrame 0x21 0 1 0 0 0) = true ∧ s.takes 4 (testFrame 0x21 0 1 0 0 0) = true ∧ (s.groupDecl 0).map (fun d => (d.hasParent, d.parentLink)) = some (true, 4) ∧
    false ∈ (s.sync.group 0).upSent ∧ true ∉ (s.sync.group 0).upSent := by decide +kernel
theorem witness_sync_not_ok : let s := linkState { liveLink with syncOk := false }
    s.takes 4 (testFrame 0x20 0 1 0 0 0) = true ∧ s.takes 4 (testFrame 0x21 0 1 0 0 0) = true ∧ (s.link 4).syncOk = false ∧ s.groupDecl 0 = none := by decide +kernel
/-- Slot 0 holds a ready model, stack 0 a partition of four pages, and one request is about to compute one prompt token. -/
def servedState : State :=
  { State.reset with
    glob := { service := 1 }
    pages := { parts := [(0, { enable := true, base4k := 0, count := 4, slot4k := 2 })] }
    serve := { models := [(0, { state := .ready, block := { nl := 1, nh := 1, d := 64, kvfmt := 1, pgroup := 1 }, slot4k := 2 })]
               sessions := [(0, { state := .busy })]
               reqs := [{ rid := 0, port := .A, ring := 0, cookie := 0, desc := { ntok := 1, maxNew := 4 }, tokens := [5], sess := 0, phase := .prefill, tCommit := 0 }] } }
/-- A launch of core 0 at program address 0x1000 with no barrier and an empty plan, or with an empty core mask. -/
def testLaunch (mask : Nat) : Launch := { program := 0x1000, runs := 1, sync := BitVec.ofNat 1024 mask, weights := 0 }
/-- The premises of a launch for slot 0 in a state, with the tag that it draws. -/
def launchReady (s : State) (l : Launch) : Bool :=
  let u := s.promote.wake
  match s.promote.freeTable, s.promote.nextPass 0, u.plan l with
  | some 0, some (true, items), .ok [] =>
    let r := State.prepItems items u
    s.serving && !s.passBusy && s.promote.turnOf 0 && !u.blocked l.coreMask && u.pages.mayDraw && !r.2.1 && !r.1.isEmpty
  | _, _, _ => false
theorem witness_launch : let s := { servedState with time := 1000 }
    launchReady s (testLaunch 1) = true ∧ s.promote.wake.launchCode (testLaunch 1) = none ∧ s.promote.wake.launchCode (testLaunch 0) = some 0x2730 ∧
    s.promote.wake.awake 1 true = true ∧ s.promote.wake.pow.sRail = 0 ∧ (s.promote.model 0).state = .ready := by decide +kernel
/-- An aborted pass of core 0 that has drained, with the request of `servedState`. -/
def retryState (may : Bool) : State :=
  { servedState with sync := { tables := [(1, { state := .aborting, tag := 3, seed := 9, mask := 1, present := 1, launch := some (testLaunch 1), mayRetry := may, items := [{ rid := 0, kind := .chunk 0 1, row0 := 0, rows := 256 }] })] } }
theorem witness_retry : let s := retryState true
    let x := s.table 1
    let u : State := x.items.foldl (fun s i => s.modReq i.rid (x.foldSlots i)) (s.dropTable 1)
    (s.table 1).state = .aborting ∧ (s.table 1).present = (s.table 1).mask ∧ s.blocked (s.table 1).mask.toNat = false ∧ s.otherPass 1 = false ∧ s.awaits x = false ∧ u.freeTable = some 0 ∧
    (s.table 1).mayRetry = true ∧ (s.table 1).items.all (fun i => (u.victimCode (s.table 1) i).isNone && (u.req i.rid).isSome) = true ∧
    u.launchCode (testLaunch 1) = none ∧ u.plan (testLaunch 1) = .ok [] ∧ (retryState false).blocked 1 = false := by decide +kernel
theorem witness_abort : let s := { State.reset with cores := [(0, { run := { active := true, table := 1 } })], sync := { tables := [(1, { state := .running, mask := 1 })] } }
    (s.core 0).run.active = true ∧ (s.core 0).run.table = 1 ∧
    (s.table 1).state = .running ∧ s.alive = true ∧ s.coreFaultCode 1 = none ∧ containedCode 0x2721 = true ∧ bit (s.table 1).mask.toNat 0 = true := by decide
theorem witness_slot_write : let s := { coreState { table := 1, stopped := some (0, 0) } [] with sync := { tables := [(1, { state := .running, mask := 1 })] } }
    s.sync.claims = [] ∧ (s.core 0).run.stopped = some (0, 0) ∧ (s.core 0).run.drained = true ∧ (s.core 0).run.active = true ∧
    (s.table 1).present ||| BitVec.ofNat 64 (2 ^ 0) = (s.table 1).mask := by decide
theorem witness_drain : let s := { coreState { table := 1 } [] with time := 100000, sync := { tables := [(1, { state := .aborting, mask := 1 })] } }
    (s.table 1).state = .aborting ∧ bit (s.table 1).mask.toNat 0 = true ∧ bit (s.table 1).present.toNat 0 = false ∧ (s.table 1).abortAt + 100000 ≤ s.time := by decide
theorem witness_commit : let s := { State.reset with sync := { tables := [(1, { state := .closed })] } }
    (s.table 1).state = .closed ∧ s.alive = true ∧ (s.table 1).slotFault = none := by decide
theorem witness_commit_faulted : let s := { State.reset with sync := { tables := [(1, { state := .closed, mask := 1, present := 1, slots := [(0, 2 ^ 664 + 0x2133 * 2 ^ 640)] })] } }
    (s.table 1).state = .closed ∧ s.alive = true ∧ (s.table 1).slotFault = some (0, 0x2133) := by decide +kernel
theorem witness_peg_wait : let x : PegWait := { acquire := false, coll := false, peg := 1, pred := 0, value := 1, started := 0, limitUs := 10, word := 0x35 }
    let s := { coreState { wait := some x } [] with time := 1000 }
    (s.core 0).run.wait = some x ∧ x.started + 100 * x.limitUs ≤ s.time ∧ s.releaseGroupOf x = none ∧ s.alive = true := by decide
theorem witness_peg_wait_release : let x : PegWait := { acquire := true, coll := false, peg := 4, pred := 0, value := 1, started := 0, limitUs := 10, word := 0x25 }
    let s := { coreState { wait := some x } [] with time := 1000, sync := passSync barrierPass }
    (s.core 0).run.wait = some x ∧ x.started + 100 * x.limitUs ≤ s.time ∧ s.releaseGroupOf x = some 0 := by decide +kernel
theorem witness_pass_watchdog : let s := { State.reset with time := 100, sync := { tables := [(0, { state := .running, mask := 1, limitUs := 1 })] } }
    (s.table 0).state = .running ∧ (s.table 0).launchedAt + 100 * (s.table 0).limitUs ≤ s.time := by decide
theorem witness_chip_barrier : let s := { State.reset with sync := { passSync (spanPass true false) with groups := [(0, { die0 := some 0 })] } }
    s.running.isSome = true ∧ (s.groupDecl 0).map (fun d => d.spans) = some true ∧ (s.sync.group 0).die false = some 0 ∧
    (s.groupDecl 0).map (fun d => d.chipWaitUs) = some 0 := by decide +kernel
theorem witness_steward_watchdog : let s := { State.reset with boot := { stage := 0x0B }, time := 10000000 }
    s.firmwareRuns = true ∧ s.sec.invaded = false ∧ Tbl.get 0 0 s.sync.kicks + 100000 * s.sync.stwKickMs ≤ s.time := by decide
/-- A state in service whose port A, ring 0 is enabled, with bus mastering on. -/
def ringState (s : State) : State :=
  { s with
    glob := { service := 1 }
    boot := { stage := 0x0D }
    portA := { link := .up, ready := true, perst := false, funcs := [(0, { bme := true })], adminRings := 1
               windows := [(0, { en := true, rd := true, wr := true, base4k := 0, size4k := 1024 })] }
    serve := { s.serve with rings := [(0, { enable := true, log2cq := 6 })] } }
/-- An entry of an opcode with COOKIE 3 and ARG, in the first phase. -/
def entry (op arg : Nat) : BitVec 256 := BitVec.ofNat 256 (2 ^ 255 + op * 2 ^ 240 + 3 * 2 ^ 128 + arg * 2 ^ 64 + 0x1000)
theorem witness_entry_illegal : (Instr.intakeIllegalOpcode .A 0 (entry 0x7F 0)).wf = true ∧ (ringState State.reset).readsEntry .A 0 (entry 0x7F 0) = true := by decide +kernel
theorem witness_entry_unread : State.reset.watches .A 0 = false ∧ (Instr.sessionQuery .A 0 (entry 0x41 0)).wf = true := by decide +kernel
theorem witness_entry_closed : let s := { ringState State.reset with glob := { service := 2 } }
    s.watches .A 0 = true ∧ s.paused .A 0 = false ∧ s.seatFull .A 0 = false ∧ s.answersOnly = true ∧ phaseOf (entry 0x41 0) = (s.ring .A 0).inPhase := by decide +kernel
theorem witness_entry_not_admin : let s := { ringState State.reset with portA := { (ringState State.reset).portA with adminRings := 0 } }
    s.watches .A 0 = true ∧ s.answersOnly = false ∧ isAdmin (opcodeOf (entry 0x12 0)) = true ∧ (s.port .A).adminRings.getLsbD 0 = false := by decide +kernel
/-- Host memory with a request descriptor at 0x1000: one token at 0, the pour at 0x2000, a new session, no kicker. -/
def reqHost (maxNew magic : Nat) : Cells :=
  memPut [] 0x1000 (leBytes 128 (0x2000 * 2 ^ 896 + 0xFFFFFFFF * 2 ^ 736 + 2 ^ 672 + 0xFFFFFFFF * 2 ^ 576 + maxNew * 2 ^ 336 + 2 ^ 312 + 2 * 2 ^ 308
    + 2 ^ 8 + magic))
/-- `ringState` with a model in slot 0, stake 0 enabled with a budget, and share domain 0 enabled. -/
def openState (m : SlotState) : State :=
  let s := ringState State.reset
  { s with serve := { s.serve with models := [(0, { state := m })], stakes := [(0, { enable := true, len := 1000, budget := 100 })], doms := [(0, { enable := true })] } }
/-- The state in which a request's checks are made, and the descriptor they are made on. -/
def reqUnder (s : State) (host : Cells) : State × Desc :=
  let u := ((s.hostStore .A host).entryTaken .A 0 (entry 1 0)).modServe (fun v => { v with nextRid := v.nextRid + 1 })
  (u, Desc.ofBytes ((u.hostRead .A (u.ringFn .A 0) 0x1000 128).getD []))
theorem witness_request : let u := (reqUnder (openState .ready) (reqHost 4 0x51)).1; let d := (reqUnder (openState .ready) (reqHost 4 0x51)).2
    ((openState .ready).hostStore .A (reqHost 4 0x51)).readsEntry .A 0 (entry 1 0) = true ∧ entryFits 1 (entry 1 0) = true ∧
    fld (entry 1 0).toNat 0 64 = 0x1000 ∧ u.hostRead .A (u.ringFn .A 0) 0x1000 128 ≠ none ∧ u.checkDesc .A 0 d false = none ∧
    (u.model 0).state = .ready ∧ d.base = none ∧ u.freeSess = some 0 ∧ (u.serve.stake 0).enable = true ∧
    (u.serve.run 0).usedAt (u.serve.stake 0) u.time + stakeUnits (u.serve.stake 0) (d.basepos + d.ntok) 0 d.maxNew ≤ (u.serve.stake 0).budget := by decide +kernel
theorem witness_request_others : let u := (reqUnder (openState .ready) (reqHost 4 0x50)).1; let d := (reqUnder (openState .ready) (reqHost 4 0x50)).2
    let u' := (reqUnder (openState .draining) (reqHost 4 0x51)).1; let d' := (reqUnder (openState .draining) (reqHost 4 0x51)).2
    u.checkDesc .A 0 d false = some 0x2601 ∧ u'.checkDesc .A 0 d' false = none ∧ (u'.model 0).state ≠ .ready ∧
    (let s := openState .ready
     let s := { s with portA := { s.portA with windows := [] } }
     (reqUnder s []).1.hostRead .A 0 0x1000 128 = none ∧ s.readsEntry .A 0 (entry 1 0) = true) := by decide +kernel
/-- A request with COOKIE 3 on port A, ring 0. -/
def testReq (ph : Phase) : Req := { rid := 0, port := .A, ring := 0, cookie := 3, desc := { ntok := 20, maxNew := 4 }, tokens := List.replicate 20 5, sess := 0, phase := ph, tCommit := 0 }
/-- `ringState` with that request. -/
def reqState (ph : Phase) : State := let s := ringState State.reset; { s with serve := { s.serve with reqs := [testReq ph], sessions := [(0, { state := .busy })] } }
theorem witness_cancel : let u := fun ph => (reqState ph).entryTaken .A 0 (entry 2 3)
    (reqState .prefill).readsEntry .A 0 (entry 2 3) = true ∧ entryFits 2 (entry 2 3) = true ∧
    ((u .prefill).serve.reqs.find? (fun r => r.isNamed .A 0 3)).map Req.admitted = some true ∧
    ((u .waitModel).serve.reqs.find? (fun r => r.isNamed .A 0 3)).map Req.admitted = some false ∧
    ((u .prefill).serve.reqs.find? (fun r => r.isNamed .A 0 9)).isNone = true := by decide +kernel
theorem witness_domain_purge : (ringState State.reset).readsEntry .A 0 (entry 0x12 0) = true ∧ entryFits 0x12 (entry 0x12 0) = true := by decide +kernel
theorem witness_tables_read : let s := (ringState State.reset).hostStore .A []
    s.readsEntry .A 0 (entry 0x10 0) = true ∧ s.readsEntry .A 0 (entry 0x11 0) = true ∧ entryFits 0x10 (entry 0x10 0) = true ∧ entryFits 0x11 (entry 0x11 0) = true := by decide +kernel
/-- `ringState` with session 0 of port A, ring 0 in a state. -/
def sessState (st : SessState) : State := { ringState State.reset with serve := { rings := [(0, { enable := true, log2cq := 6 })], sessions := [(0, { state := st })] } }
theorem witness_session_entries : let s := sessState .idle
    s.readsEntry .A 0 (entry 0x40 0) = true ∧ (s.entryTaken .A 0 (entry 0x40 0)).named .A 0 (fld (entry 0x40 0).toNat 64 64 % 2 ^ 32) = some 0 ∧
    (s.entryTaken .A 0 (entry 0x40 0)).restful 0 = true ∧ ((sessState .busy).entryTaken .A 0 (entry 0x40 0)).restful 0 = false ∧
    s.readsEntry .A 0 (entry 0x41 0) = true ∧ ((ringState State.reset).entryTaken .A 0 (entry 0x41 0)).named .A 0 0 = none := by decide +kernel
/-- R227: a query returns the session's STATE in the record's lowest bits. -/
theorem test_query_state : (Session.bits { state := .racked }) % 16 = 4 := by decide +kernel
theorem witness_walk : let s := reqState .walk
    (s.reqOf 0).map Req.phase = some .walk ∧ s.alive = true ∧
    (State.walk 0 0 0 0 (pageGroups 1 (List.replicate 20 5)) 0 0 noIndex s.wake).refused = false := by decide +kernel
theorem witness_stake_interval : let s := { openState .ready with time := 100000000 }
    s.serving = true ∧ (s.serve.stake 0).enable = true ∧ (s.serve.run 0).now (s.serve.stake 0) s.time ≠ (s.serve.run 0).interval := by decide +kernel
/-- The reset state with partition 0 of stack 1 in force and PRIVATE page 1 in its second slot. -/
def partState (prune : Bool) : State :=
  { State.reset with pages := { State.reset.pages with
      parts := [(4, { enable := true, base4k := 16, count := 4, slot4k := 1, low := 1, high := 2, pruning := prune })]
      descs := [(1, { state := .priv, refs := 1, slot4k := 0x600011 })] } }
theorem witness_prune : ((partState true).pages.part 1 0).pruning = true ∧ (partState true).alive = true ∧ ((partState true).pruneRound 1 0 2).pruneDone 1 0 2 = true := by decide +kernel
theorem witness_compaction : let s := { partState false with integ := { State.reset.integ with held := [{ act := .compaction 1, since := 0 }] } }
    stackOf 1 = 1 ∧ s.pages.movable 1 = true ∧ s.pages.lowestSlot 1 0 = some 0x600010 ∧ s.alive = true := by decide +kernel
/-- `reqState` with session 0 in a state, its rack of 4 KiB units at host address 0x1000. -/
def rackState (st : SessState) (units : Nat) : State :=
  let s := reqState .ending
  { s with serve := { s.serve with sessions := [(0, { state := st, rack := 0x1000, rack4k := units, rackEpoch := some 1, expiry := some 5, rackWhy := 0 })] } }
theorem witness_rack_complete : let s := rackState .racking 2
    (s.sess 0).rackEpoch = some 1 ∧ s.alive = true ∧ (s.sess 0).state = .racking ∧ ((s.port .A).grantsBoth 0 0x1000 8192 && ((s.port .A).func 0).bme) = true ∧ s.rackBytes 0 ≤ 8192 ∧
    ((rackState .racking 0).rackBytes 0 ≤ 0) = False ∧ (s.reqOf 0).isSome = true := by decide +kernel
theorem witness_rack_waits : let s := (rackState .racking 2).modSess 0 (fun x => { x with rackEpoch := none })
    (s.sess 0).rackEpoch = none ∧ s.alive = true ∧ (s.sess 0).state = .racking ∧ s.pages.mayDraw = true := by decide +kernel
theorem witness_rack_expiry : let s := { rackState .racked 2 with time := 5 }
    (s.sess 0).expiry = some 5 ∧ (s.sess 0).state = .racked ∧ s.alive = true ∧ (s.reqOf 0).isSome = true ∧ (rackState .racked 2).time < 5 := by decide +kernel
/-- `rackState` with a record of `n` holes (KIND 1 entries of nodes that the vine does not hold) in host memory. -/
def recordState (st : SessState) (n : Nat) (pages : List Nat) : State :=
  let s := rackState st 2
  let body := ((List.range n).map (fun d => leBytes 32 (16 * d * 2 ^ 64 + 16 * 2 ^ 8 + 1))).flatten
  let s := s.hostStore .A (memPut [] 0x1000 (leBytes 64 (crc32c body * 2 ^ 480 + n * 2 ^ 448 + 16 * n * 2 ^ 416 + 2 ^ 8 + 0x4B) ++ body))
  s.modSess 0 (fun x => { x with pages := pages, expiry := none })
theorem witness_unrack : let s := recordState .racked 1 []
    (s.sess 0).state = .racked ∧ s.alive = true ∧ (s.reqOf 0).isSome = true ∧ (s.rackRecord 0).map Prod.fst = some 16 ∧ s.unrackDue 0 1 = true := by decide +kernel
theorem witness_unrack_refused : let s := { rackState .racked 2 with time := 5 }
    (s.reqOf 0).isSome = true ∧ s.alive = true ∧ s.rackRecord 0 = none ∧ (s.sess 0).expiry = some 5 := by decide +kernel
theorem witness_unrack_goes_on : let s := recordState .unracking 1 []
    (s.sess 0).state = .unracking ∧ s.alive = true ∧ (s.reqOf 0).isSome = true ∧ (s.rackRecord 0).map (fun x => x.2.length) = some 1 ∧ (s.sess 0).pages.length = 0 := by decide +kernel
theorem witness_unrack_complete : let s := recordState .unracking 1 [noIndex]
    (s.sess 0).state = .unracking ∧ s.alive = true ∧ (s.rackRecord 0).isSome = true ∧ (s.reqOf 0).map (fun r => r.covers 0) = some true ∧
    (s.sess 0).pages.findIdx? (fun p => p == noIndex) = some 0 := by decide +kernel
/-- `ringState` with a waiting record of ring 0 and that ring's registers. -/
def recordWaits (r : Ring) : State :=
  { ringState State.reset with serve := { rings := [(0, r)], records := [{ port := .A, ring := 0, bits := 0, tCommit := 0 }] } }
/-- The same with no window open. -/
def recordShut : State := { recordWaits {} with portA := { (recordWaits {}).portA with windows := [] } }
theorem witness_record_write : let s := recordWaits { enable := true, armed := true }
    (s.serve.records.find? (fun x => x.port == .A && x.ring == 0)).isSome = true ∧ s.alive = true ∧ (s.ring .A 0).armed = true ∧
    ((s.ring .A 0).cqTail - (s.ring .A 0).cqHead).toNat < 2 ^ (s.ring .A 0).log2cq.toNat ∧ (s.port .A).grants (s.ringFn .A 0) 0 128 true = true ∧
    ((recordWaits {}).ring .A 0).armed = false ∧ ((recordShut.port .A).grants (recordShut.ringFn .A 0) 0 128 true) = false ∧ recordShut.alive = true := by decide +kernel
theorem witness_ring_writes : let s := ringState State.reset
    s.reaches (.port .A) = true ∧ s.takesWrites (.intake .A) 0 = true ∧ (s.ring .A 0).enable = true ∧
    (s.writeRefused (.port .A) (.intake .A) 0 1).isNone = true ∧ (s.writeRefused (.port .A) (.intake .A) 0 0).isNone = true ∧
    ((recordWaits {}).writeRefused (.port .A) (.intake .A) 0 0x61).isNone = true ∧ ((recordWaits {}).ring .A 0).enable = false ∧
    (recordWaits {}).ringLegal .A 0 { log2ent := 6 } = true ∧ (recordWaits {}).ringLegal .A 0 { log2ent := 0 } = false := by decide +kernel
theorem witness_head_writes : let s := recordWaits { enable := true, cqHead := 65535, cqTail := 2 }
    s.reaches (.port .A) = true ∧ s.takesWrites (.intake .A) 0x10 = true ∧
    [2, 1, 3, 65534].map (fun h => ((s.writeRefused (.port .A) (.intake .A) 0x10 (h * 2 ^ 32)).isNone,
      decide (((BitVec.ofNat 16 h - (s.ring .A 0).cqHead).toNat ≤ ((s.ring .A 0).cqTail - (s.ring .A 0).cqHead).toNat)))) =
      [(true, true), (true, true), (true, false), (true, false)] := by decide +kernel
theorem witness_frame_rows : let k : LinkSt := { liveLink with rxSeq := 5, txSeq := 1, rate := 0 }
    (Instr.syncArrive 4 (testFrame 0x20 0 1 0 5 0)).wf = true ∧ k.hears = true ∧
    k.judge { (testFrame 0x20 0 1 0 5 0) with hdr := 0x205A } = .malformed ∧ k.judge { (testFrame 0x20 0 1 0 5 0) with fecOk := false } = .replay ∧
    k.judge { (testFrame 0x20 0 1 0 5 0) with tagOk := false } = .badTag ∧ k.judge (testFrame 0x20 0 1 0 6 0) = .gap ∧
    k.judge (testFrame 0x20 0 1 0 4 0) = .dropped ∧ k.judge (testFrame 0x20 0 1 0 5 0) = .accepted ∧ State.reset.alive = true ∧ (State.reset.link 4).hears = false := by decide +kernel
theorem witness_link_layer : let s := linkState liveLink
    let n := { (testFrame 0 1 1 0 0 0) with hdr := BitVec.ofNat 512 (0x59 + 2 ^ 16 + 2 ^ 18 + 2 ^ 95 + (2 ^ 64 - 1) * 2 ^ 96) }
    (s.takes 4 n = true ∧ frameFits 0 n = true) ∧ (s.takes 4 (testFrame 8 1 1 0 0 0) = true ∧ frameFits 8 (testFrame 8 1 1 0 0 0) = true) ∧
    (s.takes 4 (testFrame 9 1 1 1 0 0) = true ∧ frameFits 9 (testFrame 9 1 1 1 0 0) = true) ∧
    (s.takes 4 (testFrame 0x11 1 1 0 0 0) = true ∧ frameFits 0x11 (testFrame 0x11 1 1 0 0 0) = true) ∧
    ((s.taken 4 (testFrame 9 1 1 1 0 0)).link 4).live = true := by decide +kernel
/-- A link in its handshake that knows its partner's HELLO. -/
def shakeLink (sh : Shake) : LinkSt := { state := .handshake, enable := true, kr := true, rates := 7, rate := 0, shake := sh }
theorem witness_link_layer_outside : let s := linkState (shakeLink { peer := some 1 })
    s.takes 4 (testFrame 9 1 1 1 0 0) = true ∧ ((s.taken 4 (testFrame 9 1 1 1 0 0)).link 4).live = false ∧
    s.takes 4 (testFrame 0x11 1 1 0 0 0) = true ∧ ((s.taken 4 (testFrame 0x11 1 1 0 0 0)).link 4).live = false := by decide +kernel
theorem witness_partner_revoke : let s := linkState { liveLink with granted := [(3, 1, 1)] }
    s.takes 4 (testFrame 0x12 1 1 0 0 3) = true ∧ (testFrame 0x12 1 1 0 0 3).head.type = 0x12 ∧ (s.link 4).legal (testFrame 0x12 1 1 0 0 3) = true ∧
    ((s.taken 4 (testFrame 0x12 1 1 0 0 3)).link 4).live = true := by decide +kernel
theorem witness_link_frame_malformed : (testFrame 0x07 1 1 0 0 0).fecOk = true ∧ (liveLink.legal (testFrame 0x07 1 1 0 0 0)) = false ∧ liveLink.hears = true := by decide +kernel
/-- A live link that was granted window 3, with landing window 3 of one 4 KiB unit at HBM address 0x3000000 for link 4. -/
def windowState (st awaiting : Nat) : State :=
  let s := linkState { liveLink with offered := [3] }
  { s with time := 100000, lglob := { s.lglob with windows := [(3, { kind := 1, size4k := 1, base4k := 0x3000, links := 16, state := st, awaiting := awaiting })] } }
theorem witness_write : let f := testFrame 0x10 2 1 1 0 (3 + 64 * 256)
    let s := windowState 1 0
    frameFits 0x10 f = true ∧ s.takes 4 f = true ∧ ((s.taken 4 f).link 4).live = true ∧ ((s.taken 4 f).landing 3).takes 4 64 64 = true ∧
    ((s.taken 4 f).wake.writeDev (0x3000 * 4096 + 64) f.bytes none).isSome = true ∧ ((s.taken 4 f).landing 5).takes 4 64 64 = false ∧ ((s.taken 4 f).landing 5).grace 4 0 = false := by decide +kernel
theorem witness_write_grace : ((windowState 2 16).landing 3).takes 4 64 64 = false ∧ ((windowState 2 16).landing 3).grace 4 99999 = true ∧ ((windowState 2 16).landing 3).grace 4 100000 = false := by decide +kernel
theorem witness_revoke : ((windowState 1 0).landing 3).state = 1 ∧ ((windowState 2 16).landing 3).state = 2 ∧ (windowState 2 16).takes 4 (testFrame 0x13 1 1 0 0 3) = true ∧
    frameFits 0x13 (testFrame 0x13 1 1 0 0 3) = true ∧ 3 ∈ ((windowState 2 16).link 4).offered ∧ 5 ∉ ((windowState 2 16).link 4).offered ∧ bit ((windowState 2 16).landing 3).awaiting 4 = true ∧ ((windowState 1 0).landing 3).state ≠ 2 ∧ (windowState 2 16).time = 100000 := by decide +kernel
/-- A shipment of one page to partner 7 over group 0. -/
def testShip (offer : Option Nat) (granted : Option (List Nat × Nat × Nat)) (tried : List Nat) : Shipment :=
  { id := 0, rid := 0, group := 0, pages := [1], offer := offer, tried := tried, offerAt := 0, startAt := 0, held := [1], epoch := some 1, slotBytes := 4096
    partner := 7 - tried.length, granted := granted }
/-- `linkState liveLink` with that shipment. -/
def shipState (x : Shipment) : State :=
  let s := partState false
  { s with links := [(4, liveLink)], time := 100000, lglob := { s.lglob with groups := [(0, 16)], nextShip := 1, ships := [x] } }
/-- Whether a frame about the shipment in a state is taken, for each of the five messages. -/
def shipTaken (s : State) (t args : Nat) : Bool :=
  s.takes 4 (testFrame t 1 1 0 0 args) && frameFits t (testFrame t 1 1 0 0 args) && ((s.taken 4 (testFrame t 1 1 0 0 args)).link 4).live
theorem witness_ship_open : let s := shipState (testShip (some 4) none [])
    [0x31, 0x32, 0x34, 0x35, 0x36].all (fun t => shipTaken s t 0) = true ∧ s.takes 4 (testFrame 0x30 1 1 2 0 0) = true ∧
    (s.ship 0).map (fun x => (x.granted, x.offer, x.partner)) = some (none, some 4, 7) ∧ (s.link 4).partnerId = 7 ∧
    s.shipPoison (testShip (some 4) none []) = none ∧ s.lglob.moved = [] ∧ s.ship 1 = none ∧ s.lglob.nextShip = 1 ∧ (testShip (some 4) none []).offerAt + 100000 ≤ s.time ∧ s.alive = true := by decide +kernel
theorem witness_ship_granted : let s := shipState (testShip none (some ([4], 2, 0)) [])
    (s.ship 0).map (fun x => (x.granted, x.pages.length)) = some (some ([4], 2, 0), 1) ∧ s.usable 0 7 = [4] ∧
    s.shipExpired (testShip none (some ([4], 2, 0)) []) = false ∧ ({ s with time := 10000000 } : State).shipExpired (testShip none (some ([4], 2, 0)) []) = true := by decide +kernel
theorem witness_ship_nacked : 3 ≤ Tbl.get 0 0 ({ testShip none (some ([4], 2, 0)) [] with nacks := [(0, 2)] } : Shipment).nacks + 1 := by decide
theorem witness_ship_late : let s := shipState (testShip (some 9) none [7])
    let s := { s with lglob := { s.lglob with moved := [(0, 7)] } }
    shipTaken s 0x31 0 = true ∧ (0, (s.link 4).partnerId) ∈ s.lglob.moved := by decide +kernel
theorem witness_ship_poison : let s := shipState (testShip (some 4) none [])
    ({ s with integ := { s.integ with poison := [(4096 * 0x600011, 0x1801)] } } : State).shipPoison (testShip (some 4) none []) = some (4096 * 0x600011, 0x1801) := by decide +kernel
/-- `windowState 1 0` with a fetch of 64 bytes through window 3, asked on link 4. -/
def fetchState (stripes : List Stripe) : State :=
  let s := windowState 1 0
  { s with time := 200000000, lglob := { s.lglob with fetch := some { mslot := 0, modelId := 9, bytes := 64, window := 3, start := 0, asked := [4], stripes := stripes } } }
/-- Whether a model frame is taken in a state. -/
def modelTaken (s : State) (t len args : Nat) : Bool :=
  s.takes 4 (testFrame t 1 1 len 0 args) && frameFits t (testFrame t 1 1 len 0 args) && ((s.taken 4 (testFrame t 1 1 len 0 args)).link 4).live
theorem witness_model_answers : let s := fetchState []
    modelTaken s 0x41 0 0 = true ∧ modelTaken s 0x42 0 0 = true ∧ modelTaken s 0x40 1 0 = true ∧ s.lglob.fetch.map (fun x => (x.asked, x.have_, x.none_)) = some ([4], [], []) ∧
    s.lglob.fetch.map (fun x => decide (x.start + 100000 * s.lglob.modelLimitMs ≤ s.time)) = some true ∧ s.alive = true := by decide +kernel
theorem witness_model_serves : let s := linkState { liveLink with caps := 8, serves := some 0, granted := [(3, 1, 1)] }
    let s := { s with serve := { s.serve with models := [(0, { state := .ready })] }, boot := { s.boot with owners := [{ kind := 1, feature := 1, index := 0, first := 16, count := 1 }] } }
    (List.range 4).find? (fun k => (s.model k).state == .ready && (s.model k).modelId == 0) = some 0 ∧ bit (s.link 4).ownCaps 3 = true ∧
    modelTaken s 0x44 0 (3 + 64 * 2 ^ 56) = true ∧ ((s.hbmOwners 1 0).head?).map Owner.first = some 16 ∧ s.readDev (4096 * 16) 64 = some (List.replicate 64 0, none) := by decide +kernel
theorem witness_model_done : let s := fetchState [{ link := 4, offset := 0, len := 64 }]
    modelTaken s 0x43 0 (3 + crc32c (List.replicate 64 0) * 2 ^ 56) = true ∧ modelTaken s 0x43 0 5 = true ∧
    s.lglob.fetch.map (fun x => (x.stripes.find? (fun z => z.link == 4 && z.offset == 0 && z.crc.isNone)).isSome) = some true ∧
    s.lglob.fetch.map (fun x => crc32c (s.fetched x 0 64)) = some (crc32c (List.replicate 64 0)) ∧ 3 ∈ (s.link 4).offered ∧ 5 ∉ (s.link 4).offered := by decide +kernel
/-- Whether link 4 in a handshake or in service takes a frame of a TYPE with LEN words, and keeps its state for it. -/
def shakeTaken (k : LinkSt) (t len enc args : Nat) : Bool :=
  let f := testFrame t 1 enc len 0 args
  (linkState k).takes 4 f && frameFits t f && (((linkState k).taken 4 f).link 4).state == k.state
theorem witness_hello : shakeTaken (shakeLink {}) 0x01 1 0 0 = true ∧ shakeTaken { liveLink with shake := { peer := some 1 } } 0x01 1 0 0 = true := by decide +kernel
theorem witness_cert : shakeTaken (shakeLink { peer := some 1 }) 0x02 1 0 64 = true ∧ shakeTaken (shakeLink { peer := some 1, chain := some [] }) 0x02 1 0 64 = true := by decide +kernel
/-- A handshake in which `n` bytes of an object of 1,568 bytes have come. -/
def partShake (type n : Nat) : Shake := { peer := some 1, objs := [(type, (1568, List.replicate n 0))] }
/-- What the next frame of that object makes of it: legal, complete. -/
def objectNext (k : LinkSt) (type n len : Nat) (enc : Nat) : Bool × Bool :=
  let f := testFrame type 1 enc len 0 len
  let g := ((linkState { k with shake := partShake type n }).taken 4 f).takeObject 4 type f (fun n => n == 1568)
  (g.2.1, g.1.isSome)
theorem witness_kem : [objectNext (shakeLink {}) 3 1504 1 0, objectNext (shakeLink {}) 3 1000 1 0, objectNext (shakeLink {}) 3 0 1 0, objectNext liveLink 3 1504 1 1] =
    [(true, true), (true, false), (false, false), (true, true)] ∧ shakeTaken (shakeLink (partShake 3 1504)) 3 1 0 0 = true ∧
    shakeTaken { liveLink with shake := partShake 3 1504 } 3 1 1 0 = true ∧ shakeTaken (shakeLink (partShake 4 1504)) 4 1 0 0 = true ∧
    shakeTaken { liveLink with shake := partShake 4 1504, rekey := some 0, initiator := true } 4 1 1 0 = true := by decide +kernel
theorem witness_auth_finish : shakeTaken (shakeLink { peer := some 1, transcript := List.replicate 64 0 }) 5 1 0 49856 = true ∧
    shakeTaken (shakeLink { peer := some 1, transcript := List.replicate 64 0 }) 6 1 1 0 = true ∧ (testFrame 6 1 1 1 0 0).bytes = List.replicate 64 0 ∧
    (testFrame 6 1 1 1 0 0).bytes ≠ List.replicate 64 1 := by decide +kernel
/-- `linkState` at a counter value with queues of the security engine. -/
def jobState (k : LinkSt) (t : Nat) : State :=
  { linkState k with time := t, sec := { State.reset.sec with signQ := [.auth 4], verQ := [.cert 4 0] } }
theorem witness_jobs : let s := jobState (shakeLink { start := 0 }) 20000000
    s.sec.signQ = [.auth 4] ∧ s.sec.hasDik = true ∧ (jobState liveLink 0).sec.signQ = [.auth 4] ∧ ((jobState liveLink 0).link 4).state ≠ .handshake ∧ s.sec.verQ = [.cert 4 0] ∧ s.sec.token = none ∧ s.alive = true ∧ (s.link 4).state = .handshake ∧ (s.link 4).shake.start + 20000000 ≤ s.time := by decide
theorem witness_rekey : let s := jobState { liveLink with initiator := true } 360000000000
    (s.link 4).live = true ∧ (s.link 4).initiator = true ∧ (s.link 4).rekey = none ∧ (s.link 4).keySince + 100000000 * s.lglob.rekeyS ≤ s.time ∧
    ({ liveLink with rekey := some 0 } : LinkSt).live = true := by decide
theorem witness_refused_retry : let s := jobState { state := .absent, waitUntil := some 1000000000 } 1000000000
    (s.link 4).state = .absent ∧ (s.link 4).waitUntil = some 1000000000 ∧ 1000000000 ≤ s.time := by decide
theorem witness_link_signal : (linkState { state := .absent }).alive = true ∧ ((linkState { state := .absent }).link 4).waitUntil = none ∧
    ((linkState { state := .quarantined, quars := 3 }).link 4).state = .quarantined := by decide
theorem witness_training : let s := { linkState { state := .training, rates := 3, trainRate := 0 } with time := 50000000 }
    (s.link 4).allowed.find? (fun r => decide ((s.link 4).trainRate < r)) = some 1 ∧ (s.link 4).since + 50000000 ≤ s.time ∧
    ({ state := .training, rates := 3, trainRate := 1 } : LinkSt).allowed.find? (fun r => decide (1 < r)) = none := by decide
theorem witness_link_faults : let s := { linkState { liveLink with replaysFor := 3, stall := [(0, 1)] } with time := 10000 }
    (s.link 4).live = true ∧ (s.link 4).lastAccept + 10000 ≤ s.time ∧ 3 ≤ (s.link 4).replaysFor ∧ Tbl.get 0 0 (s.link 4).stall = 0 + 1 ∧ 0 + 100 * s.lglob.slowUs ≤ s.time := by decide
theorem witness_link_holds : let s := { linkState { state := .slow } with time := 6000000000 }
    (s.link 4).queue = [] ∧ (s.link 4).again = [] ∧ (s.link 4).clearSince + 1000000 ≤ s.time ∧ ({ state := .quarantined, quars := 2 } : LinkSt).since + 100000000 * s.lglob.quarHoldS ≤ s.time := by decide
/-- R285: a fresh link trains at rate 0 where the image allows it. -/
theorem test_train_highest : ((after (execSignalDetect 4 (linkState { state := .absent, rates := 7 }))).link 4).trainRate = 0 := by decide +kernel
/-- `ringState` with link 4 in the given state. -/
def controlState (k : LinkSt) : State := { ringState State.reset with links := [(4, k)], boot := { stage := 0x0D, opened := [((Blk.link 4).base + 0x010, 7)] } }
theorem witness_link_control : let s := controlState { liveLink with enable := true }
    let u := s.touch (.link 4)
    s.reaches (.port .A) = true ∧ s.takesWrites (.link 4) 0x010 = true ∧ (u.writeRefused (.port .A) (.link 4) 0x010 1).isNone = true ∧
    (u.writeRefused (.port .A) (.link 4) 0x010 0).isNone = true ∧ (u.writeRefused (.port .A) (.link 4) 0x010 5).isNone = true ∧ u.glob.service ≠ 2 ∧ u.sec.lifecycle = 1 ∧
    (u.link 4).live = true ∧ (∀ h ∈ u.integ.held, 88 ∉ h.act.groups) ∧ (∀ a ∈ u.integ.waiting, 88 ∉ a.groups) ∧ 88 ∈ (Activity.linkTest 4).groups := by decide +kernel
theorem witness_link_disable : let t := ((controlState { liveLink with enable := true }).touch (.link 4)).linkControl 4 0
    (∀ k < 8, (t.link k).state = .disabled) ∧ ((controlState { state := .quarantined }).link 4).state = .quarantined := by decide +kernel
/-- `ringState` in seat mode with two seats, whose seat 1 is in the given state. -/
def seatState (f : Func) : State :=
  let s := ringState State.reset
  { s with portA := { s.portA with seatMode := true, ready := true, windows := [(4, { en := true, size4k := 1 })], numVf := 2, funcs := [(0, { bme := true }), (1, f)] } }
theorem witness_port_losses : (ringState State.reset |>.port .A).link = .up ∧ (State.reset.port .A).link ≠ .up ∧ ((seatState {}).port .A).configures 1 = true ∧ ((seatState {}).port .A).configures 0 = true ∧
    (State.reset.port .A).configures 0 = false ∧ (seatState {}).ringFn .A 1 = 1 ∧ ((seatState {}).port .A).winOwner 4 = 1 ∧ ((seatState {}).port .A).win 4 ≠ {} ∧ (1 : Fin 16) ≠ 0 ∧
    (((seatState {}).port .A).func 1).d3hot = false := by decide
theorem witness_quiesce : (((seatState { quiesce := true }).port .A).func 1).quiesce = true ∧ (seatState { quiesce := true }).lingers .A 1 = false ∧ (seatState {}).alive = true ∧
    (let s := reqState .prefill
     ({ s with serve := { s.serve with reqs := [{ testReq .prefill with silent := true }] } } : State).lingers .A 0 = true) := by decide +kernel
/-- R331: PERST takes the port's link down and counts one loss with cause 1. -/
theorem test_perst_counts : let t := after (execPerstAssert .A (ringState State.reset))
    ((t.port .A).losses, (t.port .A).lastLoss, (t.port .A).link, (t.port .A).perst) = (1, 1, .down, true) := by decide +kernel
theorem witness_ports_up : let s := { ringState State.reset with portA := { refclkSel := true, perst := false } }
    s.powered = true ∧ State.reset.powered = false ∧ (s.port .A).perst = false ∧ (s.port .A).clocked = true ∧ (s.port .A).link ≠ .up ∧ rateFits 5 16 = true ∧ rateFits 4 16 = true := by decide
theorem witness_ports_functions : let s := seatState { pba := [0] }
    (s.port .A).configures 0 = true ∧ (s.port .A).configures 1 = true ∧ ((s.port .A).func 1).d3hot = false ∧ (s.port .A).seatMode = true ∧
    (0 ∈ ((s.port .A).func 1).pba) ∧ 0 < (s.port .A).vectors 1 ∧ (((seatState { d3hot := true }).port .A).func 1).d3hot = true := by decide
theorem witness_ports_window : let s := ringState State.reset
    s.takesWrites (.port .A) 0x100 = true ∧ ((s.touch (.port .A)).writeRefused (.port .A) (.port .A) 0x100 1).isNone = true ∧
    ((reqState .prefill).req 0).map Req.port = some .A ∧ (reqState .prefill).glob.service ≠ 4 ∧
    ({ State.reset with glob := { State.reset.glob with service := 4 }, boot := { rstatus := 3, rescuePort := .A } } : State).boot.rescuePort = .A := by decide +kernel
/-- R320: VF Enable with five seats. -/
theorem test_vf_enable : ((after (execVfEnableSet .A 5 (seatState {}))).port .A).numVf = 5 := by decide
/-- The reset state at a counter value with a power manager changed by `f`. -/
def powState (t : Nat) (f : Power → Power) : State := { State.reset with time := t, pow := f State.reset.pow }
theorem witness_power : State.reset.pow.mstate = .active ∧ State.reset.alive = true ∧ (let s := powState 1000000 (fun p => { p with boostEn := true, boostHold := 500, fixed := false })
    s.pow.boosting = false ∧ s.pow.fixed = false ∧ s.pow.boostEn = true ∧ 500 ≤ s.pow.boostHold ∧ s.pow.divAt + 1000000 ≤ s.time) ∧
    (powState 0 (fun p => { p with boostPending := true })).pow.boostPending = true ∧ (powState 0 (fun p => { p with boostPending := true })).pow.powerGoodAt = none ∧ (powState 0 (fun p => { p with mstate := .tripped })).pow.mstate = .tripped ∧ (powState 200 id).pow.intervalDue 200 = true ∧
    [1, 2, 3, 4, 5].length = 5 := by decide
/-- R347: a measured 8 W above the mean of the estimates moves the offset by 1 W. -/
theorem test_calibration : ((after (execPmbusCalibration [8000, 0, 0, 0, 0]
    (powState 0 (fun p => p.setRail 0 { p.rail 0 with est := List.replicate 500 0 })))).pow.rail 0).offset = 1000 := by decide +kernel
theorem witness_temperatures : [114, 20].foldl max 0 = 114 ∧ [115].foldl max 0 = 115 ∧ [99].foldl max 0 = 99 ∧ [96].foldl max 0 = 96 ∧ State.reset.pow.mstate = .active ∧
    (powState 0 (fun p => { p with mstate := .standby })).pow.mstate = .standby ∧
    (let s := powState 7 (fun p => { p with mstate := .tripped, tripAt := 7, tripCause := 4, vrRead := true })
     s.pow.mstate = .tripped ∧ s.pow.tripAt = s.time ∧ s.pow.tripCause ≠ 3 ∧ s.pow.vrRead = true) := by decide
theorem witness_coolant : let s := powState 10000 (fun p => { p with coolantOk := false, coolantLowAt := some 0, doms := [(32, .on)] })
    s.pow.coolantOk = false ∧ s.pow.coolantLowAt = some 0 ∧ s.pow.dom 32 ≠ .off ∧ 0 + 10000 ≤ s.time ∧ s.boot.stage ≠ 6 ∧ (powState 0 id).pow.coolantOk = true := by decide
theorem witness_regulators : let s := powState 100000000 (fun p => { p with vrAlert := true, vrRead := true, doms := [(32, .on)] })
    s.pow.vrRead = true ∧ s.pow.dom 32 ≠ .off ∧ VrFinding.fault ∉ [VrFinding.silent] ∧ VrFinding.silent ∉ [VrFinding.warning] ∧
    (let s := powState 100000000 (fun p => { p with alertEndAt := some 0 }); s.pow.alertEndAt = some 0 ∧ s.pow.vrAlert = false ∧ s.pow.fallbackHeld = false ∧ 0 + 100000000 ≤ s.time) := by decide
/-- R357: at 115 °C every domain but PD33 is off and the module is TRIPPED. -/
theorem test_thermal_trip : let t := after (execTemperatureReading [115] (powState 0 (fun p => { p with doms := [(0, .on), (32, .on), (33, .on)] })))
    (t.pow.mstate, t.pow.dom 0, t.pow.dom 32, t.pow.dom 33, t.pow.tripCause) = (.tripped, .off, .off, .on, 1) := by decide +kernel
theorem witness_idle : let s := powState 100000 (fun p => { p with readyIdleMs := 1 })
    s.alive = true ∧ s.pow.mstate = .active ∧ s.pow.readyIdleMs ≠ 0 ∧ s.pow.lastActivity + 100000 * s.pow.readyIdleMs ≤ s.time ∧ s.pow.commitAt ≠ some s.time ∧ s.busy = false ∧
    (powState 0 (fun p => { p with mstate := .readyIdle, touched := [(18, 0)] })).pow.touched.find? (fun kv => kv.1 == 18) = some (18, 0) := by decide
/-- The reset state at a counter value with the security engine changed by `f`. -/
def secState (t : Nat) (f : Sec → Sec) : State := { State.reset with time := t, sec := f State.reset.sec }
theorem witness_debug : (secState 0 (fun k => { k with lifecycle := 3 })).sec.lifecycle = 3 ∧ State.reset.board.aux = true ∧ State.reset.sec.lifecycle ≠ 3 ∧
    State.reset.sec.locked 0 = false ∧ (secState 5 (fun k => { k with lockout := some 0 })).sec.locked 5 = true ∧ State.reset.sec.token = none := by decide
theorem witness_lockout : let s := secState 100000000 (fun k => { k with lockout := some 0, debug := 2, token := some [] })
    s.sec.unlockFails < 16 ∧ 0 + 100000000 ≤ s.time ∧ (1 : Fin 4).val < s.sec.debug ∧ s.sec.debug ≤ (3 : Fin 4).val ∧ s.sec.token = some [] ∧
    16 ≤ (secState 0 (fun k => { k with unlockFails := 16 })).sec.unlockFails := by decide
/-- R381: a token without a challenge is refused, whatever it says. -/
theorem witness_token_refused : (secState 0 id).sec.accepts (Token.ofBytes []) 0 = false := by decide +kernel
/-- R377: a BLANK module takes a token that raises the level. -/
theorem witness_token_accepted : ({ lifecycle := 0 } : Sec).accepts { copy := 0, slot := 0, action := 0, level := 1, body := [], sig := [] } 0 = true := by decide
theorem witness_tap : ({ State.reset with board := { aux := false } } : State).board.aux = false ∧ State.reset.serviceStopped = false ∧
    (powState 0 (fun p => { p with mstate := .tripped })).serviceStopped = true ∧
    (let s := secState 0 (fun k => { k with debug := 2 }); s.dbgMay 0x100 false = true ∧ s.dbgMay 0x100 true = true ∧ s.dbgOff 0x100 = false ∧ 1 ≤ s.sec.debug ∧
      (let t := { s with pow := { s.pow with mstate := .standby } }; t.dbgMay 0x100 true = true ∧ t.dbgOff 0x100 = true)) := by decide +kernel
theorem witness_scan : 3 ≤ (secState 0 (fun k => { k with debug := 3 })).sec.debug ∧ (secState 0 (fun k => { k with debug := 3 })).sec.held = false ∧ State.reset.sec.debug = 0 ∧
    (let s := { secState 0 (fun k => { k with debug := 3, held := true }) with pow := { mstate := .standby } }; s.sec.held = true ∧ s.pow.mstate = .standby ∧ s.boot.stage ≠ 0x0A) := by decide
theorem witness_security_writes : let s := { ringState State.reset with sec := { zeroiseOpen := true } }
    s.reaches (.port .A) = true ∧ s.takesWrites .sec 0x040 = true ∧ ((s.touch .sec).writeRefused (.port .A) .sec 0x040 2).isNone = true ∧
    ((s.touch .sec).writeRefused (.port .A) .sec 0x040 1).isNone = true := by decide +kernel
theorem witness_zeroisation : (secState 0 (fun k => { k with zstate := 1 })).sec.zstate = 1 ∧ State.reset.dark = false ∧ (secState 0 (fun k => { k with nextLife := some 2 })).sec.nextLife = some 2 := by decide
theorem witness_report : let s := { ringState State.reset with sec := { signQ := [.report .A [] 0x800000000000] } }
    s.sec.signQ = [.report .A [] 0x800000000000] ∧ s.reportPlace .A 0x800000000000 = some 0 ∧ (s.port .A).link = .up ∧ s.dark = false ∧ s.sec.hasDik = true ∧
    ({ lifecycle := 0 } : Sec).hasDik = false ∧ (State.reset.port .A).link ≠ .up := by decide
theorem witness_reseed : 2 ^ 20 * ((secState 0 (fun k => { k with drbg := 2 ^ 20 })).sec.reseeds + 1) ≤ (secState 0 (fun k => { k with drbg := 2 ^ 20 })).sec.drbg := by decide
/-- The reset state whose integrity state is changed by `f`. -/
def integState (f : Integrity → Integrity) : State := { State.reset with integ := f State.reset.integ }
theorem witness_detect : (0x1000 : Nat) < 0x2400000000 ∧ State.reset.inTables 0x1000 = false ∧ State.reset.inTables (stackBytes - 1) = true ∧ State.reset.logicalOn 0 = some 0 ∧
    State.reset.logicalOn 64 = none ∧ State.reset.running = none ∧ State.reset.dark = false ∧ (integState id).dark = false ∧ State.reset.alive = true := by decide +kernel
theorem witness_poison : let s := { integState (fun g => { g with poison := [(0x1000, 0x2C20)] }) with
        cores := [(0, { run := { active := true } })], sync := { tables := [(0, { state := .running, tag := 1, mask := 1 })] } }
    (region 0x1000).canon = some 0x1000 ∧ s.poisonIn 0x1000 1 = some 0x2C20 ∧ (s.core 0).run.active = true ∧ (s.running).isSome = true ∧ s.poisonIn 0x1020 1 = none := by decide +kernel
theorem witness_scrubs : let s := integState (fun g => { g with held := [{ act := .hbmScrub 1, since := 0 }, { act := .sramScrub 3, since := 0 }] })
    s.holds (.hbmScrub 1) = true ∧ s.holds (.sramScrub 3) = true ∧ stackBytes / stackBytes = 1 ∧ s.logicalOn 3 = some 3 := by decide +kernel
/-- R404: three corrected sectors are three counts of CE_HBM. -/
theorem test_corrected_counts : Tbl.get 0 2 (after (execCeLimitReached (.hbm 2 0x6000000000) 3 State.reset)).integ.ceHbm = 3 := by decide +kernel
/-- The reset state in which an activity holds its keys, with its test due. -/
def testState (a : Activity) : State := integState (fun g => { g with held := [{ act := a, since := 0 }], tests := [{ act := a, kind := .coreSlot, unit := 3, code := 0x2C21, addr := 0, seq := 1, detail := 0 }] })
theorem witness_keys : State.reset.integ.waiting = [] ∧ (∀ h ∈ (testState (.coreTest 5)).integ.held, h.act.overlaps (.linkTest 3) = false) ∧
    (∃ h ∈ (testState (.linkTest 4)).wake.integ.held, h.act = .linkTest 4) := by decide +kernel
theorem witness_verdict : let s := testState (.coreTest 3)
    s.dark = false ∧ s.testable (.coreTest 3) = true ∧ (s.integ.tests.find? (fun t => t.act == .coreTest 3)).isSome = true ∧ (testState (.replacement 3 64)).testable (.replacement 3 64) = true := by decide +kernel
/-- R71, R397: a core test that fails blows the slot's fuse, and the freed keys go to the replacement; the slot stays ENABLED until the map is written. -/
theorem test_failed_core : let t := after (execTargetedTestVerdict (.coreTest 3) false false (testState (.coreTest 3)))
    ((t.slot 3).state, (t.slot 3).fuse, t.integ.held.map Held.act) = (.enabled, true, [.replacement 3 64]) := by decide +kernel
theorem witness_reset : State.reset.board.aux = true ∧ ({ State.reset with board := { aux := false } } : State).board.aux = false ∧ State.reset.boot.stage = 1 ∧ State.reset.sec.lifecycle ≠ 3 ∧
    State.reset.pow.mstate ≠ .tripped ∧ State.reset.boot.rstatus ≠ 3 := by decide
theorem witness_firmware : let s := { State.reset with boot := { stage := 0x0B } }
    s.boot.stage = 0x0B ∧ s.glob.fatal = false ∧ s.mayServe = true ∧ ({ s with boot := { stage := 0x0B, noService := true } } : State).mayServe = false := by decide
theorem witness_blank_identity : ({ lifecycle := 0 } : Sec).dikMatches = true := by decide
/-- R422: without an answer from the NVM the module is in the rescue loader, SERVICE 4, with cause 4. -/
theorem test_no_nvm : let t := after (execResetInDeassert { nvmAnswers := false, badSlots := [] } State.reset)
    (t.boot.stage, t.boot.rescueCause, t.glob.service) = (0x0E, 4, 4) := by decide +kernel
/-- `ringState` in the rescue loader, with a status of the install. -/
def loaderState (st : Nat) : State := let s := ringState State.reset; { s with glob := { service := 4 }, boot := { stage := 0x0E, rstatus := st } }
theorem witness_loader : let s := loaderState 0
    let u := (s.hostStore .A []).touch .boot
    (s.hostStore .A []).reaches (.port .A) = true ∧ s.takesWrites .boot 0x030 = true ∧ s.glob.service = 4 ∧ (u.writeRefused (.port .A) .boot 0x030 1).isNone = true ∧ ((u.port .A).func 0).bme = true ∧
    u.sec.verifies (Image.ofBytes (u.hostGet .A u.boot.rescueSrc.toNat u.boot.rescueBytes.toNat)) = false ∧ s.boot.rstatus = 0 := by decide +kernel
theorem witness_rescue_next : let s := ringState State.reset
    s.takesWrites .boot 0x030 = true ∧ s.reaches (.port .A) = true ∧ ((s.touch .boot).writeRefused (.port .A) .boot 0x030 2).isNone = true := by decide +kernel
theorem witness_install : (loaderState 3).glob.service = 4 ∧ (loaderState 3).boot.rstatus = 3 ∧ (loaderState 5).boot.rstatus = 5 ∧ State.reset.hears { addr := 0x5B } [0x12] = true ∧
    State.reset.hears { addr := 0x58 } [0x12] = false := by decide
/-- The reset state with auxiliary power lost. -/
def offState (rst : Bool) : State := { State.reset with board := { aux := false, v52 := true, en := true, resetIn := rst } }
theorem witness_power_on : (offState true).board.aux = false ∧ (offState true).board.v52 = true ∧ (offState true).board.en = true ∧ (offState true).board.resetIn = true ∧
    (offState false).board.resetIn = false ∧ State.reset.board.aux = true ∧ State.reset.boot.rstatus ≠ 3 := by decide
/-- The reset state at a counter value with ZEROISE armed at 0. -/
def armedState (t service : Nat) : State := { State.reset with time := t, board := { armed := some 0 }, glob := { service := service } }
/-- A transaction to the reset state's address, without a PEC. -/
def ownCall : SmbCall := { addr := 0x5B }
theorem witness_smbus_hears : [[0x01], [0x02], [0x03], [0x04], [0x05, 2, 3, 0], [0x06, 3], [0x07], [0x10], [0x11]].all (fun b => State.reset.hears ownCall b && !State.reset.hears { addr := 0x58 } b
    && !State.reset.hears { ownCall with pec := some (BitVec.ofNat 8 (crc8 (0xB6 :: b) + 1)) } b && State.reset.hears { ownCall with pec := some (BitVec.ofNat 8 (crc8 (0xB6 :: b))) } b) = true := by decide +kernel
theorem witness_smbus : State.reset.board.smb = ownCall ∧ (armedState 99999999 1).hears ownCall [0x11] = true ∧ (armedState 99999999 1).time < 0 + 100000000 ∧ (armedState 5 1).dark = false ∧ (armedState 5 1).booting = false ∧
    (armedState 5 0).booting = true ∧ 0 + 100000000 ≤ (armedState 100000000 1).time ∧ (powState 0 (fun p => { p with mstate := .tripped })).dark = true ∧
    (offState false).board.aux = false ∧ State.reset.integ.repairs.length ≤ (0 : BitVec 16).toNat % 256 ∧
    (integState (fun g => { g with repairs := [{ stack := 2, row := 5 }] })).integ.repairs[(0 : BitVec 16).toNat % 256]? = some { stack := 2, row := 5 } := by decide
/-- R439, R459: READ_ID begins with the vendor and device numbers. -/
theorem test_read_id : ((after (execReadId State.reset)).out.map (fun o => match o with | .smbus bs => ofLeBytes (bs.take 4) | _ => 0)) = [0x96201F6B] := by decide +kernel
/-- R460: STACK lies at bits 55:53 of a repair entry and VALID at bit 0. -/
theorem test_repair_bits : (fld (Repair.bits { stack := 5, row := 0x12345 }) 53 3, fld (Repair.bits { stack := 5, row := 0x12345 }) 24 18, bit (Repair.bits { stack := 5, row := 0 }) 0) = (5, 0x12345, true) := by decide
theorem witness_register_writes : let s := ringState State.reset
    s.reaches (.port .A) = true ∧ State.reset.reaches (.port .A) = false ∧ blockOf 0x2400 = some (.coll, 0) ∧ blockOf 0x2800 = none ∧ s.takesWrites .watchdog 0x018 = true ∧
    s.reaches (.steward 1) = true ∧ s.takesWrites (.core 3) 0x150 = true ∧ ((s.touch (.core 3)).writeRefused (.port .A) (.core 3) 0x150 1).isNone = true ∧ s.takesWrites .glob 0x050 = true ∧
    ((s.touch .glob).writeRefused (.port .A) .glob 0x050 (2 ^ 63)).isNone = true ∧ (loaderState 0).takesWrites .watchdog 0x018 = false ∧
    ((s.touch (.port .B)).writeRefused (.port .A) (.port .B) 0x100 1) = some (1, 0x0910) ∧ seatOffset .A 1 0x20 = none ∧ seatOffset .A 1 0 = some 0x30040 ∧
    ((seatState {}).port .A).seatMode = true ∧ ((seatState {}).port .A).serves 1 = true := by decide +kernel
theorem witness_msix : ((seatState {}).port .A).configures 0 = true ∧ (((seatState {}).port .A).func 0).d3hot = false ∧ seatOffset .A 1 0x8000 = none ∧
    seatOffset .A 1 0x8040 = none ∧ 0 < ((seatState {}).port .A).vectors 1 := by decide +kernel
/-- R321, R330: bit 32 of an entry's second half unmasks and masks its vector, and Message Control sets MSI-X Enable. -/
theorem test_msix_table : let w := fun (o v : Nat) (s : State) => after (execRegisterWrite (.port .A) (.bar4 (BitVec.ofNat 16 o)) 8 (BitVec.ofNat 64 v) s)
    let s := w 0x18 0x77 (ringState State.reset)
    let c := after (execRegisterWrite (.port .A) (.msixControl 0) 8 0x8000 s)
    (((s.port .A).func 0).unmasked, ((w 0x18 (2 ^ 32) s |>.port .A).func 0).unmasked, ((c.port .A).func 0).msixEn, s.readBar4 .A 0x18) = ([1], [], true, 0x77) := by decide +kernel
theorem witness_isw : let s := { ringState State.reset with links := [(4, { enable := true })] }
    s.integ.newest = none ∧ s.reaches (.port .A) = true ∧ blockOf 0x20210 = some (.link 4, 0x010) ∧ s.takesWrites (.link 4) 0x010 = true ∧ bit ((s.touch (.link 4)).iswChange (.link 4) 0x010 0) 0 = true ∧
    bit (Tbl.get 0 ((Blk.link 4).base + 0x010) (s.touch (.link 4)).boot.opened).toNat 0 = false := by decide +kernel
theorem witness_latch : (ringState State.reset).reaches (.port .A) = true ∧ (ringState State.reset).glob.service ≠ 4 ∧ (secState 0 (fun k => { k with debug := 1 })).board.aux = true ∧
    1 ≤ (secState 0 (fun k => { k with debug := 1 })).sec.debug := by decide +kernel
/-- `ringState` with model slot 0 as given. -/
def modelState (m : ModelSlot) : State := let s := ringState State.reset; { s with serve := { s.serve with models := [(0, m)] } }
/-- A load block for slot 0 at host address 0x1000. -/
def loadHost (magic : Nat) : Cells := memPut [] 0x1000 (leBytes 64 magic)
theorem witness_model_load : let s := (modelState {}).hostStore .A (loadHost 0x4D)
    let u := s.entryTaken .A 0 (entry 0x20 0)
    entryFits 0x20 (entry 0x20 0) = true ∧ s.readsEntry .A 0 (entry 0x20 0) = true ∧ fld (entry 0x20 0).toNat 0 64 = 0x1000 ∧
    (u.hostRead .A 0 0x1000 64).map (fun bs => ((ModelBlock.ofBytes bs).magic, (ModelBlock.ofBytes bs).source, (ModelBlock.ofBytes bs).mslot)) = some (0x4D, 0, 0) ∧
    (u.model 0).state = .empty ∧ ((modelState { state := .ready }).model 0).state = .ready := by decide +kernel
theorem witness_model_drain : let s := { modelState { state := .draining, drainStart := 0, next := some (ModelBlock.ofBytes (leBytes 64 (2 ^ 169))) } with time := 1000000000000000 }
    s.alive = true ∧ s.slotReqs 0 = [] ∧ (s.model 0).next.map (fun b => b.force) = some true ∧ (s.model 0).drainStart + 100000 * s.serve.params.drainMaxMs ≤ s.time ∧
    (modelState {}).readsEntry .A 0 (entry 0x21 0) = true ∧ entryFits 0x21 (entry 0x21 0) = true := by decide +kernel
theorem witness_partitions : let s := modelState { state := .loading, written := true }
    (s.model 0).state = .loading ∧ (s.model 0).written = true ∧ (s.wake.closeIdle 0).pages.slotFree 0 = true ∧ (s.wake.closeIdle 0).weightsLegal 0 [] = true ∧
    (s.wake.closeIdle 0).partsLegal 0 1 [{ stack := 0, base4k := 0, count := 1, slot4k := 1 }] = false ∧ (s.wake.closeIdle 0).partsLegal 0 1 [] = true ∧ ((seatState {}).slotReqs 0 = []) := by decide +kernel
/-- A kicker block of rank 1 with one site in BF16. -/
def testKicker : KickerBlock := { name := 5, mslot := 0, rank := 1, fmt := 1, modelFmt := 1, sites := [0], dims := [(1, 0)], addr := 0x1000 }
theorem witness_kicker : let s := { modelState { state := .ready, block := { ModelBlock.ofBytes [] with nl := 1 } } with boot := { stage := 0x0D, owners := [{ kind := 1, feature := 3, index := 0, first := 16, count := 4 }] } }
    let s := s.hostStore .A []
    let u := s.entryTaken .A 0 (entry 0x30 0)
    entryFits 0x30 (entry 0x30 0) = true ∧ s.readsEntry .A 0 (entry 0x30 0) = true ∧ (u.hostRead .A 0 0x1000 testKicker.bytes).isSome = true ∧ testKicker.legal (u.model testKicker.mslot) = true ∧
    (u.hostRead .A 0 0x1000 testKicker.len).isSome = true ∧
    u.serve.kickerSlot = some 0 ∧ u.poolPlace testKicker.bytes = some 0x10000 := by decide +kernel
theorem witness_kicker_drop : let s := ringState State.reset
    let k : Kicker := { name := 5, mslot := 0, rank := 1, fmt := 1, sites := [0], dims := [(1, 0)], base := 0x10000, bytes := 8192 }
    entryFits 0x31 (entry 0x31 5) = true ∧ s.readsEntry .A 0 (entry 0x31 5) = true ∧ (({ s.serve with kickers := [(0, some k)] } : Serve).kickerOf 5).isSome = true ∧
    s.serve.kickerOf 5 = none := by decide +kernel
/-! The checks of WellFormed.lean: an ill-formed command for each of them is refused, and nothing else happens. -/

/-- A word of a CLASS and OP. -/
def opWord (cls op : Nat) : Word := BitVec.ofNat 128 (cls + 16 * op)

/-- A frame of a TYPE. -/
def typeFrame (n : Nat) : Frame := { hdr := BitVec.ofNat 512 (256 * n), payload := [], fecOk := true, tagOk := true }

/-- An entry of an OPCODE. -/
def opEntry (n : Nat) : BitVec 256 := BitVec.ofNat 256 (n * 2 ^ 240)

/-- Core-word commands that carry another legal word, and the two frames of a FUNC for ROWSTAT. -/
def illWords : List Instr :=
  [.nop 0 (opWord 0 1), .endPart 0 (opWord 0 0), .loop 0 (opWord 0 3), .setc 0 (opWord 0 2), .ldcx 0 (opWord 1 0), .mm 0 (opWord 1 1),
   .mmw 0 (opWord 1 0), .decanterForward 0 (opWord 2 1), .decanterRecompute 0 (opWord 2 0), .map 0 (opWord 3 1), .episet 0 (opWord 3 0),
   .rowstat 0 (opWord 3 2 + 1#128 <<< 16), .rowstatCombine 0 (opWord 3 2), .rownorm 0 (opWord 3 4), .tbload 0 (opWord 3 3),
   .submit 0 (opWord 4 1), .kfetch 0 (opWord 4 0), .convfeed 0 (opWord 4 0), .pegSet 0 (opWord 5 1), .pegAdd 0 (opWord 5 0),
   .acquire 0 (opWord 5 3), .monitor 0 (opWord 5 2)]

/-- Intake entries under another row's command, and a legal opcode under the illegal row. -/
def illEntries : List Instr :=
  [.request .A 0 (opEntry 2) [], .cancel .A 0 (opEntry 1) 0, .stakeLoad .A 0 (opEntry 0x11) [], .domainLoad .A 0 (opEntry 0x10) [],
   .domainPurge .A 0 (opEntry 0x11), .modelLoad .A 0 (opEntry 0x21) [], .modelUnload .A 0 (opEntry 0x20),
   .kickerLoad .A 0 (opEntry 0x31) [] { name := 0, mslot := 0, rank := 0, fmt := 0, modelFmt := 0, sites := [], addr := 0, dims := [] },
   .kickerDrop .A 0 (opEntry 0x30), .sessionClose .A 0 (opEntry 0x41), .sessionQuery .A 0 (opEntry 0x40), .intakeIllegalOpcode .A 0 (opEntry 0x10)]

/-- Frames under another TYPE's command. -/
def illFrames : List Instr :=
  [.syncArrive 0 (typeFrame 0x21), .syncRelease 0 (typeFrame 0x20), .shipGrant 0 (typeFrame 0x30), .shipRefuse 0 (typeFrame 0x30),
   .shipNack 0 (typeFrame 0x30), .shipDone 0 (typeFrame 0x30), .shipAbort 0 (typeFrame 0x30), .shipOffer 0 (typeFrame 0x31),
   .accept 0 (typeFrame 0x08), .write 0 (typeFrame 0x11), .revokeAck 0 (typeFrame 0x12), .modelReq 0 (typeFrame 0x41),
   .modelStripe 0 (typeFrame 0x40), .modelHave 0 (typeFrame 0x42), .modelNone 0 (typeFrame 0x41), .modelDone 0 (typeFrame 0x40),
   .null 0 (typeFrame 0x01), .hello 0 (typeFrame 0x00), .cert 0 (typeFrame 0x03), .kemEk 0 (typeFrame 0x04), .kemCt 0 (typeFrame 0x03),
   .auth 0 (typeFrame 0x06), .finish 0 (typeFrame 0x05), .replayReq 0 (typeFrame 0x09), .windowGrant 0 (typeFrame 0x10)]

/-- Register commands whose data does not have the bit that names them, a board message of the other operation, an abort with a code that R405 does not list,
links of rates and widths that PCIe does not have. -/
def illRegisters : List Instr :=
  [.stewardPegSet 0 0 ⟨8, (BitVec.ofNat 64 (2 ^ 56)), false⟩, .stewardPegAdd 0 0 ⟨8, 0, false⟩, .linkEnable .debug 0 0, .linkDisable .debug 0 1, .retrain .debug 0 0,
   .quarRelease .debug 0 0, .rackingWindowEnable .debug .A 0 0, .ringEnable .debug .A 0 0, .ringDisable .debug .A 0 1, .zeroise .debug 1,
   .attestationGo .debug 2, .rescueNext .debug 1, .rescueGo .debug 2 [], .passAbort 0 0x1234,
   .registerWrite .debug (.seat 0 0) 0 0, .registerWrite .debug (.bar4 0) 8 0, .registerWrite .debug (.msixControl 0) 2 0, .pcieLinkUp .A 0 16, .pcieLinkUp .A 3 5, .rateWidthChange .A 5 0]

theorem test_wf_refuses_words : illWords.all (fun i => !i.wf && isIll (exec i State.reset)) = true := by decide +kernel
theorem test_wf_refuses_entries : illEntries.all (fun i => !i.wf && isIll (exec i State.reset)) = true := by decide +kernel
theorem test_wf_refuses_frames : illFrames.all (fun i => !i.wf && isIll (exec i State.reset)) = true := by decide +kernel
theorem test_wf_refuses_registers : illRegisters.all (fun i => !i.wf && isIll (exec i State.reset)) = true := by decide +kernel

/-- A well-formed command of each of these kinds is taken. -/
theorem test_wf_takes : [Instr.nop 0 (opWord 0 0), .nop 0 (opWord 0 7), .mmw 0 (opWord 9 0), .null 0 (typeFrame 0), .sessionQuery .A 0 (opEntry 0x41),
    .intakeIllegalOpcode .A 0 (opEntry 0x50), .linkEnable .debug 0 1, .pcieLinkUp .A 5 16, .smbZeroise { addr := 0x5B }, .passAbort 0 0x2122].all
      (fun i => i.wf && !isIll (exec i State.reset)) = true := by decide +kernel

end Sys2Proof.Tests
end

section
/-! SUPPORT. No operation but the tick moves the local counter (R14): one lemma for each operation that the transfers of collectives call. -/

namespace Sys2Proof.Machine

open Sys2Proof

/-- A fold of steps that each leave the counter. -/
theorem foldl_time {α : Type} {f : State → α → State} (hf : ∀ s x, (f s x).time = s.time) (l : List α) (s : State) :
    (l.foldl f s).time = s.time := by
  induction l generalizing s with
  | nil => rfl
  | cons x l ih => rw [List.foldl_cons, ih, hf]

@[simp] theorem State.modSessions_time (s : State) (f : Tbl Session → Tbl Session) : (s.modSessions f).time = s.time := rfl
@[simp] theorem State.message_time (s : State) (p : Port) (fn vec : Nat) : (s.message p fn vec).time = s.time := by simp [State.message]

@[simp] theorem State.sendVector_time (s : State) (p : Port) (fn vec : Nat) : (s.sendVector p fn vec).time = s.time := by
  unfold State.sendVector; dsimp only; split_ifs <;> simp

@[simp] theorem State.logVector_time (s : State) (p : Port) (fn : Nat) : (s.logVector p fn).time = s.time := by
  unfold State.logVector; dsimp only; split_ifs <;> simp

@[simp] theorem State.writeLog_time (s : State) (r : Report) : (s.writeLog r).time = s.time := by
  unfold State.writeLog; dsimp only; split_ifs <;> simp

@[simp] theorem State.stopService_time (s : State) (code : Nat) : (s.stopService code).time = s.time := rfl

@[simp] theorem State.report_time (s : State) (r : Report) : (s.report r).time = s.time := by
  simp [State.report, apply_ite State.time]

@[simp] theorem State.writeHeader_time (s : State) (p vkey : Nat) : (s.writeHeader p vkey).time = s.time := by
  unfold State.writeHeader
  exact State.putMem_time s _ _
@[simp] theorem State.brokenPage_time (s : State) (p : Nat) : (s.brokenPage p).time = s.time := State.report_time s _
@[simp] theorem State.sweep_time (s : State) : s.sweep.time = s.time := rfl
@[simp] theorem State.drawEpoch_time (s : State) : s.drawEpoch.time = s.time := rfl
@[simp] theorem State.retireEpoch_time (s : State) (e : Nat) : (s.retireEpoch e).time = s.time := rfl

@[simp] theorem State.release_time (s : State) (p : Nat) : (s.release p).time = s.time := by
  unfold State.release; dsimp only; split_ifs <;> simp

theorem State.take_time {s t : State} {p : Nat} (h : s.take p = some t) : t.time = s.time := by
  unfold State.take at h; dsimp only at h
  split_ifs at h
  rw [← Option.some.inj h]; simp

@[simp] theorem State.pin_time (s : State) (p e : Nat) : (s.pin p e).time = s.time := by
  unfold State.pin; dsimp only; split_ifs <;> simp

@[simp] theorem State.removeNode_time (s : State) (p : Nat) : (s.removeNode p).time = s.time := by
  simp [State.removeNode, apply_ite State.time]

@[simp] theorem State.countLink_time (s : State) (l n : Nat) : (s.countLink l n).time = s.time := rfl

@[simp] theorem State.noteBytes_time (s : State) (f : TxFrame) : (s.noteBytes f).time = s.time := by
  unfold State.noteBytes; split <;> rfl

@[simp] theorem State.transmit_time (s : State) (l : Nat) (f : TxFrame) : (s.transmit l f).time = s.time := by simp [State.transmit]
@[simp] theorem State.repeatTx_time (s : State) (l : Nat) (f : TxFrame) : (s.repeatTx l f).time = s.time := by simp [State.repeatTx]

@[simp] theorem State.pump_time (l n : Nat) (s : State) : (State.pump l n s).time = s.time := by
  induction n generalizing s with
  | zero => rfl
  | succ n ih =>
    unfold State.pump; dsimp only
    repeat' split
    all_goals simp [ih]

@[simp] theorem State.sendNull_time (s : State) (l : Nat) : (s.sendNull l).time = s.time := by simp [State.sendNull]

@[simp] theorem State.sendQueued_time (s : State) (l : Nat) : (s.sendQueued l).time = s.time := by
  unfold State.sendQueued; dsimp only; split_ifs <;> simp

@[simp] theorem State.sendFor_time (s : State) (rid : Option Nat) (l type args : Nat) (payload : List Nat) :
    (s.sendFor rid l type args payload).time = s.time := by simp [State.sendFor]

@[simp] theorem State.sendFrame_time (s : State) (l type args : Nat) (payload : List Nat) : (s.sendFrame l type args payload).time = s.time :=
  State.sendFor_time s none l type args payload

@[simp] theorem State.sendWrites_time (s : State) (l window off : Nat) (bs : List Nat) : (s.sendWrites l window off bs).time = s.time :=
  foldl_time (fun _ _ => by simp) _ _

@[simp] theorem State.noteActivity_time (s : State) : s.noteActivity.time = s.time := rfl
@[simp] theorem State.ringVector_time (s : State) (p : Port) (n : Nat) : (s.ringVector p n).time = s.time := State.sendVector_time s p _ _

@[simp] theorem State.putRecord_time (s : State) (c : CompRec) : (s.putRecord c).time = s.time := by
  unfold State.putRecord; dsimp only; split_ifs <;> simp

@[simp] theorem State.record_time (s : State) (c : CompRec) : (s.record c).time = s.time := by
  unfold State.record; split_ifs <;> simp

@[simp] theorem State.adjust_time (s : State) (r : Req) (goal : Nat) : (s.adjust r goal).time = s.time := by
  unfold State.adjust; dsimp only; split_ifs <;> rfl

@[simp] theorem State.dropKicker_time (s : State) (k : Option Nat) : (s.dropKicker k).time = s.time := by cases k <;> rfl

@[simp] theorem State.releaseAll_time (ps : List Nat) (s : State) : (ps.foldl State.release s).time = s.time :=
  foldl_time State.release_time ps s

@[simp] theorem State.closeSess_time (s : State) (i : Nat) : (s.closeSess i).time = s.time := by
  unfold State.closeSess; dsimp only; split <;> simp

@[simp] theorem State.closeVat_time (s : State) (i : Nat) : (s.closeVat i).time = s.time := by
  unfold State.closeVat; dsimp only
  rw [State.modSess_time, State.releaseAll_time, foldl_time]
  intro s p; split_ifs <;> simp

theorem State.takeAll_time {s t : State} {ps : List Nat} (h : s.takeAll ps = some t) : t.time = s.time := by
  unfold State.takeAll at h
  induction ps generalizing s with
  | nil => rw [← Option.some.inj h]
  | cons p ps ih =>
    simp only [List.foldl_cons, Option.bind_some] at h
    cases hp : s.take p with
    | some u => rw [ih (hp ▸ h), State.take_time hp]
    | none =>
      rw [hp] at h
      have hnone : ∀ l : List Nat, l.foldl (fun (o : Option State) p => o.bind (fun s => s.take p)) none = none := by
        intro l; induction l <;> simp_all
      simp [hnone] at h

@[simp] theorem State.rackTag_time (s : State) (i : Nat) : (s.rackTag i).time = s.time := by
  unfold State.rackTag; dsimp only
  split_ifs
  · rw [State.modSess_time, foldl_time (fun _ _ => by simp), State.drawEpoch_time]
  · rfl

theorem State.startRack_time {s t : State} {i why : Nat} (h : s.startRack i why = some t) : t.time = s.time := by
  obtain ⟨u, hu, ht⟩ := Option.map_eq_some_iff.mp h
  rw [← ht, State.rackTag_time, State.modSess_time, State.takeAll_time hu]

@[simp] theorem State.finishReq_time (s : State) (r : Req) (code handle tail : Nat) : (s.finishReq r code handle tail).time = s.time := by
  unfold State.finishReq; dsimp only; split_ifs <;> simp

@[simp] theorem State.settleVat_time (s : State) (i : Nat) : (s.settleVat i).time = s.time := by
  unfold State.settleVat State.dropUnrack; dsimp only; split_ifs <;> simp

@[simp] theorem State.endReq_time (s : State) (r : Req) (code : Nat) (closeIt : Bool) : (s.endReq r code closeIt).time = s.time := by
  unfold State.endReq; dsimp only
  split_ifs
  · simp
  · simp
  · simp
  · simp
  · split
    · simp
    · next h => simp [State.startRack_time h]
  · simp

@[simp] theorem State.closeWith_time (s : State) (r : Req) (code : Nat) : (s.closeWith r code).time = s.time := by
  unfold State.closeWith; split_ifs <;> simp

@[simp] theorem State.dropShip_time (s : State) (x : Shipment) (ok : Bool) (reason : Option Nat) : (s.dropShip x ok reason).time = s.time := by
  unfold State.dropShip; dsimp only
  repeat' split
  all_goals simp

@[simp] theorem State.endShip_time (s : State) (x : Shipment) (code : Nat) (reason : Option Nat) : (s.endShip x code reason).time = s.time := by
  unfold State.endShip; dsimp only
  repeat' split
  all_goals simp

@[simp] theorem State.endSoon_time (s : State) (r : Req) (code : Nat) : (s.endSoon r code).time = s.time := by
  unfold State.endSoon
  repeat' split
  all_goals simp

@[simp] theorem State.owners_time (s : State) (a : Nat) : (s.owners a).2.time = s.time := by
  simp only [State.owners, apply_ite Prod.snd, apply_ite State.time]
  split_ifs
  · rfl
  · cases s.pageAt a with
    | some p => simp [apply_ite State.time]
    | none => cases s.weightsOf a <;> rfl

@[simp] theorem State.endOwners_time (s : State) (t : Option Nat) (rids : List Nat) (code : Nat) : (s.endOwners t rids code).time = s.time := by
  refine foldl_time (fun s rid => ?_) _ _
  repeat' split
  all_goals simp

@[simp] theorem State.linkPoison_time (s : State) (l a code : Nat) : (s.linkPoison l a code).time = s.time := by
  simp [State.linkPoison, apply_ite State.time]

theorem State.sendColls_time (s : State) : s.sendColls.time = s.time := by
  refine foldl_time (fun s x => ?_) _ _
  dsimp only
  repeat' split
  all_goals simp

end Sys2Proof.Machine
end

section
/-! SUPPORT. One SLOW cycle: what the suits count, what the power manager counts, and that nothing else changes. -/

namespace Sys2Proof.Machine

open Sys2Proof

/-! Suit-cycles (R131). -/

/-- What the nine counters of R131 but IDLE hold together. -/
def stallSum (t : Tbl (BitVec 64)) : BitVec 64 := ∑ k ∈ Finset.range 9, Tbl.get 0 k t

/-- Subtracting one after another is subtracting the sum. -/
theorem foldl_sub_eq (f : Nat → BitVec 64) (x : BitVec 64) (n : Nat) :
    (List.range n).foldl (fun y k => y - f k) x = x - ∑ k ∈ Finset.range n, f k := by
  induction n with
  | zero => simp
  | succ n ih => rw [List.range_succ, List.foldl_append, ih, Finset.sum_range_succ, ← sub_sub]; rfl

theorem CoreRegs.idle_eq (r : CoreRegs) (cycles : Nat) :
    r.idle cycles = BitVec.ofNat 64 (4 * (cycles - r.clearedAt)) - stallSum r.stall := foldl_sub_eq _ _ 9

/-- Adding to one of the nine counters adds to their sum. -/
theorem stallSum_add {k : Nat} (hk : k < 9) (x : BitVec 64) (t : Tbl (BitVec 64)) :
    stallSum (Tbl.set 0 k (Tbl.get 0 k t + x) t) = stallSum t + x := by
  have h : ∀ j, Tbl.get 0 j (Tbl.set 0 k (Tbl.get 0 k t + x) t) = Tbl.get 0 j t + if j = k then x else 0 := by
    intro j
    rw [Tbl.get_set]
    split_ifs with hj
    · rw [hj]
    · rw [add_zero]
  simp only [stallSum, h, Finset.sum_add_distrib]
  rw [Finset.sum_ite_eq', if_pos (Finset.mem_range.mpr hk)]

theorem splitCycles_sum (n : Nat) (l : List Nat) : (splitCycles n l).sum = n := by
  induction l generalizing n with
  | nil => simp [splitCycles]
  | cons q l ih => rw [splitCycles, List.sum_cons, ih]; omega

theorem splitCycles_length (n : Nat) (l : List Nat) : (splitCycles n l).length = l.length + 1 := by
  induction l generalizing n with
  | nil => rfl
  | cons q l ih => simp [splitCycles, ih]

/-- Counts added to consecutive counters from `i` on add their total to the sum. -/
theorem stallSum_foldl (l : List Nat) (i : Nat) (h : i + l.length ≤ 9) (t : Tbl (BitVec 64)) :
    stallSum ((l.zipIdx i).foldl (fun t x => Tbl.set 0 x.2 (Tbl.get 0 x.2 t + BitVec.ofNat 64 x.1) t) t)
      = stallSum t + BitVec.ofNat 64 l.sum := by
  induction l generalizing i t with
  | nil => simp
  | cons n l ih =>
    rw [List.length_cons] at h
    rw [List.zipIdx_cons, List.foldl_cons, ih (i + 1) (by omega), stallSum_add (by omega), List.sum_cons, BitVec.ofNat_add, add_assoc]

/-- All the suit-cycles counted go to the nine counters. -/
theorem CoreRegs.stallSum_countSuits (r : CoreRegs) (n : Nat) (l : List Nat) :
    stallSum (r.countSuits n l).stall = stallSum r.stall + BitVec.ofNat 64 n := by
  have hlen : (splitCycles n (suitCauses r.feed l)).length = 9 := by simp [splitCycles_length, suitCauses]
  exact (stallSum_foldl _ 0 (by omega) _).trans (by rw [splitCycles_sum])

/-- IDLE counts none of the cycles in which the nine counters count all four suits (R131). -/
theorem CoreRegs.idle_countSuits (r : CoreRegs) {cycles n : Nat} (l : List Nat) (h : r.clearedAt ≤ cycles) :
    (r.countSuits (4 * n) l).idle (cycles + n) = r.idle cycles := by
  have hc : 4 * (cycles + n - r.clearedAt) = 4 * (cycles - r.clearedAt) + 4 * n := by omega
  rw [CoreRegs.idle_eq, CoreRegs.idle_eq, CoreRegs.stallSum_countSuits]
  show BitVec.ofNat 64 (4 * (cycles + n - r.clearedAt)) - _ = _
  rw [hc, BitVec.ofNat_add, add_sub_add_right_eq_sub]

/-- Counting suit-cycles changes a core's counters alone. -/
theorem Core.countSuits_frame (k : Core) (n : Nat) (hold : Option Nat) (l : List Nat) :
    k.countSuits n hold l = { k with regs := { k.regs with stall := (k.countSuits n hold l).regs.stall } } := by
  unfold Core.countSuits
  split_ifs <;> rfl

theorem Core.countSuits_of_idle {k : Core} (h : k.run.active = false ∨ (k.run.stopped.isSome = true ∧ k.run.underWay = false))
    (n : Nat) (hold : Option Nat) (l : List Nat) : k.countSuits n hold l = k := by
  unfold Core.countSuits
  rw [if_neg]
  rcases h with ha | ⟨hs, hd⟩
  · simp [ha]
  · simp [hd, Option.isSome_iff_ne_none.mp hs]

theorem Core.idle_countSuits {k : Core} (ha : k.run.active = true) (hs : k.run.stopped = none) {cycles : Nat}
    (hc : k.regs.clearedAt ≤ cycles) (n : Nat) (hold : Option Nat) (l : List Nat) :
    (k.countSuits n hold l).regs.idle (cycles + n) = k.regs.idle cycles := by
  unfold Core.countSuits
  rw [if_pos (by simp [ha, hs])]
  exact CoreRegs.idle_countSuits _ _ hc

/-- An entry read from a table whose listed values are changed by a function that keeps the default. -/
theorem Tbl.get_map {α : Type} (d : α) (f : Nat → α → α) (k : Nat) (hd : f k d = d) (t : Tbl α) :
    Tbl.get d k (t.map (fun kv => (kv.1, f kv.1 kv.2))) = f k (Tbl.get d k t) := by
  induction t with
  | nil => exact hd.symm
  | cons x t ih =>
    obtain ⟨i, v⟩ := x
    by_cases hi : i = k
    · subst hi; simp [Tbl.get]
    · simp [Tbl.get, hi, ih]

/-! The clocks. -/

/-- A SLOW cycle never takes pulses back. -/
theorem Power.arrayCycles_le_tick (p : Power) (t : Nat) : p.arrayCycles ≤ (p.tick t).arrayCycles := by
  have h : (p.tick t).pulses32 = p.pulses32 + (array32 p.div8 - skip32 p.div8 p.level) := by
    unfold Power.tick
    dsimp only
    split_ifs <;> rfl
  unfold Power.arrayCycles
  rw [h]
  omega

/-- Marking a skipped pass changes a pass table at most. -/
theorem State.noteSkip_cases (s : State) : s.noteSkip = s ∨ ∃ t f, s.noteSkip = s.modTable t f := by
  unfold State.noteSkip
  split
  · split_ifs
    · exact .inr ⟨_, _, rfl⟩
    · exact .inl rfl
  · exact .inl rfl

theorem State.clocks_of_stopped {s : State} (h : s.clocked = false) : s.clocks = s := by
  unfold State.clocks
  exact if_neg (ne_true_of_eq_false h)

theorem State.clocks_pow {s : State} (h : s.clocked = true) : s.clocks.pow = s.pow.tick s.time := by
  unfold State.clocks
  rw [if_pos h]

/-- The clocks count in the power manager and the cores' counters, mark a skipped pass and count GATE_WAIT. -/
theorem State.clocks_frame {s : State} (h : s.clocked = true) :
    s.clocks = { s with
      pow := s.clocks.pow
      cores := s.clocks.cores
      sync := { s.noteSkip.sync with seq := { s.sync.seq with gateWait := s.clocks.sync.seq.gateWait } } } := by
  unfold State.clocks
  rw [if_pos h]
  rcases s.noteSkip_cases with hs | ⟨t, f, hs⟩
  · rw [hs]
  · rw [hs]; rfl

/-- Each listed core counts the ARRAY cycles that the power manager has counted. -/
theorem State.clocks_cores {s : State} (h : s.clocked = true) :
    s.clocks.cores = s.cores.map (fun kv => (kv.1,
      kv.2.countSuits (s.clocks.pow.arrayCycles - s.pow.arrayCycles) (s.noteSkip.suitHold kv.1) (Config.suitCycles kv.1 s.time))) := by
  rw [State.clocks_pow h]
  unfold State.clocks
  rw [if_pos h]
  rcases s.noteSkip_cases with hs | ⟨t, f, hs⟩
  · rw [hs]
  · rw [hs]; rfl

theorem State.clocks_core {s : State} (h : s.clocked = true) (c : Nat) :
    ∃ hold l, s.clocks.core c = (s.core c).countSuits (s.clocks.pow.arrayCycles - s.pow.arrayCycles) hold l :=
  ⟨s.noteSkip.suitHold c, Config.suitCycles c s.time, by
    rw [State.core, State.clocks_cores h]
    exact Tbl.get_map ({} : Core) (fun i (k : Core) => k.countSuits _ (s.noteSkip.suitHold i) (Config.suitCycles i s.time)) c
      (Core.countSuits_of_idle (.inl rfl) _ _ _) _⟩

theorem State.tick_of_aux {s : State} (h : s.board.aux = true) :
    s.tick = { (if s.alive then s.sendColls else s).clocks with time := (if s.alive then s.sendColls else s).time + 1 } := by
  rw [State.tick, if_pos h]

/-- The pulses of one SLOW cycle counted (R25, R349). -/
theorem Power.tick_between {p : Power} {t : Nat} (h : t % 2 = 0) :
    p.tick t = { p with
      boostTicks := p.boostTicks + (if p.div8 then 1 else 0), skipped32 := p.skipped32 + skip32 p.div8 p.level
      pulses32 := p.pulses32 + (array32 p.div8 - skip32 p.div8 p.level) } := by
  unfold Power.tick
  exact if_pos h

/-- At an alignment point the divider and the skip level asked for take effect, and a boost that is due begins (R26, R348, R354). -/
theorem Power.tick_align {p : Power} {t : Nat} (h : t % 2 = 1) :
    p.tick t = { p with
      boostTicks := p.boostTicks + (if p.div8 then 1 else 0), skipped32 := p.skipped32 + skip32 p.div8 p.level
      pulses32 := p.pulses32 + (array32 p.div8 - skip32 p.div8 p.level)
      boosting := p.boostReady (t + 1) || p.boosting
      boostPending := p.boostPending && !p.boostReady (t + 1), powerGoodAt := if p.boostReady (t + 1) then none else p.powerGoodAt
      div8 := p.boostReady (t + 1) || p.boosting, level := p.skip
      divAt := if p.div8 = (p.boostReady (t + 1) || p.boosting) then p.divAt else t + 1 } := by
  have hready : ∀ a b c, ({ p with boostTicks := a, skipped32 := b, pulses32 := c } : Power).boostReady (t + 1) = p.boostReady (t + 1) :=
    fun _ _ _ => rfl
  unfold Power.tick
  rw [if_neg (by omega)]
  dsimp only
  rw [hready]
  cases p.boostReady (t + 1) <;> simp <;> rfl

/-- Settles O6: the tick is the due transfers, then the clocks, then the counter; a core whose part runs counts all its suit-cycles under the nine
causes, so what is left for IDLE stays. -/
theorem tickCountsTime : Obligations.TickCountsTime := by
  unfold Obligations.TickCountsTime
  intro s u hu
  have htime : u.time = s.time := by
    rw [hu]; split_ifs
    · exact s.sendColls_time
    · rfl
  have htick : s.board.aux = true → s.tick = { u.clocks with time := u.time + 1 } := fun ha => hu ▸ State.tick_of_aux ha
  refine ⟨fun ha => ?_, fun ha => ?_, fun ha hc => ?_, fun ha hc => ⟨?_, ?_, ?_⟩⟩
  · rw [State.tick, if_neg (ne_true_of_eq_false ha)]
  · rw [htick ha, ← htime]
  · rw [htick ha, State.clocks_of_stopped hc]
  · rw [htick ha]
    exact congrArg (fun t : State => { t with time := u.time + 1 }) (State.clocks_frame hc)
  · have hpow : s.tick.pow = u.pow.tick u.time := by rw [htick ha]; exact State.clocks_pow hc
    rintro n m rfl rfl q rfl
    refine ⟨fun he => hpow.trans (Power.tick_between he), fun ho r b hr hb => ?_⟩
    subst hr hb
    exact hpow.trans (Power.tick_align ho)
  · intro c
    obtain ⟨hold, l, hcore⟩ := State.clocks_core hc c
    have hk : s.tick.core c = (u.core c).countSuits (u.clocks.pow.arrayCycles - u.pow.arrayCycles) hold l := by rw [htick ha]; exact hcore
    refine ⟨(s.tick.core c).regs.stall, ?_, fun hidle => ?_, fun hact hstop hclr => ?_⟩
    · rw [hk]; exact Core.countSuits_frame _ _ _ _
    · rw [hk, Core.countSuits_of_idle hidle]
    · have hle : u.pow.arrayCycles ≤ u.clocks.pow.arrayCycles := by rw [State.clocks_pow hc]; exact Power.arrayCycles_le_tick _ _
      have hpow : s.tick.pow = u.clocks.pow := by rw [htick ha]
      rw [hk, hpow, ← Nat.add_sub_of_le hle, Nat.add_sub_cancel_left]
      exact Core.idle_countSuits hact hstop hclr _ _ _

end Sys2Proof.Machine
end

section
/-! SUPPORT. A report changes the log and sends messages; a write to a closed ISW field is refused by such a report. The reset state. -/

namespace Sys2Proof.Machine

open Sys2Proof

/-! Log entries (R394, R395). -/

/-- `t` is `s` but for messages sent or pended: the ports' functions and what the device has sent. -/
def MessagesOnly (s t : State) : Prop :=
  t = { s with portA := { s.portA with funcs := t.portA.funcs }, portB := { s.portB with funcs := t.portB.funcs }, out := t.out }

theorem MessagesOnly.refl (s : State) : MessagesOnly s s := rfl

theorem MessagesOnly.trans {s t u : State} (h : MessagesOnly s t) (k : MessagesOnly t u) : MessagesOnly s u := by
  unfold MessagesOnly at h k ⊢
  rw [h] at k
  exact k

theorem MessagesOnly.modFunc (s : State) (p : Port) (fn : Nat) (f : Func → Func) : MessagesOnly s (s.modFunc p fn f) := by
  cases p <;> rfl

theorem MessagesOnly.emit (s : State) (o : Output) : MessagesOnly s (s.emit o) := rfl

theorem MessagesOnly.sendVector (s : State) (p : Port) (fn vec : Nat) : MessagesOnly s (s.sendVector p fn vec) := by
  unfold State.sendVector
  dsimp only
  split_ifs
  · exact .refl s
  · exact (MessagesOnly.modFunc s p fn _).trans (.emit _ _)
  · exact .modFunc s p fn _

theorem MessagesOnly.logVector (s : State) (p : Port) (fn : Nat) : MessagesOnly s (s.logVector p fn) := by
  unfold State.logVector
  dsimp only
  split_ifs
  · exact .refl s
  · exact .sendVector s p fn 0

/-- The log with one more entry. -/
def Integrity.append (g : Integrity) (e : LogEntry) : Integrity :=
  { g with log := Tbl.set {} (g.nextSeq % 1024) e g.log, nextSeq := (g.nextSeq + 1) % 2 ^ 32 }

/-- The log with one more event counted in its newest entry. -/
def Integrity.recount (g : Integrity) : Integrity :=
  { g with log := Tbl.upd {} ((g.nextSeq - 1) % 1024) (fun e => { e with count := satAdd 16 e.count 1 }) g.log }

/-- An entry written to the log sends messages and changes nothing else. -/
theorem State.writeLog_messages (s : State) (r : Report) :
    MessagesOnly (s.modInteg (fun g => g.append (r.entry s.time s.integ.nextSeq))) (s.writeLog r) := by
  have hone : ∀ (x : State) (p : Port), MessagesOnly x
      (if bit r.ports p.num then (if r.func = 0 then x.logVector p 0 else (x.logVector p 0).logVector p r.func) else x) := by
    intro x p
    split_ifs
    · exact .logVector x p 0
    · exact (MessagesOnly.logVector x p 0).trans (.logVector _ p r.func)
    · exact .refl x
  exact (hone _ .A).trans (hone _ .B)

/-- A report of an error that is not device-fatal: counted into the newest log entry where R394 merges them. -/
theorem State.report_of_merges {s : State} {r : Report} {x : LogEntry} (hc : codeClass r.code ≠ 3) (hx : s.integ.newest = some x)
    (hm : merges r s.time x = true) : s.report r = s.modInteg Integrity.recount := by
  unfold State.report
  simp only [hx, hm, if_neg hc, if_true]
  rfl

/-- Otherwise it is written to the log. -/
theorem State.report_of_new {s : State} {r : Report} (hc : codeClass r.code ≠ 3)
    (hn : ∀ x, s.integ.newest = some x → merges r s.time x = false) : s.report r = s.writeLog r := by
  unfold State.report
  cases hx : s.integ.newest with
  | none => simp only [if_neg hc, Bool.false_eq_true, if_false]
  | some x => simp only [hn x hx, if_neg hc, Bool.false_eq_true, if_false]

theorem MessagesOnly.integ_eq {s t : State} (h : MessagesOnly s t) : t.integ = s.integ := by
  unfold MessagesOnly at h
  rw [h]

theorem MessagesOnly.glob_eq {s t : State} (h : MessagesOnly s t) : t.glob = s.glob := by
  unfold MessagesOnly at h
  rw [h]

theorem State.report_integ_of_new {s : State} {r : Report} (hc : codeClass r.code ≠ 3)
    (hn : ∀ x, s.integ.newest = some x → merges r s.time x = false) :
    (s.report r).integ = s.integ.append (r.entry s.time s.integ.nextSeq) := by
  rw [State.report_of_new hc hn]
  exact (s.writeLog_messages r).integ_eq

theorem State.report_integ_of_merges {s : State} {r : Report} {x : LogEntry} (hc : codeClass r.code ≠ 3) (hx : s.integ.newest = some x)
    (hm : merges r s.time x = true) : (s.report r).integ = s.integ.recount := by
  rw [State.report_of_merges hc hx hm]
  rfl

/-- A report of an error that is not device-fatal changes the log and sends messages. -/
theorem State.report_messages {s : State} {r : Report} (hc : codeClass r.code ≠ 3) :
    MessagesOnly (s.modInteg (fun _ => (s.report r).integ)) (s.report r) := by
  by_cases h : ∃ x, s.integ.newest = some x ∧ merges r s.time x = true
  · obtain ⟨x, hx, hm⟩ := h
    rw [State.report_of_merges hc hx hm]
    exact .refl _
  · have hn : ∀ x, s.integ.newest = some x → merges r s.time x = false :=
      fun x hx => Bool.eq_false_iff.mpr fun hm => h ⟨x, hx, hm⟩
    rw [State.report_integ_of_new hc hn, State.report_of_new hc hn]
    exact s.writeLog_messages r

/-! ISW fields. -/

theorem bit_eq_testBit (v i : Nat) : bit v i = v.testBit i := by
  rw [bit, Nat.testBit, Nat.and_comm, Nat.and_one_is_mod]
  rcases Nat.mod_two_eq_zero_or_one (v >>> i) with h | h <;> rw [h] <;> rfl

/-- A mask that lacks a bit of a value does not keep the value. -/
theorem and_ne_of_bit {v m i : Nat} (hv : bit v i = true) (hm : bit m i = false) : v &&& m ≠ v := by
  intro h
  rw [bit_eq_testBit] at hv hm
  rw [← h, Nat.testBit_and, hm, Bool.and_false] at hv
  exact Bool.false_ne_true hv

/-- Only a register with ISW fields has an ISW bit to change. -/
theorem State.iswMask_ne_zero_of_change {s : State} {b : Blk} {o v i : Nat} (h : bit (s.iswChange b o v) i = true) : iswMask b o ≠ 0 := by
  intro h0
  rw [bit_eq_testBit, State.iswChange, h0, Nat.and_zero, Nat.zero_testBit] at h
  exact Bool.false_ne_true h

/-- No register with ISW fields is a port's own. -/
theorem ownPort_of_isw {b : Blk} {o : Nat} (h : iswMask b o ≠ 0) : ownPort b o = none := by
  cases b with
  | intake p => exact absurd rfl h
  | port p => exact absurd rfl h
  | _ => rfl

/-- A write that changes an ISW bit which the image does not open is refused with REASON 2 (R435). -/
theorem State.writeRefused_of_closed {s : State} {b : Blk} {o v i : Nat} (r : Requester) (hv : bit (s.iswChange b o v) i = true)
    (hm : bit (Tbl.get 0 (b.base + o) s.boot.opened).toNat i = false) : s.writeRefused r b o v = some (2, 0x0010) := by
  unfold State.writeRefused
  simp only [ownPort_of_isw (State.iswMask_ne_zero_of_change hv), Bool.false_eq_true, if_false]
  exact if_pos (and_ne_of_bit hv hm)

/-- A register with ISW fields reads nothing of the global block, the log, the ports or what the device has sent. -/
theorem State.readBlk_isw (s : State) {b : Blk} {o : Nat} (who : Nat) (h : iswMask b o ≠ 0) (g : Glob) (i : Integrity) (p q : PortSt)
    (x : List Output) :
    ({ s with glob := g, integ := i, portA := p, portB := q, out := x } : State).readBlk who b o = s.readBlk who b o := by
  cases b with
  | core c => rfl
  | page m => rfl
  | watchdog => rfl
  | link l => rfl
  | lglob => rfl
  | power => rfl
  | _ => exact absurd rfl h

/-- A write that reaches its register and is refused. -/
theorem exec_registerWrite_refused {r : Requester} {a : BitVec 26} {v : BitVec 64} {s : State} {b : Blk} {o reason code : Nat}
    (hr : s.reaches r = true) (ha : a.toNat % 8 = 0) (hb : blockOf a.toNat = some (b, o)) (ht : s.takesWrites b o = true)
    (hw : (s.touch b).writeRefused r b o v.toNat = some (reason, code)) :
    exec (.registerWrite r (.bar0 a) 8 v) s = .next ((s.touch b).refuseWrite r b o reason code) := by
  show Host.Outcome.next (s.sizedWrite r a.toNat 8 v.toNat) = _
  simp [State.sizedWrite, State.regWrite, hr, ha, hb, ht, hw]

/-- The global block after a refusal (R440): REG_REFUSE keeps the first, REFUSED counts it. -/
def Glob.refuse (g : Glob) (x : RegRefuse) : Glob :=
  { g with regRefuse := some (g.regRefuse.getD x), refused := satAdd 32 g.refused 1 }

/-- What a refusal reports (R322, R394, R435). -/
def State.refusal (s : State) (r : Requester) (off code : Nat) : Report :=
  { code := code, addr := regSpace + off, ports := match s.asPort r with | some p => 2 ^ p.num | none => 3 }

/-- A refusal of a register that is no port's own is noted, counted and reported. -/
theorem State.refuseWrite_of_shared {s : State} {r : Requester} {b : Blk} {o : Nat} (h : ownPort b o = none) (reason code : Nat) :
    s.refuseWrite r b o reason code =
      (s.modGlob (fun g => g.refuse { requester := r.code, reason := reason, offset := b.base + o })).report (s.refusal r (b.base + o) code) := by
  have hg : ((s.noteRefusal r reason (b.base + o)).modGlob (fun g => { g with refused := satAdd 32 g.refused 1 })) =
      s.modGlob (fun g => g.refuse { requester := r.code, reason := reason, offset := b.base + o }) := by
    unfold State.noteRefusal State.modGlob Glob.refuse
    dsimp only
    cases s.glob.regRefuse <;> rfl
  unfold State.refuseWrite
  simp only [h, hg]
  rfl

/-- Settles O57: the closed bit gives REASON 2, and a class 0 report touches the log and the ports' messages alone. -/
theorem iswWritesRefused : Obligations.IswWritesRefused := by
  unfold Obligations.IswWritesRefused
  rintro r a v s u b o hr ha hb ht rfl ⟨i, hv, hm⟩ e he
  replace he : e = (s.touch b).refusal r (b.base + o) 0x0010 := he
  have hmask : iswMask b o ≠ 0 := State.iswMask_ne_zero_of_change hv
  have hexec := exec_registerWrite_refused hr ha hb ht (State.writeRefused_of_closed r hv hm)
  rw [State.refuseWrite_of_shared (ownPort_of_isw hmask), ← he] at hexec
  have hc : codeClass e.code ≠ 3 := by rw [he]; exact (by decide : codeClass 0x0010 ≠ 3)
  generalize s.touch b = u at *
  generalize hw : u.modGlob _ = w at hexec
  have hmsg := State.report_messages (s := w) hc
  have hnew := State.report_integ_of_new (s := w) hc
  have hmerged := fun x => State.report_integ_of_merges (s := w) (x := x) hc
  subst hw
  refine ⟨_, hexec, ?_⟩
  generalize State.report _ e = t at *
  have hglob : t.glob = u.glob.refuse { requester := r.code, reason := 2, offset := b.base + o } := hmsg.glob_eq
  have hframe : t = { u with
      glob := t.glob, integ := t.integ, portA := { u.portA with funcs := t.portA.funcs }, portB := { u.portB with funcs := t.portB.funcs }
      out := t.out } := by
    rw [hglob]; exact hmsg
  refine ⟨hframe, hnew, hmerged, ?_, ?_, ?_, ?_, ?_⟩
  · rw [hglob]; rfl
  · rw [hglob]; rfl
  · intro h; rw [hglob, Glob.refuse, h]; rfl
  · intro h
    obtain ⟨x, hx⟩ := Option.ne_none_iff_exists'.mp h
    rw [hglob, Glob.refuse, hx]; rfl
  · rw [hframe, State.readBlk_isw u 7 hmask]

/-- Settles O5: the fields of `State.reset`, one by one. -/
theorem resetState : Obligations.ResetState := by
  unfold Obligations.ResetState
  refine ⟨rfl, rfl, reset_memCanon, rfl, fun _ => rfl, fun _ => rfl, fun p => ?_, rfl, rfl, rfl, rfl⟩
  cases p <;> exact ⟨rfl, rfl⟩

end Sys2Proof.Machine
end

section
/-! SUPPORT. What a report of any class leaves alone; a write to a peg from outside the cores: its effects, its refusals and its frame. -/

namespace Sys2Proof.Machine

open Sys2Proof

/-! Reports (R12, R13, R394, R395). -/

/-- `t` is `s` but for what a report may touch: the log, the global block, and messages sent or pended. -/
def LogOnly (s t : State) : Prop := MessagesOnly { s with integ := t.integ, glob := t.glob } t

theorem LogOnly.eq {s t : State} (h : LogOnly s t) : t = { s with
    integ := t.integ, glob := t.glob, portA := { s.portA with funcs := t.portA.funcs }, portB := { s.portB with funcs := t.portB.funcs }
    out := t.out } := h

/-- A report of any class changes the log, the global block and the messages alone; `State.report_messages` says more of one that is not
device-fatal. -/
theorem State.report_logOnly (s : State) (r : Report) : LogOnly s (s.report r) := by
  have hlog : LogOnly s (s.writeLog r) := by
    have h := s.writeLog_messages r
    unfold LogOnly
    rw [h.integ_eq, h.glob_eq]
    exact h
  have hstop : ∀ {t}, LogOnly s t → LogOnly s (t.stopService r.code) := by
    intro t h
    unfold LogOnly MessagesOnly at h ⊢
    rw [h]
    rfl
  unfold State.report
  dsimp only
  split_ifs
  · exact hstop rfl
  · exact hstop hlog
  · exact rfl
  · exact hlog

@[simp] theorem State.report_mem (s : State) (r : Report) : (s.report r).mem = s.mem := by rw [(s.report_logOnly r).eq]
@[simp] theorem State.report_cores (s : State) (r : Report) : (s.report r).cores = s.cores := by rw [(s.report_logOnly r).eq]
@[simp] theorem State.report_slots (s : State) (r : Report) : (s.report r).slots = s.slots := by rw [(s.report_logOnly r).eq]
@[simp] theorem State.report_sync (s : State) (r : Report) : (s.report r).sync = s.sync := by rw [(s.report_logOnly r).eq]
@[simp] theorem State.report_pages (s : State) (r : Report) : (s.report r).pages = s.pages := by rw [(s.report_logOnly r).eq]
@[simp] theorem State.report_serve (s : State) (r : Report) : (s.report r).serve = s.serve := by rw [(s.report_logOnly r).eq]
@[simp] theorem State.report_links (s : State) (r : Report) : (s.report r).links = s.links := by rw [(s.report_logOnly r).eq]
@[simp] theorem State.report_lglob (s : State) (r : Report) : (s.report r).lglob = s.lglob := by rw [(s.report_logOnly r).eq]
@[simp] theorem State.report_sec (s : State) (r : Report) : (s.report r).sec = s.sec := by rw [(s.report_logOnly r).eq]
@[simp] theorem State.report_pow (s : State) (r : Report) : (s.report r).pow = s.pow := by rw [(s.report_logOnly r).eq]
@[simp] theorem State.report_boot (s : State) (r : Report) : (s.report r).boot = s.boot := by rw [(s.report_logOnly r).eq]
@[simp] theorem State.report_board (s : State) (r : Report) : (s.report r).board = s.board := by rw [(s.report_logOnly r).eq]
@[simp] theorem State.report_pending (s : State) (r : Report) : (s.report r).pending = s.pending := by rw [(s.report_logOnly r).eq]

/-! What peg operations and aborts leave alone. -/

/-- `t` is `s` but for the cores, the synchronisation state, and what a report may touch. -/
def SyncOnly (s t : State) : Prop := LogOnly { s with cores := t.cores, sync := t.sync } t

theorem SyncOnly.refl (s : State) : SyncOnly s s := rfl

theorem SyncOnly.trans {s t u : State} (h : SyncOnly s t) (k : SyncOnly t u) : SyncOnly s u := by
  unfold SyncOnly LogOnly MessagesOnly at h k ⊢
  rw [h] at k
  exact k

theorem SyncOnly.foldl {α : Type} {f : State → α → State} (hf : ∀ s x, SyncOnly s (f s x)) (l : List α) (s : State) :
    SyncOnly s (l.foldl f s) := by
  induction l generalizing s with
  | nil => exact .refl s
  | cons x l ih => exact (hf s x).trans (ih (f s x))

theorem SyncOnly.report (s : State) (r : Report) : SyncOnly s (s.report r) := by
  have h := s.report_logOnly r
  unfold SyncOnly
  rw [s.report_cores, s.report_sync]
  exact h

theorem SyncOnly.modCore (s : State) (c : Nat) (f : Core → Core) : SyncOnly s (s.modCore c f) := rfl

theorem SyncOnly.modSync (s : State) (f : Sync → Sync) : SyncOnly s (s.modSync f) := rfl

theorem SyncOnly.count (s : State) (f : Counters → Counters) : SyncOnly s (s.count f) := rfl

theorem SyncOnly.setPeg (s : State) (h : Home) (p : Nat) (v : Peg) : SyncOnly s (s.setPeg h p v) := by
  cases h with
  | core c => exact .modCore s c _
  | coll => exact .modSync s _

theorem SyncOnly.testOwn (s : State) (c p : Nat) : SyncOnly s (s.testOwn c p) := by
  unfold State.testOwn
  split
  · dsimp only
    split_ifs
    · exact .refl s
    · exact (SyncOnly.setPeg s _ p _).trans (.modCore _ c _)
    · exact .refl s
    · exact .modCore s c _
    · exact .refl s
  · exact .refl s

theorem SyncOnly.pegOp (s : State) (h : Home) (p src : Nat) (op : PegOp) : SyncOnly s (s.pegOp h p src op) := by
  unfold State.pegOp
  generalize (s.peg h p).apply op = x
  obtain ⟨v, clamp⟩ := x
  dsimp only
  refine (SyncOnly.setPeg s h p v).trans ?_
  generalize s.setPeg h p v = u
  cases h with
  | core c =>
    cases clamp with
    | none => exact .testOwn u c p
    | some low => exact (SyncOnly.modCore u c _).trans (.testOwn _ c p)
  | coll =>
    cases clamp with
    | none => exact .modSync u _
    | some low => exact (SyncOnly.modSync u _).trans (.modSync _ _)

theorem SyncOnly.abortPass (s : State) (t code : Nat) : SyncOnly s (s.abortPass t code) := by
  have htold : ∀ (l : List Nat) (u : State), SyncOnly u (l.foldl (fun u c => u.modRun c (CoreRun.abort t)) u) :=
    .foldl fun u c => .modCore u c _
  unfold State.abortPass
  dsimp only
  split_ifs
  · exact .refl s
  · exact (((SyncOnly.modSync s _).trans (htold _ _)).trans (.modSync _ _)).trans (.count _ _)
  · exact ((SyncOnly.modSync s _).trans (htold _ _)).trans (.count _ _)

theorem SyncOnly.abortLogged (s : State) (t : Nat) (r : Report) : SyncOnly s (s.abortLogged t r) := by
  unfold State.abortLogged
  split_ifs
  · exact .refl s
  · exact (SyncOnly.abortPass s t r.code).trans (.report _ _)

/-! Writes to a peg from outside the cores (R260, R270). -/

/-- The table of the running pass, and what it shows. -/
theorem State.running_some {s : State} {k : Nat} {x : PassTable} (h : s.running = some (k, x)) : x = s.table k ∧ x.state = .running := by
  obtain ⟨j, hj, he⟩ := Option.map_eq_some_iff.mp h
  obtain ⟨rfl, rfl⟩ := Prod.mk.inj he
  exact ⟨rfl, by simpa using List.find?_some hj⟩

/-- The abort of the running pass is logged with its tag and the requests that it ends. -/
theorem State.abortLogged_running {s : State} {k : Nat} {x : PassTable} (h : s.running = some (k, x)) (r : Report) :
    s.abortLogged k r = (s.abortPass k r.code).report { r with detail := x.tag, reqs := x.endedBy r.code } := by
  obtain ⟨rfl, hx⟩ := State.running_some h
  have hab : (s.table k).abortable = true := by simp [PassTable.abortable, hx]
  simp [State.abortLogged, hab]

section PegAccess

variable {s : State} {src bytes addr data p : Nat} {r : Report} {h : Home}

/-- A legal SET or ADD acts at the peg's home. -/
theorem State.pegAccess_legal (hp : pegAt addr = some (h, p)) (hz : fld data 59 5 = 0) (ho : fld data 24 32 = 0) (hop : fld data 56 3 ≤ 1)
    (hb : h = .coll → (s.peg .coll p).barrier = false) :
    s.pegAccess src 8 addr data r = s.pegOp h p src (if fld data 56 3 = 0 then .set (fld data 0 24) else .add (signed 24 (fld data 0 24))) := by
  have hno : ¬ (h = .coll ∧ (s.peg .coll p).barrier = true) := fun ⟨hh, ht⟩ => Bool.false_ne_true ((hb hh).symm.trans ht)
  simp [State.pegAccess, hp, hz, ho, hop, hno]

/-- A write of another size, with another OP or a set reserved bit, or where no peg lies, is R30's device-fatal error. -/
theorem State.pegAccess_refused
    (hr : bytes ≠ 8 ∨ pegAt addr = none ∨ fld data 59 5 ≠ 0 ∨ fld data 24 32 ≠ 0 ∨ 2 ≤ fld data 56 3) :
    s.pegAccess src bytes addr data r = s.report { r with code := 0x3001 } := by
  cases hp : pegAt addr with
  | none => simp [State.pegAccess, hp]
  | some x =>
    have hill : ¬ (bytes = 8 ∧ fld data 59 5 = 0 ∧ fld data 24 32 = 0 ∧ fld data 56 3 ≤ 1) := by
      rintro ⟨h8, hz, ho, hop⟩
      rcases hr with hr | hr | hr | hr | hr
      · exact hr h8
      · exact absurd (hp.symm.trans hr) (Option.some_ne_none x)
      · exact hr hz
      · exact hr ho
      · omega
    simp [State.pegAccess, hp, hill]

/-- A legal SET or ADD of a barrier's arrival peg is misuse, of the running pass where there is one. -/
theorem State.pegAccess_misuse (hp : pegAt addr = some (.coll, p)) (hz : fld data 59 5 = 0) (ho : fld data 24 32 = 0) (hop : fld data 56 3 ≤ 1)
    (hb : (s.peg .coll p).barrier = true) :
    (s.running = none → s.pegAccess src 8 addr data r = s.report { r with code := 0x2731 }) ∧
    ∀ k x, s.running = some (k, x) → s.pegAccess src 8 addr data r = s.abortLogged k { r with code := 0x2731 } := by
  constructor
  · intro hn; simp [State.pegAccess, hp, hz, ho, hop, hb, hn]
  · intro k x hk; simp [State.pegAccess, hp, hz, ho, hop, hb, hk]

/-- Whatever becomes of the write, it stays within the cores, the synchronisation state and a report. -/
theorem SyncOnly.pegAccess (s : State) (src bytes addr data : Nat) (r : Report) : SyncOnly s (s.pegAccess src bytes addr data r) := by
  unfold State.pegAccess
  dsimp only
  split
  · split_ifs
    · split
      · exact .abortLogged s _ _
      · exact .report s _
    all_goals exact .pegOp s _ _ _ _
  · exact .report s _

end PegAccess

/-- What a steward's write reports when it is refused. -/
def stewardReport (n : Fin 4) (addr : BitVec 48) : Report := { code := 0, addr := addr.toNat, kind := .steward, unit := n.val }

theorem stewardPegSet_wf_iff {n : Fin 4} {addr : BitVec 48} {x : PegStore} :
    (Instr.stewardPegSet n addr x).wf = true ↔ fld x.data.toNat 56 3 ≠ 1 := decide_eq_true_iff

theorem stewardPegAdd_wf_iff {n : Fin 4} {addr : BitVec 48} {x : PegStore} :
    (Instr.stewardPegAdd n addr x).wf = true ↔ fld x.data.toNat 56 3 ≠ 0 := decide_eq_true_iff

/-- A steward's well-formed write of either command is one access to a peg (R260). -/
theorem exec_stewardPegWrite {n : Fin 4} {addr : BitVec 48} {bytes : Nat} {data : BitVec 64} {s : State} {i : Instr} (ha : s.alive = true)
    (hi : i ∈ [Instr.stewardPegSet n addr ⟨bytes, data, false⟩, .stewardPegAdd n addr ⟨bytes, data, false⟩]) (hw : i.wf = true) :
    exec i s = .next (s.pegAccess (64 + n.val) bytes addr.toNat data.toNat (stewardReport n addr)) := by
  have hacc : s.stewardAccess n addr.toNat ⟨bytes, data, false⟩ = s.pegAccess (64 + n.val) bytes addr.toNat data.toNat (stewardReport n addr) := by
    simp [State.stewardAccess, State.stewardPeg, ha, stewardReport]
  simp only [List.mem_cons, List.not_mem_nil, or_false] at hi
  rcases hi with rfl | rfl
  · have hop := stewardPegSet_wf_iff.mp hw
    show execStewardPegSet n addr ⟨bytes, data, false⟩ s = _
    rw [execStewardPegSet, if_neg hop, hacc]
  · have hop := stewardPegAdd_wf_iff.mp hw
    show execStewardPegAdd n addr ⟨bytes, data, false⟩ s = _
    rw [execStewardPegAdd, if_neg hop, hacc]

/-- Settles O16: each clause is a case of `State.pegAccess`, and the frame is `SyncOnly.pegAccess`. -/
theorem stewardPegAccesses : Obligations.StewardPegAccesses := by
  unfold Obligations.StewardPegAccesses
  rintro n addr bytes data s t r ha rfl
  refine ⟨fun h p hp hz ho hb => ⟨fun hop => ?_, fun hop => ?_⟩, fun i hi hw => ⟨fun hr => ?_, ?_, fun ht => ?_⟩⟩
  · rw [exec_stewardPegWrite ha (.head _) (stewardPegSet_wf_iff.mpr (by simp [hop])), State.pegAccess_legal hp hz ho (by omega) hb, if_pos hop]
  · rw [exec_stewardPegWrite ha (.tail _ (.head _)) (stewardPegAdd_wf_iff.mpr (by simp [hop])), State.pegAccess_legal hp hz ho (by omega) hb,
      if_neg (by omega)]
  · rw [exec_stewardPegWrite ha hi hw, State.pegAccess_refused hr]
    rfl
  · rintro p rfl hp hz ho hop hb
    obtain ⟨hidle, hrun⟩ := State.pegAccess_misuse (src := 64 + n.val) (r := stewardReport n addr) hp hz ho hop hb
    refine ⟨fun hn => ?_, fun k x hk => ?_⟩
    · rw [exec_stewardPegWrite ha hi hw, hidle hn]
      rfl
    · rw [exec_stewardPegWrite ha hi hw, hrun k x hk, State.abortLogged_running hk]
      rfl
  · rw [exec_stewardPegWrite ha hi hw] at ht
    obtain rfl := Host.Outcome.next.inj ht
    have hframe := SyncOnly.pegAccess s (64 + n.val) bytes addr.toNat data.toNat (stewardReport n addr)
    rw [hframe.eq]
    exact ⟨rfl, rfl, rfl, rfl, rfl, rfl, rfl⟩

end Sys2Proof.Machine
end

section
/-! SUPPORT. The power manager's protections, one command at a time: temperatures, coolant, the regulators' alert, the root clock. -/

namespace Sys2Proof.Machine

open Sys2Proof

theorem State.modPow_congr {s : State} {f g : Power → Power} (h : f s.pow = g s.pow) : s.modPow f = s.modPow g := by
  simp only [State.modPow, h]

theorem State.modPow_eq_self {s : State} {f : Power → Power} (h : f s.pow = s.pow) : s.modPow f = s := by
  simp only [State.modPow, h]

/-! A thermal trip of a module TRIPPED already (R356, R358, R460). -/

@[simp] theorem State.logTripFirst_pow (s : State) : s.logTripFirst.pow = s.pow := by
  unfold State.logTripFirst
  dsimp only
  rw [State.report_pow, State.modGlob_pow, State.modInteg_pow]

/-- After the SLOW cycle of the trip it asserts THERM_TRIP# and is logged, once. -/
theorem State.thermalAgain_later {s : State} (cause : Nat) (h : s.pow.tripAt ≠ s.time) :
    s.thermalAgain cause = if s.pow.thermTrip then s else (s.report { code := 0x3A30 }).modPow (fun p => { p with thermTrip := true }) := by
  unfold State.thermalAgain
  dsimp only
  simp only [h, false_and, if_false]
  split_ifs with ht
  · refine State.modPow_eq_self ?_
    rw [← ht]
  · rfl

/-- In that cycle TRIP_CAUSE keeps the lowest cause as well. -/
theorem State.thermalAgain_now_pow {s : State} (cause : Nat) (h : s.pow.tripAt = s.time) :
    (s.thermalAgain cause).pow = { s.pow with thermTrip := true, tripCause := min s.pow.tripCause cause } := by
  unfold State.thermalAgain
  dsimp only
  rw [State.modPow_pow, if_pos h]
  split_ifs <;> simp

theorem State.thermalAgain_integ {s : State} (cause : Nat) (h : s.pow.thermTrip = true) : (s.thermalAgain cause).integ = s.integ := by
  unfold State.thermalAgain
  simp only [h, if_true, State.modPow_integ]

/-! TEMPERATURE_READING (R356). -/

section TemperatureReading

variable {ts : List Nat} {s : State}

theorem exec_temperatureReading_tripped (h : s.pow.mstate = .tripped) :
    exec (.temperatureReading ts) s = .next (if 115 ≤ ts.foldl max 0 then s.thermalAgain 1 else s) := by
  show execTemperatureReading ts s = _
  simp [execTemperatureReading, h]

theorem exec_temperatureReading_standby (h : s.pow.mstate = .standby) :
    exec (.temperatureReading ts) s = .next (if 115 ≤ ts.foldl max 0 then s.thermalTrip 1 else s) := by
  show execTemperatureReading ts s = _
  simp [execTemperatureReading, h]

/-- The state after the readings are noted. -/
def State.noteTemps (s : State) (ts : List Nat) : State := s.modPow (fun p => { p with tjMax := min (ts.foldl max 0) 255, temps := ts })

variable (hs : s.pow.mstate ≠ .standby) (ht : s.pow.mstate ≠ .tripped)
include hs ht

theorem exec_temperatureReading_trips (h : 115 ≤ ts.foldl max 0) :
    exec (.temperatureReading ts) s = .next (((s.noteTemps ts).modPow (fun p => p.hot (ts.foldl max 0))).thermalTrip 1) := by
  show execTemperatureReading ts s = _
  simp [execTemperatureReading, State.noteTemps, hs, ht, h]

theorem exec_temperatureReading_throttles (h : 100 ≤ ts.foldl max 0) (hlt : ts.foldl max 0 < 115) :
    let v := (s.noteTemps ts).modPow (fun p => p.hot (ts.foldl max 0))
    exec (.temperatureReading ts) s = .next (if 105 ≤ ts.foldl max 0 ∧ s.pow.hot105 = false then v.report { code := 0x1A23 }
      else if s.pow.throttle then v else v.report { code := 0x0A10 }) := by
  show execTemperatureReading ts s = _
  simp [execTemperatureReading, State.noteTemps, hs, ht, h, Nat.not_le.mpr hlt]

theorem exec_temperatureReading_holds (h : 97 ≤ ts.foldl max 0) (hlt : ts.foldl max 0 < 100) :
    exec (.temperatureReading ts) s = .next ((s.noteTemps ts).modPow (fun p => { p with hot105 := false })) := by
  have h115 : ¬ 115 ≤ ts.foldl max 0 := by omega
  show execTemperatureReading ts s = _
  simp [execTemperatureReading, State.noteTemps, hs, ht, h, Nat.not_le.mpr hlt, h115]

theorem exec_temperatureReading_cools (hlt : ts.foldl max 0 < 97) :
    exec (.temperatureReading ts) s = .next ((s.noteTemps ts).modPow (fun p =>
      let v := if s.pow.hbmHot then max 8 (s.pow.sTherm - 1) else s.pow.sTherm - 1
      { p with hot105 := false, sTherm := v, throttle := p.throttle && decide (0 < v) })) := by
  have h115 : ¬ 115 ≤ ts.foldl max 0 := by omega
  have h100 : ¬ 100 ≤ ts.foldl max 0 := by omega
  show execTemperatureReading ts s = _
  simp [execTemperatureReading, State.noteTemps, hs, ht, Nat.not_le.mpr hlt, h115, h100]

end TemperatureReading

/-- HBM_TEMPERATURE_READING of a powered module (R356). -/
theorem exec_hbmTemperatureReading {ts : List Nat} {s : State} (hs : s.pow.mstate ≠ .standby) (ht : s.pow.mstate ≠ .tripped) :
    let m := ts.foldl max 0
    let u := s.modPow (fun p => { p with
      thbmMax := min m 255, hbmHot := decide (95 ≤ m), sTherm := if 95 ≤ m then max 8 p.sTherm else p.sTherm
      refresh2 := BitVec.ofNat 6 (maskOf ((List.range 6).filter (fun i => decide (85 ≤ ts.getD i 0)))) })
    exec (.hbmTemperatureReading ts) s = .next (if 105 ≤ m then u.thermalTrip 2 else u) := by
  show execHbmTemperatureReading ts s = _
  simp only [execHbmTemperatureReading, if_neg hs, if_neg ht]

/-! Coolant (R358). -/

section Coolant

variable {s : State} {c : Nat}

theorem exec_coolantOkFall (h : s.pow.coolantOk = true) :
    exec .coolantOkFall s = .next (s.modPow (fun p => { p with coolantOk := false, coolantLowAt := some s.time })) :=
  congrArg Host.Outcome.next (State.modPow_congr (if_pos h))

theorem exec_coolantOkRise_of_ok (h : s.pow.coolantOk = true) : exec .coolantOkRise s = .next s := by
  show execCoolantOkRise s = _
  simp [execCoolantOkRise, h]

/-- A rise ends the low, which is counted where it was short, and a boot in COOLANT_WAIT goes on (R421). -/
theorem exec_coolantOkRise (h : s.pow.coolantOk = false) (hl : s.pow.coolantLowAt = some c) :
    let u := s.modPow (fun p => { p with
      coolantOk := true, coolantLowAt := none
      glitches := if decide (s.time < c + 10000) && s.board.aux then satAdd 16 p.glitches 1 else p.glitches })
    exec .coolantOkRise s = .next (if s.boot.stage = 6 then u.powerUp u.boot.badSlots else u) := by
  show execCoolantOkRise s = _
  simp only [execCoolantOkRise, h, hl, Bool.false_eq_true, if_false]
  rfl

theorem exec_coolantStop_early (hl : s.pow.coolantLowAt = some c) (hlt : s.time < c + 10000) : exec .coolantStop s = .next s := by
  show execCoolantStop s = _
  simp [execCoolantStop, hl, hlt]

/-- A low of 100 µs stops once: a trip of a powered module, a further cause in one that is TRIPPED. -/
theorem exec_coolantStop (h : s.pow.coolantOk = false) (hl : s.pow.coolantLowAt = some c) (hle : c + 10000 ≤ s.time) :
    let u := s.modPow (fun p => { p with coolantLowAt := none })
    exec .coolantStop s = .next (if s.pow.mstate = .tripped then u.tripTogether 3 { code := 0x3A31 }
      else if s.pow.dom 32 = .off then s else u.trip 3 { code := 0x3A31 }) := by
  show execCoolantStop s = _
  simp only [execCoolantStop, h, hl, Nat.not_lt.mpr hle, decide_false, Bool.or_false, Bool.false_eq_true, if_false, beq_iff_eq]
  split_ifs <;> rfl

end Coolant

/-! The regulators' alert (R359). -/

section Regulators

variable {st : List VrFinding} {s : State} (hr : s.pow.vrRead = true)
include hr

theorem exec_vrStatusRead_tripped (ht : s.pow.mstate = .tripped) :
    let w := s.modPow (fun p => { p with vrRead := false })
    exec (.vrStatusRead st) s = .next (if .fault ∈ st then w.tripTogether 4 { code := 0x3A32 } else w) := by
  show execVrStatusRead st s = _
  simp [execVrStatusRead, hr, ht]

theorem exec_vrStatusRead_powered (ht : s.pow.mstate ≠ .tripped) (hd : s.pow.dom 32 ≠ .off) :
    let w := s.modPow (fun p => { p with vrRead := false })
    let fall := fun (p : Power) => { p with fallback := true, fallbacks := if p.fallback then p.fallbacks else satAdd 16 p.fallbacks 1 }
    exec (.vrStatusRead st) s = .next (if .fault ∈ st then w.trip 4 { code := 0x3A32 }
      else if .silent ∈ st then (w.modPow (fun p => { fall p with fallbackHeld := true })).report { code := 0x1A22 }
      else (w.modPow (fun p => { fall p with sAlert := 0 })).report { code := 0x1A20 }) := by
  show execVrStatusRead st s = _
  simp only [execVrStatusRead, hr, State.modPow_pow, if_neg ht, List.contains_iff_mem, Bool.not_true, Bool.false_or, beq_eq_false_iff_ne.mpr hd,
    Bool.false_and, Bool.false_eq_true, if_false]
  split_ifs <;> rfl

end Regulators

theorem exec_fallbackWindowExpiry {s : State} {t : Nat} (he : s.pow.alertEndAt = some t) (ha : s.pow.vrAlert = false)
    (hh : s.pow.fallbackHeld = false) (hle : t + 100000000 ≤ s.time) :
    exec .fallbackWindowExpiry s = .next (s.modPow (fun p => { p with fallback := false, alertEndAt := none })) := by
  show execFallbackWindowExpiry s = _
  simp [execFallbackWindowExpiry, he, ha, hh, hle]

/-! The loss of the root clock (R27). -/

theorem exec_rootPllLoss (s : State) : exec .rootPllLoss s = .next (if s.pow.mstate = .tripped then s.tripTogether 5 { code := 0x3D20 }
    else if s.pow.mstate = .standby then s else s.trip 5 { code := 0x3D20 }) := by
  show execRootPllLoss s = _
  simp only [execRootPllLoss]
  split_ifs <;> rfl

/-- Settles O45: one lemma of this file for each command and state of the module. -/
theorem thermalProtection : Obligations.ThermalProtection := by
  unfold Obligations.ThermalProtection
  refine ⟨?junction, ?stack, ?coolant, ?supply⟩
  case junction =>
    rintro ts s u tj rfl
    refine ⟨fun ht => ⟨fun hlt => ?_, fun hle hne => ?_, fun hle heq => ?_⟩, fun hs => exec_temperatureReading_standby hs, ?_⟩
    · rw [exec_temperatureReading_tripped ht, if_neg (by omega)]
    · rw [exec_temperatureReading_tripped ht, if_pos hle, State.thermalAgain_later 1 hne]
    · exact ⟨_, by rw [exec_temperatureReading_tripped ht, if_pos hle], State.thermalAgain_now_pow 1 heq, State.thermalAgain_integ 1⟩
    · rintro hs ht rfl
      refine ⟨?_, exec_temperatureReading_holds hs ht, ?_⟩
      · rintro h100 v rfl
        refine ⟨exec_temperatureReading_trips hs ht, fun h105 hlt hnew => ?_, fun hold hlt => ?_⟩
        · rw [exec_temperatureReading_throttles hs ht h100 hlt, if_pos ⟨h105, hnew⟩]
          rfl
        · have hno : ¬ (105 ≤ ts.foldl max 0 ∧ s.pow.hot105 = false) := by
            rintro ⟨h105, hf⟩
            rcases hold with hlt105 | ht105
            · omega
            · exact Bool.false_ne_true (hf.symm.trans ht105)
          rw [exec_temperatureReading_throttles hs ht h100 hlt, if_neg hno]
          rfl
      · rintro v rfl hlt
        exact exec_temperatureReading_cools hs ht hlt
  case stack =>
    rintro ts s u m rfl hs ht rfl
    rw [exec_hbmTemperatureReading hs ht]
    exact ⟨fun h => by rw [if_pos h], fun h => by rw [if_neg (by omega)]⟩
  case coolant =>
    intro s u short
    refine ⟨fun hok => ⟨exec_coolantOkFall hok, exec_coolantOkRise_of_ok hok⟩, fun c hlow hc => ⟨?_, exec_coolantStop_early hc, ?_⟩⟩
    · rintro hle w rfl
      rw [exec_coolantStop hlow hc hle]
      refine ⟨fun ht hd => ?_, fun ht => ?_⟩
      · rw [if_neg ht, if_neg hd]
      · rw [if_pos ht]
        rfl
    · rintro rfl rfl
      rw [exec_coolantOkRise hlow hc]
      exact ⟨fun h => by rw [if_neg h], fun h => by rw [if_pos h]⟩
  case supply =>
    intro s
    refine ⟨rfl, rfl, ?_, ?_, fun t => exec_fallbackWindowExpiry, fun hs ht => ?_, fun ht => ?_⟩
    · rintro st w hr ht rfl
      rw [exec_vrStatusRead_tripped hr ht]
      rw [ite_and]
      rfl
    · rintro st hr ht hd u v rfl rfl
      rw [exec_vrStatusRead_powered hr ht hd]
      refine ⟨fun hf => ?_, fun hf hq => ?_, fun hf hq => ?_⟩
      · rw [if_pos hf]
      · rw [if_neg hf, if_pos hq]
        rfl
      · rw [if_neg hf, if_neg hq]
        rfl
    · rw [exec_rootPllLoss, if_neg ht, if_neg hs]
    · rw [exec_rootPllLoss, if_pos ht]
      rfl

end Sys2Proof.Machine
end

section
/-! SUPPORT. The PCIe events that bring a port up or change one of its functions, one command at a time, and what they leave alone. -/

namespace Sys2Proof.Machine

open Sys2Proof

/-! The link of a port (R28, R317, R318, R334, R343). -/

theorem exec_perstDeassert (p : Port) (s : State) :
    let u := s.modPort p (fun q => { q with perst := false })
    exec (.perstDeassert p) s = .next (if u.powered then (u.modPow (fun w => w.setDoms [portDom p] .on)).trainPort p else u) := by
  show execPerstDeassert p s = _
  simp only [execPerstDeassert]
  split_ifs <;> rfl

theorem exec_refclkDetect (p : Port) (s : State) :
    let u := s.modPort p (fun q => { q with refclkOk := true })
    exec (.refclkDetect p) s = .next (if u.powered then u.trainPort p else u) := rfl

/-- A port with power and a clock whose PERST is deasserted comes up; a rate or width below the highest is reported. -/
theorem exec_pcieLinkUp {p : Port} {g : Fin 6} {w : Fin 17} {s : State} (hf : rateFits g w = true) (hp : s.powered = true)
    (hr : (s.port p).perst = false) (hc : (s.port p).clocked = true) (hl : (s.port p).link ≠ .up) :
    let u := s.modPort p (fun q => { q with link := .up, speed := g, width := w, ready := s.booted })
    exec (.pcieLinkUp p g w) s = .next (if g.val < 5 ∨ w.val < 16
      then u.report { code := 0x0911, kind := .port, unit := p.num, ports := 2 ^ p.num } else u) := by
  show execPcieLinkUp p g w s = _
  simp [execPcieLinkUp, hf, hp, hr, hc, hl]

theorem exec_rateWidthChange {g : Fin 6} {w : Fin 17} (hf : rateFits g w = true) (p : Port) (s : State) :
    exec (.rateWidthChange p g w) s = .next (s.modPort p (fun q => if q.link = .up then { q with speed := g, width := w } else q)) := by
  show execRateWidthChange p g w s = _
  simp [execRateWidthChange, hf]

theorem exec_aspmL1Entry {p : Port} {s : State} (h : (s.port p).link = .up) :
    exec (.aspmL1Entry p) s = .next ((s.modPort p (fun q => { q with l1 := true })).modPow (fun w => w.setDoms [portDom p] .low)) := by
  show execAspmL1Entry p s = _
  simp [execAspmL1Entry, h]

theorem exec_aspmL1Exit {p : Port} {s : State} (h : (s.port p).l1 = true) :
    exec (.aspmL1Exit p) s = .next ((s.modPort p (fun q => { q with l1 := false })).modPow (fun w => w.setDoms [portDom p] .on)) := by
  show execAspmL1Exit p s = _
  simp [execAspmL1Exit, h]

/-! The functions of a port (R320, R330–R332). -/

section Functions

variable {p : Port} {n : Fin 16} {s : State} (hc : (s.port p).configures n = true)
include hc

/-- A function that takes configuration requests exists on a port that is up. -/
theorem PortSt.serves_of_configures : (s.port p).serves n = true := ((Bool.and_eq_true _ _).mp hc).1

theorem exec_busMasterEnableSet (hd : ((s.port p).func n).d3hot = false) :
    exec (.busMasterEnableSet p n) s = .next (s.modFunc p n (fun f => { f with bme := true })) := by
  show execBusMasterEnableSet p n s = _
  simp [execBusMasterEnableSet, hc, hd]

/-- A vector unmasked sends the message that its PBA bit holds. -/
theorem exec_vectorUnmask {v : Fin 64} (hd : ((s.port p).func n).d3hot = false) (hv : v.val < (s.port p).vectors n) :
    let u := s.modFunc p n (fun f => { f with unmasked := f.unmasked.filter (fun x => x != v.val) ++ [v.val] })
    exec (.vectorUnmask p n v) s = .next (if v.val ∈ ((s.port p).func n).pba
      then (u.modFunc p n (fun f => { f with pba := f.pba.erase v.val })).sendVector p n v else u) := by
  show execVectorUnmask p n v s = _
  simp [execVectorUnmask, State.maskVector, PortSt.serves_of_configures hc, hd, Nat.not_le.mpr hv]

theorem exec_returnToD0 (hd : ((s.port p).func n).d3hot = true) :
    let u := s.modFunc p n Func.resetConfig
    exec (.returnToD0 p n) s = .next (if n.val = 0 then u.lowerVfs p 0 else u) := by
  show execReturnToD0 p n s = _
  simp [execReturnToD0, hc, hd]

end Functions

theorem exec_vfEnableSet {p : Port} {s : State} (hc : (s.port p).configures 0 = true) (hd : ((s.port p).func 0).d3hot = false)
    (hs : (s.port p).seatMode = true) (m : Fin 16) :
    exec (.vfEnableSet p m) s = .next (s.modPort p (fun q => { q with numVf := max q.numVf m })) := by
  show execVfEnableSet p m s = _
  simp [execVfEnableSet, hc, hd, hs]

/-! PCIE_COMPLETION_TIMEOUT (R318, R424). -/

theorem exec_pcieCompletionTimeout {p : Port} {rid : Nat} {s : State} {r : Req} (hr : s.req rid = some r) (ha : s.alive = true)
    (hs : s.glob.service ≠ 4) (hp : r.port = p) :
    exec (.pcieCompletionTimeout p rid) s = .next (if r.admitted then s.endSoon r 0x2604 else s.refuseReq r 0x2604) := by
  show execPcieCompletionTimeout p rid s = _
  simp only [execPcieCompletionTimeout, hr, ha, hs, hp, if_false, Bool.not_true, bne_self_eq_false, Bool.or_self, Bool.false_eq_true]
  split_ifs <;> rfl

theorem exec_pcieCompletionTimeout_loader {p : Port} {s : State} (rid : Nat) (hs : s.glob.service = 4) (hr : s.boot.rstatus = 3)
    (hp : s.boot.rescuePort = p) : exec (.pcieCompletionTimeout p rid) s = .next (s.refuseRescue 0x3002 0) := by
  show execPcieCompletionTimeout p rid s = _
  simp [execPcieCompletionTimeout, hs, hr, hp]

/-! RACKING_WINDOW_ENABLE (R324, R430, R434, R446). -/

/-- The offsets of the two port blocks. -/
theorem blockOf_ports {a : Nat} (hle : 0x34000 ≤ a) (hlt : a < 0x38000) :
    blockOf a = some (.port (Port.ofBit ((a - 0x34000) / 0x2000)), a % 0x2000) := by
  have hbelow : ∀ b, b ≤ 0x34000 → ¬ a < b := fun b hb => by omega
  simp only [blockOf, hbelow _, Nat.reduceLeDiff, if_false, hlt, if_true]

/-- An offset in a port block lies in that block. -/
theorem blockOf_port (p : Port) {o : Nat} (h : o < 0x2000) : blockOf ((Blk.port p).base + o) = some (.port p, o) := by
  cases p with
  | A =>
    have hbit : (0x34000 + o - 0x34000) / 0x2000 = 0 := by omega
    have hoff : (0x34000 + o) % 0x2000 = o := by omega
    show blockOf (0x34000 + o) = _
    rw [blockOf_ports (by omega) (by omega), hbit, hoff]
    rfl
  | B =>
    have hbit : (0x36000 + o - 0x34000) / 0x2000 = 1 := by omega
    have hoff : (0x36000 + o) % 0x2000 = o := by omega
    show blockOf (0x36000 + o) = _
    rw [blockOf_ports (by omega) (by omega), hbit, hoff]
    rfl

/-- A write that reaches its register and is not refused has its effect. -/
theorem State.regWrite_applies {r : Requester} {off v : Nat} {s : State} {b : Blk} {o : Nat} (hr : s.reaches r = true)
    (hb : blockOf off = some (b, o)) (ht : s.takesWrites b o = true) (hw : (s.touch b).writeRefused r b o v = none) :
    s.regWrite r off v = (s.touch b).applyWrite r b o v := by
  simp [State.regWrite, hr, hb, ht, hw]

/-- The first register of window `w`. -/
theorem State.applyWrite_win0 (s : State) (r : Requester) (p : Port) (w : Fin 64) (v : Nat) :
    s.applyWrite r (.port p) (0x100 + 32 * w) v = s.writeWin0 p w v := by
  have hlt : 0x100 + 32 * w.val < 0x900 := by omega
  have hw : (0x100 + 32 * w.val - 0x100) / 32 = w.val := by omega
  have hi : (0x100 + 32 * w.val) % 32 / 8 = 0 := by omega
  simp only [State.applyWrite, Nat.le_add_right, hlt, and_self, if_true, hw, hi, State.writeWindow]

theorem exec_rackingWindowEnable {r : Requester} {p : Port} {w : Fin 64} {v : BitVec 64} {s : State} (hv : bit v.toNat 0 = true)
    (hr : s.reaches r = true) (ht : s.takesWrites (.port p) (0x100 + 32 * w) = true)
    (hw : (s.touch (.port p)).writeRefused r (.port p) (0x100 + 32 * w) v.toNat = none) :
    exec (.rackingWindowEnable r p w v) s = .next ((s.touch (.port p)).writeWin0 p w v.toNat) := by
  have hb : blockOf ((Blk.port p).base + 0x100 + 32 * w) = some (.port p, 0x100 + 32 * w.val) := by
    rw [Nat.add_assoc, blockOf_port p (by omega)]
  show execRackingWindowEnable r p w v s = _
  simp only [execRackingWindowEnable, hv, if_true]
  rw [State.regWrite_applies hr hb ht hw, State.applyWrite_win0]

/-! What the events of the first group leave alone. -/

/-- `t` is `s` but for the ports and the power manager. -/
def PortsOnly (s t : State) : Prop := t = { s with portA := t.portA, portB := t.portB, pow := t.pow }

theorem PortsOnly.refl (s : State) : PortsOnly s s := rfl

theorem PortsOnly.trans {s t u : State} (h : PortsOnly s t) (k : PortsOnly t u) : PortsOnly s u := by
  unfold PortsOnly at h k ⊢
  rw [h] at k
  exact k

theorem PortsOnly.modPort (s : State) (p : Port) (f : PortSt → PortSt) : PortsOnly s (s.modPort p f) := by cases p <;> rfl

theorem PortsOnly.modPow (s : State) (f : Power → Power) : PortsOnly s (s.modPow f) := rfl

theorem PortsOnly.trainPort (s : State) (p : Port) : PortsOnly s (s.trainPort p) := by
  unfold State.trainPort
  split_ifs
  · exact .refl s
  · exact .modPort s p _

theorem PortsOnly.ite {s t u : State} {c : Prop} [Decidable c] (ht : PortsOnly s t) (hu : PortsOnly s u) : PortsOnly s (if c then t else u) := by
  split_ifs
  · exact ht
  · exact hu

theorem PortsOnly.of_next {s t u : State} (h : PortsOnly s u) (e : (Host.Outcome.next u : Host.Outcome State Fault Refusal) = .next t) :
    PortsOnly s t := Host.Outcome.next.inj e ▸ h

theorem PortsOnly.perstDeassert {p : Port} {s t : State} (h : exec (.perstDeassert p) s = .next t) : PortsOnly s t := by
  rw [exec_perstDeassert] at h
  exact .of_next ((PortsOnly.modPort s p _).trans (.ite ((PortsOnly.modPow _ _).trans (.trainPort _ p)) (.refl _))) h

theorem PortsOnly.refclkDetect {p : Port} {s t : State} (h : exec (.refclkDetect p) s = .next t) : PortsOnly s t := by
  rw [exec_refclkDetect] at h
  exact .of_next ((PortsOnly.modPort s p _).trans (.ite (.trainPort _ p) (.refl _))) h

theorem PortsOnly.aspmL1Entry {p : Port} {s t : State} (h : exec (.aspmL1Entry p) s = .next t) : PortsOnly s t := by
  replace h : execAspmL1Entry p s = .next t := h
  simp only [execAspmL1Entry] at h
  split_ifs at h
  · exact .of_next (.refl s) h
  · exact .of_next ((PortsOnly.modPort s p _).trans (.modPow _ _)) h

theorem PortsOnly.aspmL1Exit {p : Port} {s t : State} (h : exec (.aspmL1Exit p) s = .next t) : PortsOnly s t := by
  replace h : execAspmL1Exit p s = .next t := h
  simp only [execAspmL1Exit] at h
  split_ifs at h
  · exact .of_next ((PortsOnly.modPort s p _).trans (.modPow _ _)) h
  · exact .of_next (.refl s) h

theorem PortsOnly.busMasterEnableSet {p : Port} {n : Fin 16} {s t : State} (h : exec (.busMasterEnableSet p n) s = .next t) :
    PortsOnly s t := by
  replace h : execBusMasterEnableSet p n s = .next t := h
  simp only [execBusMasterEnableSet] at h
  split_ifs at h
  · exact .of_next (.refl s) h
  · exact .of_next (.modPort s p _) h

theorem PortsOnly.vfEnableSet {p : Port} {m : Fin 16} {s t : State} (h : exec (.vfEnableSet p m) s = .next t) : PortsOnly s t := by
  replace h : execVfEnableSet p m s = .next t := h
  simp only [execVfEnableSet] at h
  split_ifs at h
  · exact .of_next (.refl s) h
  · exact .of_next (.modPort s p _) h

theorem PortsOnly.rateWidthChange {p : Port} {g : Fin 6} {w : Fin 17} {s t : State} (h : exec (.rateWidthChange p g w) s = .next t) :
    PortsOnly s t := by
  replace h : execRateWidthChange p g w s = .next t := h
  simp only [execRateWidthChange] at h
  split_ifs at h
  exact .of_next (.modPort s p _) h

/-- Settles O43: one lemma of this file for each event, and one for what each event of the first group leaves alone. -/
theorem portsComeUp : Obligations.PortsComeUp := by
  unfold Obligations.PortsComeUp
  refine ⟨?perst, ?clock, ?linkUp, ?functions, fun p s => ⟨exec_aspmL1Entry, exec_aspmL1Exit⟩,
    fun p rid s r => exec_pcieCompletionTimeout, fun p rid s => exec_pcieCompletionTimeout_loader rid, ?window, ?frame⟩
  case perst =>
    rintro p s u rfl
    rw [exec_perstDeassert]
    exact ⟨fun h => by rw [if_pos h], fun h => by simp [h]⟩
  case clock =>
    rintro p s u rfl
    rw [exec_refclkDetect]
    exact ⟨fun h => by rw [if_pos h], fun h => by simp [h]⟩
  case linkUp =>
    refine fun p g w s u hf => ⟨?_, exec_rateWidthChange hf p s⟩
    rintro hp hr hc hl rfl
    rw [exec_pcieLinkUp hf hp hr hc hl]
    exact ⟨fun hlow => by rw [if_pos hlow], fun hg hw => by rw [if_neg (by omega)]⟩
  case functions =>
    refine fun p n s hc => ⟨fun hd => ⟨exec_busMasterEnableSet hc hd, ?_, ?_⟩, ?_⟩
    · rintro v u hv rfl
      rw [exec_vectorUnmask hc hd hv]
      exact ⟨fun h => by rw [if_pos h], fun h => by rw [if_neg h]⟩
    · rintro rfl hs m
      exact exec_vfEnableSet hc hd hs m
    · rintro hd u rfl
      rw [exec_returnToD0 hc hd]
      simp only [Fin.val_eq_zero_iff]
      rfl
  case window =>
    rintro r p w v s u hr ht hv rfl hw
    exact exec_rackingWindowEnable hv hr ht hw
  case frame =>
    rintro p i s t (rfl | rfl | rfl | rfl | ⟨n, rfl | rfl⟩ | ⟨g, w, rfl⟩) h
    · exact PortsOnly.perstDeassert h
    · exact PortsOnly.refclkDetect h
    · exact PortsOnly.aspmL1Entry h
    · exact PortsOnly.aspmL1Exit h
    · exact PortsOnly.busMasterEnableSet h
    · exact PortsOnly.vfEnableSet h
    · exact PortsOnly.rateWidthChange h

end Sys2Proof.Machine
end

section
/-! SUPPORT. What a core's own words change: their core, device memory and poison marks. One lemma for each operation that they call. -/

namespace Sys2Proof.Machine

open Sys2Proof

/-- `t` is `s` but for core `c`, device memory and its poison marks. -/
def OwnCoreOnly (c : Nat) (s t : State) : Prop := s.sameOutsideCores t ∧ ∀ k, k ≠ c → t.core k = s.core k

namespace OwnCoreOnly

variable {c : Nat} {s t u : State}

theorem refl (c : Nat) (s : State) : OwnCoreOnly c s s := ⟨rfl, fun _ _ => rfl⟩

theorem trans (h : OwnCoreOnly c s t) (k : OwnCoreOnly c t u) : OwnCoreOnly c s u := by
  obtain ⟨hst, hcs⟩ := h
  obtain ⟨hsu, hcu⟩ := k
  refine ⟨?_, fun n hn => (hcu n hn).trans (hcs n hn)⟩
  unfold State.sameOutsideCores at hst hsu ⊢
  rw [hst] at hsu
  exact hsu

theorem ite {p : Prop} [Decidable p] (ht : OwnCoreOnly c s t) (hu : OwnCoreOnly c s u) : OwnCoreOnly c s (if p then t else u) := by
  split_ifs
  · exact ht
  · exact hu

/-- A fold of steps that each change no more than the core, memory and poison. -/
theorem foldl {α : Type} {f : State → α → State} (hf : ∀ s x, OwnCoreOnly c s (f s x)) (l : List α) (s : State) :
    OwnCoreOnly c s (l.foldl f s) :=
  List.foldlRecOn l f (refl c s) (fun _ h x _ => h.trans (hf _ x))

/-! The core's own parts and memory. -/

theorem modCore (s : State) (f : Core → Core) : OwnCoreOnly c s (s.modCore c f) := ⟨rfl, fun _ hk => s.modCore_core_other hk f⟩

theorem modRun (s : State) (f : CoreRun → CoreRun) : OwnCoreOnly c s (s.modRun c f) := modCore s _

theorem modRegs (s : State) (f : CoreRegs → CoreRegs) : OwnCoreOnly c s (s.modRegs c f) := modCore s _

theorem useLanes (s : State) : OwnCoreOnly c s (s.useLanes c) := modCore s _

theorem coreFault (s : State) (code : Nat) : OwnCoreOnly c s (s.coreFault c code) := modCore s _

theorem wordFault (s : State) (code : Nat) : OwnCoreOnly c s (s.wordFault c code) := (coreFault s code).trans (modRun _ _)

theorem putMem (s : State) (a : Nat) (bs : List Nat) : OwnCoreOnly c s (s.putMem a bs) := ⟨rfl, fun _ _ => rfl⟩

theorem copyMem (s : State) (src dst n : Nat) : OwnCoreOnly c s (s.copyMem src dst n) := ⟨rfl, fun _ _ => rfl⟩

theorem sramWrites (s : State) (ws : List (Nat × List Nat)) : OwnCoreOnly c s (s.sramWrites c ws) := foldl (fun s _ => putMem s _ _) ws s

theorem copyDev (s : State) (src dst n : Nat) : OwnCoreOnly c s (s.copyDev src dst n) := by
  unfold State.copyDev
  split
  · exact List.foldlRecOn (motive := fun x : State × Nat => OwnCoreOnly c s x.1) _ _ (refl c s) (fun _ h _ _ => h.trans (copyMem _ _ _ _))
  · exact refl c s

/-! The local queue (R124, R128, R130). -/

theorem pumpKfetch (s : State) : OwnCoreOnly c s (s.pumpKfetch c) := by
  refine foldl (fun s k => ?_) _ s
  split
  · exact refl c s
  · refine foldl (fun s i => ?_) _ s
    dsimp only
    refine ite (refl c s) (.trans ?_ (modRun _ _))
    split
    · exact copyDev s _ _ _
    · exact putMem s _ _

theorem takeLq (s : State) (n : Nat) : OwnCoreOnly c s (s.takeLq c n) := (modRun s _).trans (pumpKfetch _)

/-! The frame of every core word (R95–R102). -/

theorem runWord {w : Nat} {check : Option Nat} {foot : Footprint} {ready : Bool} {run : State → State} (h : OwnCoreOnly c s (run s)) :
    OwnCoreOnly c s (s.runWord c w check foot ready run) := by
  obtain e | ⟨code, e⟩ | e | e := s.runWord_cases c w check foot ready run <;> rw [e]
  · exact refl c s
  · exact wordFault s code
  · exact h
  · exact h.trans (modRun _ _)

theorem of_coreWord {own : Bool} {w : Nat} (e : coreWord own w u = .next t) (h : OwnCoreOnly c s u) : OwnCoreOnly c s t := by
  unfold coreWord at e
  split_ifs at e
  exact Host.Outcome.next.inj e ▸ h

/-! Array words. -/

theorem runArray (s : State) (w : Nat) (a : AWord) : OwnCoreOnly c s (s.runArray c w a) := by
  unfold State.runArray
  dsimp only
  refine ite (wordFault s _) ?_
  have hrows : ∀ ws f, OwnCoreOnly c s ((s.sramWrites c ws).modCore c f) := fun ws f => (sramWrites s ws).trans (modCore _ f)
  have hlanes : ∀ {t : State} (p : Prop) [Decidable p], OwnCoreOnly c s t → OwnCoreOnly c s (if p then t.useLanes c else t) :=
    fun p _ h => ite (h.trans (useLanes _)) h
  exact ite ((hlanes _ (hrows _ _)).trans (takeLq _ _)) (hlanes _ (hrows _ _))

theorem execArray (s : State) (w : Nat) : OwnCoreOnly c s (execArray c w s) := by
  unfold Machine.execArray
  exact runWord (ite (runArray s w _) (modRun s _))

/-! Decanter words. -/

theorem decBlocks {reads : State → DecProg → List Range} {one : State → DecProg → State × DecProg} {nb : Nat}
    (hone : ∀ s g, OwnCoreOnly c s (one s g).1) (fuel : Nat) (s : State) (g : DecProg) :
    OwnCoreOnly c s (State.decBlocks reads one c nb fuel s g).1 := by
  induction fuel generalizing s g with
  | zero => exact refl c s
  | succ fuel ih =>
    unfold State.decBlocks
    dsimp only
    split_ifs
    · exact refl c s
    · split
      · exact refl c s
      · exact ((hone s g).trans (takeLq _ 2)).trans (ih _ _)

theorem forwardBlock (j : DecJob) (s : State) (g : DecProg) : OwnCoreOnly c s (forwardBlock c j s g).1 :=
  ((sramWrites s _).trans (modRegs _ _)).trans (useLanes _)

theorem recomputeBlock (j : DecJob) (s : State) (g : DecProg) : OwnCoreOnly c s (recomputeBlock c j s g).1 :=
  ((sramWrites s _).trans (modRegs _ _)).trans (useLanes _)

theorem decRun (s : State) (j : DecJob) (g : DecProg) : OwnCoreOnly c s (s.decRun c j g).1 := by
  refine decBlocks (fun s g => ?_) _ s g
  split_ifs
  · exact recomputeBlock j s g
  · exact forwardBlock j s g

theorem endForward (s : State) (j : DecJob) (g : DecProg) : OwnCoreOnly c s (s.endForward c j g) := by
  unfold State.endForward
  exact ite ((sramWrites s _).trans (modRegs _ _)) (sramWrites s _)

theorem decGoOn (s : State) (j : DecJob) (g : DecProg) : OwnCoreOnly c s (s.decGoOn c j g) := by
  have hrun := decRun (c := c) s j g
  have hdone := hrun.trans (modRun _ (fun r => { r with dec := none }))
  unfold State.decGoOn
  dsimp only
  split
  · exact hdone.trans (coreFault _ _)
  · refine ite (hrun.trans (modRun _ _)) (ite hdone ?_)
    split
    · exact hdone.trans (coreFault _ _)
    · exact hdone.trans (endForward _ j _)

theorem runDec (s : State) (w : Nat) : OwnCoreOnly c s (s.runDec c w) := by
  unfold State.runDec
  split
  · exact coreFault s _
  · exact decGoOn s _ _

theorem execDec (s : State) (w : Nat) : OwnCoreOnly c s (execDec c w s) := by
  unfold Machine.execDec
  dsimp only
  split
  · exact runWord (runDec s w)
  · exact ite (refl c s) (ite (decGoOn s _ _) ((decGoOn s _ _).trans (modRun _ _)))

/-! SFU words. -/

/-- What the SFU words that compute elements leave: results in SRAM, flags, and the lanes' free values. -/
theorem sfuResults (s : State) (ws : List (Nat × List Nat)) (f : CoreRegs → CoreRegs) :
    OwnCoreOnly c s (((s.sramWrites c ws).modRegs c f).useLanes c) :=
  ((sramWrites s ws).trans (modRegs _ f)).trans (useLanes _)

theorem runMap (s : State) (w : Nat) : OwnCoreOnly c s (s.runMap c w) := ite (coreFault s _) (sfuResults s _ _)

theorem runRowstat (s : State) (w : Nat) : OwnCoreOnly c s (s.runRowstat c w) := sfuResults s _ _

theorem runCombine (s : State) (w : Nat) : OwnCoreOnly c s (s.runCombine c w) := ite (coreFault s _) (sfuResults s _ _)

theorem runRownorm (s : State) (w : Nat) : OwnCoreOnly c s (s.runRownorm c w) := ite (coreFault s _) (sfuResults s _ _)

/-! Stream words. -/

theorem runSubmit (s : State) (w : Nat) : OwnCoreOnly c s (s.runSubmit c w) := by
  unfold State.runSubmit
  exact ite ((modRun s _).trans (coreFault _ _)) (modRun s _)

theorem runKfetch (s : State) (w : Nat) : OwnCoreOnly c s (s.runKfetch c w) := by
  unfold State.runKfetch
  dsimp only
  split
  · exact refl c s
  · split
    · exact refl c s
    · exact (modRun s _).trans (pumpKfetch _)

theorem runConvfeed (s : State) (w : Nat) : OwnCoreOnly c s (s.runConvfeed c w) := sramWrites s _

end OwnCoreOnly

/-- Settles O14: the frame of core words keeps the rest where the word's own effect does. -/
theorem coreWordsKeepTheRest : Obligations.CoreWordsKeepTheRest := by
  intro c w s t i hi e
  show OwnCoreOnly c s t
  simp only [List.mem_cons, List.not_mem_nil, or_false] at hi
  obtain rfl | rfl | rfl | rfl | rfl | rfl | rfl | rfl | rfl | rfl | rfl | rfl | rfl | rfl | rfl | rfl | rfl := hi
  · exact .of_coreWord e (.runWord (.refl c s))                    -- NOP
  · exact .of_coreWord e (.runWord (.modRun s _))                  -- END
  · exact .of_coreWord e (.runWord (.modRun s _))                  -- LOOP
  · exact .of_coreWord e (.runWord (.modRun s _))                  -- SETC
  · exact .of_coreWord e (.runWord (.modRun s _))                  -- LDCX
  · exact .of_coreWord e (.execArray s w.toNat)                    -- MM
  · exact .of_coreWord e (.execArray s w.toNat)                    -- MMW
  · exact .of_coreWord e (.execDec s w.toNat)                      -- DECANTER_FORWARD
  · exact .of_coreWord e (.execDec s w.toNat)                      -- DECANTER_RECOMPUTE
  · exact .of_coreWord e (.runWord (.runMap s w.toNat))            -- MAP
  · exact .of_coreWord e (.runWord (.modRun s _))                  -- EPISET
  · exact .of_coreWord e (.runWord (.runRowstat s w.toNat))        -- ROWSTAT
  · exact .of_coreWord e (.runWord (.runCombine s w.toNat))        -- ROWSTAT_COMBINE
  · exact .of_coreWord e (.runWord (.runRownorm s w.toNat))        -- ROWNORM
  · exact .of_coreWord e (.runWord (.runSubmit s w.toNat))         -- SUBMIT
  · exact .of_coreWord e (.runWord (.runKfetch s w.toNat))         -- KFETCH
  · exact .of_coreWord e (.runWord (.runConvfeed s w.toNat))       -- CONVFEED

end Sys2Proof.Machine
end

section
/-! SUPPORT. Array words that issue or go on: when the frame of core words lets the sequencer move, and what MM and MMW leave in each case. -/

namespace Sys2Proof.Machine

open Sys2Proof

/-! The frame of core words, for a word that issues or goes on (R95–R102, R117). -/

section Begins

variable {s : State} {c : Nat} {w : Word} {check : Option Nat} {foot : Footprint} {ready : Bool}

/-- The conditions under which a word that has begun goes on, taken apart. -/
theorem State.resumes_iff (s : State) (c : Nat) (w : Word) (check : Option Nat) (foot : Footprint) (ready : Bool) :
    s.resumes c w check foot ready = true ↔
      s.alive = true ∧ (s.core c).run.active = true ∧ (s.core c).run.dec = none ∧ (s.core c).run.scaleHeld ≠ [] ∧ (s.core c).run.wait = none ∧
      s.fetchWord c = some w.toNat ∧ coreIllegal w = false ∧ check = none ∧ s.fenceOpen c w.toNat = true ∧ ready = true ∧
      s.streamHazard c foot = false ∧ s.poisonRead c (foot.reads ++ foot.tiles) = none := by
  simp [State.resumes, and_assoc]

/-- A word that issues or goes on has its effect, and the sequencer moves on unless the effect stops the core, leaves the word under way or
makes it wait. -/
theorem State.runWord_begins (run : State → State)
    (h : s.issues c w check foot ready = true ∨ s.resumes c w check foot ready = true) :
    s.runWord c w.toNat check foot ready run =
      if decide (((run s).core c).run.stopped ≠ (s.core c).run.stopped) || ((run s).core c).run.underWay || ((run s).core c).run.wait.isSome
      then run s else (run s).modRun c (CoreRun.issued w.toNat) := by
  rcases h with h | h
  · obtain ⟨-, -, hst, -⟩ := (State.issues_iff s c w check foot ready).mp h
    have hs : ∀ o : Option (Nat × Nat), decide (o ≠ none) = o.isSome := by intro o; cases o <;> rfl
    rw [State.runWord_issues run h, hst, hs]
  · obtain ⟨ha, hact, hd, hheld, hw, hf, hi, hc, hfe, hr, hh, hp⟩ := (State.resumes_iff s c w check foot ready).mp h
    have hcan : s.canDecode c = true := by simp [State.canDecode, CoreRun.underWay, ha, hact, hw, hheld]
    unfold State.runWord
    simp only [hcan, hf, wIllegal_eq_coreIllegal, hi, hc, hfe, hr, hh, hp]
    simp

/-- No decanter word is under way and no peg waits where an array word begins. -/
theorem State.begins_free (h : s.issues c w check foot ready = true ∨ s.resumes c w check foot ready = true) :
    (s.core c).run.dec = none ∧ (s.core c).run.wait = none := by
  rcases h with h | h
  · obtain ⟨-, -, -, hu, hw, -⟩ := (State.issues_iff s c w check foot ready).mp h
    rw [CoreRun.underWay, Bool.or_eq_false_iff, Option.isSome_eq_false_iff, Option.isNone_iff_eq_none] at hu
    exact ⟨hu.1, hw⟩
  · obtain ⟨-, -, hd, -, hw, -⟩ := (State.resumes_iff s c w check foot ready).mp h
    exact ⟨hd, hw⟩

theorem State.begins_ready (h : s.issues c w check foot ready = true ∨ s.resumes c w check foot ready = true) : ready = true := by
  rcases h with h | h
  · obtain ⟨-, -, -, -, -, -, -, -, -, hr, -⟩ := (State.issues_iff s c w check foot ready).mp h
    exact hr
  · obtain ⟨-, -, -, -, -, -, -, -, -, hr, -⟩ := (State.resumes_iff s c w check foot ready).mp h
    exact hr

end Begins

/-! What decides whether the sequencer moves, through the operations of an array word. -/

/-- Why a core stands: its stop, its peg's wait, and the progress of a decanter and of an array word. -/
def CoreRun.standing (r : CoreRun) : Option (Nat × Nat) × Option PegWait × Option DecProg × List Nat :=
  (r.stopped, r.wait, r.dec, r.scaleHeld)

theorem State.sramWrites_cores (s : State) (c : Nat) (ws : List (Nat × List Nat)) : (s.sramWrites c ws).cores = s.cores :=
  List.foldlRecOn (motive := fun t : State => t.cores = s.cores) ws _ rfl (fun _ h _ _ => h)

theorem State.copyDev_cores (s : State) (src dst n : Nat) : (s.copyDev src dst n).cores = s.cores := by
  unfold State.copyDev
  split
  · exact List.foldlRecOn (motive := fun x : State × Nat => x.1.cores = s.cores) _ _ rfl (fun _ h _ _ => h)
  · rfl

/-- Tiles that move up in the local queue leave the sequencer as it stands. -/
theorem State.pumpKfetch_standing (s : State) (c : Nat) : ((s.pumpKfetch c).core c).run.standing = (s.core c).run.standing := by
  unfold State.pumpKfetch
  refine List.foldlRecOn (motive := fun t : State => (t.core c).run.standing = (s.core c).run.standing) _ _ rfl (fun t h k _ => ?_)
  split
  · exact h
  · refine List.foldlRecOn (motive := fun t : State => (t.core c).run.standing = (s.core c).run.standing) _ _ h (fun t h i _ => ?_)
    dsimp only
    split_ifs
    · exact h
    · split
      · rw [State.modRun_core_self, State.core, State.copyDev_cores]
        exact h
      · rw [State.modRun_core_self]
        exact h

theorem State.takeLq_standing (s : State) (c n : Nat) : ((s.takeLq c n).core c).run.standing = (s.core c).run.standing := by
  unfold State.takeLq
  rw [State.pumpKfetch_standing, State.modRun_core_self]
  rfl

theorem State.useLanes_run (s : State) (c : Nat) : ((s.useLanes c).core c).run = (s.core c).run := by
  unfold State.useLanes
  rw [State.modCore_core_self]

/-- A word that takes its operands holds no fine scales any more. -/
theorem CoreRun.takeOperands_standing (r : CoreRun) (a : AWord) (p : Pair) :
    (r.takeOperands a p).standing = (r.stopped, r.wait, r.dec, []) := by
  unfold CoreRun.takeOperands
  dsimp only
  split_ifs <;> rfl

/-! Array words (R59, R67, R117). -/

section ArrayWord

variable {s : State} {c : Nat} {w : Word} {a : AWord}

/-- The state of a word whose rows have been computed: results in SRAM, flags and locators, and operands taken. -/
def State.arrayDone (s : State) (c : Nat) (a : AWord) (j : ArrayJob) (rs : List RowResult) : State :=
  (s.sramWrites c (rs.flatMap (fun x => x.writes))).modCore c (fun k => { k with regs := k.regs.absorb rs, run := k.run.takeOperands a j.p })

/-- The rows of an array word in the order in which they are written. -/
def State.arrayRows (s : State) (c : Nat) (a : AWord) (j : ArrayJob) : List RowResult :=
  (List.range (a.liveRows j.r)).map (j.row (fun off n => memGet s.mem (sramAddr c off) n))

/-- What an array word leaves behind its rows: the lanes after an epilogue, and the tiles taken from the local queue. -/
def State.arrayLeft (t : State) (c : Nat) (a : AWord) (r : CoreRun) : State :=
  let u := if a.drainNow r = 2 then t.useLanes c else t
  if a.wq then u.takeLq c a.tiles else u

theorem State.runArray_emptyTable {n : Nat} (hd : a.drainNow (s.core c).run = 2)
    (ht : (s.core c).tableEmpty (s.arrayJob c n a).es.func = true) : s.runArray c n a = s.wordFault c 0x2332 := by
  unfold State.runArray
  rw [if_pos ⟨hd, ht⟩]

theorem State.runArray_goes {n : Nat} (h : a.drainNow (s.core c).run = 2 → (s.core c).tableEmpty (s.arrayJob c n a).es.func = false) :
    s.runArray c n a = (s.arrayDone c a (s.arrayJob c n a) (s.arrayRows c a (s.arrayJob c n a))).arrayLeft c a (s.core c).run := by
  unfold State.runArray
  rw [if_neg (fun ⟨hd, ht⟩ => Bool.false_ne_true ((h hd).symm.trans ht))]
  rfl

theorem State.arrayLeft_standing (t : State) (c : Nat) (a : AWord) (r : CoreRun) :
    ((t.arrayLeft c a r).core c).run.standing = (t.core c).run.standing := by
  unfold State.arrayLeft
  dsimp only
  split_ifs <;> simp only [State.takeLq_standing, State.useLanes_run]

theorem State.arrayDone_standing (s : State) (c : Nat) (a : AWord) (j : ArrayJob) (rs : List RowResult) :
    ((s.arrayDone c a j rs).core c).run.standing = ((s.core c).run.stopped, (s.core c).run.wait, (s.core c).run.dec, []) := by
  unfold State.arrayDone
  rw [State.modCore_core_self, CoreRun.takeOperands_standing, State.core, State.sramWrites_cores]
  rfl

/-- The scales of at least one row leave the FIFO for a word that may begin without all of them. -/
theorem CoreRun.feedScales_held {r : CoreRun} (h : a.scalesSome r = true) : (r.feedScales (a.scaleRow a.pair)).scaleHeld ≠ [] := by
  obtain ⟨hneed, hsome⟩ := of_decide_eq_true h
  have hrow : 0 < a.scaleRow a.pair := Nat.pos_of_ne_zero fun h0 => by simp [h0] at hneed
  have hn : 0 < r.scaleFifo.length / a.scaleRow a.pair * a.scaleRow a.pair := Nat.mul_pos (Nat.div_pos hsome hrow) hrow
  intro hnil
  obtain ⟨-, htake⟩ := List.append_eq_nil_iff.mp hnil
  have hlen := congrArg List.length htake
  rw [List.length_take, List.length_nil] at hlen
  omega

section Begins

variable (h : s.issues c w (s.checkArray c w.toNat a) (a.foot (s.core c).run w.toNat)
      (s.tilesHere c a && (a.scalesHere (s.core c).run || a.scalesSome (s.core c).run)) = true ∨
    s.resumes c w (s.checkArray c w.toNat a) (a.foot (s.core c).run w.toNat)
      (s.tilesHere c a && (a.scalesHere (s.core c).run || a.scalesSome (s.core c).run)) = true) (ha : a = AWord.decode w.toNat)

include h ha

/-- A word that needs more fine scales takes those of whole rows and stays at the sequencer's position. -/
theorem execArray_feeds (hs : a.scalesHere (s.core c).run = false) :
    execArray c w.toNat s = s.modRun c (fun r => r.feedScales (a.scaleRow a.pair)) := by
  have hsome : a.scalesSome (s.core c).run = true := by
    have hready := State.begins_ready h
    simp only [hs, Bool.false_or, Bool.and_eq_true] at hready
    exact hready.2
  subst ha
  unfold execArray
  rw [State.runWord_begins _ h]
  simp only [hs, Bool.false_eq_true, if_false]
  rw [if_pos]
  simp [CoreRun.underWay, CoreRun.feedScales_held hsome]

/-- An epilogue with an empty table stops a core that has not stopped before. -/
theorem execArray_emptyTable (hs : a.scalesHere (s.core c).run = true) (hst : (s.core c).run.stopped = none)
    (hd : a.drainNow (s.core c).run = 2) (ht : (s.core c).tableEmpty (s.arrayJob c w.toNat a).es.func = true) :
    execArray c w.toNat s = s.wordFault c 0x2332 := by
  subst ha
  unfold execArray
  rw [State.runWord_begins _ h]
  simp only [hs, if_true, State.runArray_emptyTable hd ht]
  rw [if_pos]
  simp [State.wordFault, State.coreFault, hst, stopWith]

/-- A word with all its scales computes its rows and counts as issued. -/
theorem execArray_goes (hs : a.scalesHere (s.core c).run = true)
    (ht : a.drainNow (s.core c).run = 2 → (s.core c).tableEmpty (s.arrayJob c w.toNat a).es.func = false) :
    execArray c w.toNat s = ((s.arrayDone c a (s.arrayJob c w.toNat a) (s.arrayRows c a (s.arrayJob c w.toNat a))).arrayLeft c a
      (s.core c).run).modRun c (CoreRun.issued w.toNat) := by
  obtain ⟨hdec, hwait⟩ := State.begins_free h
  have hstand := (State.arrayLeft_standing _ c a (s.core c).run).trans
    (State.arrayDone_standing s c a (s.arrayJob c w.toNat a) (s.arrayRows c a (s.arrayJob c w.toNat a)))
  simp only [CoreRun.standing, Prod.mk.injEq] at hstand
  obtain ⟨hstop, hw, hd, hheld⟩ := hstand
  subst ha
  unfold execArray
  rw [State.runWord_begins _ h]
  simp only [hs, if_true, State.runArray_goes ht]
  rw [if_neg]
  simp [CoreRun.underWay, hstop, hw, hd, hheld, hdec, hwait]

end Begins

end ArrayWord

theorem exec_mm {c : Fin 64} {w : Word} (h : coreOwn 1 0 w = true) (s : State) : exec (.mm c w) s = .next (execArray c w.toNat s) := by
  show coreWord (wIs 1 0 w.toNat) w.toNat _ = _
  rw [wIs_eq_coreOwn, h, coreWord_of_own]

theorem exec_mmw {c : Fin 64} {w : Word} (h : coreOwn 1 1 w = true) (s : State) : exec (.mmw c w) s = .next (execArray c w.toNat s) := by
  show coreWord (wIs 1 1 w.toNat) w.toNat _ = _
  rw [wIs_eq_coreOwn, h, coreWord_of_own]

/-- A word of normal mode takes one tile, one of wide mode four. -/
theorem AWord.decode_tiles {op : Nat} {w : Word} (h : coreOwn 1 op w = true) : (AWord.decode w.toNat).tiles = if op = 1 then 4 else 1 := by
  have hop : fld w.toNat 4 3 = op := by simp only [coreOwn, Bool.and_eq_true, beq_iff_eq] at h; exact h.2
  simp [AWord.tiles, AWord.decode, wOp, hop]

/-- Settles O9: the three ways of an array word that issues or goes on, and the tiles that its mode takes. -/
theorem arrayWordsIssue : Obligations.ArrayWordsIssue := by
  rintro c w s a j rs rfl rfl rfl h
  refine ⟨?feeds, ?emptyTable, ?goes⟩
  case feeds =>
    rintro hs t2 rfl
    have e := execArray_feeds h rfl hs
    exact ⟨fun hop => by rw [exec_mm hop, e], fun hop => by rw [exec_mmw hop, e]⟩
  case emptyTable =>
    rintro hs hst hd ht t3 rfl
    have e := execArray_emptyTable h rfl hs hst hd ht
    exact ⟨fun hop => by rw [exec_mm hop, e]; rfl, fun hop => by rw [exec_mmw hop, e]; rfl⟩
  case goes =>
    rintro hs ht t0 t1 rfl rfl
    have e := execArray_goes h rfl hs ht
    refine ⟨fun hop => ?_, fun hop => ?_⟩
    · rw [exec_mm hop, e, State.arrayLeft, AWord.decode_tiles hop]
      rfl
    · rw [exec_mmw hop, e, State.arrayLeft, AWord.decode_tiles hop]
      rfl

end Sys2Proof.Machine
end

section
/-! SUPPORT. Cellar keys and the verdicts of targeted tests, one command at a time: what joins the waiting requests, what is granted, what
a test leaves. -/

namespace Sys2Proof.Machine

open Sys2Proof

/-! The keys (R402, R403). -/

/-- Waking the module changes the power manager alone. -/
theorem State.wake_eq (s : State) : s.wake = { s with pow := s.wake.pow } := by
  unfold State.wake
  split_ifs <;> rfl

@[simp] theorem State.wake_time (s : State) : s.wake.time = s.time := by rw [s.wake_eq]
@[simp] theorem State.wake_mem (s : State) : s.wake.mem = s.mem := by rw [s.wake_eq]
@[simp] theorem State.wake_slots (s : State) : s.wake.slots = s.slots := by rw [s.wake_eq]
@[simp] theorem State.wake_integ (s : State) : s.wake.integ = s.integ := by rw [s.wake_eq]

/-- The feed mode of a core is a register of that core. -/
theorem State.testFeed_eq (s : State) (n : Nat) : s.testFeed n = { s with cores := (s.testFeed n).cores } := by
  unfold State.testFeed
  cases s.logicalOn n with
  | none => rfl
  | some c => dsimp only; split_ifs <;> rfl

/-- A retrain that meets its own link's test is dropped. -/
theorem State.askKeys_of_retrain_in_test {s : State} {l : Nat} (h : ∃ x ∈ s.integ.held, x.act = .linkTest l) :
    s.askKeys (.linkRetrain l) = s := by
  obtain ⟨x, hx, ha⟩ := h
  have hany : s.integ.held.any (fun h => h.act == .linkTest l) = true := List.any_eq_true.mpr ⟨x, hx, by simp [ha]⟩
  simp [State.askKeys, hany]

/-- Every other request joins the end of the waiting ones. -/
theorem State.askKeys_of_not_retrain {a : Activity} (h : ∀ l, a ≠ .linkRetrain l) (s : State) :
    s.askKeys a = State.grantKeys (s.integ.waiting ++ [a]) [] s := by
  unfold State.askKeys
  split
  · exact absurd rfl (h _)
  · simp

/-- Activity `a` among the holders of keys from now on. -/
def State.withHolder (s : State) (a : Activity) : State := s.modInteg (fun g => { g with held := g.held ++ [{ act := a, since := s.time }] })

/-- No holder suspends for an activity that touches none of their groups. -/
theorem held_of_disjoint {held : List Held} {a : Activity} (h : ∀ x ∈ held, x.act.overlaps a = false) :
    held.map (fun x => if x.act.overlaps a && meet x.act a == .yield then { x with suspended := true } else x) = held :=
  (List.map_congr_left (g := id) fun x hx => by simp [h x hx]).trans (List.map_id _)

/-- The only request, with no holder in its way, is granted. -/
theorem State.grantKeys_single {s : State} {a : Activity} (h : ∀ x ∈ s.integ.held, x.act.overlaps a = false) :
    State.grantKeys [a] [] s = (s.grantKey a).modInteg (fun g => { g with waiting := [] }) := by
  have hg : grantable s.integ.held [] a = true := by
    simp only [grantable, Bool.and_eq_true, List.all_eq_true]
    exact ⟨fun x hx => by simp [h x hx], rfl⟩
  simp [State.grantKeys, hg]

/-- A withdrawal granted with no holder in its way takes its rows. -/
theorem State.grantKey_withdrawal {s : State} {m : Nat} (h : ∀ x ∈ s.integ.held, x.act.overlaps (.rowRepair m true) = false) :
    s.grantKey (.rowRepair m true) = (s.withHolder (.rowRepair m true)).takeRows m := by
  simp only [State.grantKey, State.withHolder, State.modInteg, held_of_disjoint h]

/-- No withdrawal waits: the keys of the rows change nothing else. -/
theorem State.takeRows_of_none {s : State} {m : Nat} (h : ∀ x ∈ s.integ.withdrawals, x.1 ≠ m) :
    s.takeRows m = s := by
  have hf : s.integ.withdrawals.filter (fun x => x.1 == m) = [] := by simpa using h
  have hk : s.integ.withdrawals.filter (fun x => x.1 != m) = s.integ.withdrawals := by simpa using h
  simp [State.takeRows, hf, State.modInteg, hk]

/-- An activity joins the holders, and beside the cores nothing else changes, where nothing stands in its way and its grant begins no move of
slots, no training and no withdrawal. -/
theorem State.grantKey_joins {s : State} {a : Activity} (h : ∀ x ∈ s.integ.held, x.act.overlaps a = false)
    (hl : ∀ l, a ≠ .linkRetrain l) (hr : ∀ o n, a ≠ .replacement o n)
    (hw : ∀ m, a = .rowRepair m true → ∀ x ∈ s.integ.withdrawals, x.1 ≠ m) :
    s.grantKey a = { s.withHolder a with cores := (s.grantKey a).cores } := by
  have hj : s.modInteg (fun g => { g with
      held := g.held.map (fun h => if h.act.overlaps a && meet h.act a == .yield then { h with suspended := true } else h)
        ++ [{ act := a, since := s.time }] }) = s.withHolder a := by
    simp only [State.withHolder, State.modInteg, held_of_disjoint h]
  unfold State.grantKey
  dsimp only
  rw [hj]
  split
  · exact absurd rfl (hr _ _)
  · exact State.testFeed_eq _ _
  · exact absurd rfl (hl _)
  · rw [State.takeRows_of_none (s := s.withHolder _) (hw _ rfl)]
  · rfl

theorem exec_cellarKeyRequest {s : State} (hd : s.dark = false) (a : Activity) : exec (.cellarKeyRequest a) s = .next (s.wake.askKeys a) := by
  show execCellarKeyRequest a s = _
  simp [execCellarKeyRequest, hd]

theorem exec_cellarKeyRelease {s : State} (hd : s.dark = false) (a : Activity) :
    exec (.cellarKeyRelease a) s = .next (s.releaseKeys a).noteActivity := by
  show execCellarKeyRelease a s = _
  simp [execCellarKeyRelease, hd]

/-- The only request of a module whose holders leave its groups alone is granted at once. -/
theorem exec_cellarKeyRequest_granted {s : State} {a : Activity} (hd : s.dark = false) (hw : s.integ.waiting = [])
    (h : ∀ x ∈ s.integ.held, x.act.overlaps a = false) (hl : ∀ l, a ≠ .linkRetrain l) :
    exec (.cellarKeyRequest a) s = .next ((s.wake.grantKey a).modInteg (fun g => { g with waiting := [] })) := by
  rw [exec_cellarKeyRequest hd, State.askKeys_of_not_retrain hl, s.wake_integ, hw, List.nil_append, State.grantKeys_single (by simpa using h)]

/-! The verdicts of targeted tests (R396, R397). -/

/-- What a verdict does before the keys are looked at: a lasting one has the effect of its kind, a transient one is logged, and a link whose
test passed retrains. -/
def State.judged (s : State) (a : Activity) (x : PendingTest) (third second : Bool) : State :=
  if third then s.lasting x second
  else match a with
    | .linkTest l => (s.verdict x 2).linkPassed l
    | _ => s.verdict x 2

/-- The keys of a test after a verdict: they go with its last test. -/
def State.keysAfter (s : State) (a : Activity) : State :=
  if s.integ.tests.any (fun y => y.act == a) then (match a with | .coreTest n => s.testFeed n | _ => s) else s.releaseKeys a

theorem State.keysAfter_last {s : State} {a : Activity} (h : s.integ.tests.any (fun y => y.act == a) = false) :
    s.keysAfter a = s.releaseKeys a := by
  simp [State.keysAfter, h]

theorem State.keysAfter_coreTest {s : State} {n : Nat} (h : s.integ.tests.any (fun y => y.act == .coreTest n) = true) :
    s.keysAfter (.coreTest n) = s.testFeed n := by
  simp [State.keysAfter, h]

theorem State.keysAfter_more {s : State} {a : Activity} (h : s.integ.tests.any (fun y => y.act == a) = true) (hn : ∀ n, a ≠ .coreTest n) :
    s.keysAfter a = s := by
  unfold State.keysAfter
  rw [if_pos h]
  split
  · exact absurd rfl (hn _)
  · rfl

/-- The verdict of a test whose keys are held: the test is taken away, its unit's passes are counted, and the keys follow. -/
theorem exec_targetedTestVerdict {a : Activity} {pass second b : Bool} {s u : State} {x : PendingTest} {g : Integrity} (hd : s.dark = false)
    (ht : s.testable a = true) (hr : ∀ o n, a ≠ .replacement o n) (hf : s.integ.tests.find? (fun t => t.act == a) = some x)
    (hu : u = s.modInteg (fun g => { g with tests := g.tests.erase x }))
    (hb : (b, g) = if pass then u.integ.tally x.tally.1 x.tally.2 u.time else (true, u.integ)) :
    exec (.targetedTestVerdict a pass second) s = .next ((({ u with integ := g } : State).judged a x b second).keysAfter a).noteActivity := by
  show execTargetedTestVerdict a pass second s = _
  unfold execTargetedTestVerdict
  rw [if_neg (by simp [hd, ht])]
  split
  · exact absurd rfl (hr _ _)
  · subst hu
    simp only [hf, ← hb]
    rfl

theorem exec_targetedTestVerdict_replacement {s : State} {o n : Nat} (hd : s.dark = false) (ht : s.testable (.replacement o n) = true)
    (pass second : Bool) : exec (.targetedTestVerdict (.replacement o n) pass second) s = .next ((s.replaced o n pass).noteActivity) := by
  show execTargetedTestVerdict _ pass second s = _
  simp [execTargetedTestVerdict, hd, ht]

/-- Settles O51: the request's dropping, joining and granting, the withdrawal's rows, and the verdict with the keys that follow it. -/
theorem cellarKeys : Obligations.CellarKeys := by
  unfold Obligations.CellarKeys
  refine ⟨?request, ?granted, ?withdrawal, ?verdict, ?replacement⟩
  case request =>
    refine fun a s hd => ⟨?_, fun hl => ?_, exec_cellarKeyRelease hd a⟩
    · rintro ⟨l, rfl, hmeet⟩
      rw [exec_cellarKeyRequest hd, State.askKeys_of_retrain_in_test hmeet]
    · rw [exec_cellarKeyRequest hd, State.askKeys_of_not_retrain hl]
  case granted =>
    intro a s hd hw h hl hr hrow
    have hjoin := State.grantKey_joins (s := s.wake) (a := a) (by simpa using h) hl hr (by simpa using hrow)
    refine ⟨_, exec_cellarKeyRequest_granted hd hw h hl, ?_⟩
    rw [hjoin]
    simp [State.withHolder, State.modInteg]
  case withdrawal =>
    rintro m s k hd hw h rfl
    refine ⟨?_, fun u => rfl⟩
    rw [exec_cellarKeyRequest_granted hd hw h (by simp), State.grantKey_withdrawal (by simpa using h), State.withHolder, s.wake_time]
  case verdict =>
    rintro a b second pass s u v w x g hd ht hr hf hu hb rfl hw
    have hjudged : w = ({ u with integ := g } : State).judged a x b second := by rw [hw]; rfl
    rw [exec_targetedTestVerdict hd ht hr hf hu hb, ← hjudged]
    refine ⟨fun hlast => by rw [State.keysAfter_last hlast], fun hmore => ⟨?_, fun hn => by rw [State.keysAfter_more hmore hn]⟩⟩
    rintro n rfl
    rw [State.keysAfter_coreTest hmore]
  case replacement =>
    exact fun o n second s hd ht =>
      ⟨exec_targetedTestVerdict_replacement hd ht true second, exec_targetedTestVerdict_replacement hd ht false second⟩

end Sys2Proof.Machine
end

section
/-! SUPPORT. Decanter words: what their blocks leave of the sequencer, the four ends of a word that starts or goes on, and what its command
leaves in each. -/

namespace Sys2Proof.Machine

open Sys2Proof

/-! Blocks leave the sequencer as it stands (R128, R169). -/

@[simp] theorem State.modRegs_run (s : State) (c : Nat) (f : CoreRegs → CoreRegs) : ((s.modRegs c f).core c).run = (s.core c).run := by
  unfold State.modRegs
  rw [State.modCore_core_self]

@[simp] theorem State.sramWrites_core (s : State) (c k : Nat) (ws : List (Nat × List Nat)) : (s.sramWrites c ws).core k = s.core k := by
  rw [State.core, State.sramWrites_cores, ← State.core]

theorem forwardBlock_run (c : Nat) (j : DecJob) (s : State) (g : DecProg) : ((forwardBlock c j s g).1.core c).run = (s.core c).run := by
  simp [forwardBlock, State.useLanes_run]

theorem recomputeBlock_run (c : Nat) (j : DecJob) (s : State) (g : DecProg) : ((recomputeBlock c j s g).1.core c).run = (s.core c).run := by
  simp [recomputeBlock, State.useLanes_run]

theorem State.decBlocks_standing {c nb : Nat} {reads : State → DecProg → List Range} {one : State → DecProg → State × DecProg}
    (hone : ∀ s g, ((one s g).1.core c).run = (s.core c).run) (fuel : Nat) (s : State) (g : DecProg) :
    ((State.decBlocks reads one c nb fuel s g).1.core c).run.standing = (s.core c).run.standing := by
  induction fuel generalizing s g with
  | zero => rfl
  | succ fuel ih =>
    unfold State.decBlocks
    dsimp only
    split_ifs
    · rfl
    · split
      · rfl
      · rw [ih, State.takeLq_standing, hone]

theorem State.decRun_standing (s : State) (c : Nat) (j : DecJob) (g : DecProg) :
    ((s.decRun c j g).1.core c).run.standing = (s.core c).run.standing := by
  refine State.decBlocks_standing (fun s g => ?_) _ s g
  split_ifs
  · exact recomputeBlock_run c j s g
  · exact forwardBlock_run c j s g

theorem State.endForward_run (s : State) (c : Nat) (j : DecJob) (g : DecProg) : ((s.endForward c j g).core c).run = (s.core c).run := by
  unfold State.endForward
  dsimp only
  split_ifs <;> simp

/-! The ends of a word that goes on (R169, R173, R176, R393). -/

/-- Core `c` with no decanter word under way. -/
def State.decClosed (s : State) (c : Nat) : State := s.modRun c (fun r => { r with dec := none })

section Ends

variable {s u : State} {c code : Nat} {j : DecJob} {st g : DecProg}

theorem State.decGoOn_poisoned (h : s.decRun c j st = (u, g, some code)) : s.decGoOn c j st = (u.decClosed c).coreFault c code := by
  simp only [State.decGoOn, h]
  rfl

theorem State.decGoOn_waits (h : s.decRun c j st = (u, g, none)) (hb : g.block < j.d.nb) :
    s.decGoOn c j st = u.modRun c (fun r => { r with dec := some g }) := by
  simp only [State.decGoOn, h, if_pos hb]

theorem State.decGoOn_recomputed (h : s.decRun c j st = (u, g, none)) (hb : j.d.nb ≤ g.block) (hop : j.d.op = 1) :
    s.decGoOn c j st = u.decClosed c := by
  simp only [State.decGoOn, h, if_neg (Nat.not_lt.mpr hb), if_pos hop]
  rfl

theorem State.decGoOn_forward (h : s.decRun c j st = (u, g, none)) (hb : j.d.nb ≤ g.block) (hop : j.d.op = 0)
    (hp : u.poisonRead c (j.endReads g) = none) : s.decGoOn c j st = (u.decClosed c).endForward c j g := by
  simp only [State.decGoOn, h, if_neg (Nat.not_lt.mpr hb), hop, Nat.zero_ne_one, if_false, hp]
  rfl

theorem State.decGoOn_endPoisoned (h : s.decRun c j st = (u, g, none)) (hb : j.d.nb ≤ g.block) (hop : j.d.op = 0)
    (hp : u.poisonRead c (j.endReads g) = some code) : s.decGoOn c j st = (u.decClosed c).coreFault c code := by
  simp only [State.decGoOn, h, if_neg (Nat.not_lt.mpr hb), hop, Nat.zero_ne_one, if_false, hp]
  rfl

/-- With the word over, the core stands as before it began. -/
theorem State.decClosed_standing {bad : Option Nat} (h : s.decRun c j st = (u, g, bad)) :
    ((u.decClosed c).core c).run.standing = ((s.core c).run.stopped, (s.core c).run.wait, none, (s.core c).run.scaleHeld) := by
  have hrun := s.decRun_standing c j st
  rw [h] at hrun
  simp only [CoreRun.standing, Prod.mk.injEq] at hrun
  obtain ⟨hstop, hwait, -, hheld⟩ := hrun
  rw [State.decClosed, State.modRun_core_self, CoreRun.standing, hstop, hwait, hheld]

/-- A fault stops a core that nothing has stopped. -/
theorem State.coreFault_stops {t : State} (h : (t.core c).run.stopped = none) :
    ((t.coreFault c code).core c).run.stopped = some (1, code) := by
  simp [State.coreFault, h, stopWith]

end Ends

/-! The command (R86, R101). -/

/-- Core `c` takes blocks of decanter word `w` now, for job `j` from progress `st`: the word starts, or it is under way. -/
def State.decTakes (s : State) (c : Nat) (w : Word) (j : DecJob) (st : DecProg) : Prop :=
  (s.issues c w (s.checkDec c w.toNat) (s.decFoot c w.toNat) (s.core c).run.blockHere = true ∧
      s.decJob c w.toNat = .inl j ∧ st = j.start w.toNat (s.window c)) ∨
    ((s.core c).run.dec = some st ∧ s.canDecode c = true ∧ st.word = w.toNat ∧ (s.core c).run.blockHere = true ∧
      j = s.decTask c w.toNat st.rows st.mask)

/-- A job that exists at a word's start is the word's task on some rows and mask. -/
theorem State.decJob_word {s : State} {c w : Nat} {j : DecJob} (h : s.decJob c w = .inl j) : j.d = DWord.decode w := by
  unfold State.decJob at h
  dsimp only at h
  split_ifs at h
  split at h
  · cases h
  · split at h
    · cases h
    · cases h
      rfl

section Command

variable {s : State} {c : Nat} {w : Word} {j : DecJob} {st : DecProg}

/-- OP of a word's job is the word's. -/
theorem State.decTakes_op {op : Nat} (h : s.decTakes c w j st) (hw : coreOwn 2 op w = true) : j.d.op = op := by
  have hd : j.d = DWord.decode w.toNat := by
    rcases h with ⟨-, hj, -⟩ | ⟨-, -, -, -, rfl⟩
    · exact State.decJob_word hj
    · rfl
  simp only [coreOwn, Bool.and_eq_true, beq_iff_eq] at hw
  rw [hd]
  exact hw.2

/-- No word is under way where a decanter word issues. -/
theorem execDec_issues {check : Option Nat} {foot : Footprint} {ready : Bool} (h : s.issues c w check foot ready = true) :
    execDec c w.toNat s = s.runWord c w.toNat (s.checkDec c w.toNat) (s.decFoot c w.toNat) (s.core c).run.blockHere (fun s => s.runDec c w.toNat) := by
  obtain ⟨hdec, -⟩ := State.begins_free (.inl h)
  simp only [execDec, hdec]

/-- A word that its first checks reject stops the core. -/
theorem execDec_rejected {code : Nat} (h : s.issues c w (s.checkDec c w.toNat) (s.decFoot c w.toNat) (s.core c).run.blockHere = true)
    (hj : s.decJob c w.toNat = .inr code) : execDec c w.toNat s = s.coreFault c code := by
  obtain ⟨-, -, hstop, -⟩ := (State.issues_iff s c w _ _ _).mp h
  have hrun : s.runDec c w.toNat = s.coreFault c code := by simp only [State.runDec, hj]
  rw [execDec_issues h, State.runWord_issues _ h, hrun, State.coreFault_stops hstop]
  rfl

/-- The blocks are taken, and the sequencer moves on unless the core has stopped over them, waits, or the word has blocks left. -/
theorem execDec_takes (h : s.decTakes c w j st) :
    (((s.decGoOn c j st).core c).run.stopped ≠ (s.core c).run.stopped ∨ ((s.decGoOn c j st).core c).run.dec.isSome = true →
      execDec c w.toNat s = s.decGoOn c j st) ∧
    (((s.decGoOn c j st).core c).run.standing = ((s.core c).run.stopped, (s.core c).run.wait, none, (s.core c).run.scaleHeld) →
      execDec c w.toNat s = (s.decGoOn c j st).modRun c (CoreRun.issued w.toNat)) := by
  have hstanding : ∀ r : CoreRun, r.standing = (r.stopped, r.wait, r.dec, r.scaleHeld) := fun _ => rfl
  rw [hstanding]
  simp only [Prod.mk.injEq]
  rcases h with ⟨hi, hj, rfl⟩ | ⟨hdec, hcan, hword, hhere, rfl⟩
  case inl =>
    obtain ⟨-, -, hstop, hunder, hwait, -⟩ := (State.issues_iff s c w _ _ _).mp hi
    have hheld : (s.core c).run.scaleHeld = [] := by simpa [CoreRun.underWay] using (Bool.or_eq_false_iff.mp hunder).2
    have hrun : s.runDec c w.toNat = s.decGoOn c j (j.start w.toNat (s.window c)) := by simp only [State.runDec, hj]
    rw [execDec_issues hi, State.runWord_issues _ hi, hrun, hstop, hwait, hheld]
    refine ⟨fun hstay => if_pos ?_, fun ⟨hs, hw, hd, hh⟩ => if_neg ?_⟩
    · rcases hstay with hs | hd
      · simp [Option.isSome_iff_ne_none.mpr hs]
      · simp [CoreRun.underWay, hd]
    · simp [CoreRun.underWay, hs, hw, hd, hh]
  case inr =>
    simp only [execDec, hdec, hcan, hword, hhere, bne_self_eq_false, Bool.not_true, Bool.or_false, Bool.false_eq_true, if_false]
    refine ⟨fun hstay => if_pos ?_, fun ⟨hs, hw, hd, hh⟩ => if_neg ?_⟩
    · simpa using hstay
    · simp [hs, hd]

end Command

theorem exec_decanterForward {c : Fin 64} {w : Word} (h : coreOwn 2 0 w = true) (s : State) :
    exec (.decanterForward c w) s = .next (execDec c w.toNat s) := by
  show coreWord (wIs 2 0 w.toNat) w.toNat _ = _
  rw [wIs_eq_coreOwn, h, coreWord_of_own]

theorem exec_decanterRecompute {c : Fin 64} {w : Word} (h : coreOwn 2 1 w = true) (s : State) :
    exec (.decanterRecompute c w) s = .next (execDec c w.toNat s) := by
  show coreWord (wIs 2 1 w.toNat) w.toNat _ = _
  rw [wIs_eq_coreOwn, h, coreWord_of_own]

section Outcomes

variable {s u : State} {c code : Nat} {w : Word} {j : DecJob} {st g : DecProg}

/-- A word with blocks left stays at its position. -/
theorem execDec_waits (h : s.decTakes c w j st) (hrun : s.decRun c j st = (u, g, none)) (hb : g.block < j.d.nb) :
    execDec c w.toNat s = u.modRun c (fun r => { r with dec := some g }) := by
  have hgo := State.decGoOn_waits hrun hb
  rw [← hgo]
  exact (execDec_takes h).1 (.inr (by rw [hgo, State.modRun_core_self]; rfl))

/-- Poison stops a core that nothing has stopped. -/
theorem execDec_faults {bad : Option Nat} (h : s.decTakes c w j st) (hrun : s.decRun c j st = (u, g, bad)) (hstop : (s.core c).run.stopped = none)
    (hgo : s.decGoOn c j st = (u.decClosed c).coreFault c code) : execDec c w.toNat s = (u.decClosed c).coreFault c code := by
  have hclosed : ((u.decClosed c).core c).run.stopped = none := (congrArg Prod.fst (State.decClosed_standing hrun)).trans hstop
  rw [← hgo]
  exact (execDec_takes h).1 (.inl (by rw [hgo, State.coreFault_stops hclosed, hstop]; exact Option.some_ne_none _))

/-- A word whose blocks are all taken counts as issued. -/
theorem execDec_ends {bad : Option Nat} {t : State} (h : s.decTakes c w j st) (hrun : s.decRun c j st = (u, g, bad)) (hgo : s.decGoOn c j st = t)
    (ht : (t.core c).run = ((u.decClosed c).core c).run) : execDec c w.toNat s = t.modRun c (CoreRun.issued w.toNat) := by
  rw [← hgo]
  exact (execDec_takes h).2 (by rw [hgo, ht, State.decClosed_standing hrun])

end Outcomes

/-- Settles O10: the rejected start, and the four ends of a word that takes blocks. -/
theorem decanterWordsIssue : Obligations.DecanterWordsIssue := by
  intro c w s
  refine ⟨fun hi code hj => ?_, fun j st h u g bad hrun done hdone => ⟨fun hw => ?_, fun hw => ?_⟩⟩
  · have e := execDec_rejected hi hj
    exact ⟨fun hw => by rw [exec_decanterForward hw, e], fun hw => by rw [exec_decanterRecompute hw, e]⟩
  all_goals
    replace h : s.decTakes c w j st := h
    replace hdone : done = u.decClosed c := hdone
    have hop := State.decTakes_op h hw
    subst hdone
  · rw [exec_decanterForward hw]
    refine ⟨?_, ?_, ?_, ?_⟩
    · rintro rfl hb hp
      rw [execDec_ends h hrun (State.decGoOn_forward hrun hb hop hp) (State.endForward_run _ c j g)]
    · rintro code rfl hb hp hstop
      rw [execDec_faults h hrun hstop (State.decGoOn_endPoisoned hrun hb hop hp)]
    · rintro rfl hb
      rw [execDec_waits h hrun hb]
    · rintro code rfl hstop
      rw [execDec_faults h hrun hstop (State.decGoOn_poisoned hrun)]
  · rw [exec_decanterRecompute hw]
    refine ⟨?_, ?_, ?_⟩
    · rintro rfl hb
      rw [execDec_ends h hrun (State.decGoOn_recomputed hrun hb hop) rfl]
    · rintro rfl hb
      rw [execDec_waits h hrun hb]
    · rintro code rfl hstop
      rw [execDec_faults h hrun hstop (State.decGoOn_poisoned hrun)]

end Sys2Proof.Machine
end

section
/-! SUPPORT. The stream engine: what holds a descriptor back or bars it, the three ways in which it moves, and its completion. -/

namespace Sys2Proof.Machine

open Sys2Proof

/-! What a descriptor leaves as it moves (R108, R112, R117). -/

section Moves

variable {s t : State} {c q i dp ix fl e : Nat} {bits : BitVec 512} {d : SDesc} {idx : List Nat}

/-- A descriptor whose groups all land stays in its queue as moved, with its flags. -/
theorem State.moveDesc_lands (hd : d = SDesc.decode bits.toNat) (hi : idx = s.indexList d)
    (h : State.moveGroups c ix d idx (d.groups (d.runs idx)) s 0 = (t, fl, none)) :
    s.moveDesc c q i bits dp ix = t.modRun c (fun r => r.setEntry q i (some (.desc bits dp ix true fl))) := by
  subst hd hi
  simp only [State.moveDesc, h]

/-- A descriptor with a refused group is aborted over what has landed. -/
theorem State.moveDesc_refused (hd : d = SDesc.decode bits.toNat) (hi : idx = s.indexList d)
    (h : State.moveGroups c ix d idx (d.groups (d.runs idx)) s 0 = (t, fl, some e)) :
    s.moveDesc c q i bits dp ix = t.abortDesc c q i d (d.runs idx) e := by
  subst hd hi
  simp only [State.moveDesc, h]

/-- A core that takes fine scales `bs` of a SCALEFEED into its FIFO as far as there is room (R117). -/
def CoreRun.takeScales (r : CoreRun) (q i : Nat) (bits : BitVec 512) (dp ix : Nat) (bs : List Nat) : CoreRun :=
  let part := (bs.drop (r.progress ix)).take (8192 - r.scaleFifo.length)
  (({ r with scaleFifo := r.scaleFifo ++ part }).setProgress ix (r.progress ix + part.length)).setEntry q i
    (some (.desc bits dp ix (decide (bs.length ≤ r.progress ix + part.length)) 0))

/-- Of a SCALEFEED whose runs are all read and hold no poison, the FIFO takes what it has room for. -/
theorem State.moveScale_reads {got : List (List Nat)} (hd : d = SDesc.decode bits.toNat)
    (h : (d.runs []).map (s.readRun c d []) = got.map (fun b => .inl (b, none))) :
    s.moveScale c q i bits dp ix = s.modRun c (fun r => r.takeScales q i bits dp ix got.flatten) := by
  subst hd
  have hnone : got.findSome? (fun _ => (none : Option Nat)) = none := by simp
  unfold State.moveScale
  dsimp only
  simp only [h, List.findSome?_map, Function.comp_def, hnone, List.flatMap_map, List.flatMap_id']
  rfl

end Moves

/-! The start of a queue's next descriptor (R106, R109, R110). -/

/-- The first descriptor of queue `q` of core `c` not yet moved is entry `i`, and the engine may start it. -/
def State.heads (s : State) (c q i : Nat) (bits : BitVec 512) (dp ix : Nat) : Prop :=
  s.alive = true ∧ (s.core c).run.active = true ∧
    ∃ m fl, firstUnmoved (Tbl.get [] q (s.core c).run.queues) = some (i, .desc bits dp ix m fl)

/-- An earlier stream word has still to touch the lines or the local-queue slots of descriptor `d`, instruction `ix` of core `c` (R56, R110). -/
def State.heldBack (s : State) (c ix : Nat) (d : SDesc) : Bool :=
  s.streamConflict c (fun k => decide (k < ix)) { s.descFootprint c d with slots := (s.core c).run.dlqSlots ix d }

section Starts

variable {s : State} {c q i dp ix : Nat} {bits : BitVec 512} {d : SDesc} (hh : s.heads c q i bits dp ix) (hd : d = SDesc.decode bits.toNat)

include hh hd

theorem State.startStream_heldBack (h : s.heldBack c ix d = true) : s.startStream c q d.kind = s := by
  obtain ⟨ha, hact, m, fl, hf⟩ := hh
  rw [State.heldBack] at h
  subst hd
  simp [State.startStream, ha, hact, hf, h]

theorem State.startStream_barred {e : Nat} (h : s.heldBack c ix d = false) (he : s.startError c d = some e) :
    s.startStream c q d.kind = s.abortDesc c q i d [] e := by
  obtain ⟨ha, hact, m, fl, hf⟩ := hh
  rw [State.heldBack] at h
  subst hd
  simp [State.startStream, ha, hact, hf, h, he]

/-- A descriptor that nothing holds back or bars moves by its kind, and waiting KFETCH tiles move up. -/
theorem State.startStream_moves (h : s.heldBack c ix d = false) (he : s.startError c d = none) :
    s.startStream c q d.kind = (if d.kind = 4 then s.moveScale c q i bits dp ix else if d.dlq then s.moveDlq c q i bits dp ix
      else s.moveDesc c q i bits dp ix).pumpKfetch c := by
  obtain ⟨ha, hact, m, fl, hf⟩ := hh
  rw [State.heldBack] at h
  subst hd
  simp [State.startStream, ha, hact, hf, h, he]

end Starts

/-- The four commands that start a descriptor of their own kind. -/
theorem exec_stream {c : Fin 64} {q : Fin 16} {host : Cells} {n : Instr} {d : SDesc} (s : State)
    (h : (n = .streamCopy c q host ∧ d.kind = 1) ∨ (n = .streamGather c q host ∧ d.kind = 2) ∨ (n = .streamScatter c q host ∧ d.kind = 3) ∨
      (n = .scalefeed c q host ∧ d.kind = 4)) : exec n s = .next ((s.hostSeen host).startStream c q d.kind) := by
  obtain ⟨rfl, hk⟩ | ⟨rfl, hk⟩ | ⟨rfl, hk⟩ | ⟨rfl, hk⟩ := h <;> rw [hk] <;> rfl

/-- Settles O19: what holds the descriptor back, what bars it, its kind's movement, and the completion of one that has moved. -/
theorem streamsMove : Obligations.StreamsMove := by
  refine ⟨?move, ?complete⟩
  case move =>
    rintro c q host s u i dp ix bits m fl0 d idx f rfl ha hact hf hd hidx rfl n hn
    rw [exec_stream s hn]
    generalize s.hostSeen host = u at *
    have hh : u.heads c q i bits dp ix := ⟨ha, hact, m, fl0, hf⟩
    refine ⟨fun hheld => by rw [State.startStream_heldBack hh hd hheld], fun hfree => ⟨fun e he => ?_, fun he => ⟨?groups, ?dlq, ?scale⟩⟩⟩
    · rw [State.startStream_barred hh hd hfree he]
    all_goals rw [State.startStream_moves hh hd hfree he]
    case groups =>
      intro hk hdlq
      rw [if_neg hk, if_neg (ne_true_of_eq_false hdlq)]
      exact ⟨fun t fl h => by rw [State.moveDesc_lands hd hidx h], fun t fl e h => by rw [State.moveDesc_refused hd hidx h]⟩
    case dlq =>
      intro hk hdlq
      rw [if_neg hk, if_pos hdlq]
    case scale =>
      rintro got bs hk hread rfl
      rw [if_pos hk, State.moveScale_reads hd hread]
      rfl
  case complete =>
    rintro c q s u bits dp ix fl es ha hact hq rfl
    show execDescriptorComplete c q s = _
    simp only [execDescriptorComplete, hq, ha, hact, Bool.not_true, Bool.or_self, Bool.false_eq_true, if_false]
    rfl

end Sys2Proof.Machine
end

section
/-! SUPPORT. The weight plan: the request and the start of a round, and what the delivery of its tiles leaves alone. -/

namespace Sys2Proof.Machine

open Sys2Proof

/-! What a delivered tile changes (R120, R124). -/

/-- `t` is `s` but for device memory and its poison marks. -/
def DeviceBytesOnly (s t : State) : Prop := t = { s with mem := t.mem, integ := { s.integ with poison := t.integ.poison } }

namespace DeviceBytesOnly

variable {s t u : State}

theorem refl (s : State) : DeviceBytesOnly s s := rfl

theorem trans (h : DeviceBytesOnly s t) (k : DeviceBytesOnly t u) : DeviceBytesOnly s u := by
  unfold DeviceBytesOnly at h k ⊢
  rw [h] at k
  exact k

/-- A fold of steps that each change no more than device bytes. -/
theorem foldl {α : Type} {f : State → α → State} (hf : ∀ s x, DeviceBytesOnly s (f s x)) (l : List α) (s : State) :
    DeviceBytesOnly s (l.foldl f s) :=
  List.foldlRecOn l f (refl s) (fun _ h x _ => h.trans (hf _ x))

theorem putMem (s : State) (a : Nat) (bs : List Nat) : DeviceBytesOnly s (s.putMem a bs) := rfl

theorem markPoison (s : State) (a n code : Nat) : DeviceBytesOnly s (s.markPoison a n code) := rfl

theorem carry (s : State) (src n dst : Nat) : DeviceBytesOnly s (s.carry src n dst) := by
  unfold State.carry
  split
  · refine (putMem s dst _).trans (List.foldlRecOn (motive := fun x : State × Nat => DeviceBytesOnly _ x.1) _ _ (refl _) (fun x h p _ => ?_))
    refine h.trans (foldl (fun t k => ?_) _ _)
    split
    · exact markPoison t _ _ _
    · exact refl t
  · exact (putMem s dst _).trans (markPoison _ dst n _)

theorem deliverTile (s : State) (n c : Nat) : DeviceBytesOnly s (s.deliverTile n c) := by
  unfold State.deliverTile
  split
  · exact refl s
  · dsimp only
    split_ifs
    · exact carry s _ _ _
    · exact (carry s _ _ _).trans (carry _ _ _ _)

end DeviceBytesOnly

/-- The tiles of a round delivered to the cores that each reaches. -/
def State.deliverRound (s : State) (tiles : List Nat) : State :=
  tiles.foldl (fun s n => (s.tileCores n).foldl (fun s c => s.deliverTile n c) s) s

theorem State.deliverRound_bytes (s : State) (tiles : List Nat) : DeviceBytesOnly s (s.deliverRound tiles) :=
  .foldl (fun s n => .foldl (fun s c => .deliverTile s n c) (s.tileCores n) s) tiles s

/-! The two commands (R120, R123, R133). -/

/-- A running core requests the next round once the slots of the round four before it are free. -/
theorem exec_weightRoundRequest {c : Fin 64} {s : State} {j : Nat} (hj : j = (s.core c).run.roundsReq) (ha : s.alive = true)
    (hact : (s.core c).run.active = true) (hstop : (s.core c).run.stopped = none) (hq : s.sync.seq.active = true)
    (hlt : j < s.sync.seq.roundCount) (hfree : j < 4 ∨ 6 * (j - 3) ≤ (s.core c).run.cursor) :
    exec (.weightRoundRequest c) s = .next ((s.modRun c (fun r => { r with roundsReq := j + 1 })).modSync (fun y => { y with
      seq := { y.seq with late := Tbl.set (64, 0) j (lastRequest s.time c.val (Tbl.get (64, 0) j y.seq.late)) y.seq.late } })) := by
  subst hj
  show execWeightRoundRequest c s = _
  simp only [execWeightRoundRequest]
  rw [if_neg]
  simpa [ha, hact, hstop, hq, hlt] using hfree.resolve_left ∘ Nat.not_lt.mpr

/-- The plan's registers after round `j` has started. -/
def WeightSeq.startRound (q : WeightSeq) (j : Nat) : WeightSeq :=
  { q with
    started := j + 1, rounds := q.rounds + 1, active := decide (j + 1 < q.roundCount)
    lateCore := (Tbl.get (64, 0) j q.late).1, late := Tbl.set (64, 0) j (64, 0) q.late }

/-- A round that every core of the pass has requested goes out. -/
theorem exec_weightRoundStart {s : State} {tiles : List Nat} (ha : s.alive = true) (hq : s.sync.seq.active = true)
    (hlt : s.sync.seq.started < s.sync.seq.roundCount) (hall : ∀ c ∈ s.passCores, s.sync.seq.started < (s.core c).run.roundsReq)
    (ht : tiles = (List.range 6).filterMap
      (fun i => if 6 * s.sync.seq.started + i < s.sync.seq.ntiles then some (6 * s.sync.seq.started + i) else none)) :
    exec .weightRoundStart s = .next ((s.deliverRound tiles).modSync (fun y => { y with seq := y.seq.startRound s.sync.seq.started })) := by
  subst ht
  show execWeightRoundStart s = _
  simp only [execWeightRoundStart]
  rw [if_neg]
  · rfl
  · simpa [ha, hq, hlt] using hall

/-- A round that some core of the pass has not requested waits. -/
theorem exec_weightRoundStart_waits {s : State} (h : ∃ c ∈ s.passCores, (s.core c).run.roundsReq ≤ s.sync.seq.started) :
    exec .weightRoundStart s = .next s := by
  show execWeightRoundStart s = _
  simp only [execWeightRoundStart]
  rw [if_pos]
  simp [h]

/-- Settles O20: the request, the start over the delivery of the round's tiles, and the wait for a core's request. -/
theorem weightRounds : Obligations.WeightRounds := by
  refine ⟨?request, ?start, fun s t h hwait => ?_⟩
  case request =>
    rintro c s j hj ha hact hstop hq hlt hfree old rfl last rfl
    exact exec_weightRoundRequest hj ha hact hstop hq hlt hfree
  case start =>
    rintro s j tiles rfl ha hq hlt hall ht
    have hbytes : s.deliverRound tiles = _ := s.deliverRound_bytes tiles
    refine ⟨_, exec_weightRoundStart ha hq hlt hall ht, ?_, rfl, ?_⟩
    · rw [hbytes]
      rfl
    · rw [hbytes]
      exact ⟨rfl, rfl, rfl, rfl⟩
  · rw [exec_weightRoundStart_waits hwait] at h
    exact (Host.Outcome.next.inj h).symm

end Sys2Proof.Machine
end

section
/-! SUPPORT. Register writes: what becomes of a write of any size by each requester, the writes of a function's own space, and the writes of
KICK and CTR_CLEAR. -/

namespace Sys2Proof.Machine

open Sys2Proof

/-! Through BAR0 (R431, R432, R434, R435). -/

section Bar0

variable {s : State} {r : Requester} {off v : Nat}

theorem State.sizedWrite_unreached (h : s.reaches r = false) (size : Nat) : s.sizedWrite r off size v = s := by
  simp [State.sizedWrite, h]

/-- A write of another size or alignment is noted and counted. -/
theorem State.sizedWrite_badSized {size : Nat} (hr : s.reaches r = true) (h : size ≠ 8 ∨ off % 8 ≠ 0) :
    s.sizedWrite r off size v = s.badSized r off := by
  simp only [State.sizedWrite, hr, Bool.not_true, Bool.false_eq_true, if_false, if_pos h]

theorem State.sizedWrite_aligned (hr : s.reaches r = true) (h : off % 8 = 0) : s.sizedWrite r off 8 v = s.regWrite r off v := by
  simp [State.sizedWrite, hr, h]

theorem State.regWrite_hole (h : blockOf off = none) : s.regWrite r off v = s := by
  simp [State.regWrite, h]

/-- A block that takes no writes now ignores them. -/
theorem State.regWrite_untaken {b : Blk} {o : Nat} (hb : blockOf off = some (b, o)) (ht : s.takesWrites b o = false) :
    s.regWrite r off v = s := by
  simp [State.regWrite, hb, ht]

end Bar0

theorem exec_registerWrite_bar0 (r : Requester) (a : BitVec 26) (n : Nat) (v : BitVec 64) (s : State) :
    exec (.registerWrite r (.bar0 a) n v) s = .next (s.sizedWrite r a.toNat n v.toNat) := rfl

/-! A seat's space and the MSI-X structures (R321, R323, R330). -/

section Functions

variable {p : Port} {k : Fin 16} {s : State} (off : BitVec 16) (n : Nat) (v : BitVec 64)

/-- A seat's write goes to the register of its ring or windows that its offset names, to its MSI-X table, or nowhere. -/
theorem exec_registerWrite_seat (hm : (s.port p).seatMode = true) (hk : k ≠ 0) (hs : (s.port p).serves k = true)
    (hd : ((s.port p).func k).d3hot = false) :
    exec (.registerWrite (.port p) (.seat k off) n v) s =
      .next ((seatOffset p k off.toNat).elim
        (if 0x8000 ≤ off.toNat ∧ off.toNat < 0x8040 then s.writeVectors p k (off.toNat - 0x8000) n v.toNat else s)
        (fun a => s.sizedWrite (.port p) a n v.toNat)) := by
  have hk0 : (k.val == 0) = false := beq_false_of_ne (Fin.val_ne_of_ne hk)
  show execRegisterWrite (.port p) (.seat k off) n v s = _
  simp only [execRegisterWrite, hm, hk0, hs, hd, Bool.not_true, Bool.or_self, Bool.false_eq_true, if_false]
  cases seatOffset p k off.toNat with
  | some a => rfl
  | none => simp only [Option.elim_none]; split_ifs <;> rfl

/-- A write through BAR4 goes to the MSI-X table of the PF. -/
theorem exec_registerWrite_bar4 (hs : (s.port p).serves 0 = true) (hd : ((s.port p).func 0).d3hot = false) :
    exec (.registerWrite (.port p) (.bar4 off) n v) s = .next (s.writeVectors p 0 off.toNat n v.toNat) := by
  show execRegisterWrite (.port p) (.bar4 off) n v s = _
  simp [execRegisterWrite, hs, hd]

theorem exec_registerWrite_msixControl (hc : (s.port p).configures k = true) :
    exec (.registerWrite (.port p) (.msixControl k) n v) s = .next (s.writeMsix p k v.toNat) := by
  show execRegisterWrite (.port p) (.msixControl k) n v s = _
  simp [execRegisterWrite, hc]

end Functions

/-! KICK and CTR_CLEAR (R132, R282). -/

/-- No reason of R435 refuses a write of KICK. -/
theorem State.writeRefused_kick (s : State) (r : Requester) (v : Nat) : s.writeRefused r .watchdog 0x018 v = none := by
  have hchg : s.iswChange .watchdog 0x018 v = 0 := Nat.and_zero _
  simp [State.writeRefused, hchg, ownPort, State.valueRefused]

theorem exec_kick {r : Requester} {s : State} (hr : s.reaches r = true) (ht : s.takesWrites .watchdog 0x018 = true) (v : BitVec 64) :
    exec (.kick r v) s = .next (s.writeKick r v.toNat) := by
  show Host.Outcome.next (s.regWrite r (Blk.watchdog.base + 0x018) v.toNat) = _
  rw [State.regWrite_applies hr (b := .watchdog) (o := 0x018) rfl ht (State.writeRefused_kick _ r _)]
  rfl

/-- An offset in a core's block lies in that block. -/
theorem blockOf_core (c : Fin 64) {o : Nat} (h : o < 0x1000) : blockOf ((Blk.core c).base + o) = some (.core c, o) := by
  have hbelow : ∀ b, b ≤ 0x40000 → ¬ 0x40000 + 0x1000 * c.val + o < b := fun b hb => by omega
  have hlt : 0x40000 + 0x1000 * c.val + o < 0x80000 := by omega
  have hc : (0x40000 + 0x1000 * c.val + o - 0x40000) / 0x1000 = c.val := by omega
  have ho : (0x40000 + 0x1000 * c.val + o) % 0x1000 = o := by omega
  simp only [blockOf, Blk.base, hbelow _, Nat.reduceLeDiff, if_false, hlt, if_true, hc, ho]

theorem exec_ctrClear {r : Requester} {c : Fin 64} {v : BitVec 64} {s : State} (hr : s.reaches r = true)
    (ht : s.takesWrites (.core c) 0x150 = true) (hw : (s.touch (.core c)).writeRefused r (.core c) 0x150 v.toNat = none)
    (hv : bit v.toNat 0 = true) :
    exec (.ctrClear r c v) s = .next ((s.touch (.core c)).modRegs c (fun k =>
      { k with stall := [], clearedAt := (s.touch (.core c)).pow.arrayCycles })) := by
  show Host.Outcome.next (s.regWrite r ((Blk.core c).base + 0x150) v.toNat) = _
  rw [State.regWrite_applies hr (blockOf_core c (by decide)) ht hw]
  simp [State.applyWrite, CoreRegs.write, hv]

/-- Settles O56: one lemma of this file for each fate of a write, and the two commands that write one register. -/
theorem registerWrites : Obligations.RegisterWrites := by
  refine ⟨?bar0, ?seat, ?msix, ?kick, ?clear⟩
  case bar0 =>
    intro r a v n s
    rw [exec_registerWrite_bar0]
    refine ⟨fun hr => by rw [State.sizedWrite_unreached hr], fun hr hbad => by rw [State.sizedWrite_badSized hr hbad]; rfl, ?_⟩
    rintro hr rfl ha
    rw [State.sizedWrite_aligned hr ha]
    refine ⟨fun hhole => by rw [State.regWrite_hole hhole], ?_⟩
    rintro b o u hb rfl
    refine ⟨fun ht => by rw [State.regWrite_untaken hb ht], fun ht => ⟨fun reason code hw => ?_, fun hw => ?_⟩⟩
    · rw [← State.sizedWrite_aligned hr ha]
      exact exec_registerWrite_refused hr ha hb ht hw
    · rw [State.regWrite_applies hr hb ht hw]
  case seat =>
    intro p k off n v s hm hk hs hd
    rw [exec_registerWrite_seat off n v hm hk hs hd]
    refine ⟨fun a ha => by rw [ha, Option.elim_some], fun hnone hlo hhi => ?_, fun hnone hout => ?_⟩
    · rw [hnone, Option.elim_none, if_pos ⟨hlo, hhi⟩]
    · rw [hnone, Option.elim_none, if_neg (by omega)]
  case msix =>
    refine fun p k off n v s hc hd => ⟨?_, exec_registerWrite_msixControl n v hc⟩
    rintro rfl
    exact exec_registerWrite_bar4 off n v (PortSt.serves_of_configures hc) hd
  case kick =>
    exact fun v s ht => ⟨fun n hr => exec_kick hr ht v, fun p hr => exec_kick hr ht v⟩
  case clear =>
    rintro r c v s u hr ht rfl hw hv
    exact exec_ctrClear hr ht hw hv

end Sys2Proof.Machine
end

section
/-! SUPPORT. TBLOAD: what a core word leaves that stops its core or keeps the sequencer's state, and the load of a custom table with its
report. -/

namespace Sys2Proof.Machine

open Sys2Proof

/-! The frame of core words, by what the effect does to the sequencer (R95–R101). -/

section Issues

variable {s : State} {c : Nat} {w : Word} {check : Option Nat} {foot : Footprint} {ready : Bool} {run : State → State}

/-- A word whose execution ends in a fault stops its core and does not count as issued. -/
theorem State.runWord_faults {code : Nat} (h : s.issues c w check foot ready = true) (hrun : run s = s.coreFault c code) :
    s.runWord c w.toNat check foot ready run = s.coreFault c code := by
  obtain ⟨-, -, hstop, -⟩ := (State.issues_iff s c w check foot ready).mp h
  rw [State.runWord_issues run h, hrun, State.coreFault_stops hstop]
  rfl

/-- A word whose effect keeps the sequencer's state counts as issued. -/
theorem State.runWord_of_run_eq (h : s.issues c w check foot ready = true) (hrun : ((run s).core c).run = (s.core c).run) :
    s.runWord c w.toNat check foot ready run = (run s).modRun c (CoreRun.issued w.toNat) := by
  obtain ⟨-, -, hstop, hunder, hwait, -⟩ := (State.issues_iff s c w check foot ready).mp h
  rw [← hrun] at hstop hunder hwait
  exact State.runWord_goes run h hstop hunder hwait

end Issues

/-! The load (R143, R145). -/

/-- Core `c` with image `bs` active in table `t` and the image before it in the shadow bank. -/
def State.switchTable (s : State) (c t : Nat) (bs : List Nat) : State :=
  s.modCore c (fun k => { k with
    tables := Tbl.set [] t bs k.tables, shadow := Tbl.set [] t (Tbl.get [] t k.tables) k.shadow
    regs := { k.regs with sfuEpoch := k.regs.sfuEpoch + 1, sfuCustom := k.regs.sfuCustom ||| BitVec.ofNat 16 (2 ^ t) } })

/-- The report of the first custom table of a pass: the pass is marked, and 0x0320 carries its tag. -/
def State.reportCustom (s : State) (r : CoreRun) : State :=
  (s.modSync (fun y => { y with tables := Tbl.upd {} r.table (fun p => { p with customSeen := true }) y.tables })).report
    { code := 0x0320, detail := r.tag }

theorem State.switchTable_run (s : State) (c t : Nat) (bs : List Nat) : ((s.switchTable c t bs).core c).run = (s.core c).run := by
  rw [State.switchTable, State.modCore_core_self]

theorem State.reportCustom_core (s : State) (r : CoreRun) (c : Nat) : (s.reportCustom r).core c = s.core c := by
  rw [State.core, State.reportCustom, State.report_cores, State.modSync_cores, ← State.core]

section Load

variable {s : State} {c w : Nat} {x : SWord} {bs : List Nat} (hx : x = SWord.decode w)
  (hbs : bs = s.tableImage c (64 * (s.core c).run.eff w .a x.src).toNat)

include hx hbs

theorem State.runTbload_rejects (h : tableOk x.func bs = false) : s.runTbload c w = s.coreFault c 0x2331 := by
  subst hx hbs
  simp only [State.runTbload, h, Bool.not_false, if_true]

/-- An image that passes becomes the active one, and the first of a pass is reported. -/
theorem State.runTbload_loads (h : tableOk x.func bs = true) :
    s.runTbload c w =
      if (Tbl.get ({} : PassTable) (s.core c).run.table s.sync.tables).customSeen then s.switchTable c x.func bs
      else (s.switchTable c x.func bs).reportCustom (s.core c).run := by
  subst hx hbs
  simp only [State.runTbload, h, Bool.not_true, Bool.false_eq_true, if_false]
  rfl

/-- A load moves neither the position nor the stop of its sequencer. -/
theorem State.runTbload_run (h : tableOk x.func bs = true) : ((s.runTbload c w).core c).run = (s.core c).run := by
  rw [State.runTbload_loads hx hbs h]
  split_ifs
  · exact s.switchTable_run c x.func bs
  · rw [State.reportCustom_core, State.switchTable_run]

end Load

/-- The bytes of SRAM that a TBLOAD reads: the header and the entries that it names, of which an image has at most 256. -/
def State.tbloadFoot (s : State) (c : Nat) (base : Int) : Footprint :=
  { reads := [⟨base, 64 + 16 * min (tableHdr (memGet s.mem (sramAddr c base.toNat) 64)).nent 256⟩] }

/-- For a table that can be loaded, the place of the image is the only check of the word itself. -/
theorem exec_tbload {c : Fin 64} {w : Word} {s : State} {x : SWord} {foot : Footprint} (hx : x = SWord.decode w.toNat)
    (hfoot : foot = s.tbloadFoot c (64 * (s.core c).run.eff w.toNat .a x.src)) (hown : coreOwn 3 4 w = true) (hlo : 4 ≤ x.func)
    (hhi : x.func ≤ 15) :
    exec (.tbload c w) s =
      .next (s.runWord c w.toNat (if foot.inWindow then none else some 0x2132) foot true (fun s => s.runTbload c w.toNat)) := by
  have hchk : firstFault [(!(decide (4 ≤ x.func ∧ x.func ≤ 15)), 0x2330), (!foot.inWindow, 0x2132)] =
      if foot.inWindow then none else some 0x2132 := by
    cases hin : foot.inWindow <;> simp [firstFault, hlo, hhi]
  rw [← hchk]
  subst hx hfoot
  show coreWord (wIs 3 4 w.toNat) w.toNat _ = _
  rw [wIs_eq_coreOwn, hown, coreWord_of_own]
  rfl

/-- Settles O12: a rejected image stops the core, and a load keeps the sequencer's state, so that the word counts as issued. -/
theorem tableLoadIssues : Obligations.TableLoadIssues := by
  rintro c w s x r base bs foot hx rfl rfl hbs hfoot hown hlo hhi hiss
  rw [exec_tbload hx hfoot hown hlo hhi]
  refine ⟨fun hbad => ?rejected, fun hok u hu => ?loaded⟩
  case rejected => rw [State.runWord_faults hiss (State.runTbload_rejects hx hbs hbad)]
  case loaded =>
    replace hu : u = s.switchTable c x.func bs := hu
    rw [State.runWord_of_run_eq hiss (State.runTbload_run hx hbs hok), State.runTbload_loads hx hbs hok, hu]
    refine ⟨fun hseen => ?_, fun hfirst => ?_⟩
    · rw [if_pos hseen]
    · rw [hfirst, if_neg Bool.false_ne_true]
      rfl

end Sys2Proof.Machine
end

section
/-! SUPPORT. Entries that the intake watcher reads, and the tables and the purge of STAKE_LOAD, DOMAIN_LOAD and DOMAIN_PURGE. -/

namespace Sys2Proof.Machine

open Sys2Proof

/-! Entries (R222–R224). -/

@[simp] theorem State.entryTaken_time (s : State) (p : Port) (n : Nat) (e : BitVec 256) : (s.entryTaken p n e).time = s.time := by
  simp [State.entryTaken]

/-- The reply of an entry that was read carries the entry's cookie and the moment of the reading. -/
theorem State.entryTaken_reply (s : State) (p : Port) (n : Nat) (e : BitVec 256) :
    (s.entryTaken p n e).reply p n e = { port := p, ring := n, cookie := BitVec.ofNat 64 (fld e.toNat 128 64), tCommit := s.time } := by
  rw [State.reply, s.entryTaken_time]
  rfl

/-- The command of an entry that the watcher reads is the entry's own effect. -/
theorem entryCmd_of_reads {op n : Nat} {p : Port} {e : BitVec 256} {s : State} (act : State → State) (hf : entryFits op e = true)
    (hr : s.readsEntry p n e = true) : entryCmd op e (s.intake p n e act) = .next (act (s.entryTaken p n e)) := by
  rw [entryCmd_of_fits hf, State.intake_reads act hr]

/-! Tables (R244, R246). -/

section Tables

variable {p : Port} {n : Fin 16} {e : BitVec 256} {host : Cells} {s u : State} (hr : (s.hostStore p host).readsEntry p n e = true)
  (hu : u = (s.hostStore p host).entryTaken p n e)
include hr hu

theorem exec_stakeLoad_unread {code : Nat} (hf : entryFits 0x10 e = true)
    (ht : u.readTable p (u.ringFn p n) (descOf e) 16 4096 = .error code) :
    exec (.stakeLoad p n e host) s = .next (u.adminRecord (u.reply p n e) code 0) := by
  show execStakeLoad p n e host s = _
  rw [execStakeLoad, entryCmd_of_reads _ hf hr, ← hu]
  simp only [ht]

/-- One stake enabled with LEN 0 refuses the whole table. -/
theorem exec_stakeLoad_refused {vs : List Nat} (hf : entryFits 0x10 e = true)
    (ht : u.readTable p (u.ringFn p n) (descOf e) 16 4096 = .ok vs)
    (hz : ∃ x ∈ vs.map StakeEntry.ofNat, x.enable = true ∧ x.len = 0) :
    exec (.stakeLoad p n e host) s = .next (u.adminRecord (u.reply p n e) 0x260B 0) := by
  have hany : (vs.map StakeEntry.ofNat).any (fun x => x.enable && x.len == 0) = true := by simpa [List.any_eq_true] using hz
  show execStakeLoad p n e host s = _
  rw [execStakeLoad, entryCmd_of_reads _ hf hr, ← hu]
  simp only [ht, hany, if_true]

/-- A good stake table takes force with a new epoch and is answered; then requests waiting for a stake that restarts are checked again. -/
theorem exec_stakeLoad_loads {vs : List Nat} {t : State} (hf : entryFits 0x10 e = true)
    (ht : u.readTable p (u.ringFn p n) (descOf e) 16 4096 = .ok vs)
    (hz : ∀ x ∈ vs.map StakeEntry.ofNat, x.enable = true → x.len ≠ 0)
    (hw : t = (u.modServe (fun v => { v with
      stakeRuns := v.switchRuns (tableOf {} (vs.map StakeEntry.ofNat)) u.time, stakes := tableOf {} (vs.map StakeEntry.ofNat)
      stakesShadow := v.stakes, stakeEpoch := v.stakeEpoch + 1 })).adminRecord (u.reply p n e) 0 0) :
    exec (.stakeLoad p n e host) s = .next (t.recheck (t.serve.reqs.filter (fun x => x.phase == .waitStake &&
      (t.serve.stake x.desc.stake).restarts (u.serve.stake x.desc.stake)))) := by
  have hany : (vs.map StakeEntry.ofNat).any (fun x => x.enable && x.len == 0) = false := by simpa [List.any_eq_false] using hz
  show execStakeLoad p n e host s = _
  rw [execStakeLoad, entryCmd_of_reads _ hf hr, ← hu, hw]
  simp only [ht, hany, Bool.false_eq_true, if_false]

theorem exec_domainLoad_unread {code : Nat} (hf : entryFits 0x11 e = true)
    (ht : u.readTable p (u.ringFn p n) (descOf e) 4 16384 = .error code) :
    exec (.domainLoad p n e host) s = .next (u.adminRecord (u.reply p n e) code 0) := by
  show execDomainLoad p n e host s = _
  rw [execDomainLoad, entryCmd_of_reads _ hf hr, ← hu]
  simp only [ht]

theorem exec_domainLoad_loads {vs : List Nat} (hf : entryFits 0x11 e = true)
    (ht : u.readTable p (u.ringFn p n) (descOf e) 4 16384 = .ok vs) :
    exec (.domainLoad p n e host) s = .next ((u.modServe (fun v => { v with
      doms := tableOf {} (vs.map DomEntry.ofNat), domsShadow := v.doms })).adminRecord (u.reply p n e) 0 0) := by
  show execDomainLoad p n e host s = _
  rw [execDomainLoad, entryCmd_of_reads _ hf hr, ← hu]
  simp only [ht]

end Tables

theorem exec_domainPurge {p : Port} {n : Fin 16} {e : BitVec 256} {s u : State} (hf : entryFits 0x12 e = true)
    (hr : s.readsEntry p n e = true) (hu : u = s.entryTaken p n e) :
    exec (.domainPurge p n e) s = .next ((u.purge (fun d => d.domain == argOf e % 16384)).adminRecord (u.reply p n e) 0 0) := by
  show execDomainPurge p n e s = _
  rw [execDomainPurge, entryCmd_of_reads _ hf hr, ← hu]

/-- Settles O27: one lemma of this file for each fate of a table, and the purge. -/
theorem adminTables : Obligations.AdminTables := by
  rintro p n e host s u a rfl
  refine ⟨fun hu hr => ?tables, fun hu hr hf => ?purge⟩
  case tables =>
    have ha : u.reply p n e = { port := p, ring := n, cookie := BitVec.ofNat 64 (fld e.toNat 128 64), tCommit := s.time } := by
      rw [hu, State.entryTaken_reply, State.hostStore_time]
    have htime : u.time = s.time := by rw [hu, State.entryTaken_time, State.hostStore_time]
    rw [← ha, ← htime]
    refine ⟨fun hf => ⟨fun code ht => exec_stakeLoad_unread hr hu hf ht, ?_⟩,
      fun hf => ⟨fun code ht => exec_domainLoad_unread hr hu hf ht, fun vs ht => exec_domainLoad_loads hr hu hf ht⟩⟩
    rintro vs l ht rfl
    exact ⟨exec_stakeLoad_refused hr hu hf ht, fun hz t hw => exec_stakeLoad_loads hr hu hf ht hz hw⟩
  case purge =>
    rw [← s.entryTaken_reply, ← hu]
    exact exec_domainPurge hf hr hu

end Sys2Proof.Machine
end

section
/-! SUPPORT. The vine walk, a stake's new interval, a pruning round and a compaction. -/

namespace Sys2Proof.Machine

open Sys2Proof

/-- A walk gives the session the nodes it keeps; then a refused reference ends the request, and otherwise the request goes on to prefill (R199, R229). -/
theorem exec_vineWalk {i : Nat} {ahead : Fin 16} {s u : State} {r : Req} {w : Walked} {kept : List Nat} {t : Nat} (hr : s.reqOf i = some r)
    (ha : s.alive = true) (hp : r.phase = .walk)
    (hw : w = State.walk r.desc.mslot r.desc.domain (s.model r.desc.mslot).gen ahead (pageGroups (r.desc.ntok / 16) r.tokens) 0 0 noIndex s.wake)
    (hk : kept = if 16 * w.pages.length = r.desc.ntok then w.pages.dropLast else w.pages) (ht : t = 16 * kept.length)
    (hu : u = ((w.pages.drop kept.length).foldl State.release w.s).modSess i (fun x => { x with pages := kept, tail := t })) :
    exec (.vineWalk i ahead) s = .next (
      if w.refused then u.endReq { r with vine := t } 0x2555 false
      else
        let res := stakeUnits r.stakeEntry (r.desc.basepos + r.desc.ntok - t) t r.desc.maxNew
        (u.adjust r res).modReq r.rid (fun r => { r with vine := t, reserved := res, phase := .prefill, nextPos := t, firstPos := t })) := by
  have hgo : (!s.alive || r.phase != .walk) = false := by simp [ha, hp]
  show execVineWalk i ahead s = _
  simp only [execVineWalk, hr, hgo, ← hw, decide_eq_true_eq, ← hk, ← ht, ← hu, Bool.false_eq_true, if_false]
  split_ifs <;> rfl

/-- A new interval of an enabled stake starts at USED 0 and checks its waiting requests again (R245). -/
theorem exec_stakeIntervalStart {k : BitVec 12} {s u : State} {e : StakeEntry} {r : StakeRun} (he : e = s.serve.stake k.toNat)
    (hr : r = s.serve.run k.toNat) (hs : s.serving = true) (hen : e.enable = true) (hnew : r.now e s.time ≠ r.interval)
    (hu : u = s.modServe (fun v => { v with
      stakeRuns := Tbl.set {} k.toNat { r with interval := r.now e s.time, used := 0 } v.stakeRuns })) :
    exec (.stakeIntervalStart k) s =
      .next (u.recheck (u.serve.reqs.filter (fun x => x.phase == .waitStake && x.desc.stake == k.toNat))) := by
  show execStakeIntervalStart k s = _
  simp only [execStakeIntervalStart, ← he, ← hr, hs, hen, hnew, decide_false, Bool.not_true, Bool.or_self, Bool.false_eq_true, if_false, ← hu]

/-- A round towards the partition's high mark; pruning stops when it is done (R209). -/
theorem exec_pruneRound {m : Fin 6} {k : Fin 4} {s u : State} {goal : Nat} (ha : s.alive = true) (hp : (s.pages.part m k).pruning = true)
    (hg : goal = (s.pages.part m k).high.toNat) (hu : u = (s.pruneRound m k goal).modPow (fun p => { p with lastActivity := (s.pruneRound m k goal).time })) :
    exec (.pruneRound m k) s =
      .next (if u.pruneDone m k goal then u.modPart m k (fun q => { q with pruning := false, idle := 0 }) else u) := by
  subst hg hu
  show execPruneRound m k s = _
  simp only [execPruneRound, ha, hp, Bool.not_true, Bool.or_self, Bool.false_eq_true, if_false]
  rfl

/-- A page that may move goes into the lowest free slot while the stack's page key is held (R212). -/
theorem exec_compaction {m : Fin 6} {p x : Nat} {s : State} (ha : s.alive = true) (hm : stackOf p = m) (hmov : s.pages.movable p = true)
    (hkey : ∃ h ∈ s.integ.held, h.act = .compaction m ∨ h.act = .rowRepair m true)
    (hx : s.pages.lowestSlot m (s.page p).mslot = some x) :
    exec (.compaction m p) s = .next ((s.movePage p x).startPruning m (s.page p).mslot) := by
  have hheld : s.integ.held.any (fun h => h.act == .compaction m || h.act == .rowRepair m true) = true := by
    simpa [List.any_eq_true] using hkey
  show execCompaction m p s = _
  simp only [execCompaction, ha, hm, hmov, hheld, hx, bne_self_eq_false, Bool.not_true, Bool.or_self, Bool.false_eq_true, if_false]

/-- Settles O29: one lemma of this file for each event. -/
theorem servingEvents : Obligations.ServingEvents := by
  refine ⟨?walk, ?interval, ?prune, fun m p x s ha hm hmov hkey hx => exec_compaction ha hm hmov hkey hx⟩
  case walk =>
    rintro i ahead s u r d w kept t res hr ha hp rfl hw hk ht hu rfl
    rw [exec_vineWalk hr ha hp hw hk ht hu]
    exact ⟨fun h => by rw [if_pos h], fun h => by rw [if_neg (ne_true_of_eq_false h)]⟩
  case interval =>
    rintro k s u e r he hr hs hen hnew hu
    exact exec_stakeIntervalStart he hr hs hen hnew hu
  case prune =>
    rintro m k s u ha hp hu
    rw [exec_pruneRound ha hp rfl hu]
    exact ⟨fun h => by rw [if_pos h], fun h => by rw [if_neg (ne_true_of_eq_false h)]⟩

end Sys2Proof.Machine
end

section
/-! SUPPORT. Racks: the tag that a rack waits for, the end of its host writes, and its expiry. -/

namespace Sys2Proof.Machine

open Sys2Proof

/-! The tag of a rack copy (R203, R217). -/

theorem State.rackTag_of_mayDraw {s : State} (i : Nat) (h : s.pages.mayDraw = true) :
    s.rackTag i = ((s.sess i).held.foldl (fun u p => u.pin p s.drawEpoch.pages.newest) s.drawEpoch).modSess i
      (fun x => { x with rackEpoch := some s.drawEpoch.pages.newest }) := by
  rw [State.rackTag, if_pos h]
  rfl

theorem State.rackTag_of_waits {s : State} (i : Nat) (h : s.pages.mayDraw = false) : s.rackTag i = s := by
  rw [State.rackTag, if_neg (ne_true_of_eq_false h)]

theorem exec_rackComplete_untagged {i : Nat} {s : State} (ok : Bool) (he : (s.sess i).rackEpoch = none) (ha : s.alive = true)
    (hx : (s.sess i).state = .racking) : exec (.rackComplete i ok) s = .next (s.rackTag i) := by
  show execRackComplete i ok s = _
  simp only [execRackComplete, he, ha, hx, beq_self_eq_true, Bool.and_self, if_true]

/-! The end of a rack's host writes (R217, R247). -/

@[simp] theorem State.dmaRefuse_time (s : State) (p : Port) : (s.dmaRefuse p).time = s.time := by simp [State.dmaRefuse]

theorem State.time_ite_dmaRefuse (s : State) (p : Port) (b : Bool) : (if b then s else s.dmaRefuse p).time = s.time := by
  rw [apply_ite State.time, s.dmaRefuse_time, ite_self]

/-- What the request of a racked session learns of it: an evicted idle session is reported to its ring, a request that racked its session has ended, and a
pre-empted one notes it. -/
def State.tellRacked (v : State) (i why tail : Nat) : State :=
  if why = 1 then v.eventRecord i 0x0614
  else match v.reqOf i with
    | some r =>
      if why = 0 then v.finishReq r (r.endCode.getD 0) (v.handle i) tail
      else v.modReq r.rid (fun r => { r.note 0x0611 with preempts := r.preempts + 1 })
    | none => v

/-- What becomes of the request of a session whose rack failed: one that racked its session ends, and of any other the log alone knows. -/
def State.tellRackFailed (v : State) (i why tail : Nat) (rep : Report) : State :=
  match v.reqOf i with
  | some r => if why = 0 then v.finishReq r 0x2557 (v.handle i) tail else v.report rep
  | none => v.report rep

section RackComplete

variable {i e fn : Nat} {ok reach : Bool} {s u v : State} {x : Session} (hx : x = s.sess i) (he : x.rackEpoch = some e) (ha : s.alive = true)
  (hst : x.state = .racking) (hfn : fn = s.ringFn x.port x.ring)
  (hreach : reach = ((s.port x.port).grantsBoth fn x.rack (4096 * x.rack4k) && ((s.port x.port).func fn).bme))
  (hu : u = (if reach then s else s.dmaRefuse x.port).modPow (fun p => { p with lastActivity := s.time }))
include hx he ha hst hfn hreach hu

/-- Writes that ended well, into an open area that holds them. -/
theorem exec_rackComplete_stored {w : State} (hok : ok = true) (hr : reach = true) (hfit : s.rackBytes i ≤ 4096 * x.rack4k)
    (hw : w = (x.rackHeld ++ x.held).foldl State.release (u.writeRack i))
    (hv : v = (w.modSess i (fun y => { y with
      state := .racked, pages := [], rackHeld := [], rackEpoch := none, expiry := w.rackExpiry i
      preempts := if x.rackWhy = 2 then satAdd 8 y.preempts 1 else y.preempts })).retireEpoch e) :
    exec (.rackComplete i ok) s = .next (v.tellRacked i x.rackWhy x.tail) := by
  have hgo : (!s.alive || x.state != .racking) = false := by simp [ha, hst]
  have hgood : (ok && reach && decide (s.rackBytes i ≤ 4096 * x.rack4k)) = true := by simp [hok, hr, hfit]
  show execRackComplete i ok s = _
  simp only [execRackComplete, ← hx, he, hgo, ← hfn, ← hreach, hgood, State.time_ite_dmaRefuse, ← hu, ← hw, ← hv, Bool.false_eq_true, if_false, if_true, State.tellRacked]
  cases v.reqOf i <;> dsimp only <;> split_ifs <;> rfl

theorem exec_rackComplete_failed (hbad : ok = false ∨ reach = false ∨ 4096 * x.rack4k < s.rackBytes i)
    (hv : v = ((x.rackHeld.foldl State.release u).modSess i (fun y => { y with
      state := (if x.rackWhy = 2 then .busy else .idle), rackEpoch := none, rackHeld := [] })).retireEpoch e) :
    exec (.rackComplete i ok) s = .next (v.tellRackFailed i x.rackWhy x.tail { code := 0x2557, ports := 2 ^ x.port.num, func := fn }) := by
  have hgo : (!s.alive || x.state != .racking) = false := by simp [ha, hst]
  have hgood : (ok && reach && decide (s.rackBytes i ≤ 4096 * x.rack4k)) = false := by
    rcases hbad with h | h | h <;> simp [h]
  show execRackComplete i ok s = _
  simp only [execRackComplete, ← hx, he, hgo, ← hfn, ← hreach, hgood, State.time_ite_dmaRefuse, ← hu, ← hv, Bool.false_eq_true, if_false, State.tellRackFailed]
  cases v.reqOf i <;> dsimp only
  split_ifs <;> rfl

end RackComplete

/-! The expiry of a rack (R218, R248). -/

section RackExpiry

variable {i t : Nat} {s u : State} (he : (s.sess i).expiry = some t)
include he

theorem exec_rackExpiry_early (h : s.time < t) : exec (.rackExpiry i) s = .next s := by
  show execRackExpiry i s = _
  simp only [execRackExpiry, he, h, decide_true, Bool.or_true, if_true]

variable (ha : s.alive = true) (hst : (s.sess i).state = .racked) (hle : t ≤ s.time)
  (hu : u = s.report { code := 0x0553, ports := 2 ^ (s.sess i).port.num, func := s.ringFn (s.sess i).port (s.sess i).ring })
include ha hst hle hu

/-- The request that holds the session ends; a session without one closes. -/
theorem exec_rackExpiry_due : exec (.rackExpiry i) s = .next ((u.reqOf i).elim (u.closeSess i) (fun r => u.endReq r 0x2557 true)) := by
  have hgo : (!s.alive || (s.sess i).state != .racked || decide (s.time < t)) = false := by simp [ha, hst, hle]
  show execRackExpiry i s = _
  simp only [execRackExpiry, he, hgo, ← hu, Bool.false_eq_true, if_false]
  cases u.reqOf i <;> rfl

end RackExpiry

/-- Settles O30: the wait for a tag, the two ends of a rack's writes, and the expiry. -/
theorem racksComplete : Obligations.RacksComplete := by
  refine ⟨?tag, ?writes, ?expiry⟩
  case tag =>
    intro i ok s he ha hst
    rw [exec_rackComplete_untagged ok he ha hst]
    refine ⟨fun h => by rw [State.rackTag_of_waits i h], fun h => ⟨_, rfl, ?_, State.rackTag_of_mayDraw i h⟩⟩
    rw [State.rackTag_of_mayDraw i h, State.modSess_sess_self]
  case writes =>
    intro i ok s u v x e fn reach hx he ha hst hfn hreach hu
    refine ⟨fun hok hr hfit w hw hv => ?_, fun hbad hv => ?_⟩
    · rw [exec_rackComplete_stored hx he ha hst hfn hreach hu hok hr hfit hw hv, State.tellRacked]
      refine ⟨fun h1 => by rw [if_pos h1], fun h1 hnone => by rw [if_neg h1, hnone], fun r hr => ⟨fun h0 => ?_, fun h2 => ?_⟩⟩
      · simp [h0, hr]
      · simp [h2, hr]
    · rw [exec_rackComplete_failed hx he ha hst hfn hreach hu hbad hv, State.tellRackFailed]
      refine ⟨fun r hr h0 => by rw [hr]; exact congrArg _ (if_pos h0), ?_⟩
      rintro (hnone | h0)
      · rw [hnone]
      · cases v.reqOf i <;> simp [h0]
  case expiry =>
    intro i t s u he ha hst hu
    refine ⟨exec_rackExpiry_early he, fun hle => ?_⟩
    rw [exec_rackExpiry_due he ha hst hle hu]
    exact ⟨fun r hr => by rw [hr]; rfl, fun hnone => by rw [hnone]; rfl⟩

end Sys2Proof.Machine
end

section
/-! SUPPORT. Unracks: the restoring of a rack's entries, and the completion behind the last of them. -/

namespace Sys2Proof.Machine

open Sys2Proof

@[simp] theorem State.hostStore_sess (s : State) (p : Port) (cs : Cells) (i : Nat) : (s.hostStore p cs).sess i = s.sess i := by
  simp [State.sess]

/-! UNRACK (R219, R247, R248). -/

theorem State.unracks_of_racked {s : State} {i : Nat} (h : (s.sess i).state = .racked) (n : Nat) : s.unracks i n = s.unrackDue i n := by
  simp [State.unracks, h]

/-- An unrack whose pages had to wait goes on while entries are left. -/
theorem State.unracks_of_unracking {s : State} {i : Nat} (h : (s.sess i).state = .unracking) (n : Nat) :
    s.unracks i n = decide ((s.sess i).pages.length < n) := by
  simp [State.unracks, h]

/-- The entries of a record that session `x` still waits for, restored behind those it has; a code that stops this refuses the unrack. -/
def State.restoreRack (u : State) (i : Nat) (x : Session) (n : Nat) (es : List Nat) : State :=
  let w := (es.drop x.pages.length).foldl (Unracked.entry i x.mslot x.domain) { pages := x.pages, s := u }
  let v := w.s.modSess i (fun x => { x with pages := w.pages, tail := n, state := .unracking })
  w.stop.elim v (v.refuseUnrack i)

theorem State.restoreRack_eq {u v : State} {i n : Nat} {x : Session} {es : List Nat} {w : Unracked}
    (hw : w = (es.drop x.pages.length).foldl (Unracked.entry i x.mslot x.domain) { pages := x.pages, s := u })
    (hv : v = w.s.modSess i (fun x => { x with pages := w.pages, tail := n, state := .unracking })) :
    u.restoreRack i x n es = w.stop.elim v (v.refuseUnrack i) := by
  rw [hv, hw, State.restoreRack]

section Unrack

variable {i : Nat} {host : Cells} {s u : State} {x : Session} (hx : x = s.sess i) (hu : u = s.hostStore x.port host) (ha : u.alive = true)
  (hq : (u.reqOf i).isSome = true)
include hx hu ha hq

theorem exec_unrack_expired (hst : x.state = .racked) (he : ∃ t, x.expiry = some t ∧ t ≤ u.time) :
    exec (.unrack i host) s = .next (u.refuseUnrack i 0x2557) := by
  obtain ⟨t, het, hle⟩ := he
  show execUnrack i host s = _
  simp [execUnrack, ← hx, ← hu, ha, hst, Option.isNone_eq_false_iff.mpr hq, het, hle]

variable (hlive : x.state = .racked ∧ (∀ t, x.expiry = some t → u.time < t) ∨ x.state = .unracking)
include hlive

/-- Where the rack stands, its record is read, and a session that may go on restores the entries left; a code that stops it refuses the unrack. -/
theorem exec_unrack_reads : exec (.unrack i host) s = .next (
    (u.rackRecord i).elim ((u.countRecord i).refuseUnrack i 0x2557) (fun y =>
      if u.unracks i y.2.length then u.restoreRack i x y.1 y.2 else u)) := by
  have hgo : (!u.alive || (x.state != .racked && x.state != .unracking) || (u.reqOf i).isNone) = false := by
    rcases hlive with ⟨h, -⟩ | h <;> simp [ha, Option.isNone_eq_false_iff.mpr hq, h]
  show execUnrack i host s = _
  simp only [execUnrack, ← hx, ← hu, hgo, Bool.false_eq_true, if_false]
  rw [if_neg ?unexpired]
  case unexpired =>
    rcases hlive with ⟨-, hlt⟩ | h
    · cases he : x.expiry with
      | none => simp
      | some t => simp [hlt t he]
    · simp [h]
  cases u.rackRecord i with
  | none => rfl
  | some y =>
    obtain ⟨n, es⟩ := y
    cases hd : u.unracks i es.length with
    | false => simp [hd]
    | true =>
      simp only [Option.elim_some, hd, State.restoreRack, Bool.not_true, Bool.false_eq_true, if_false, if_true]
      cases ((es.drop x.pages.length).foldl (Unracked.entry i x.mslot x.domain) { pages := x.pages, s := u }).stop <;> rfl

end Unrack
/-! UNRACK_COMPLETE (R219, R248). -/

/-- Whether the request's tokens cover every position below TAIL of the holes of session `x`. -/
def Req.coversHoles (r : Req) (x : Session) : Bool :=
  ((x.pages.zipIdx.filter (fun y => y.1 == noIndex)).map (fun y => 16 * y.2)).all
    (fun a => (List.range 16).all (fun t => decide (x.tail ≤ a + t) || r.covers (a + t)))

theorem Req.coversHoles_iff (r : Req) (x : Session) : r.coversHoles x = true ↔
    ∀ a < x.pages.length, x.pages.getD a 0 = noIndex → ∀ t < 16, x.tail ≤ 16 * a + t ∨ r.covers (16 * a + t) = true := by
  have hmem : ∀ a, (noIndex, a) ∈ x.pages.zipIdx ↔ a < x.pages.length ∧ x.pages.getD a 0 = noIndex := by
    intro a
    rw [List.mk_mem_zipIdx_iff_getElem?, List.getElem?_eq_some_iff]
    constructor
    · rintro ⟨h, hn⟩; exact ⟨h, (List.getD_eq_getElem _ _ h).trans hn⟩
    · rintro ⟨h, hn⟩; exact ⟨h, (List.getD_eq_getElem _ _ h).symm.trans hn⟩
  have hall : r.coversHoles x = true ↔
      ∀ a, (noIndex, a) ∈ x.pages.zipIdx → ∀ t < 16, x.tail ≤ 16 * a + t ∨ r.covers (16 * a + t) = true := by
    simp only [Req.coversHoles, List.all_eq_true, List.mem_map, List.mem_filter, beq_iff_eq, Bool.or_eq_true, decide_eq_true_eq, List.mem_range]
    constructor
    · exact fun h a ha => h _ ⟨_, ⟨ha, rfl⟩, rfl⟩
    · rintro h _ ⟨⟨_, a⟩, ⟨ha, rfl⟩, rfl⟩
      exact h a ha
  rw [hall]
  exact forall_congr' fun a => by rw [hmem a, and_imp]

section UnrackComplete

variable {i : Nat} {host : Cells} {s u : State} {x : Session} {n : Nat} {es : List Nat} (hx : x = s.sess i) (hu : u = s.hostStore x.port host)
  (ha : u.alive = true) (hst : x.state = .unracking)
include hx hu ha hst

theorem exec_unrackComplete_unreadable (hrec : u.rackRecord i = none) :
    exec (.unrackComplete i host) s = .next ((u.countRecord i).refuseUnrack i 0x2557) := by
  show execUnrackComplete i host s = _
  simp [execUnrackComplete, ← hx, ← hu, ha, hst, hrec]

theorem exec_unrackComplete_waits (hrec : u.rackRecord i = some (n, es)) (hlt : x.pages.length < es.length) :
    exec (.unrackComplete i host) s = .next u := by
  show execUnrackComplete i host s = _
  simp [execUnrackComplete, ← hx, ← hu, ha, hst, hrec, hlt]

variable {o : Option State} (hrec : u.rackRecord i = some (n, es)) (hle : es.length ≤ x.pages.length)
  (ho : o = (x.pages.zip es).foldl (fun (o : Option State) y => if fld y.2 0 2 = 2 then o.bind (fun s => s.restorePage i y.1 y.2) else o) (some u))
include hrec hle ho

theorem exec_unrackComplete_copyFails (hnone : o = none) :
    exec (.unrackComplete i host) s = .next ((u.countCopies i es).refuseUnrack i 0x2557) := by
  show execUnrackComplete i host s = _
  simp only [execUnrackComplete, ← hx, ← hu, ha, hst, hrec, Nat.not_lt.mpr hle, ← ho, hnone, Bool.not_true, bne_self_eq_false, Bool.or_self,
    Bool.false_eq_true, if_false]

/-- With every copy back the session is BUSY; holes are reported, and a request whose tokens do not cover them ends. -/
theorem exec_unrackComplete_resident {c v w : State} {r : Req} (hc : o = some c)
    (hv : v = c.modSess i (fun x => { x with state := .busy, expiry := none, rackWhy := 0 })) (hr : v.reqOf i = some r)
    (hw : w = (v.modSess i (fun x => x.named r.desc)).modPow (fun p => { p with lastActivity := v.time })) :
    exec (.unrackComplete i host) s = .next ((x.pages.findIdx? (fun p => p == noIndex)).elim w (fun d =>
      let z := (w.report { code := 0x0552, detail := 16 * d, ports := 2 ^ x.port.num, func := w.ringFn x.port x.ring }).modReq r.rid (fun r => r.note 0x0552)
      if r.coversHoles x then z else z.endReq r 0x2557 false)) := by
  have hrw : w.reqOf i = some r := by rw [hw]; exact hr
  show execUnrackComplete i host s = _
  simp only [execUnrackComplete, ← hx, ← hu, ha, hst, hrec, Nat.not_lt.mpr hle, ← ho, hc, ← hv, hr, Bool.not_true, bne_self_eq_false, Bool.or_self,
    Bool.false_eq_true, if_false]
  simp only [State.modSess_time, ← hw, hrw]
  cases x.pages.findIdx? (fun p => p == noIndex) with
  | none => rfl
  | some d => exact (apply_ite Host.Outcome.next _ _ _).symm

end UnrackComplete

/-- Settles O31: the entries of an unrack restored and its completion, over the fates of the record and of the copies. -/
theorem racksReturn : Obligations.RacksReturn := by
  refine ⟨?racked, ?goesOn, ?completes⟩
  case racked =>
    intro i host s u x hx hu ha hst hq
    refine ⟨exec_unrack_expired hx hu ha hq hst, fun hlt => ?_⟩
    have hust : (u.sess i).state = .racked := by rw [hu, State.hostStore_sess, ← hx, hst]
    rw [exec_unrack_reads hx hu ha hq (.inl ⟨hst, hlt⟩)]
    refine ⟨fun hrec => by rw [hrec]; rfl, fun n es w v hrec hw hv => ?_⟩
    rw [hrec, Option.elim_some, State.unracks_of_racked hust, State.restoreRack_eq hw hv]
    exact ⟨fun hd => by simp [hd], fun hd => ⟨fun code hc => by simp [hd, hc], fun hn => by simp [hd, hn]⟩⟩
  case goesOn =>
    intro i host s u x n es w v hx hu ha hst hq hrec hw hv
    have hus : u.sess i = x := by rw [hu, State.hostStore_sess, hx]
    rw [exec_unrack_reads hx hu ha hq (.inr hst), hrec, Option.elim_some, State.unracks_of_unracking (hus ▸ hst), hus, State.restoreRack_eq hw hv]
    refine ⟨fun hle => by simp [hle], fun hlt => ⟨fun code hc => ?_, fun hn => ?_, exec_unrackComplete_waits hx hu ha hst hrec hlt⟩⟩
    · simp [hlt, hc]
    · simp [hlt, hn]
  case completes =>
    intro i host s u x hx hu ha hst
    refine ⟨exec_unrackComplete_unreadable hx hu ha hst, fun n es o hrec hle ho =>
      ⟨exec_unrackComplete_copyFails hx hu ha hst hrec hle ho, fun c v w r hc hv hr hw => ?_⟩⟩
    rw [exec_unrackComplete_resident hx hu ha hst hrec hle ho hc hv hr hw]
    refine ⟨fun hall => ?_, fun d z hd hz => ?_⟩
    · rw [List.findIdx?_eq_none_iff.mpr fun p hp => beq_false_of_ne (hall p hp)]
      rfl
    · rw [hd, Option.elim_some, ← hz]
      refine ⟨fun hcov => congrArg _ (if_pos ((r.coversHoles_iff x).mpr hcov)), ?_⟩
      rintro ⟨a, ha, hn, t, ht, hlt, hunc⟩
      refine congrArg _ (if_neg fun hcov => ?_)
      have := (r.coversHoles_iff x).mp hcov a ha hn t ht
      simp [hunc, Nat.not_le.mpr hlt] at this

end Sys2Proof.Machine
end

section
/-! SUPPORT. The swap of a slot's model: loads and unloads taken up, the drain, and the partitions and weights of a package that has come. -/

namespace Sys2Proof.Machine

open Sys2Proof

/-! MODEL_LOAD (R249, R250). -/

section ModelLoad

variable {p : Port} {n : Fin 16} {e : BitVec 256} {host : Cells} {s u : State} {bs : List Nat} {b : ModelBlock} (hf : entryFits 0x20 e = true)
  (hr : (s.hostStore p host).readsEntry p n e = true) (hu : u = (s.hostStore p host).entryTaken p n e)
include hf hr hu

theorem exec_modelLoad_unread (hh : u.hostRead p (u.ringFn p n) (descOf e) 64 = none) :
    exec (.modelLoad p n e host) s = .next (u.adminRecord (u.reply p n e) 0x2604 0) := by
  show execModelLoad p n e host s = _
  rw [execModelLoad, entryCmd_of_reads _ hf hr, ← hu]
  simp only [hh]

variable (hh : u.hostRead p (u.ringFn p n) (descOf e) 64 = some bs) (hb : b = ModelBlock.ofBytes bs)
include hh hb

theorem exec_modelLoad_refused (h : b.magic ≠ 0x4D ∨ (u.model b.mslot).state = .loading ∨ (u.model b.mslot).state = .draining) :
    exec (.modelLoad p n e host) s = .next (u.adminRecord (u.reply p n e) 0x260B 0) := by
  show execModelLoad p n e host s = _
  rw [execModelLoad, entryCmd_of_reads _ hf hr, ← hu]
  simp only [hh, ← hb, if_pos h]

/-- A load from the host's memory drains a READY slot and starts in any other that takes it. -/
theorem exec_modelLoad_taken (hm : b.magic = 0x4D) (hs : b.source ≠ 1) (hl : (u.model b.mslot).state ≠ .loading)
    (hd : (u.model b.mslot).state ≠ .draining) :
    exec (.modelLoad p n e host) s = .next (if (u.model b.mslot).state = .ready then u.takeModel b.mslot (some b) 0 (u.reply p n e)
      else u.startLoad b.mslot b 0 (some (u.reply p n e))) := by
  have hgo : ¬ (b.magic ≠ 0x4D ∨ (u.model b.mslot).state = .loading ∨ (u.model b.mslot).state = .draining) := by simp [hm, hl, hd]
  show execModelLoad p n e host s = _
  rw [execModelLoad, entryCmd_of_reads _ hf hr, ← hu]
  simp only [hh, ← hb, if_neg hgo, if_neg hs]
  rfl

end ModelLoad

/-! MODEL_UNLOAD (R250). -/

/-- A READY slot drains; an EMPTY one is answered at once, and one that loads or drains already refuses the entry. -/
theorem exec_modelUnload {p : Port} {n : Fin 16} {e : BitVec 256} {s u : State} {k : Nat} (hf : entryFits 0x21 e = true)
    (hr : s.readsEntry p n e = true) (hu : u = s.entryTaken p n e) (hk : k = argOf e % 4) :
    exec (.modelUnload p n e) s = .next (if (u.model k).state = .ready then u.takeModel k none 0 (u.reply p n e)
      else u.adminRecord (u.reply p n e) (if (u.model k).state = .empty then 0 else 0x260B) 0) := by
  show execModelUnload p n e s = _
  rw [execModelUnload, entryCmd_of_reads _ hf hr, ← hu, hk]
  cases h : (u.model (argOf e % 4)).state <;> simp [h]

/-! The drain (R250). -/

section Drain

variable {k : Fin 4} {s : State} (ha : s.alive = true) (hst : (s.model k).state = .draining)

theorem exec_modelDrained_waits (h : s.slotReqs k ≠ []) : exec (.modelDrained k) s = .next s := by
  show execModelDrained k s = _
  simp [execModelDrained, h]

include ha hst

/-- A slot whose requests have ended starts the load that waits; without one it is cleared and EMPTY. -/
theorem exec_modelDrained (h : s.slotReqs k = []) :
    exec (.modelDrained k) s = .next ((s.model k).next.elim ((s.wake.clearSlot k).failLoad k 0)
      (fun b => s.wake.startLoad k b (s.model k).nextId (s.model k).reply)) := by
  show execModelDrained k s = _
  simp only [execModelDrained, ha, hst, h, List.isEmpty_nil, bne_self_eq_false, Bool.not_true, Bool.or_self, Bool.false_eq_true, if_false]
  cases (s.model k).next <;> rfl

theorem exec_modelDrainTimeout {b : ModelBlock} (hb : (s.model k).next = some b) (hforce : b.force = true)
    (hle : (s.model k).drainStart + 100000 * s.serve.params.drainMaxMs ≤ s.time) :
    exec (.modelDrainTimeout k) s = .next ((s.slotReqs k).foldl (fun s r => s.endSoon r 0x2605) s) := by
  show execModelDrainTimeout k s = _
  simp [execModelDrainTimeout, ha, hst, hb, hforce, hle]

end Drain

/-! MODEL_PARTITIONS_SET (R188, R250, R416). -/

section Partitions

variable {k : Fin 4} {ps : List PartDecl} {ws : Cells} {s u x : State} (ha : s.alive = true) (hst : (s.model k).state = .loading)
  (hwr : (s.model k).written = true) (hu : u = s.wake.closeIdle k)
  (hx : x = (if u.weightsLegal k ws = true then ws.foldl (fun s kv => s.putMem kv.1 [kv.2.toNat]) u else u))
include ha hst hwr hu hx

theorem exec_modelPartitionsSet_waits (hfree : x.pages.slotFree k = false) : exec (.modelPartitionsSet k ps ws) s = .next x := by
  show execModelPartitionsSet k ps ws s = _
  simp only [execModelPartitionsSet, ha, hst, hwr, ← hu, ← hx, hfree, bne_self_eq_false, Bool.not_true, Bool.not_false, Bool.or_self,
    Bool.false_eq_true, if_false, if_true]

theorem exec_modelPartitionsSet_fails (hfree : x.pages.slotFree k = true)
    (hbad : x.partsLegal k (s.model k).block.slot4k ps = false ∨ x.weightsLegal k ws = false) :
    exec (.modelPartitionsSet k ps ws) s = .next (x.failLoad k 0x2558) := by
  have hfail : (!x.partsLegal k (s.model k).block.slot4k ps || !x.weightsLegal k ws) = true := by rcases hbad with h | h <;> simp [h]
  show execModelPartitionsSet k ps ws s = _
  simp only [execModelPartitionsSet, ha, hst, hwr, ← hu, ← hx, hfree, hfail, bne_self_eq_false, Bool.not_true, Bool.or_self,
    Bool.false_eq_true, if_false, if_true]

/-- Legal partitions and weights make the slot READY with a new generation; its entry is answered, and then its waiting requests are let in. -/
theorem exec_modelPartitionsSet_ready {v w : State} (hfree : x.pages.slotFree k = true)
    (hparts : x.partsLegal k (s.model k).block.slot4k ps = true) (hweights : x.weightsLegal k ws = true)
    (hv : v = ((x.setParts k (s.model k).block.slot4k ps).modModel k (fun m => { m with
      state := .ready, gen := (m.gen + 1) % 65536, slot4k := m.block.slot4k, reply := none, written := false })).modInteg
      (fun g => { g with poisonedSlots := g.poisonedSlots.filter (fun j => j != k.val) }))
    (hw : w = (s.model k).reply.elim v (fun a => v.adminRecord a 0 0)) :
    exec (.modelPartitionsSet k ps ws) s = .next (w.recheck (w.serve.waiters k)) := by
  subst hw
  show execModelPartitionsSet k ps ws s = _
  simp only [execModelPartitionsSet, ha, hst, hwr, ← hu, ← hx, hfree, hparts, hweights, ← hv, bne_self_eq_false, Bool.not_true, Bool.or_self,
    Bool.false_eq_true, if_false]
  cases (s.model k).reply <;> rfl

end Partitions

/-- Settles O59: one lemma of this file for each fate of a load, an unload, a drain and a package. -/
theorem modelSwap : Obligations.ModelSwap := by
  refine ⟨?load, ?unload, ?drain, ?partitions⟩
  case load =>
    intro p n e host s u a ha hf hr hu
    have hreply : u.reply p n e = a := by rw [hu, State.entryTaken_reply, State.hostStore_time, ha]
    rw [← hreply]
    refine ⟨exec_modelLoad_unread hf hr hu, fun bs b hh hb => ⟨exec_modelLoad_refused hf hr hu hh hb, fun hm hs => ⟨fun h => ?_, fun h => ?_⟩⟩⟩
    · rw [exec_modelLoad_taken hf hr hu hh hb hm hs (by simp [h]) (by simp [h]), if_pos h]
    · rw [exec_modelLoad_taken hf hr hu hh hb hm hs (by simp [h]) (by simp [h]), if_neg (by simp [h])]
  case unload =>
    intro p n e s u a k ha hf hr hu hk
    rw [exec_modelUnload hf hr hu hk, show u.reply p n e = a by rw [hu, State.entryTaken_reply, ha]]
    refine ⟨fun h => ?_, fun h => ?_, ?_⟩
    · simp [h]
    · simp [h]
    · rintro (h | h) <;> simp [h]
  case drain =>
    intro k s ha hst
    refine ⟨fun h => ?_, exec_modelDrained_waits, fun b hb hforce hle => exec_modelDrainTimeout ha hst hb hforce hle⟩
    rw [exec_modelDrained ha hst h]
    exact ⟨fun b hb => by rw [hb]; rfl, fun hnone => by rw [hnone]; rfl⟩
  case partitions =>
    rintro k ps ws s u x v w m rfl ha hst hwr hu hx
    refine ⟨exec_modelPartitionsSet_waits ha hst hwr hu hx, exec_modelPartitionsSet_fails ha hst hwr hu hx, fun hfree hparts hweights hv hw => ?_⟩
    refine exec_modelPartitionsSet_ready ha hst hwr hu hx hfree hparts hweights hv (hw.trans ?_)
    cases (s.model k).reply <;> rfl

end Sys2Proof.Machine
end

section
/-! SUPPORT. What becomes of an intake entry that is not read, or is read without an effect of its own, and the entries SESSION_CLOSE and
SESSION_QUERY. -/

namespace Sys2Proof.Machine

open Sys2Proof

/-! Entries without an effect (R223, R224, R420). -/

/-- An entry that the watcher sees is stored, and CONS is past it; then the first reason to answer it at once decides, or its own effect. -/
theorem State.intake_seen {s : State} {p : Port} {n : Nat} {e : BitVec 256} (act : State → State) (hw : s.watches p n = true)
    (hp : s.paused p n = false) (hf : s.seatFull p n = false) (hph : phaseOf e = (s.ring p n).inPhase)
    (hd : (s.ring p n).handled.contains (s.ring p n).cons.toNat = false) {u : State} (hu : u = s.modRing p n (fun r => (r.store 0 e).advance)) :
    s.intake p n e act =
      if s.answersOnly then u.adminRecord (s.reply p n e) 0x2B20 0
      else if isAdmin (opcodeOf e) && !(s.port p).adminRings.getLsbD n then u.adminRecord (s.reply p n e) 0x260B 0
      else act (u.wake.modPow (fun w => { w with commitAt := some u.time })) := by
  have hport : u.port p = s.port p := by subst hu; cases p <;> rfl
  have hreply : u.reply p n e = s.reply p n e := by subst hu; rfl
  have hans : u.answersOnly = s.answersOnly := by subst hu; rfl
  simp only [State.intake, hw, hp, hf, hph, hd, ← hu, hport, hreply, hans, bne_self_eq_false, Bool.not_true, Bool.or_self, Bool.false_eq_true,
    if_false]

/-- An entry of an opcode that R224 does not list asks for a refusal. -/
theorem exec_intakeIllegalOpcode {p : Port} {n : Fin 16} {e : BitVec 256} (hwf : (Instr.intakeIllegalOpcode p n e).wf = true) (s : State) :
    exec (.intakeIllegalOpcode p n e) s = .next (s.intake p n e (fun s => s.adminRecord (s.reply p n e) 0x260B 0)) := by
  have hop : opcodes.contains (opcodeOf e) = false := by
    simpa [Instr.wf, entryOpcodes, opcodes, opcodeOf] using hwf
  show execIntakeIllegalOpcode p n e s = _
  rw [execIntakeIllegalOpcode, hop]
  rfl

/-- A well-formed entry that needs no host operand is taken up by the intake watcher, whatever its own effect is. -/
theorem exec_eq_intake {p : Port} {n : Fin 16} {e : BitVec 256} {i : Instr}
    (hi : i ∈ [Instr.domainPurge p n e, .modelUnload p n e, .kickerDrop p n e, .sessionClose p n e, .sessionQuery p n e, .intakeIllegalOpcode p n e])
    (hwf : i.wf = true) (s : State) : ∃ act, exec i s = .next (s.intake p n e act) := by
  simp only [List.mem_cons, List.not_mem_nil, or_false] at hi
  rcases hi with rfl | rfl | rfl | rfl | rfl | rfl
  on_goal 6 => exact ⟨_, exec_intakeIllegalOpcode hwf s⟩
  all_goals exact ⟨_, entryCmd_of_fits hwf _⟩

/-- Settles O25: every listed command is the watcher's, which leaves the entry, answers it at once, or gives it its effect. -/
theorem entriesAreRead : Obligations.EntriesAreRead := by
  rintro p n e s u _ rfl hu
  refine ⟨fun i hi hwf => ?answered, fun hwf hr => ?illegal⟩
  case answered =>
    obtain ⟨act, hact⟩ := exec_eq_intake hi hwf s
    rw [hact]
    refine ⟨fun h => by rw [State.intake_waits h], fun hw hp hf hph hd => ?_⟩
    rw [State.intake_seen act hw hp hf hph hd hu]
    refine ⟨fun hans => ?_, fun hans hadm hring => ?_⟩
    · rw [if_pos hans]
      rfl
    · rw [hans, hadm, hring]
      rfl
  case illegal => rw [exec_intakeIllegalOpcode hwf, State.intake_reads _ hr, State.entryTaken_reply]

/-! Sessions (R227, R228). -/

/-- A closed session's entry is free, with its generation raised. -/
theorem State.closeSess_sess_self (s : State) (i : Nat) : (s.closeSess i).sess i = { hgen := ((s.sess i).hgen + 1) % 65536 } := by
  rw [State.sess, State.closeSess]
  simp only [State.modSessions, State.modServe_serve, Serve.session, Tbl.get_set_self]

section Entries

variable {p : Port} {n : Fin 16} {e : BitVec 256} {s u : State} (hr : s.readsEntry p n e = true) (hu : u = s.entryTaken p n e)
include hr hu

/-- A close answers 0 for a session of the ring that rests, and 0x2602 otherwise. -/
theorem exec_sessionClose {o : Option Nat} (hf : entryFits 0x40 e = true) (ho : u.named p n (argOf e % 2 ^ 32) = o) :
    exec (.sessionClose p n e) s = .next (o.elim (u.adminRecord (u.reply p n e) 0x2602 0)
      (fun i => if u.restful i then (u.closeSess i).adminRecord (u.reply p n e) 0 0 else u.adminRecord (u.reply p n e) 0x2602 0)) := by
  show execSessionClose p n e s = _
  rw [execSessionClose, entryCmd_of_reads _ hf hr, ← hu, ho]
  cases o <;> rfl

theorem exec_sessionQuery {o : Option Nat} (hf : entryFits 0x41 e = true) (ho : u.named p n (argOf e % 2 ^ 32) = o) :
    exec (.sessionQuery p n e) s = .next (o.elim (u.adminRecord (u.reply p n e) 0x2602 0)
      (fun i => u.adminRecord (u.reply p n e) 0 (u.sess i).bits)) := by
  show execSessionQuery p n e s = _
  rw [execSessionQuery, entryCmd_of_reads _ hf hr, ← hu, ho]
  cases o <;> rfl

end Entries

/-- Settles O28: the close and the query by the session that the handle names, and the entry of a closed session. -/
theorem sessionEntries : Obligations.SessionEntries := by
  rintro p n e s u _ rfl hu hr
  rw [← s.entryTaken_reply, ← hu]
  refine ⟨fun hf => ?close, fun hf => ?query⟩
  case close =>
    refine ⟨fun i hi => ⟨fun hrest => ⟨?_, ?_, ?_⟩, fun hbusy => ?_⟩, fun hnone => exec_sessionClose hr hu hf hnone⟩
    · simp [exec_sessionClose hr hu hf hi, hrest]
    · rw [State.closeSess_sess_self]
    · rw [State.closeSess_sess_self]
    · simp [exec_sessionClose hr hu hf hi, hbusy]
  case query => exact ⟨fun i hi => exec_sessionQuery hr hu hf hi, fun hnone => exec_sessionQuery hr hu hf hnone⟩

end Sys2Proof.Machine
end

section
/-! SUPPORT. KICKER_LOAD and KICKER_DROP: the fates of a kicker's block and bytes, and the name taken from its version. -/

namespace Sys2Proof.Machine

open Sys2Proof

/-- The version that a kicker's block describes, with its bytes at `base`. -/
def KickerBlock.version (k : KickerBlock) (base : Nat) : Kicker :=
  { name := k.name, mslot := k.mslot, rank := k.rank, fmt := k.fmt, sites := k.sites, dims := k.dims, base := base, bytes := k.bytes }

/-- Version `x` put in kicker slot `i`, and its name switched to it. -/
def Serve.putVersion (v : Serve) (i : Nat) (x : Kicker) : Serve :=
  { v.dropName x.name with kickers := Tbl.set none i (some x) (v.dropName x.name).kickers }

section Load

variable {p : Port} {n : Fin 16} {e : BitVec 256} {host : Cells} {k : KickerBlock} {s u : State} (hf : entryFits 0x30 e = true)
  (hr : (s.hostStore p host).readsEntry p n e = true) (hu : u = (s.hostStore p host).entryTaken p n e)
include hf hr hu

theorem exec_kickerLoad_unread
    (h : u.hostRead p (u.ringFn p n) (descOf e) k.len = none ∨ u.hostRead p (u.ringFn p n) k.addr.toNat k.bytes = none) :
    exec (.kickerLoad p n e host k) s = .next (u.adminRecord (u.reply p n e) 0x2604 0) := by
  show execKickerLoad p n e host k s = _
  rw [execKickerLoad, entryCmd_of_reads _ hf hr, ← hu]
  rcases h with h | h
  · simp only [h]
  · cases u.hostRead p (u.ringFn p n) (descOf e) k.len <;> simp only [h]

variable {bs : List Nat} (hblock : u.hostRead p (u.ringFn p n) (descOf e) k.len ≠ none)
  (hbytes : u.hostRead p (u.ringFn p n) k.addr.toNat k.bytes = some bs)
include hblock hbytes

/-- A block that is not legal, or for which no slot or no room is free, is refused. -/
theorem exec_kickerLoad_refused
    (h : k.legal (u.model k.mslot) = false ∨ u.serve.kickerSlot = none ∨ u.poolPlace k.bytes = none) :
    exec (.kickerLoad p n e host k) s = .next (u.adminRecord (u.reply p n e) 0x2606 0) := by
  obtain ⟨block, hblock⟩ := Option.ne_none_iff_exists'.mp hblock
  show execKickerLoad p n e host k s = _
  rw [execKickerLoad, entryCmd_of_reads _ hf hr, ← hu]
  simp only [hblock, hbytes]
  cases hlegal : k.legal (u.model k.mslot) with
  | false => rfl
  | true =>
    rcases h with h | h | h
    · exact absurd (hlegal.symm.trans h) (by decide)
    · simp only [h, Bool.not_true, Bool.false_eq_true, if_false]
    · cases u.serve.kickerSlot <;> simp only [h, Bool.not_true, Bool.false_eq_true, if_false]

/-- A version that finds its place is written there, and its name is switched to it. -/
theorem exec_kickerLoad_loads {i base : Nat} {v : State} (hlegal : k.legal (u.model k.mslot) = true) (hslot : u.serve.kickerSlot = some i)
    (hplace : u.poolPlace k.bytes = some base) (hw : u.writeDev base bs none = some v) :
    exec (.kickerLoad p n e host k) s =
      .next ((v.modServe (fun q => q.putVersion i (k.version base))).adminRecord (u.reply p n e) 0 0) := by
  obtain ⟨block, hblock⟩ := Option.ne_none_iff_exists'.mp hblock
  show execKickerLoad p n e host k s = _
  rw [execKickerLoad, entryCmd_of_reads _ hf hr, ← hu]
  simp only [hblock, hbytes, hlegal, hslot, hplace, hw, Bool.not_true, Bool.false_eq_true, if_false]
  rfl

end Load

/-- A drop takes the name from its current version; a name without one refuses it. -/
theorem exec_kickerDrop {p : Port} {n : Fin 16} {e : BitVec 256} {s u : State} (hf : entryFits 0x31 e = true)
    (hr : s.readsEntry p n e = true) (hu : u = s.entryTaken p n e) {name : Nat} (hname : name = argOf e % 2 ^ 32) :
    exec (.kickerDrop p n e) s = .next (if (u.serve.kickerOf name).isSome then (u.modServe (fun v => v.dropName name)).adminRecord (u.reply p n e) 0 0
      else u.adminRecord (u.reply p n e) 0x2606 0) := by
  show execKickerDrop p n e s = _
  rw [execKickerDrop, entryCmd_of_reads _ hf hr, ← hu, ← hname]
  cases u.serve.kickerOf name <;> simp

/-- Settles O60: one lemma of this file for each fate of a load, and the drop. -/
theorem kickerCommands : Obligations.KickerCommands := by
  refine ⟨?load, ?drop⟩
  case load =>
    rintro p n e host k s u a ha hf hr hu
    have hreply : u.reply p n e = a := by rw [hu, State.entryTaken_reply, State.hostStore_time, ha]
    rw [← hreply]
    exact ⟨exec_kickerLoad_unread hf hr hu, fun bs hblock hbytes => ⟨exec_kickerLoad_refused hf hr hu hblock hbytes,
      fun i base v hlegal hslot hplace hw => exec_kickerLoad_loads hf hr hu hblock hbytes hlegal hslot hplace hw⟩⟩
  case drop =>
    rintro p n e s u a name ha hf hr hu hname
    rw [exec_kickerDrop hf hr hu hname, show u.reply p n e = a by rw [hu, State.entryTaken_reply, ha]]
    exact ⟨fun h => by rw [if_pos h], fun h => by rw [h]; rfl⟩

end Sys2Proof.Machine
end

section
/-! SUPPORT. Rings: the record that is written or dropped, and the writes of a ring's first and third registers. -/

namespace Sys2Proof.Machine

open Sys2Proof

/-! COMPLETION_RECORD_WRITE (R242, R327, R329). -/

/-- A ring past the record at CQ_TAIL. -/
def Ring.pastRecord (r : Ring) : Ring :=
  { r with cqTail := r.cqTail + 1, cqPhase := if (r.cqTail + 1).toNat % 2 ^ r.log2cq.toNat = 0 then !r.cqPhase else r.cqPhase }

/-- The 1,024 bits of record `c` as they are written at time `t` into ring `r`. -/
def CompRec.written (c : CompRec) (r : Ring) (t : Nat) : Nat :=
  setFld (setFld c.bits 512 32 (min ((t - c.tCommit) / 100) (2 ^ 32 - 1))) 1023 1 (b2n r.cqPhase)

/-- The host address of the record at CQ_TAIL. -/
def Ring.recordAddr (r : Ring) : Nat := r.cqBase.toNat + 128 * (r.cqTail.toNat % 2 ^ r.log2cq.toNat)

@[simp] theorem State.hostPut_ringFn (s : State) (p q : Port) (n a : Nat) (bs : List Nat) : (s.hostPut p a bs).ringFn q n = s.ringFn q n := by
  cases p <;> cases q <;> rfl

/-- Access to the serving state and to a port do not meet. -/
theorem State.modServe_modPort (s : State) (p : Port) (f : PortSt → PortSt) (g : Serve → Serve) :
    (s.modPort p f).modServe g = (s.modServe g).modPort p f := by
  cases p <;> rfl

theorem State.modRing_congr (s : State) (p : Port) (n : Nat) {f g : Ring → Ring} (h : f (s.ring p n) = g (s.ring p n)) :
    s.modRing p n f = s.modRing p n g := by
  simp only [State.modRing, State.modServe]
  rw [Tbl.upd_congr _ _ _ h]

/-- The ring goes past a record whatever becomes of the record at its port. -/
theorem State.modPort_pastRecord {s : State} {p : Port} {n : Nat} {r : Ring} (hr : r = s.ring p n) (f : PortSt → PortSt) :
    (s.modPort p f).modRing p n (fun q => { q with
      cqTail := q.cqTail + 1, cqPhase := if (q.cqTail + 1).toNat % 2 ^ r.log2cq.toNat = 0 then !q.cqPhase else q.cqPhase }) =
      (s.modRing p n Ring.pastRecord).modPort p f := by
  rw [State.modRing, State.modServe_modPort, ← State.modRing, State.modRing_congr s p n (g := Ring.pastRecord)]
  rw [← hr]
  rfl

section Record

variable {s u : State} {c : CompRec} {p : Port} {n a fn : Nat} {r : Ring} (hp : c.port = p) (hn : c.ring = n) (hr : r = s.ring p n)
  (ha : a = r.recordAddr) (hfn : fn = s.ringFn p n) (hu : u = s.modRing p n Ring.pastRecord)
include hp hn hr ha hfn hu

/-- A record whose place a window grants is written and counted; an armed ring's vector is sent and ARMED cleared. -/
theorem State.putRecord_granted {w : State} (hg : (s.port p).grants fn a 128 true = true)
    (hw : w = (u.hostPut p a (leBytes 128 (c.written r s.time))).count (fun k => { k with records := k.records + 1 })) :
    s.putRecord c = if r.armed then (w.sendVector p fn r.vector.toNat).modRing p n (fun r => { r with armed := false }) else w := by
  have hvec : w.ringVector p n = w.sendVector p fn r.vector.toNat := by
    have hwfn : w.ringFn p n = fn := by subst hw hu hfn; exact State.hostPut_ringFn _ _ _ _ _ _
    have hring : w.ring p n = r.pastRecord := by
      rw [hw, hu, hr, State.ring, State.count_serve, State.hostPut_serve, ← State.ring, State.modRing_ring_self]
    rw [State.ringVector, hwfn, hring]
    rfl
  rw [← hvec, hw, hu, State.hostPut, ← State.modPort_pastRecord hr]
  subst hp hn hr ha hfn
  exact if_pos hg

/-- A record whose place no window grants is dropped, counted and reported. -/
theorem State.putRecord_dropped (hg : (s.port p).grants fn a 128 true = false) :
    s.putRecord c = (u.modPort p (fun q => { q with cqDrop := q.cqDrop + 1 })).report
      { code := 0x0912, detail := n, kind := .port, unit := p.num, func := fn, ports := 2 ^ p.num } := by
  rw [hu, ← State.modPort_pastRecord hr]
  subst hp hn hr ha hfn
  exact if_neg (Bool.eq_false_iff.mp hg)

end Record

/-- Record `c` taken from those that wait. -/
def State.withoutRecord (s : State) (c : CompRec) : State := s.modServe (fun v => { v with records := v.records.erase c })

/-- The oldest waiting record of a ring that has room is taken from those that wait. -/
theorem exec_completionRecordWrite {p : Port} {n : Fin 16} {s : State} {c : CompRec}
    (hc : s.serve.records.find? (fun x => x.port == p && x.ring == n.val) = some c) (ha : s.alive = true) (hroom : (s.ring p n).room = true) :
    exec (.completionRecordWrite p n) s = .next ((s.withoutRecord c).putRecord c) := by
  show execCompletionRecordWrite p n s = _
  simp only [execCompletionRecordWrite, hc, ha, hroom, Bool.not_true, Bool.or_self, Bool.false_eq_true, if_false]
  rfl

/-! Writes of a ring's registers (R221, R329, R330, R435). -/

/-- The offsets of the two intake blocks. -/
theorem blockOf_intakes {a : Nat} (hle : 0x30000 ≤ a) (hlt : a < 0x30800) :
    blockOf a = some (.intake (Port.ofBit ((a - 0x30000) / 0x400)), a % 0x400) := by
  have hbelow : ∀ b, b ≤ 0x30000 → ¬ a < b := fun b hb => by omega
  simp only [blockOf, hbelow _, Nat.reduceLeDiff, if_false, hlt, if_true]

/-- An offset in an intake block lies in that block. -/
theorem blockOf_intake (p : Port) {o : Nat} (h : o < 0x400) : blockOf ((Blk.intake p).base + o) = some (.intake p, o) := by
  cases p with
  | A =>
    have hbit : (0x30000 + o - 0x30000) / 0x400 = 0 := by omega
    have hoff : (0x30000 + o) % 0x400 = o := by omega
    show blockOf (0x30000 + o) = _
    rw [blockOf_intakes (by omega) (by omega), hbit, hoff]
    rfl
  | B =>
    have hbit : (0x30400 + o - 0x30000) / 0x400 = 1 := by omega
    have hoff : (0x30400 + o) % 0x400 = o := by omega
    show blockOf (0x30400 + o) = _
    rw [blockOf_intakes (by omega) (by omega), hbit, hoff]
    rfl

/-- A write of register `i` of a ring that is not refused has its effect: an intake block lies in no domain that could be low. -/
theorem State.regWrite_ring {q : Requester} {p : Port} {n : Fin 16} {i v o : Nat} {s : State} (hi : i < 4) (ho : o = 0x40 * n + 8 * i)
    (hr : s.reaches q = true) (ht : s.takesWrites (.intake p) o = true) (hw : s.writeRefused q (.intake p) o v = none) :
    s.regWrite q ((Blk.intake p).base + o) v = s.writeIntake p n i v := by
  have hreg : o % 0x40 < 0x20 := by omega
  have hring : o / 0x40 = n.val := by omega
  have hplace : o % 0x40 / 8 = i := by omega
  rw [State.regWrite_applies hr (blockOf_intake p (by omega)) ht hw]
  show s.applyWrite q (.intake p) o v = _
  simp only [State.applyWrite, hreg, if_true, hring, hplace]

/-- RING_ENABLE and RING_DISABLE are the writes of a ring's first register, by the value's ENABLE. -/
theorem exec_ringWrite {q : Requester} {p : Port} {n : Fin 16} {v : BitVec 64} {s : State} (hr : s.reaches q = true)
    (ht : s.takesWrites (.intake p) (0x40 * n) = true) (hw : s.writeRefused q (.intake p) (0x40 * n) v.toNat = none) :
    exec (if bit v.toNat 0 then .ringEnable q p n v else .ringDisable q p n v) s = .next (s.writeRing0 p n v.toNat) := by
  have hreg : s.regWrite q ((Blk.intake p).base + 0x40 * n) v.toNat = s.writeRing0 p n v.toNat :=
    State.regWrite_ring (i := 0) (by decide) rfl hr ht hw
  cases hv : bit v.toNat 0 with
  | true =>
    show execRingEnable q p n v s = _
    rw [execRingEnable, if_pos hv, hreg]
  | false =>
    show execRingDisable q p n v s = _
    rw [execRingDisable, if_neg (Bool.eq_false_iff.mp hv), hreg]

/-- A disabled ring takes VECTOR and LOG2_ENT, and starts where ENABLE is asked for and the settings are legal. -/
theorem State.writeRing0_disabled {s : State} {p : Port} {n v : Nat} {r : Ring} (hdis : (s.ring p n).enable = false)
    (hr : r = { s.ring p n with vector := BitVec.ofNat 8 (v / 256), log2ent := BitVec.ofNat 4 (v / 16) }) :
    s.writeRing0 p n v = s.modRing p n (fun _ => if bit v 0 && s.ringLegal p n r then r.start else r) := by
  subst hr
  exact if_neg (Bool.eq_false_iff.mp hdis)

theorem exec_cqHeadWrite {q : Requester} {p : Port} {n : Fin 16} {v : BitVec 64} {s : State} (hr : s.reaches q = true)
    (ht : s.takesWrites (.intake p) (0x40 * n + 0x10) = true) (hw : s.writeRefused q (.intake p) (0x40 * n + 0x10) v.toNat = none) :
    exec (.cqHeadWrite q p n v) s = .next (s.writeRing2 p n v.toNat) := by
  show Host.Outcome.next (s.regWrite q ((Blk.intake p).base + 0x40 * n + 0x10) v.toNat) = _
  rw [Nat.add_assoc, State.regWrite_ring (i := 2) (by decide) rfl hr ht hw]
  rfl

/-- The third register's write: LOG2_CQ while the ring is disabled, and then the head, by its place between CQ_HEAD and CQ_TAIL. -/
theorem State.writeRing2_eq {s u : State} {p : Port} {n v : Nat} {r : Ring} {h : BitVec 16} (hr : r = s.ring p n) (hh : h = BitVec.ofNat 16 (fld v 32 16))
    (hu : u = s.modRing p n (fun r => if r.enable then r else { r with log2cq := BitVec.ofNat 4 v })) :
    s.writeRing2 p n v =
      if (h - r.cqHead).toNat ≤ (r.cqTail - r.cqHead).toNat then
        if h = r.cqTail then u.modRing p n (fun r => { r with cqHead := h, armed := true })
        else (u.modRing p n (fun r => { r with cqHead := h })).sendVector p (s.ringFn p n) r.vector.toNat
      else u.report { code := 0x0913, detail := n, kind := .port, unit := p.num, func := s.ringFn p n, ports := 2 ^ p.num } := by
  have hring : u.ring p n = if r.enable then r else { r with log2cq := BitVec.ofNat 4 v } := by rw [hu, hr, State.modRing_ring_self]
  have hhead : (u.ring p n).cqHead = r.cqHead := by rw [hring]; split_ifs <;> rfl
  have htail : (u.ring p n).cqTail = r.cqTail := by rw [hring]; split_ifs <;> rfl
  have hvec : (u.ring p n).vector = r.vector := by rw [hring]; split_ifs <;> rfl
  have hfn : u.ringFn p n = s.ringFn p n := by rw [hu]; cases p <;> rfl
  have hsend : (u.modRing p n (fun r => { r with cqHead := h })).ringVector p n =
      (u.modRing p n (fun r => { r with cqHead := h })).sendVector p (s.ringFn p n) r.vector.toNat := by
    rw [State.ringVector, State.modRing_ring_self, ← hvec, ← hfn]
    cases p <;> rfl
  rw [State.writeRing2, ← hu, State.writeHead]
  simp only [← hh, hhead, htail, hfn, hsend]

/-- Settles O32: the record by its grant, the first register by ENABLE before and after, and the head by its place. -/
theorem ringCommands : Obligations.RingCommands := by
  refine ⟨?record, ?ring, ?head⟩
  case record =>
    rintro p n s u w c r a fn hc ha hr hroom hadr hfn hu
    obtain ⟨hp, hn⟩ : c.port = p ∧ c.ring = n.val := by simpa using List.find?_some hc
    rw [exec_completionRecordWrite hc ha (by rw [← hr, Ring.room, decide_eq_true hroom])]
    refine ⟨fun hg hw => ?_, fun hg => by rw [State.putRecord_dropped (s := s.withoutRecord c) hp hn hr hadr hfn hu hg]⟩
    rw [State.putRecord_granted (s := s.withoutRecord c) hp hn hr hadr hfn hu hg hw]
    exact ⟨fun harm => by rw [harm]; rfl, fun harm => by rw [if_pos harm]⟩
  case ring =>
    rintro q p n v s u r i hr ht hu hw rfl hring
    replace hu : u = s := hu
    subst hu
    rw [exec_ringWrite hr ht hw]
    refine ⟨fun hen => by rw [State.writeRing0, if_pos hen], fun hdis hv hlegal => ?_, fun hdis hbad => ?_⟩
    · rw [State.writeRing0_disabled hdis hring, hv, hlegal]
      rfl
    · have hstay : (bit v.toNat 0 && u.ringLegal p n r) = false := by rcases hbad with h | h <;> simp [h]
      rw [State.writeRing0_disabled hdis hring, hstay]
      rfl
  case head =>
    rintro q p n v s u r h hr ht hw hring hh hu
    rw [exec_cqHeadWrite hr ht hw, State.writeRing2_eq hring hh hu]
    refine ⟨fun hle heq => ?_, fun hle hne => ?_, fun hlt => ?_⟩
    · rw [if_pos hle, if_pos heq]
    · rw [if_pos hle, if_neg hne]
    · rw [if_neg (Nat.not_le.mpr hlt)]

end Sys2Proof.Machine
end

section
/-! SUPPORT. REQUEST and CANCEL: the request that an entry describes, its refusals, its wait for a model, and its admission with a new
session. -/

namespace Sys2Proof.Machine

open Sys2Proof

/-! Admission (R229, R245, R251). -/

/-- The entry of a new session for request `r`. -/
def Req.freshSession (r : Req) (gen : Nat) : Session :=
  { state := .busy, port := r.port, ring := r.ring, domain := r.desc.domain, mslot := r.desc.mslot, stake := r.desc.stake, prio := r.desc.prio
    hgen := gen }

@[simp] theorem Session.named_state (x : Session) (d : Desc) : (x.named d).state = x.state := by unfold Session.named; split_ifs <;> rfl
@[simp] theorem Session.named_port (x : Session) (d : Desc) : (x.named d).port = x.port := by unfold Session.named; split_ifs <;> rfl
@[simp] theorem Session.named_ring (x : Session) (d : Desc) : (x.named d).ring = x.ring := by unfold Session.named; split_ifs <;> rfl
@[simp] theorem Session.named_domain (x : Session) (d : Desc) : (x.named d).domain = x.domain := by unfold Session.named; split_ifs <;> rfl

/-- A request that continues and forks none opens the lowest free session. -/
theorem State.openSession_new {s : State} {r : Req} {i : Nat} (hb : r.desc.base = none) (hi : s.freeSess = some i) :
    s.openSession r = some (i, s.modSess i (fun x => (r.freshSession x.hgen).named r.desc)) := by
  simp only [State.openSession, hb, hi]
  rfl

theorem State.baseTail_new {s : State} {p : Port} {n : Nat} {d : Desc} (hb : d.base = none) : s.baseTail p n d = 0 := by
  simp only [State.baseTail, hb]

theorem State.moveUsed_used (s : State) (k : Nat) (d : Int) :
    ((s.moveUsed k d).serve.run k).used = (Int.ofNat ((s.serve.run k).usedAt (s.serve.stake k) s.time) + d).toNat := by
  simp [State.moveUsed, Serve.run]

/-- A reference on kicker version `k`, if there is one. -/
def State.holdKicker (s : State) (k : Option Nat) : State :=
  match k with
  | some c => s.modServe (fun v => { v with kickers := Tbl.upd none c (Option.map (fun (y : Kicker) => { y with refs := y.refs + 1 })) v.kickers })
  | none => s

/-- Request `q` put in the place of number `rid`. -/
def State.putReq (s : State) (rid : Nat) (q : Req) : State :=
  s.modServe (fun v => { v with reqs := v.reqs.filter (fun x => x.rid != rid) ++ [q] })

theorem State.mem_putReq (s : State) (rid : Nat) (q : Req) : q ∈ (s.putReq rid q).serve.reqs := by simp [State.putReq]

@[simp] theorem State.holdKicker_mem (s : State) (k : Option Nat) : (s.holdKicker k).mem = s.mem := by cases k <;> rfl
@[simp] theorem State.holdKicker_glob (s : State) (k : Option Nat) : (s.holdKicker k).glob = s.glob := by cases k <;> rfl
@[simp] theorem State.holdKicker_sess (s : State) (k : Option Nat) (i : Nat) : (s.holdKicker k).sess i = s.sess i := by cases k <;> rfl
@[simp] theorem State.holdKicker_run (s : State) (k : Option Nat) (j : Nat) : (s.holdKicker k).serve.run j = s.serve.run j := by cases k <;> rfl

/-- The descriptor of an admitted request: its priority is at most its stake's. -/
def Desc.within (d : Desc) (e : StakeEntry) : Desc := { d with prio := min d.prio e.maxPrio }

/-- A request whose stake is enabled and has its units takes its session, the units and its kicker version, and replaces the waiting one. -/
theorem State.letIn_admits {s t : State} {r : Req} {e : StakeEntry} {d : Desc} {i tail res : Nat} (he : e = s.serve.stake r.desc.stake)
    (hd : d = r.desc.within e) (htail : tail = s.baseTail r.port r.ring d) (hres : res = stakeUnits e (d.basepos + d.ntok - tail) 0 d.maxNew)
    (hen : e.enable = true) (hfit : (s.serve.run r.desc.stake).usedAt e s.time + res ≤ e.budget)
    (hopen : s.openSession { r with desc := d } = some (i, t)) :
    ∃ q kick, s.letIn r = (((t.moveUsed r.desc.stake (Int.ofNat res)).holdKicker kick).putReq r.rid q).count
        (fun c => { c with reqAdmitted := c.reqAdmitted + 1 }) ∧
      q.rid = r.rid ∧ q.phase = (if (d.base.isNone || d.fork) && tail == 0 then .walk else .prefill) ∧ q.sess = i ∧ q.tokens = r.tokens ∧
      q.reserved = res := by
  have hunits : ¬ (e.enable = false ∨ e.budget < res) := by
    rintro (h | h)
    · simp [hen] at h
    · omega
  have hroom : ¬ e.budget < (s.serve.run r.desc.stake).usedAt e s.time + res := by omega
  subst hres htail hd he
  rw [State.letIn]
  simp only [Desc.within] at hunits hroom hopen
  simp only [if_neg hunits, if_neg hroom, hopen]
  exact ⟨_, _, rfl, rfl, rfl, rfl, rfl, rfl⟩

/-- What an admission leaves in the session, the stake's run, the counters and memory. -/
theorem State.admission_parts {s t : State} {f : Session → Session} {i k rid res : Nat} {kick : Option Nat} {q : Req}
    (ht : t = ((((s.modSess i f).moveUsed k (Int.ofNat res)).holdKicker kick).putReq rid q).count (fun c => { c with reqAdmitted := c.reqAdmitted + 1 })) :
    t.sess i = f (s.sess i) ∧ (t.serve.run k).used = (s.serve.run k).usedAt (s.serve.stake k) s.time + res ∧
      t.glob.cnt.reqAdmitted = s.glob.cnt.reqAdmitted + 1 ∧ t.mem = s.mem := by
  subst ht
  refine ⟨?_, ?_, ?_, ?_⟩
  · exact (State.holdKicker_sess _ kick i).trans (s.modSess_sess_self i f)
  · exact congrArg StakeRun.used (State.holdKicker_run _ kick k) |>.trans (State.moveUsed_used _ k _)
  · exact congrArg (fun g : Glob => g.cnt.reqAdmitted + 1) (State.holdKicker_glob _ kick)
  · exact State.holdKicker_mem _ kick

/-- A checked request for a new session, whose model is READY and whose stake has the units, is admitted: its session is BUSY for it, and the
units are reserved in the present interval. -/
theorem State.enter_admits {s : State} {r : Req} {i res : Nat} {x : StakeEntry} (hm : (s.model r.desc.mslot).state = .ready)
    (hb : r.desc.base = none) (hi : s.freeSess = some i) (hx : x = s.serve.stake r.desc.stake) (hen : x.enable = true)
    (hres : res = stakeUnits x (r.desc.basepos + r.desc.ntok) 0 r.desc.maxNew) (hfit : (s.serve.run r.desc.stake).usedAt x s.time + res ≤ x.budget) :
    ∃ t q, s.enter r = t ∧ q ∈ t.serve.reqs ∧ q.rid = r.rid ∧ q.phase = .walk ∧ q.sess = i ∧ q.tokens = r.tokens ∧ q.reserved = res ∧
      (t.sess i).state = .busy ∧ (t.sess i).port = r.port ∧ (t.sess i).ring = r.ring ∧ (t.sess i).domain = r.desc.domain ∧
      (t.serve.run r.desc.stake).used = (s.serve.run r.desc.stake).usedAt x s.time + q.reserved ∧
      t.glob.cnt.reqAdmitted = s.glob.cnt.reqAdmitted + 1 ∧ t.mem = s.mem := by
  have hnew : (r.desc.within x).base = none := hb
  have htail : 0 = s.baseTail r.port r.ring (r.desc.within x) := (State.baseTail_new hnew).symm
  obtain ⟨q, kick, hin, hrid, hphase, hsess, htoks, hqres⟩ := State.letIn_admits hx rfl htail hres hen hfit (State.openSession_new hnew hi)
  obtain ⟨hopened, hused, hcount, hmem⟩ := State.admission_parts hin
  have henter : s.enter r = s.letIn r := if_pos hm
  refine ⟨_, q, henter, hin ▸ State.mem_putReq _ _ _, hrid, ?walk, hsess, htoks, hqres, ?_, ?_, ?_, ?_, ?used, hcount, hmem⟩
  case walk => simpa [hnew] using hphase
  case used => rw [hused, hqres, hx]
  all_goals simp [hopened, Req.freshSession, Desc.within]

/-! REQUEST (R225, R226, R229). -/

/-- The descriptor that an entry names; one of no session where it cannot be read. -/
def State.entryDesc (s : State) (p : Port) (n : Nat) (e : BitVec 256) : Desc :=
  match s.hostRead p (s.ringFn p n) (descOf e) 128 with
  | some bs => Desc.ofBytes bs
  | none => { session := noIndex }

/-- A descriptor on ring `n`, with the stake of the ring's seat (R336). -/
def PortSt.seatStake (q : PortSt) (n : Nat) (d : Desc) : Desc :=
  if q.seatMode && n != 0 then { d with stake := (q.seat n).stake.toNat } else d

/-- The request that an entry describes, before its checks. -/
def State.requestOf (s : State) (p : Port) (n : Nat) (e : BitVec 256) : Req :=
  { rid := s.serve.nextRid, port := p, ring := n, cookie := cookieOf e, desc := (s.port p).seatStake n (s.entryDesc p n e), tokens := []
    phase := .waitModel, tCommit := s.time }

section Request

variable {s u : State} {p : Port} {n : Nat} {e : BitVec 256} {r : Req} (hu : u = s.modServe (fun v => { v with nextRid := v.nextRid + 1 }))
  (hr : r = s.requestOf p n e)
include hu hr

theorem State.readRequest_unread (h : u.hostRead p (u.ringFn p n) (descOf e) 128 = none) : s.readRequest p n e = u.refuseReq r 0x2604 := by
  subst hu hr
  replace h : s.hostRead p (s.ringFn p n) (descOf e) 128 = none := h
  simp only [State.readRequest, h, State.requestOf, State.entryDesc, PortSt.seatStake]
  rfl

/-- A descriptor that was read meets its checks. -/
theorem State.readRequest_read (h : u.hostRead p (u.ringFn p n) (descOf e) 128 ≠ none) :
    s.readRequest p n e = (u.checkDesc p n r.desc false).elim (u.enter { r with tokens := words32 (u.hostGet p r.desc.tokens (4 * r.desc.ntok)) })
      (fun code => u.refuseReq r code) := by
  subst hu hr
  obtain ⟨bs, hbs⟩ := Option.ne_none_iff_exists'.mp h
  replace hbs : s.hostRead p (s.ringFn p n) (descOf e) 128 = some bs := hbs
  simp only [State.readRequest, hbs, State.requestOf, State.entryDesc, PortSt.seatStake]
  generalize State.checkDesc _ p n _ false = o
  cases o <;> rfl

end Request

@[simp] theorem State.entryTaken_nextRid (s : State) (p : Port) (n : Nat) (e : BitVec 256) : (s.entryTaken p n e).serve.nextRid = s.serve.nextRid := by
  rw [State.entryTaken, State.wake_eq]
  rfl

@[simp] theorem State.entryTaken_port (s : State) (p q : Port) (n : Nat) (e : BitVec 256) : (s.entryTaken p n e).port q = s.port q := by
  rw [State.entryTaken, State.wake_eq]
  cases q <;> rfl

/-- What the host stores moves no seat. -/
theorem State.hostStore_seatStake (s : State) (p : Port) (cs : Cells) (n : Nat) (d : Desc) :
    ((s.hostStore p cs).port p).seatStake n d = (s.port p).seatStake n d := by
  cases p <;> rfl

/-- The entry's command is the reading of its request. -/
theorem exec_request {p : Port} {n : Fin 16} {e : BitVec 256} {host : Cells} {s : State} (hf : entryFits 0x01 e = true)
    (hr : (s.hostStore p host).readsEntry p n e = true) :
    exec (.request p n e host) s = .next (((s.hostStore p host).entryTaken p n e).readRequest p n e) :=
  entryCmd_of_reads _ hf hr

/-! CANCEL (R253). -/

/-- A cancel ends the request that it names, at once where it is not admitted yet, and is answered 0 where it names none. -/
theorem exec_cancel {p : Port} {n : Fin 16} {e : BitVec 256} {s u : State} {o : Option Req} (hf : entryFits 0x02 e = true)
    (hr : s.readsEntry p n e = true) (hu : u = s.entryTaken p n e) (ho : u.serve.reqs.find? (fun r => r.isNamed p n (argOf e)) = o) :
    exec (.cancel p n e 0) s = .next (o.elim (u.adminRecord (u.reply p n e) 0 0)
      (fun r => if r.admitted then u.endSoon r 0x2609 else u.refuseReq r 0x2609)) := by
  show execCancel p n e 0 s = _
  rw [execCancel, if_pos rfl, entryCmd_of_reads _ hf hr, ← hu, State.cancel, ho]
  cases o <;> rfl

/-- Settles O26: a request by the fate of its descriptor, its model and its stake, and a cancel by the request that it names. -/
theorem requestsEnter : Obligations.RequestsEnter := by
  refine ⟨?request, ?cancel⟩
  case request =>
    rintro p n e host s u r hf hr hu hreq
    have hof : r = ((s.hostStore p host).entryTaken p n e).requestOf p n e := by
      rw [State.requestOf, State.entryTaken_nextRid, State.hostStore_serve, State.entryTaken_time, State.hostStore_time, State.entryTaken_port,
        State.hostStore_seatStake, hreq, hu]
      rfl
    obtain ⟨hport, hring, hwaits⟩ : r.port = p ∧ r.ring = n.val ∧ r.phase = .waitModel := by rw [hreq]; exact ⟨rfl, rfl, rfl⟩
    rw [exec_request hf hr]
    refine ⟨fun hnone => by rw [State.readRequest_unread hu hof hnone], fun hread => ⟨fun code hc => ?refused, ?passed⟩⟩
    case refused => rw [State.readRequest_read hu hof hread, hc]; rfl
    case passed =>
      rintro toks hc rfl
      rw [State.readRequest_read hu hof hread, hc]
      refine ⟨fun hm => ⟨_, rfl, ?_⟩, fun i x hm hb hi hx hen hfit => ?_⟩
      · exact (if_neg hm).trans (by rw [← hwaits])
      · obtain ⟨t, q, henter, hin, hrid, hphase, hsess, htoks, hres, hbusy, hsport, hsring, hparts⟩ :=
          State.enter_admits (r := { r with tokens := words32 (u.hostGet p r.desc.tokens (4 * r.desc.ntok)) }) hm hb hi hx hen rfl hfit
        exact ⟨t, q, congrArg _ henter, hin, hrid, hphase, hsess, htoks, hres, hbusy, hsport.trans hport, hsring.trans hring, hparts⟩
  case cancel =>
    rintro p n e s u hf hr hu
    refine ⟨fun r hfound => ⟨fun hadm => ?_, fun hadm => ?_⟩, fun hnone => ?_⟩
    · rw [exec_cancel hf hr hu hfound, Option.elim_some, hadm]
      rfl
    · rw [exec_cancel hf hr hu hfound, Option.elim_some, if_pos hadm]
    · rw [exec_cancel hf hr hu hnone, ← s.entryTaken_reply, ← hu]
      rfl

end Sys2Proof.Machine
end

section
/-! SUPPORT. Pegs: what a read of a peg gives after each update, and what an operation, a claim and a MONITOR leave at their home. -/

namespace Sys2Proof.Machine

open Sys2Proof

/-! A peg read after an update (R257). -/

@[simp] theorem State.setPeg_peg_self (s : State) (h : Home) (p : Nat) (v : Peg) : (s.setPeg h p v).peg h p = v := by
  cases h with
  | core c => simp [State.setPeg, State.peg]
  | coll => simp [State.setPeg, State.peg]

theorem State.setPeg_peg_other (s : State) {h h' : Home} {p p' : Nat} (hne : (h', p') ≠ (h, p)) (v : Peg) :
    (s.setPeg h p v).peg h' p' = s.peg h' p' := by
  have hp : h' = h → p' ≠ p := by rintro rfl rfl; exact hne rfl
  cases h with
  | coll =>
    cases h' with
    | coll => exact Tbl.get_set_other {} (hp rfl) v _
    | core c' => rfl
  | core c =>
    cases h' with
    | coll => rfl
    | core c' =>
      by_cases hc : c' = c
      · subst hc
        simp [State.setPeg, State.peg, hp rfl]
      · simp [State.setPeg, State.peg, hc]

theorem State.modCore_peg (s : State) (c : Nat) {f : Core → Core} (hf : ∀ k, (f k).pegs = k.pegs) (h : Home) (p : Nat) :
    (s.modCore c f).peg h p = s.peg h p := by
  cases h with
  | coll => rfl
  | core d =>
    by_cases hd : d = c
    · subst hd
      simp [State.peg, hf]
    · simp [State.peg, hd]

@[simp] theorem State.modRun_peg (s : State) (c : Nat) (f : CoreRun → CoreRun) (h : Home) (p : Nat) : (s.modRun c f).peg h p = s.peg h p :=
  s.modCore_peg c (f := fun k => { k with run := f k.run }) (fun _ => rfl) h p

@[simp] theorem State.modRegs_peg (s : State) (c : Nat) (f : CoreRegs → CoreRegs) (h : Home) (p : Nat) : (s.modRegs c f).peg h p = s.peg h p :=
  s.modCore_peg c (f := fun k => { k with regs := f k.regs }) (fun _ => rfl) h p

theorem State.modSync_peg (s : State) {f : Sync → Sync} (hf : (f s.sync).pegs = s.sync.pegs) (h : Home) (p : Nat) :
    (s.modSync f).peg h p = s.peg h p := by
  cases h with
  | core c => rfl
  | coll => exact congrArg (Tbl.get {} p) hf

@[simp] theorem State.finishWait_peg (s : State) (c : Nat) (h : Home) (p : Nat) : (s.finishWait c).peg h p = s.peg h p := s.modRun_peg c _ h p

@[simp] theorem State.testColl_peg (s : State) (q : Nat) (h : Home) (p : Nat) : (s.testColl q).peg h p = s.peg h p := s.modSync_peg rfl h p

@[simp] theorem State.testColl_core (s : State) (q c : Nat) : (s.testColl q).core c = s.core c := rfl

@[simp] theorem State.wordFault_peg (s : State) (c code : Nat) (h : Home) (p : Nat) : (s.wordFault c code).peg h p = s.peg h p := by
  rw [State.wordFault, State.modRun_peg, State.coreFault, State.modCore_peg]
  exact fun _ => rfl

/-! What an operation leaves at its home (R258). -/

/-- A core's board without a waiter completes nothing. -/
theorem State.testOwn_idle {s : State} {c : Nat} (hw : (s.core c).run.wait = none) (p : Nat) : s.testOwn c p = s := by
  unfold State.testOwn
  simp [hw]

/-- An ADD clamps VALUE and sets the flag of the side it clamped at. -/
theorem Peg.apply_add (v : Peg) (d : Int) : (v.apply (.add d)).1 = { v with
    value := (min (max (Int.ofNat v.value + d) 0) (2 ^ 24 - 1)).toNat
    satHi := v.satHi || decide (2 ^ 24 - 1 < Int.ofNat v.value + d), satLo := v.satLo || decide (Int.ofNat v.value + d < 0) } := by
  unfold Peg.apply
  dsimp only
  generalize Int.ofNat v.value + d = x
  split_ifs with hhi hlo
  · have hv : (min (max x 0) (2 ^ 24 - 1)).toNat = 2 ^ 24 - 1 := by omega
    rw [hv, decide_eq_true hhi, decide_eq_false (by omega), Bool.or_true, Bool.or_false]
  · have hv : (min (max x 0) (2 ^ 24 - 1)).toNat = 0 := by omega
    rw [hv, decide_eq_false hhi, decide_eq_true hlo, Bool.or_true, Bool.or_false]
  · have hv : (min (max x 0) (2 ^ 24 - 1)).toNat = x.toNat := by omega
    rw [hv, decide_eq_false hhi, decide_eq_false hlo, Bool.or_false, Bool.or_false]

/-- An ADD whose sum is in range clamps nothing. -/
theorem Peg.apply_add_unclamped {v : Peg} {d : Int} (h0 : 0 ≤ Int.ofNat v.value + d) (h1 : Int.ofNat v.value + d ≤ 2 ^ 24 - 1) :
    (v.apply (.add d)).2 = none := by
  unfold Peg.apply
  dsimp only
  rw [if_neg (by omega), if_neg (by omega)]

section Operation

variable {s : State} {h : Home} (hw : ∀ c, h = .core c → (s.core c).run.wait = none)
include hw

/-- Where no waiter of the board takes from it, a peg holds what the operation made, and no other peg changes. -/
theorem State.pegOp_peg (p src : Nat) (op : PegOp) (h' : Home) (p' : Nat) :
    (s.pegOp h p src op).peg h' p' = (s.setPeg h p ((s.peg h p).apply op).1).peg h' p' := by
  unfold State.pegOp
  obtain ⟨v, clamp⟩ := (s.peg h p).apply op
  dsimp only
  cases h with
  | core c =>
    have hidle : ((s.setPeg (.core c) p v).core c).run.wait = none := by simpa [State.setPeg] using hw c rfl
    cases clamp with
    | none =>
      dsimp only
      rw [State.testOwn_idle hidle]
    | some low =>
      dsimp only
      rw [State.testOwn_idle (by rw [State.modRegs_core_self]; exact hidle), State.modRegs_peg]
  | coll =>
    cases clamp with
    | none => exact State.testColl_peg _ p h' p'
    | some low => exact (State.testColl_peg _ p h' p').trans (State.modSync_peg _ rfl h' p')

/-- An operation that clamps nothing leaves every clamp record as it was (R279, R281). -/
theorem State.pegOp_records {p src : Nat} {op : PegOp} (hc : ((s.peg h p).apply op).2 = none) :
    (s.pegOp h p src op).sync.collStatus = s.sync.collStatus ∧
      ∀ d, ((s.pegOp h p src op).core d).regs.pegStatus = (s.core d).regs.pegStatus := by
  unfold State.pegOp
  generalize (s.peg h p).apply op = x at hc
  obtain ⟨v, clamp⟩ := x
  obtain rfl : clamp = none := hc
  dsimp only
  cases h with
  | core c =>
    have hidle : ((s.setPeg (.core c) p v).core c).run.wait = none := by simpa [State.setPeg] using hw c rfl
    dsimp only
    rw [State.testOwn_idle hidle]
    refine ⟨rfl, fun d => ?_⟩
    by_cases hd : d = c
    · subst hd
      simp [State.setPeg]
    · simp [State.setPeg, hd]
  | coll => exact ⟨rfl, fun d => rfl⟩

end Operation

/-! A claim at the collector (R258, R263). -/

/-- Core `c`'s claim of peg `p` taken out of those on their way. -/
def State.takeClaim (s : State) (c p : Nat) : State := s.modSync (fun y => { y with claims := y.claims.erase (c, p) })

/-- The ACQUIRE of core `c` that waits for peg `p` completes, if it still waits. -/
def State.grantClaim (s : State) (c p : Nat) : State :=
  match (s.core c).run.wait with
  | some w => if w.coll && w.acquire && w.peg == p then s.finishWait c else s
  | none => s

@[simp] theorem State.takeClaim_peg (s : State) (c q : Nat) (h : Home) (p : Nat) : (s.takeClaim c q).peg h p = s.peg h p := s.modSync_peg rfl h p

@[simp] theorem State.grantClaim_peg (s : State) (c q : Nat) (h : Home) (p : Nat) : (s.grantClaim c q).peg h p = s.peg h p := by
  unfold State.grantClaim
  split
  · split_ifs
    · exact s.finishWait_peg c h p
    · rfl
  · rfl

@[simp] theorem State.grantClaim_sync (s : State) (c q : Nat) : (s.grantClaim c q).sync = s.sync := by
  unfold State.grantClaim
  split
  · split_ifs <;> rfl
  · rfl

/-- A waiting word that completes has issued, and nothing waits any more. -/
theorem State.finishWait_waiting {s : State} {c : Nat} {x : PegWait} (hx : (s.core c).run.wait = some x) :
    s.finishWait c = s.modRun c (fun r => { CoreRun.issued x.word.toNat r with wait := none }) :=
  s.modRun_congr c (by rw [hx])

theorem State.grantClaim_waiting {s : State} {c p : Nat} {x : PegWait} (hx : (s.core c).run.wait = some x) (hc : x.coll = true)
    (hq : x.acquire = true) (hp : x.peg = p) : s.grantClaim c p = s.modRun c (fun r => { CoreRun.issued x.word.toNat r with wait := none }) := by
  unfold State.grantClaim
  rw [← State.finishWait_waiting hx]
  simp [hx, hc, hq, hp]

section Claim

variable {c : Fin 64} {p : Nat} {s : State} (ha : s.alive = true) (hf : s.sync.claims.find? (fun k => k.1 == c.val) = some (c.val, p))

include ha hf

theorem exec_pegClaim_succeeds (hv : 1 ≤ (s.peg .coll p).value) : exec (.pegClaim c) s = .next
    ((((s.takeClaim c p).setPeg .coll p { s.peg .coll p with value := (s.peg .coll p).value - 1 }).grantClaim c p).testColl p) := by
  have hclaim : ((s.takeClaim c p).peg .coll p).claim = ({ s.peg .coll p with value := (s.peg .coll p).value - 1 }, true) := if_pos hv
  show execPegClaim c s = _
  unfold State.takeClaim at hclaim
  simp only [execPegClaim, hf, ha, hclaim]
  rfl

theorem exec_pegClaim_fails (hv : (s.peg .coll p).value = 0) : exec (.pegClaim c) s = .next
    (((s.takeClaim c p).setPeg .coll p { s.peg .coll p with fails := min ((s.peg .coll p).fails + 1) 65535 }).modSync
      (fun y => { y with regs := y.regs ++ [{ core := c, peg := p, acquire := true, pred := 0, value := 1 }] })) := by
  have hclaim : ((s.takeClaim c p).peg .coll p).claim = ({ s.peg .coll p with fails := min ((s.peg .coll p).fails + 1) 65535 }, false) :=
    if_neg (by rw [State.takeClaim_peg]; omega)
  show execPegClaim c s = _
  unfold State.takeClaim at hclaim
  simp only [execPegClaim, hf, ha, hclaim]
  rfl

end Claim

/-! A MONITOR (R93, R262). -/

theorem State.runWord_peg {s : State} {c w : Nat} {check : Option Nat} {foot : Footprint} {ready : Bool} {run : State → State} {h : Home} {p : Nat}
    (hrun : (run s).peg h p = s.peg h p) : (s.runWord c w check foot ready run).peg h p = s.peg h p := by
  obtain e | ⟨code, e⟩ | e | e := s.runWord_cases c w check foot ready run <;> rw [e]
  · exact s.wordFault_peg c code h p
  · exact hrun
  · rw [State.modRun_peg, hrun]

/-- A MONITOR reads its peg: it completes, or it waits. -/
theorem execPegWait_monitor_peg {w : Word} (hop : (PWord.decode w.toNat).op = 3) (c : Fin 64) (s : State) (h : Home) (p : Nat) :
    (execPegWait c w s).peg h p = s.peg h p := by
  unfold execPegWait
  refine State.runWord_peg ?_
  have hmonitor : ((PWord.decode w.toNat).op == 2) = false := by rw [hop]; rfl
  simp only [hmonitor, Bool.false_eq_true, false_and, and_false, if_false]
  split_ifs
  · rfl
  · exact s.modRun_peg c _ h p

/-- Settles O15: SET and ADD through the home's operation, a claim by its two outcomes, and a MONITOR by what it leaves alone. -/
theorem pegOperations : Obligations.PegOperations := by
  refine ⟨?store, ?claim, ?monitor⟩
  case store =>
    intro n addr data s h p x ha hp hz ho hw hb
    obtain ⟨hset, hadd⟩ := (stewardPegAccesses n addr 8 data s s _ ha rfl).1 h p hp hz ho hb
    refine ⟨fun hop => ⟨_, hset hop, ?_, fun h' p' hne => ?_⟩, ?_⟩
    · have hfit : fld data.toNat 0 24 % 2 ^ 24 = fld data.toNat 0 24 := Nat.mod_mod _ _
      rw [State.pegOp_peg hw, State.setPeg_peg_self, Peg.apply, hfit]
    · rw [State.pegOp_peg hw, State.setPeg_peg_other s hne]
    · rintro hop rfl
      refine ⟨_, hadd hop, ?_, fun h' p' hne => ?_, fun h0 h1 => State.pegOp_records hw (Peg.apply_add_unclamped h0 h1)⟩
      · rw [State.pegOp_peg hw, State.setPeg_peg_self, Peg.apply_add]
      · rw [State.pegOp_peg hw, State.setPeg_peg_other s hne]
  case claim =>
    intro c p s ha hf
    refine ⟨fun hv => ⟨_, exec_pegClaim_succeeds ha hf hv, by simp⟩, fun hv => ⟨_, exec_pegClaim_fails ha hf hv, ?_⟩⟩
    rw [State.modSync_peg _ rfl, State.setPeg_peg_self]
  case monitor =>
    intro c w s t hown ht h p
    obtain ⟨-, hop⟩ := (Bool.and_eq_true _ _).mp hown
    have hword : coreWord (wIs 5 3 w.toNat) w.toNat (execPegWait c w s) = .next t := ht
    rw [← coreWord_next hword]
    exact execPegWait_monitor_peg (beq_iff_eq.mp hop) c s h p

end Sys2Proof.Machine
end

section
/-! SUPPORT. The messages between a core that waits on a collector peg and the collector, one command at a time (R262, R263, R276). -/

namespace Sys2Proof.Machine

open Sys2Proof

/-- A wake of core `c` taken out of those on their way. -/
def State.takeWake (s : State) (c p v : Nat) : State := s.modSync (fun y => { y with wakes := y.wakes.erase (c, p, v) })

/-- What a wake with value `v` makes of the wait `x` that it reaches (R262, R276). -/
def State.wokenBy (s : State) (c : Nat) (x : PegWait) (v : Nat) : State :=
  if x.expired s.time then s
  else if x.acquire then s.modSync (fun y => { y with claims := y.claims ++ [(c, x.peg)] })
  else if predHolds x.pred v x.value then s.finishWait c
  else s

section Woken

variable {s : State} {c v : Nat} {x : PegWait}

theorem State.wokenBy_acquire (hlt : s.time < x.started + 100 * x.limitUs) (hq : x.acquire = true) :
    s.wokenBy c x v = s.modSync (fun y => { y with claims := y.claims ++ [(c, x.peg)] }) := by
  have hopen : x.expired s.time = false := decide_eq_false (by omega)
  simp [State.wokenBy, hopen, hq]

theorem State.wokenBy_monitor (hlt : s.time < x.started + 100 * x.limitUs) (hq : x.acquire = false)
    (hholds : predHolds x.pred v x.value = true) : s.wokenBy c x v = s.finishWait c := by
  have hopen : x.expired s.time = false := decide_eq_false (by omega)
  simp [State.wokenBy, hopen, hq, hholds]

theorem State.wokenBy_nothing
    (hno : (x.acquire = false ∧ predHolds x.pred v x.value = false) ∨ x.started + 100 * x.limitUs ≤ s.time) : s.wokenBy c x v = s := by
  rcases hno with ⟨hq, hfails⟩ | hover
  · simp [State.wokenBy, hq, hfails]
  · have hpast : x.expired s.time = true := decide_eq_true hover
    simp [State.wokenBy, hpast]

end Woken

section Messages

variable {c : Fin 64} {s : State} {x : PegWait} (ha : s.alive = true) (hx : (s.core c).run.wait = some x) (hc : x.coll = true)
include ha hx hc

theorem exec_pegRegister (he : s.sync.engaged c = false) :
    exec (.pegRegister c) s = .next (s.register { core := c, peg := x.peg, acquire := x.acquire, pred := x.pred, value := x.value }) := by
  show execPegRegister c s = _
  simp only [execPegRegister, hx, ha, hc, he]
  rfl

theorem exec_pegWake {v : Nat} (hf : s.sync.wakes.find? (fun k => k.1 == c.val) = some (c.val, x.peg, v)) :
    exec (.pegWake c) s = .next ((s.takeWake c x.peg v).wokenBy c x v) := by
  have hcore : ∀ f, ((s.modSync f).core c).run.wait = some x := fun _ => hx
  show execPegWake c s = _
  simp only [execPegWake, hf, ha, hcore, hc, bne_self_eq_false]
  rw [if_neg (by decide), if_neg (by decide)]
  unfold State.wokenBy State.takeWake
  split_ifs <;> rfl

end Messages

/-- Settles O18: a registration by its first test, a wake by the wait that it reaches, and a claim by its two outcomes. -/
theorem pegMessages : Obligations.PegMessages := by
  intro c s ha
  refine ⟨?register, ?wake, ?claim⟩
  case register =>
    rintro x g hx hc he rfl
    rw [exec_pegRegister ha hx hc he, State.register]
    rfl
  case wake =>
    intro x v hf hx hc
    have hwake := exec_pegWake ha hx hc hf
    refine ⟨fun hq hlt => ?_, fun hq hholds hlt => ?_, fun hno => ?_⟩
    · rw [hwake, State.wokenBy_acquire (s := s.takeWake c x.peg v) hlt hq]
      rfl
    · rw [hwake, State.wokenBy_monitor (s := s.takeWake c x.peg v) hlt hq hholds, State.finishWait_waiting (s := s.takeWake c x.peg v) hx]
      rfl
    · rw [hwake, State.wokenBy_nothing (s := s.takeWake c x.peg v) hno]
      rfl
  case claim =>
    intro p hf
    refine ⟨fun x hv hx hc hq hp => ⟨_, exec_pegClaim_succeeds ha hf hv, ?_, ?_⟩, fun hv => ?_⟩
    · have hstill : (((s.takeClaim c p).setPeg .coll p { s.peg .coll p with value := (s.peg .coll p).value - 1 }).core c).run.wait = some x := hx
      rw [State.grantClaim_waiting hstill hc hq hp, State.testColl_core, State.modRun_core_self]
      rfl
    · exact congrArg Sync.claims (State.grantClaim_sync _ c p)
    · rw [exec_pegClaim_fails ha hf hv]
      rfl

end Sys2Proof.Machine
end

section
/-! SUPPORT. Barrier messages: a hand's arrival at the collector, and the two sync frames of a link (R268, R269, R303). -/

namespace Sys2Proof.Machine

open Sys2Proof

/-! A hand's arrival (R268). -/

/-- A hand's arrival that is on its way for an enabled group is counted; the last one of the pass completes the die phase. -/
theorem exec_handArrival {h : Fin 18} {g : Fin 7} {b : Bool} {s u : State} {d : GroupDecl} {n : Nat} (ha : s.alive = true)
    (hd : s.groupDecl g = some d) (hm : (h.val, g.val, b) ∈ s.sync.handMsgs)
    (hu : u = { s with sync := { s.sync with handMsgs := s.sync.handMsgs.erase (h.val, g.val, b) } }) (hn : n = (s.sync.group g).hand b + 1) :
    exec (.handArrival h g b) s = .next (
      if n = s.passHands.length then
        ((u.setPeg .coll d.arrivePeg { s.peg .coll d.arrivePeg with value := 0 }).modGroup g
          (fun x => x.setSense b (x.child b) 0 (some s.time))).chipPhase g d b
      else
        (u.setPeg .coll d.arrivePeg { s.peg .coll d.arrivePeg with value := n }).modGroup g
          (fun x => x.setSense b (x.child b) n (x.die b))) := by
  have hin : s.sync.handMsgs.contains (h.val, g.val, b) = true := List.contains_iff_mem.mpr hm
  have htaken : s.modSync (fun y => { y with handMsgs := y.handMsgs.erase (h.val, g.val, b) }) = u := hu.symm
  have hcount : (u.sync.group g).hand b + 1 = n := by rw [hn, hu]; rfl
  have hhands : u.passHands = s.passHands := by rw [hu]; rfl
  have hpeg : u.peg .coll d.arrivePeg = s.peg .coll d.arrivePeg := by rw [hu]; rfl
  have htime : ∀ v, (u.setPeg .coll d.arrivePeg v).time = s.time := by rw [hu]; exact fun _ => rfl
  show execHandArrival h g b s = _
  simp only [execHandArrival, hd, ha, hin, htaken, hcount, hhands, hpeg, htime]
  exact (apply_ite Host.Outcome.next _ _ _).symm

/-! What a frame's bookkeeping leaves alone (R289–R291). -/

@[simp] theorem State.taken_sync (s : State) (l : Nat) (f : Frame) : (s.taken l f).sync = s.sync := by
  simp [State.taken, State.countLink, State.countLinkBy]

theorem State.taken_running (s : State) (l : Nat) (f : Frame) : (s.taken l f).running = s.running := by simp [State.running]

theorem State.taken_groupDecl (s : State) (l : Nat) (f : Frame) (g : Nat) : (s.taken l f).groupDecl g = s.groupDecl g := by
  simp [State.groupDecl]

/-- The bookkeeping of an accepted frame changes neither SYNC_OK nor the latch of arrivals. -/
theorem State.taken_link (s : State) (l : Nat) (f : Frame) :
    ((s.taken l f).link l).syncOk = (s.link l).syncOk ∧ ((s.taken l f).link l).latch = (s.link l).latch := by
  have htook : ∀ (k : LinkSt) (x : Header), (k.took x).syncOk = k.syncOk ∧ (k.took x).latch = k.latch := by
    intro k x
    unfold LinkSt.took
    split_ifs <;> exact ⟨rfl, rfl⟩
  unfold State.taken State.countLink State.countLinkBy
  simp only [State.modLink_link_self]
  exact htook _ _

/-! The sync frames (R268, R269, R303). -/

section SyncFrames

variable {l : Fin 48} {f : Frame} {s u : State} {g : Nat} {b : Bool} (ht : s.takes l f = true) (hu : u = s.taken l f)
  (hg : g = fld f.head.args 0 3) (hb : b = bit f.head.args 3)
include ht hu

/-- A sync frame that its link takes has its effect where the link has SYNC_OK, and is malformed elsewhere. -/
theorem frameCmd_sync {type : Nat} (hf : frameFits type f = true) (act : State → State) :
    frameCmd type f (s.receiveIn l f LinkSt.syncOk act) =
      .next ((if (s.link l).syncOk then act u else u.malformed l).sendQueued l) := by
  rw [frameCmd_of_fits hf, State.receiveIn_takes LinkSt.syncOk act ht, (s.taken_link l f).1, ← hu]

theorem exec_syncArrive_unready (hf : frameFits 0x20 f = true) (hok : (s.link l).syncOk = false) :
    exec (.syncArrive l f) s = .next ((u.malformed l).sendQueued l) := by
  show execSyncArrive l f s = _
  simp only [execSyncArrive, frameCmd_sync ht hu hf, hok, Bool.false_eq_true, if_false]

/-- A SYNC_RELEASE is malformed on a link without SYNC_OK, and for a group that is not enabled. -/
theorem exec_syncRelease_unready (hf : frameFits 0x21 f = true)
    (hno : (s.link l).syncOk = false ∨ s.groupDecl (fld f.head.args 0 3) = none) :
    exec (.syncRelease l f) s = .next ((u.malformed l).sendQueued l) := by
  show execSyncRelease l f s = _
  rcases hno with hok | hd
  · simp only [execSyncRelease, frameCmd_sync ht hu hf, hok, Bool.false_eq_true, if_false]
  · have hnone : u.groupDecl (fld f.head.args 0 3) = none := by rw [hu, s.taken_groupDecl, hd]
    simp only [execSyncRelease, frameCmd_sync ht hu hf, hnone, ite_self]

include hg hb

/-- A SYNC_ARRIVE on a ready link: a child's arrival while a pass runs, else one for the latch, which holds it once. -/
theorem exec_syncArrive (hf : frameFits 0x20 f = true) (hok : (s.link l).syncOk = true) : exec (.syncArrive l f) s = .next (
    (if s.running.isSome then u.childArrival l g b
      else if (g, b) ∈ (s.link l).latch then u.malformed l
      else u.modLink l (fun k => { k with latch := k.latch ++ [(g, b)] })).sendQueued l) := by
  have hrunning : u.running = s.running := by rw [hu, s.taken_running]
  have hlatch : (u.link l).latch = (s.link l).latch := by rw [hu, (s.taken_link l f).2]
  show execSyncArrive l f s = _
  simp only [execSyncArrive, frameCmd_sync ht hu hf, hok, hrunning, hlatch, ← hg, ← hb, List.contains_iff_mem, if_true]

/-- A SYNC_RELEASE of an enabled group on a ready link: earned where this chip's arrival stands at that parent. -/
theorem exec_syncRelease {d : GroupDecl} (hf : frameFits 0x21 f = true) (hok : (s.link l).syncOk = true) (hd : s.groupDecl g = some d) :
    exec (.syncRelease l f) s = .next (
      (if d.hasParent = true ∧ d.parentLink = l.val ∧ b ∈ (s.sync.group g).upSent then u.releaseGroup g d b
        else u.malformed l).sendQueued l) := by
  have hdecl : u.groupDecl g = some d := by rw [hu, s.taken_groupDecl, hd]
  have hsync : u.sync = s.sync := by rw [hu, s.taken_sync]
  show execSyncRelease l f s = _
  simp only [execSyncRelease, frameCmd_sync ht hu hf, hok, ← hg, ← hb, hdecl, hsync, Bool.and_eq_true, beq_iff_eq, List.contains_iff_mem,
    and_assoc, if_true]

end SyncFrames

/-- Settles O21: a hand's arrival by whether it is the last, and a sync frame by its link, its group and what stands on this chip. -/
theorem barrierMessages : Obligations.BarrierMessages := by
  refine ⟨?hand, ?arrive, ?release, ?unearned⟩
  case hand =>
    intro h g b s u d n ha hd hm hu hn
    rw [exec_handArrival ha hd hm hu hn]
    exact ⟨fun hmore => by rw [if_neg hmore], fun hlast => by rw [if_pos hlast]⟩
  case arrive =>
    intro l f s u g b hf ht hok hu hg hb
    rw [exec_syncArrive ht hu hg hb hf hok]
    refine ⟨fun hrun => by rw [if_pos hrun], fun hidle hnew => ?_, fun hidle hold => ?_⟩
    · rw [hidle, if_neg (by simp), if_neg hnew]
    · rw [hidle, if_neg (by simp), if_pos hold]
  case release =>
    intro l f s u g b d hf ht hok hu hg hb hd
    rw [exec_syncRelease ht hu hg hb hf hok hd]
    refine ⟨fun hp hl hup => by rw [if_pos ⟨hp, hl, hup⟩], fun hno => ?_⟩
    rw [if_neg]
    rintro ⟨hp, hl, hup⟩
    rcases hno with hno | hno | hno
    · exact Bool.false_ne_true (hno.symm.trans hp)
    · exact hno hl
    · exact hno hup
  case unearned =>
    intro l f s u ht hu
    exact ⟨exec_syncArrive_unready ht hu, exec_syncRelease_unready ht hu⟩

end Sys2Proof.Machine
end

section
/-! SUPPORT. Watchdogs: what the abort of the running pass and an error with a test leave in the pass tables and among the tests, and what each of
the four watchdogs does when it expires and before (R275, R277, R282, R379). -/

namespace Sys2Proof.Machine

open Sys2Proof

/-! An abort of the running pass, an error with a test, a device-fatal report (R13, R101, R103, R396). -/

/-- A table as the steward's abort leaves it (R103, R467). -/
def PassTable.aborted (x : PassTable) (time code : Nat) : PassTable :=
  { x with state := .aborting, abortAt := time, abortCode := code, mayRetry := !programFault code && !x.retried }

/-- Telling cores of an abort changes nothing of the synchronisation state. -/
theorem State.told_sync (t : Nat) (l : List Nat) (s : State) : (l.foldl (fun s c => s.modRun c (CoreRun.abort t)) s).sync = s.sync :=
  List.foldlRecOn (motive := fun u : State => u.sync = s.sync) l _ rfl (fun _ h _ _ => h)

/-- The abort of the running pass: its table is ABORTING, every barrier has ended, and the weight plan has stopped. -/
theorem State.abortPass_sync {s : State} {t : Nat} (hrun : (s.table t).state = .running) (code : Nat) :
    (s.abortPass t code).sync = { (s.modTable t (fun x => x.aborted s.time code)).sync.endBarriers with
      seq := { s.sync.seq with active := false } } := by
  have hab : (s.table t).abortable = true := by simp [PassTable.abortable, hrun]
  unfold State.abortPass
  simp only [hab, hrun, Bool.not_true, Bool.false_eq_true, if_false, if_true, State.count_sync, State.modSync_sync, State.told_sync]
  rfl

theorem State.abortPass_table {s : State} {t : Nat} (hrun : (s.table t).state = .running) (code : Nat) :
    (s.abortPass t code).table t = (s.table t).aborted s.time code := by
  have htables : (s.abortPass t code).sync.tables = (s.modTable t (fun x => x.aborted s.time code)).sync.tables := by
    rw [State.abortPass_sync hrun]
    rfl
  rw [State.table, htables]
  exact s.modTable_table_self t _

@[simp] theorem State.reportTest_sync (s : State) (r : Report) (a : Activity) : (s.reportTest r a).sync = s.sync := by
  simp [State.reportTest]

@[simp] theorem State.reportTest_table (s : State) (r : Report) (a : Activity) (t : Nat) : (s.reportTest r a).table t = s.table t := by
  simp [State.table]

/-- The test of an error becomes due under its code. -/
theorem State.reportTest_due (s : State) (r : Report) (a : Activity) : ∃ e ∈ (s.reportTest r a).integ.tests, e.act = a ∧ e.code = r.code :=
  ⟨_, List.mem_append_right _ (List.mem_singleton_self _), rfl, rfl⟩

/-- A device-fatal report ends all service (R13, R440). -/
theorem State.report_fatal {s : State} {r : Report} (hr : codeClass r.code = 3) :
    (s.report r).glob.fatal = true ∧ (s.report r).glob.service = 3 ∧ (s.report r).glob.modReady = false := by
  unfold State.report
  dsimp only
  rw [if_pos hr]
  exact ⟨rfl, rfl, rfl⟩

/-! PEG_WAIT_EXPIRY (R275, R277). -/

/-- The laggards of a group noted. -/
def State.noteLaggards (s : State) (g : Nat) : State := s.modSync (fun y => { y with laggards := BitVec.ofNat 64 (maskOf (s.laggards g)) })

/-- The wait of core `c` abandoned with ENDCAUSE 3, and counted. -/
def State.abandonWait (s : State) (c : Nat) : State :=
  (s.modRun c (fun r => { r with wait := none, stopped := some (3, 0) })).modSync (fun y => { y with pegExp := satAdd 16 y.pegExp 1 })

/-- The two updates by which the command abandons a wait. -/
theorem State.eq_abandonWait (s : State) (c : Nat) : (s.modRun c (fun r => { r with wait := none, stopped := some (3, 0) })).modSync
    (fun y => { y with pegExp := satAdd 16 y.pegExp 1 }) = s.abandonWait c := rfl

@[simp] theorem State.abandonWait_table (s : State) (c : Nat) : ((s.abandonWait c).core c).run.table = (s.core c).run.table := by
  simp [State.abandonWait, State.core]

@[simp] theorem State.abandonWait_slotOf (s : State) (c d : Nat) : (s.abandonWait c).slotOf d = s.slotOf d := rfl

@[simp] theorem State.abandonWait_releaseGroupOf (s : State) (c : Nat) (x : PegWait) :
    (s.abandonWait c).releaseGroupOf x = s.releaseGroupOf x := rfl

section PegWait

variable {c : Fin 64} {s : State} {x : PegWait} (hx : (s.core c).run.wait = some x) (ha : s.alive = true)
  (hle : x.started + 100 * x.limitUs ≤ s.time)
include hx

theorem exec_pegWaitExpiry_early (hlt : s.time < x.started + 100 * x.limitUs) : exec (.pegWaitExpiry c) s = .next s := by
  have hopen : x.expired s.time = false := decide_eq_false (by omega)
  show execPegWaitExpiry c s = _
  simp only [execPegWaitExpiry, hx, hopen, Bool.not_false, Bool.or_true, if_true]

include ha hle

theorem exec_pegWaitExpiry_plain (hno : s.releaseGroupOf x = none) : exec (.pegWaitExpiry c) s = .next
    ((s.abandonWait c).abortCores (s.core c).run.table { code := 0x2720, kind := .coreSlot, unit := s.slotOf c } []) := by
  have hover : x.expired s.time = true := decide_eq_true hle
  show execPegWaitExpiry c s = _
  simp only [execPegWaitExpiry, hx, ha, hover, hno, State.eq_abandonWait, State.abandonWait_table, State.abandonWait_slotOf,
    State.abandonWait_releaseGroupOf]
  rfl

theorem exec_pegWaitExpiry_release {g : Nat} (hg : s.releaseGroupOf x = some g) : exec (.pegWaitExpiry c) s = .next
    (((s.noteLaggards g).abandonWait c).abortCores (s.core c).run.table { code := 0x2720, kind := .coreSlot, unit := s.slotOf c }
      (((s.noteLaggards g).abandonWait c).laggards g)) := by
  have hover : x.expired s.time = true := decide_eq_true hle
  have hstill : (s.noteLaggards g).releaseGroupOf x = some g := hg
  have hnote : s.modSync (fun y => { y with laggards := BitVec.ofNat 64 (maskOf (s.laggards g)) }) = s.noteLaggards g := rfl
  show execPegWaitExpiry c s = _
  simp only [execPegWaitExpiry, hx, ha, hover, hg, hnote, State.eq_abandonWait, State.abandonWait_table, State.abandonWait_slotOf,
    State.abandonWait_releaseGroupOf, hstill]
  rfl

end PegWait

/-! PASS_WATCHDOG_EXPIRY (R275, R277). -/

section PassWatchdog

variable {t : Fin 4} {s : State}

theorem exec_passWatchdogExpiry_early (hlt : s.time < (s.table t).launchedAt + 100 * (s.table t).limitUs) :
    exec (.passWatchdogExpiry t) s = .next s := by
  show execPassWatchdogExpiry t s = _
  simp [execPassWatchdogExpiry, hlt]

theorem exec_passWatchdogExpiry {x : PassTable} (ha : s.alive = true) (hx : x = s.table t) (hrun : x.state = .running)
    (hle : x.launchedAt + 100 * x.limitUs ≤ s.time) : exec (.passWatchdogExpiry t) s = .next
      ((s.modSync (fun y => { y with passExp := min (y.passExp + 1) 65535, missing := x.mask &&& ~~~x.present })).abortCores t
        { code := 0x2721 } (maskList 64 (x.mask &&& ~~~x.present).toNat)) := by
  subst hx
  have hover : ¬ s.time < (s.table t).launchedAt + 100 * (s.table t).limitUs := by omega
  show execPassWatchdogExpiry t s = _
  simp only [execPassWatchdogExpiry, ha, hrun, hover]
  rfl

end PassWatchdog

/-! CHIP_BARRIER_EXPIRY (R275). -/

/-- The sense of a group whose die phase has stood complete for CHIP_WAIT_US. -/
def State.chipLate (s : State) (g : Nat) (d : GroupDecl) : Option Bool :=
  [false, true].find? (fun b => match (s.sync.group g).die b with | some t0 => decide (t0 + 100 * d.chipWaitUs ≤ s.time) | none => false)

theorem exec_chipBarrierExpiry {g : Fin 7} {s : State} {t : Nat} {x : PassTable} {d : GroupDecl} {b : Bool} (ha : s.alive = true)
    (hrun : s.running = some (t, x)) (hd : s.groupDecl g = some d) (hspans : d.spans = true) (hlate : s.chipLate g d = some b) :
    exec (.chipBarrierExpiry g) s = .next
      (((s.modSync (fun y => { y with chipExp := min (y.chipExp + 1) 65535 })).abortPass t 0x2722).reportTest
        { code := 0x2722, detail := x.tag, reqs := x.endedBy 0x2722, kind := .link, unit := s.lateLink g d b } (.linkTest (s.lateLink g d b))) := by
  obtain ⟨rfl, -⟩ := State.running_some hrun
  show execChipBarrierExpiry g s = _
  simp only [execChipBarrierExpiry, hrun, hd]
  split
  next hnone => exact absurd (hnone.symm.trans hlate) (Option.some_ne_none b).symm
  next sense hsense =>
    obtain rfl : sense = b := Option.some.inj (hsense.symm.trans hlate)
    simp only [ha, hspans]
    rfl

/-! STEWARD_WATCHDOG_EXPIRY (R275, R379). -/

section Steward

variable {n : Fin 4} {s : State}

theorem exec_stewardWatchdogExpiry_early (hlt : s.time < Tbl.get 0 n.val s.sync.kicks + 100000 * s.sync.stwKickMs) :
    exec (.stewardWatchdogExpiry n) s = .next s := by
  show execStewardWatchdogExpiry n s = _
  simp [execStewardWatchdogExpiry, hlt]

theorem exec_stewardWatchdogExpiry (hf : s.firmwareRuns = true) (hi : s.sec.invaded = false)
    (hle : Tbl.get 0 n.val s.sync.kicks + 100000 * s.sync.stwKickMs ≤ s.time) :
    exec (.stewardWatchdogExpiry n) s = .next (s.report { code := 0x3723, kind := .steward, unit := n.val }) := by
  have hdue : ¬ s.time < Tbl.get 0 n.val s.sync.kicks + 100000 * s.sync.stwKickMs := by omega
  show execStewardWatchdogExpiry n s = _
  simp [execStewardWatchdogExpiry, hf, hi, hdue]

end Steward

/-- Settles O24: each watchdog before its time, and at it by its own command. -/
theorem watchdogsExpire : Obligations.WatchdogsExpire := by
  refine ⟨?wait, ?pass, ?chip, ?steward⟩
  case wait =>
    intro c s x ha hx
    refine ⟨exec_pegWaitExpiry_early hx, fun hle hno => exec_pegWaitExpiry_plain hx ha hle hno, ?_⟩
    rintro g u hle hg rfl
    exact exec_pegWaitExpiry_release hx ha hle hg
  case pass =>
    intro t s x hx ha hrun
    exact ⟨fun hlt => exec_passWatchdogExpiry_early (hx ▸ hlt), exec_passWatchdogExpiry ha hx hrun⟩
  case chip =>
    intro g s t x d b t0 ha hrun hd hspans hlate hdie
    obtain ⟨rfl, hstate⟩ := State.running_some hrun
    set u : State := s.modSync (fun y => { y with chipExp := min (y.chipExp + 1) 65535 })
    have hrunning : (u.table t).state = .running := hstate
    refine ⟨_, exec_chipBarrierExpiry ha hrun hd hspans hlate, ?_, ?_, ?_, State.reportTest_due _ _ _⟩
    · rw [State.reportTest_table, State.abortPass_table hrunning]
      rfl
    · rw [State.reportTest_table, State.abortPass_table hrunning]
      rfl
    · rw [State.reportTest_sync, State.abortPass_sync hrunning]
      rfl
  case steward =>
    intro n s hf hi
    refine ⟨exec_stewardWatchdogExpiry_early, fun hle => ⟨_, exec_stewardWatchdogExpiry hf hi hle, ?_⟩⟩
    obtain ⟨hfatal, hservice, hready⟩ := State.report_fatal (s := s) (r := { code := 0x3723, kind := .steward, unit := n.val })
      (show codeClass 0x3723 = 3 by decide)
    exact ⟨hfatal, hservice, hready, State.report_mem _ _, State.report_cores _ _⟩

end Sys2Proof.Machine
end

section
/-! SUPPORT. Received frames: which commands carry one, and what becomes of a frame that its link does not accept (R289, R298). -/

namespace Sys2Proof.Machine

open Sys2Proof

/-- A command that carries a frame gives it to its link. -/
theorem exec_frame {l : Fin 48} {f : Frame} {i : Instr} (hi : i ∈ [Instr.null l f, .hello l f, .cert l f, .kemEk l f, .kemCt l f, .auth l f,
      .finish l f, .replayReq l f, .accept l f, .write l f, .windowGrant l f, .revokeAck l f, .syncArrive l f, .syncRelease l f, .shipOffer l f,
      .shipGrant l f, .shipRefuse l f, .shipNack l f, .shipDone l f, .shipAbort l f, .modelReq l f, .modelHave l f, .modelNone l f,
      .modelDone l f, .modelStripe l f]) (hw : i.wf = true) (s : State) : ∃ act, exec i s = .next (s.receive l f act) := by
  fin_cases hi <;> exact ⟨_, frameCmd_of_fits hw _⟩

/-! The rows of R289 on a link that hears frames. -/

section Rows

variable {l : Nat} {f : Frame} {s u : State} (act : State → State) (ha : s.alive = true) (hh : (s.link l).hears = true)
  (hu : u = (s.countLinkBy l cntCorr f.corr).modLink l (fun k => k.took f.head))
include ha hh hu

theorem State.receive_malformed (hj : (s.link l).judge f = .malformed) : s.receive l f act = (u.malformed l).sendQueued l := by
  simp [State.receive, ha, hh, hj, hu]

theorem State.receive_replay (hj : (s.link l).judge f = .replay) :
    s.receive l f act = ((u.countLink l cntFec).askReplay l false).sendQueued l := by
  simp [State.receive, ha, hh, hj, hu]

theorem State.receive_badTag (hj : (s.link l).judge f = .badTag) :
    s.receive l f act = (((u.countLink l cntTag).askReplay l false).hostile l).sendQueued l := by
  simp [State.receive, ha, hh, hj, hu]

theorem State.receive_gap (hj : (s.link l).judge f = .gap) : s.receive l f act = (u.askReplay l true).sendQueued l := by
  simp [State.receive, ha, hh, hj, hu]

theorem State.receive_dropped (hj : (s.link l).judge f = .dropped) : s.receive l f act = u.sendQueued l := by
  simp [State.receive, ha, hh, hj, hu]

end Rows

/-! Frames that are accepted (R289–R291). -/

section Accepted

variable {l : Fin 48} {f : Frame} {s u : State} {type : Nat} {ok : LinkSt → Bool} {act : State → State}

/-- A frame that its link takes, in a state that stands for it, has its own effect on what the bookkeeping leaves. -/
theorem frameCmd_accepted (hf : frameFits type f = true) (ht : s.takes l f = true) (hu : u = s.taken l f) (hok : ok (u.link l) = true) :
    frameCmd type f (s.receiveIn l f ok act) = .next ((act u).sendQueued l) := by
  rw [frameCmd_of_fits hf, State.receiveIn_takes ok act ht, ← hu, if_pos hok]

/-- In any other state it is malformed. -/
theorem frameCmd_unfit (hf : frameFits type f = true) (ht : s.takes l f = true) (hu : u = s.taken l f) (hok : ok (u.link l) = false) :
    frameCmd type f (s.receiveIn l f ok act) = .next ((u.malformed l).sendQueued l) := by
  rw [frameCmd_of_fits hf, State.receiveIn_takes ok act ht, ← hu, hok, if_neg Bool.false_ne_true]

end Accepted

/-- Settles O33: every command that carries a frame gives it to `State.receive`, whose rows are the verdicts. -/
theorem frameRows : Obligations.FrameRows := by
  intro l f s u i hi hw hu
  obtain ⟨act, hexec⟩ := exec_frame hi hw s
  rw [hexec]
  refine ⟨fun hdeaf => by rw [State.receive_deaf hdeaf], fun ha hh => ⟨fun hj => ?_, fun hj => ?_, fun hj => ?_, fun hj => ?_, fun hj => ?_⟩⟩
  · rw [State.receive_malformed act ha hh hu hj, State.malformed]
  · rw [State.receive_replay act ha hh hu hj]
  · rw [State.receive_badTag act ha hh hu hj]
  · rw [State.receive_gap act ha hh hu hj]
  · rw [State.receive_dropped act ha hh hu hj]

end Sys2Proof.Machine
end

section
/-! SUPPORT. The link layer's own frames: NULL, REPLAY_REQ, ACCEPT, WINDOW_GRANT and what comes as LINK_FRAME_MALFORMED (R289, R290, R302, R308). -/

namespace Sys2Proof.Machine

open Sys2Proof

section Taken

variable {l : Fin 48} {f : Frame} {s u : State} (ht : s.takes l f = true) (hu : u = s.taken l f)
include ht hu

theorem exec_null (hf : frameFits 0x00 f = true) : exec (.null l f) s = .next (u.sendQueued l) := by
  show frameCmd 0x00 f (s.receive l f id) = _
  rw [frameCmd_of_fits hf, State.receive_takes id ht, ← hu, id]

/-- A REPLAY_REQ counts itself for its SEQ and has the frames from there sent again. -/
theorem exec_replayReq {q : Nat} (hq : q = fld f.head.args 0 64) (hf : frameFits 0x08 f = true) :
    exec (.replayReq l f) s = .next (((u.modLink l (fun k =>
      { k with replayCount := if k.replayAsked = q then k.replayCount + 1 else 1, replayAsked := q })).resend l q).sendQueued l) := by
  show execReplayReq l f s = _
  rw [execReplayReq, frameCmd_of_fits hf, State.receive_takes _ ht, ← hu, ← hq]

/-- A legal WINDOW_REVOKE of the partner, which has no row of its own in the table (log entry 35). -/
theorem exec_linkFrameMalformed_revoke (hlive : (u.link l).live = true) (htype : f.head.type = 0x12) (hl : (s.link l).legal f = true) :
    exec (.linkFrameMalformed l f) s = .next ((u.partnerRevoke l (fld f.head.args 0 8)).sendQueued l) := by
  show execLinkFrameMalformed l f s = _
  simp only [execLinkFrameMalformed, hl, htype, if_true]
  rw [State.receiveIn_takes _ _ ht, ← hu, if_pos hlive]

end Taken

/-! A frame whose first row fails. -/

theorem LinkSt.judge_illegal {k : LinkSt} {f : Frame} (hl : k.legal f = false) (hfec : f.fecOk = true) : k.judge f = .malformed := by
  simp [LinkSt.judge, hfec, hl]

/-- An uncorrectable codeword comes before every row of R289 (R298). -/
theorem LinkSt.judge_uncorrected {f : Frame} (hfec : f.fecOk = false) (k : LinkSt) : k.judge f = .replay := by
  simp [LinkSt.judge, hfec]

theorem exec_linkFrameMalformed_illegal {l : Fin 48} {f : Frame} {s : State} (hl : (s.link l).legal f = false) :
    exec (.linkFrameMalformed l f) s = .next (s.receive l f id) := by
  show execLinkFrameMalformed l f s = _
  simp only [execLinkFrameMalformed, hl, Bool.false_eq_true, if_false]

/-- Settles O34: one lemma for each frame the link takes, in service and outside it, and the first two rows of R289 for the others. -/
theorem linkLayerFrames : Obligations.LinkLayerFrames := by
  refine ⟨?taken, ?illegal⟩
  case taken =>
    rintro l f s u _ ht hu rfl
    exact ⟨exec_null ht hu, exec_replayReq ht hu rfl,
      fun hlive => ⟨fun hf => frameCmd_accepted hf ht hu hlive, exec_linkFrameMalformed_revoke ht hu hlive,
        fun hf => frameCmd_accepted hf ht hu hlive⟩,
      fun hdead => ⟨fun hf => frameCmd_unfit hf ht hu hdead, fun hf => frameCmd_unfit hf ht hu hdead⟩⟩
  case illegal =>
    intro l f s u ha hh hl hu
    rw [exec_linkFrameMalformed_illegal hl]
    refine ⟨fun hfec => ?_, fun hfec => ?_⟩
    · rw [State.receive_malformed id ha hh hu (LinkSt.judge_illegal hl hfec)]
    · rw [State.receive_replay id ha hh hu (LinkSt.judge_uncorrected hfec _)]

end Sys2Proof.Machine
end

section
/-! SUPPORT. Device memory stays as it is where a link sends, leaves service or discards a frame (R289–R291, R297, R298). -/

namespace Sys2Proof.Machine

open Sys2Proof

theorem foldl_mem {α : Type} {f : State → α → State} (hf : ∀ s x, (f s x).mem = s.mem) (l : List α) (s : State) :
    (l.foldl f s).mem = s.mem := by
  induction l generalizing s with
  | nil => rfl
  | cons x l ih => exact (ih (f s x)).trans (hf s x)

/-! Sending (R289–R291). -/

@[simp] theorem State.countLinkBy_mem (s : State) (l n v : Nat) : (s.countLinkBy l n v).mem = s.mem := rfl
@[simp] theorem State.countLink_mem (s : State) (l n : Nat) : (s.countLink l n).mem = s.mem := rfl

@[simp] theorem State.noteBytes_mem (s : State) (f : TxFrame) : (s.noteBytes f).mem = s.mem := by
  unfold State.noteBytes; split <;> rfl

@[simp] theorem State.transmit_mem (s : State) (l : Nat) (f : TxFrame) : (s.transmit l f).mem = s.mem := by simp [State.transmit]
@[simp] theorem State.repeatTx_mem (s : State) (l : Nat) (f : TxFrame) : (s.repeatTx l f).mem = s.mem := by simp [State.repeatTx]

@[simp] theorem State.pump_mem (l n : Nat) (s : State) : (State.pump l n s).mem = s.mem := by
  induction n generalizing s with
  | zero => rfl
  | succ n ih =>
    unfold State.pump
    dsimp only
    split
    · split
      · rw [ih, State.repeatTx_mem]
      · rfl
    · split
      · rw [ih, State.transmit_mem, State.modLink_mem]
      · rfl

@[simp] theorem State.sendNull_mem (s : State) (l : Nat) : (s.sendNull l).mem = s.mem := by simp [State.sendNull]

@[simp] theorem State.sendQueued_mem (s : State) (l : Nat) : (s.sendQueued l).mem = s.mem := by
  unfold State.sendQueued
  dsimp only
  split_ifs <;> simp

@[simp] theorem State.sendFor_mem (s : State) (rid : Option Nat) (l type args : Nat) (payload : List Nat) :
    (s.sendFor rid l type args payload).mem = s.mem := by simp [State.sendFor]

@[simp] theorem State.sendFrame_mem (s : State) (l type args : Nat) (payload : List Nat) : (s.sendFrame l type args payload).mem = s.mem :=
  State.sendFor_mem s none l type args payload

@[simp] theorem State.askReplay_mem (s : State) (l : Nat) (limited : Bool) : (s.askReplay l limited).mem = s.mem := by
  unfold State.askReplay
  dsimp only
  split_ifs <;> simp

/-! Pages and stripes that change their link (R297, R312, R313). -/

@[simp] theorem State.writesFor_mem (s : State) (rid : Option Nat) (l window off : Nat) (bs : List Nat) :
    (s.writesFor rid l window off bs).mem = s.mem := foldl_mem (fun _ _ => State.sendFor_mem _ _ _ _ _ _) _ _

@[simp] theorem State.sendPage_mem (s : State) (x : Shipment) (window off k l : Nat) : (s.sendPage x window off k l).mem = s.mem := by
  unfold State.sendPage
  split
  · rfl
  · split_ifs <;> simp [State.modShip]

@[simp] theorem State.sendOpen_mem (s : State) (x : Shipment) : (s.sendOpen x).mem = s.mem := by
  unfold State.sendOpen
  split
  · rfl
  · dsimp only
    split_ifs
    · rfl
    · exact foldl_mem (fun _ _ => State.sendPage_mem _ _ _ _ _ _) _ _

@[simp] theorem State.reassign_mem (s : State) (l : Nat) : (s.reassign l).mem = s.mem := by
  have hships : ∀ (xs : List Shipment) (t : State), (xs.foldl State.sendOpen t).mem = t.mem := foldl_mem State.sendOpen_mem
  unfold State.reassign
  dsimp only
  split
  · simp [hships]
  · split
    · simp [hships]
    · rw [foldl_mem (fun _ _ => State.sendFrame_mem _ _ _ _ _)]
      simp [hships]

/-! Hostile events (R298). -/

@[simp] theorem State.leaveTo_mem (s : State) (l : Nat) (st : LState) (cause : Nat) : (s.leaveTo l st cause).mem = s.mem := by
  unfold State.leaveTo
  dsimp only
  split_ifs <;> simp

@[simp] theorem State.hostile_mem (s : State) (l : Nat) : (s.hostile l).mem = s.mem := by
  unfold State.hostile
  dsimp only
  split_ifs <;> simp

@[simp] theorem State.malformed_mem (s : State) (l : Nat) : (s.malformed l).mem = s.mem := by simp [State.malformed]

@[simp] theorem State.taken_mem (s : State) (l : Nat) (f : Frame) : (s.taken l f).mem = s.mem := by simp [State.taken]

/-- A frame changes device memory only by its own effect, and by that only where its link takes it. -/
theorem State.receive_mem {s : State} {l : Nat} {f : Frame} {act : State → State} (hact : (act (s.taken l f)).mem = (s.taken l f).mem) :
    (s.receive l f act).mem = s.mem := by
  by_cases hdeaf : s.alive = false ∨ (s.link l).hears = false
  · rw [State.receive_deaf hdeaf]
  obtain ⟨ha, hh⟩ : s.alive = true ∧ (s.link l).hears = true := by simpa using hdeaf
  cases hj : (s.link l).judge f with
  | malformed => rw [State.receive_malformed act ha hh rfl hj]; simp
  | replay => rw [State.receive_replay act ha hh rfl hj]; simp
  | badTag => rw [State.receive_badTag act ha hh rfl hj]; simp
  | gap => rw [State.receive_gap act ha hh rfl hj]; simp
  | dropped => rw [State.receive_dropped act ha hh rfl hj]; simp
  | accepted => rw [State.receive_takes act (by simp [State.takes, ha, hh, hj]), State.sendQueued_mem, hact, State.taken_mem]

end Sys2Proof.Machine
end

section
/-! SUPPORT. Landing windows: a WRITE that lands, that grace drops or that falls outside, and the revocation of a window (R298, R301, R302,
R306). -/

namespace Sys2Proof.Machine

open Sys2Proof

/-! A WRITE and its window (R301, R302). -/

section Write

variable {l w off : Nat} {bs : List Nat} {s : State}

theorem State.landWrite_lands {v : State} (htakes : (s.landing w).takes l off bs.length = true)
    (hput : s.wake.writeDev ((s.landing w).base4k * 4096 + off) bs none = some v) : s.landWrite l w off bs = v.collCount w l bs.length := by
  simp only [State.landWrite, htakes, hput, if_true]

variable (hno : (s.landing w).takes l off bs.length = false)
include hno

theorem State.landWrite_grace (hg : (s.landing w).grace l s.time = true) : s.landWrite l w off bs = s := by
  simp only [State.landWrite, hno, hg, Bool.false_eq_true, if_false, if_true]

theorem State.landWrite_outside (hg : (s.landing w).grace l s.time = false) : s.landWrite l w off bs = s.outWindow l := by
  simp only [State.landWrite, hno, hg, Bool.false_eq_true, if_false]

/-- A WRITE that its window does not take moves no byte. -/
theorem State.landWrite_mem : (s.landWrite l w off bs).mem = s.mem := by
  cases hg : (s.landing w).grace l s.time with
  | true => rw [State.landWrite_grace hno hg]
  | false => rw [State.landWrite_outside hno hg, State.outWindow, State.hostile_mem, State.countLink_mem]

end Write

theorem exec_write {l : Fin 48} {f : Frame} {s u : State} (hf : frameFits 0x10 f = true) (ht : s.takes l f = true) (hu : u = s.taken l f)
    (hlive : (u.link l).live = true) :
    exec (.write l f) s = .next ((u.landWrite l (fld f.head.args 0 8) (fld f.head.args 8 48) f.bytes).sendQueued l) :=
  frameCmd_accepted hf ht hu hlive

/-- The bookkeeping of a frame changes no window. -/
theorem State.taken_landing (s : State) (l : Nat) (f : Frame) (w : Nat) : (s.taken l f).landing w = s.landing w := by
  simp [State.landing, State.taken, State.countLink, State.countLinkBy]

theorem exec_write_mem {l : Fin 48} {f : Frame} {s t : State}
    (hno : (s.landing (fld f.head.args 0 8)).takes l (fld f.head.args 8 48) f.bytes.length = false) (ht : exec (.write l f) s = .next t) :
    t.mem = s.mem := by
  obtain rfl := frameCmd_next (ht : execWrite l f s = .next t)
  refine State.receive_mem ?_
  rw [← s.taken_landing l f] at hno
  split_ifs
  · exact State.landWrite_mem hno
  · exact State.malformed_mem _ l

/-! Revocation (R302). -/

theorem exec_windowRevoke {w : BitVec 8} {s : State} {ls : List Nat} (ha : s.alive = true) (hst : (s.landing w.toNat).state = 1)
    (hls : ls = (maskList 48 (s.landing w.toNat).links).filter (fun l => (s.link l).live)) :
    exec (.windowRevoke w) s = .next (ls.foldl (fun s l => s.sendFrame l 0x12 w.toNat [])
      (s.modLanding w.toNat (fun x => if ls = [] then {} else { x with state := 2, revokedAt := s.time, awaiting := maskOf ls }))) := by
  show execWindowRevoke w s = _
  simp only [execWindowRevoke, State.revoke, ha, hst, hls, ne_eq, not_true_eq_false, if_true, if_false]

section Ack

variable {l w : Nat} {s : State}

theorem State.revokeAck_ungranted (hno : w ∉ (s.link l).offered) : s.revokeAck l w = s.hostile l := by
  simp [State.revokeAck, hno]

variable (hin : w ∈ (s.link l).offered)
include hin

theorem State.revokeAck_awaited (hst : (s.landing w).state = 2) (hbit : bit (s.landing w).awaiting l = true) :
    s.revokeAck l w = s.modLanding w (fun x =>
      if (s.landing w).awaiting - 2 ^ l = 0 then {} else { x with awaiting := (s.landing w).awaiting - 2 ^ l }) := by
  simp [State.revokeAck, hin, hst, hbit]

/-- An acknowledgement that no revocation awaits is ignored (log entry 28). -/
theorem State.revokeAck_unawaited (hno : (s.landing w).state ≠ 2 ∨ bit (s.landing w).awaiting l = false) : s.revokeAck l w = s := by
  have hnot : ¬ ((s.landing w).state = 2 ∧ bit (s.landing w).awaiting l = true) := by
    rintro ⟨hst, hbit⟩
    rcases hno with h | h
    · exact h hst
    · exact Bool.false_ne_true (h.symm.trans hbit)
  simp [State.revokeAck, hin, hnot]

end Ack

theorem exec_revokeAck {l : Fin 48} {f : Frame} {s u : State} (hf : frameFits 0x13 f = true) (ht : s.takes l f = true) (hu : u = s.taken l f)
    (hlive : (u.link l).live = true) : exec (.revokeAck l f) s = .next ((u.revokeAck l (fld f.head.args 0 8)).sendQueued l) :=
  frameCmd_accepted hf ht hu hlive

section Grace

variable {w : BitVec 8} {s : State} (ha : s.alive = true) (hst : (s.landing w.toNat).state = 2)
include ha hst

theorem exec_revokeGraceExpiry_early (hlt : s.time < (s.landing w.toNat).revokedAt + 100000) : exec (.revokeGraceExpiry w) s = .next s := by
  show execRevokeGraceExpiry w s = _
  simp [execRevokeGraceExpiry, ha, hst, hlt]

theorem exec_revokeGraceExpiry (hle : (s.landing w.toNat).revokedAt + 100000 ≤ s.time) :
    exec (.revokeGraceExpiry w) s = .next (s.modLanding w.toNat (fun _ => {})) := by
  have hdue : ¬ s.time < (s.landing w.toNat).revokedAt + 100000 := by omega
  show execRevokeGraceExpiry w s = _
  simp [execRevokeGraceExpiry, ha, hst, hdue]

end Grace

/-- Settles O35: a WRITE by its window's three answers, and a revocation by its frames and its time. -/
theorem landingWindows : Obligations.LandingWindows := by
  refine ⟨?write, ?unmoved, ?revoke, ?ack, ?grace⟩
  case write =>
    rintro l f s u _ _ hf ht hu hlive rfl rfl
    rw [exec_write hf ht hu hlive]
    refine ⟨fun v htakes hput => by rw [State.landWrite_lands htakes hput], fun hno => ⟨fun hg => ?_, fun hg => ?_⟩⟩
    · rw [State.landWrite_grace hno hg]
    · rw [State.landWrite_outside hno hg, State.outWindow]
  case unmoved =>
    rintro l f s t _ _ rfl rfl hno ht
    exact exec_write_mem hno ht
  case revoke =>
    exact fun w s ls => exec_windowRevoke
  case ack =>
    rintro l f s u _ hf ht hu hlive rfl
    rw [exec_revokeAck hf ht hu hlive]
    refine ⟨fun hno => by rw [State.revokeAck_ungranted hno], fun hin hst hbit => ?_, fun hin hno => ?_⟩
    · rw [State.revokeAck_awaited hin hst hbit]
    · rw [State.revokeAck_unawaited hin hno]
  case grace =>
    exact fun w s ha hst => ⟨exec_revokeGraceExpiry_early ha hst, exec_revokeGraceExpiry ha hst⟩

end Sys2Proof.Machine
end

section
/-! SUPPORT. Shipments: a frame of a shipment by the shipment that it names, what each such frame then does, and the shipment timers (R309, R311,
R312, R393). -/

namespace Sys2Proof.Machine

open Sys2Proof

/-! The shipment that a frame names (R298). -/

section Named

variable {l id : Nat} {s : State} (act : State → Shipment → Bool → State)

/-- An ID never drawn is hostile, one of a shipment that has ended is ignored (log entry 28). -/
theorem State.shipMsg_closed (hno : s.ship id = none) : s.shipMsg l id act = if id < s.lglob.nextShip then s else s.hostile l := by
  simp only [State.shipMsg, hno]

theorem State.shipMsg_open {x : Shipment} (hx : s.ship id = some x) (hp : x.partner = (s.link l).partnerId)
    (hopen : x.offer.isSome = true ∨ x.granted.isSome = true) : s.shipMsg l id act = act s x true := by
  have hnow : (x.partner == (s.link l).partnerId && (x.offer.isSome || x.granted.isSome)) = true := by simpa [hp] using hopen
  simp only [State.shipMsg, hx, hnow, Bool.true_or, if_true]

end Named

/-! A grant (R309, R312, R393). -/

section Grant

variable {l id win off : Nat} {s : State}

/-- A late grant, from a partner that the offer has moved on from, is answered with SHIP_ABORT. -/
theorem State.shipGrant_late (hm : (id, (s.link l).partnerId) ∈ s.lglob.moved) : s.shipGrant l id win off = s.sendFrame l 0x36 id [] := by
  simp [State.shipGrant, hm]

variable (hm : (id, (s.link l).partnerId) ∉ s.lglob.moved)
include hm

theorem State.shipGrant_closed (hno : s.ship id = none) : s.shipGrant l id win off = if id < s.lglob.nextShip then s else s.hostile l := by
  rw [State.shipGrant, if_neg (by simpa using hm), State.shipMsg_closed _ hno]

variable {x : Shipment} (hx : s.ship id = some x) (hp : x.partner = (s.link l).partnerId)
include hx hp

theorem State.shipGrant_again (hg : x.granted.isSome = true) : s.shipGrant l id win off = s := by
  rw [State.shipGrant, if_neg (by simpa using hm), State.shipMsg_open _ hx hp (.inr hg)]
  simp only [hg, Bool.or_true, if_true]

/-- The first grant of an open offer: the pages go out, unless the link meets poison in them. -/
theorem State.shipGrant_first {y : Shipment} {v : State} (hg : x.granted = none) (ho : x.offer.isSome = true)
    (hy : y = { x with granted := some (s.usable x.group x.partner, win, off) }) (hv : v = s.modShip x.id (fun _ => y)) :
    s.shipGrant l id win off = (v.shipPoison y).elim (v.sendOpen y) (fun z => v.linkPoison l z.1 z.2) := by
  rw [State.shipGrant, if_neg (by simpa using hm), State.shipMsg_open _ hx hp (.inl ho)]
  simp only [hg, Option.isSome_none, Bool.not_true, Bool.or_self, Bool.false_eq_true, if_false, ← hy, ← hv]
  cases v.shipPoison y <;> rfl

end Grant

/-! Frames of a shipment on a live link (R309, R312). -/

section Frames

variable {l : Fin 48} {f : Frame} {s u : State} {id : Nat} (ht : s.takes l f = true) (hu : u = s.taken l f) (hlive : (u.link l).live = true)
  (hid : id = fld f.head.args 0 32)
include ht hu hlive hid

theorem exec_shipOffer (hf : frameFits 0x30 f = true) :
    exec (.shipOffer l f) s = .next ((u.sendFrame l 0x32 (id + 2 ^ 32) []).sendQueued l) := by
  subst hid
  exact frameCmd_accepted hf ht hu hlive

theorem exec_shipGrant (hf : frameFits 0x31 f = true) :
    exec (.shipGrant l f) s = .next ((u.shipGrant l id (fld f.head.args 32 8) (fld f.head.args 40 40)).sendQueued l) := by
  subst hid
  exact frameCmd_accepted hf ht hu hlive

theorem shipCmd_accepted {type : Nat} (hf : frameFits type f = true) (act : State → Shipment → Bool → State) :
    shipCmd type l f s act = .next ((u.shipMsg l id act).sendQueued l) := by
  subst hid
  exact frameCmd_accepted hf ht hu hlive

variable {x : Shipment} (hx : u.ship id = some x) (hp : x.partner = (u.link l).partnerId)
  (hopen : x.offer.isSome = true ∨ x.granted.isSome = true)
include hx hp hopen

/-- A frame about an open shipment of the link's partner acts on it. -/
theorem shipCmd_open {type : Nat} (hf : frameFits type f = true) (act : State → Shipment → Bool → State) :
    shipCmd type l f s act = .next ((act u x true).sendQueued l) := by
  rw [shipCmd_accepted ht hu hlive hid hf, State.shipMsg_open act hx hp hopen]

theorem exec_shipAbort (hf : frameFits 0x36 f = true) : exec (.shipAbort l f) s = .next ((u.endShip x 0x2816 none).sendQueued l) :=
  shipCmd_open ht hu hlive hid hx hp hopen hf _

omit hopen in
theorem exec_shipRefuse (hg : x.granted = none) (ho : x.offer.isSome = true) (hf : frameFits 0x32 f = true) :
    exec (.shipRefuse l f) s = .next ((u.moveOffer x).sendQueued l) := by
  show execShipRefuse l f s = _
  rw [execShipRefuse, shipCmd_open ht hu hlive hid hx hp (.inl ho) hf]
  simp only [hg, Option.isNone_none, Bool.and_self, if_true]

end Frames

/-! Frames about a granted shipment (R309, R312). -/

section Granted

variable {l : Fin 48} {f : Frame} {s u : State} {id : Nat} (ht : s.takes l f = true) (hu : u = s.taken l f) (hlive : (u.link l).live = true)
  (hid : id = fld f.head.args 0 32) {x : Shipment} (hx : u.ship id = some x) (hp : x.partner = (u.link l).partnerId)
include ht hu hlive hid hx hp

/-- SHIP_DONE ends the shipment with its outcome, or with 0x2608 past its limit. -/
theorem exec_shipDone (hg : x.granted.isSome = true) (hf : frameFits 0x35 f = true) :
    exec (.shipDone l f) s = .next ((if u.shipExpired x then u.endShip x 0x2608 (some 1)
      else u.endShip x (if fld f.head.args 32 8 = 0 then 0 else 0x2816) none).sendQueued l) := by
  have hsome : x.granted.isNone = false := by simpa using hg
  show execShipDone l f s = _
  rw [execShipDone, shipCmd_open ht hu hlive hid hx hp (.inr hg) hf]
  simp only [hsome, Bool.not_true, Bool.or_self, Bool.false_eq_true, if_false]

variable {ls : List Nat} {win off k n : Nat} (hg : x.granted = some (ls, win, off)) (hk : k = fld f.head.args 32 32) (hin : k < x.pages.length)
  (hn : n = Tbl.get 0 k x.nacks + 1) (hf : frameFits 0x34 f = true)
include hg hk hin hn hf

/-- The third SHIP_NACK of a page ends the shipment. -/
theorem exec_shipNack_third (h3 : 3 ≤ n) : exec (.shipNack l f) s = .next ((u.endShip x 0x2816 (some 4)).sendQueued l) := by
  have hpage : ¬ x.pages.length ≤ k := by omega
  show execShipNack l f s = _
  rw [execShipNack, shipCmd_open ht hu hlive hid hx hp (.inr (by rw [hg]; rfl)) hf]
  simp [hg, ← hk, ← hn, hpage, h3]

/-- An earlier one sends the page again on the first link that the partner can use, unless the link meets poison. -/
theorem exec_shipNack_again {y : Shipment} {v : State} (hlt : n < 3)
    (hy : y = { x with nacks := Tbl.set 0 k n x.nacks, sentOn := Tbl.set 0 k 0 x.sentOn }) (hv : v = u.modShip x.id (fun _ => y)) :
    exec (.shipNack l f) s = .next (((v.shipPoison y).elim ((v.usable x.group x.partner).head?.elim v (v.sendPage y win off k))
      (fun z => v.linkPoison l z.1 z.2)).sendQueued l) := by
  have hpage : ¬ x.pages.length ≤ k := by omega
  have hfew : ¬ 3 ≤ n := by omega
  rw [hg] at hy
  show execShipNack l f s = _
  rw [execShipNack, shipCmd_open ht hu hlive hid hx hp (.inr (by rw [hg]; rfl)) hf]
  simp only [hg, ← hk, ← hn, hpage, hfew, decide_false, Bool.not_true, Bool.or_self, Bool.false_eq_true, if_false, ← hy, ← hv]
  cases v.shipPoison y with
  | some z => rfl
  | none => cases v.usable x.group x.partner <;> rfl

end Granted

/-! The timers of a shipment (R309, R312). -/

section Timers

variable {id : BitVec 32} {s : State} {x : Shipment} (hx : s.ship id.toNat = some x) (ha : s.alive = true)
include hx ha

/-- A shipment that still waits for its epoch tag draws it (log entry 24). -/
theorem exec_shipOfferTimeout_untagged (he : x.epoch = none) : exec (.shipOfferTimeout id) s = .next (s.tagShip x) := by
  show execShipOfferTimeout id s = _
  simp [execShipOfferTimeout, hx, ha, he]

theorem exec_shipOfferTimeout_moves (he : x.epoch.isSome = true) (hg : x.granted = none) (ho : x.offer.isSome = true)
    (hle : x.offerAt + 100000 ≤ s.time) : exec (.shipOfferTimeout id) s = .next (s.moveOffer x) := by
  have htag : x.epoch.isNone = false := by simpa using he
  have hoffer : x.offer.isNone = false := by simpa using ho
  have hdue : ¬ s.time < x.offerAt + 100000 := by omega
  show execShipOfferTimeout id s = _
  simp [execShipOfferTimeout, hx, ha, htag, hg, hoffer, hdue]

theorem exec_shipLimitExpiry : exec (.shipLimitExpiry id) s = .next (if s.shipExpired x then s.endShip x 0x2608 (some 1) else s) := by
  show execShipLimitExpiry id s = _
  simp only [execShipLimitExpiry, hx, ha, Bool.true_and]
  exact (apply_ite Host.Outcome.next _ _ _).symm

end Timers

/-- A frame that names no open shipment: the five frames about one. -/
theorem exec_ship_closed {l : Fin 48} {f : Frame} {s u : State} {id : Nat} {i : Instr} (ht : s.takes l f = true) (hu : u = s.taken l f)
    (hlive : (u.link l).live = true) (hid : id = fld f.head.args 0 32) (hno : u.ship id = none)
    (hi : i ∈ [Instr.shipGrant l f, .shipRefuse l f, .shipNack l f, .shipDone l f, .shipAbort l f]) (hw : i.wf = true)
    (hm : f.head.type = 0x31 → (id, (u.link l).partnerId) ∉ u.lglob.moved) :
    exec i s = .next ((if id < u.lglob.nextShip then u else u.hostile l).sendQueued l) := by
  have hmsg : ∀ {type} act, frameFits type f = true →
      shipCmd type l f s act = .next ((if id < u.lglob.nextShip then u else u.hostile l).sendQueued l) := by
    intro type act hf
    rw [shipCmd_accepted ht hu hlive hid hf, State.shipMsg_closed act hno]
  simp only [List.mem_cons, List.not_mem_nil, or_false] at hi
  rcases hi with rfl | rfl | rfl | rfl | rfl
  case inl => rw [exec_shipGrant ht hu hlive hid hw, State.shipGrant_closed (hm (beq_iff_eq.mp hw)) hno]
  all_goals exact hmsg _ hw

/-- Settles O36: a shipment's frames by the shipment that they name, open, granted or ended, and its two timers. -/
theorem shipmentMessages : Obligations.ShipmentMessages := by
  refine ⟨?frames, ?timers⟩
  case frames =>
    rintro l f s u _ id ht hu hlive rfl hid
    refine ⟨exec_shipOffer ht hu hlive hid, fun hm hf => ?_, fun hno i hi hw hm => exec_ship_closed ht hu hlive hid hno hi hw hm,
      fun x hx hp => ⟨fun hg ho => ⟨?first, exec_shipRefuse ht hu hlive hid hx hp hg ho⟩, ?granted,
        fun hopen => exec_shipAbort ht hu hlive hid hx hp hopen⟩⟩
    · rw [exec_shipGrant ht hu hlive hid hf, State.shipGrant_late hm]
    case first =>
      intro y v hy hv hf hm
      rw [exec_shipGrant ht hu hlive hid hf, State.shipGrant_first hm hx hp hg ho hy hv]
      exact ⟨fun hclean => by rw [hclean, Option.elim_none], fun p c hpoison => by rw [hpoison, Option.elim_some]⟩
    case granted =>
      intro ls win off k n hg hk hn
      have hsome : x.granted.isSome = true := by rw [hg]; rfl
      refine ⟨fun hf hm => ?_, fun hf hin => ⟨exec_shipNack_third ht hu hlive hid hx hp hg hk hin hn hf, ?_, ?_⟩, fun hf => ?_⟩
      · rw [exec_shipGrant ht hu hlive hid hf, State.shipGrant_again hm hx hp hsome]
      · intro y v m ms hlt hy hv hclean huse
        rw [exec_shipNack_again ht hu hlive hid hx hp hg hk hin hn hf hlt hy hv, hclean, huse]
        rfl
      · intro y v p c hlt hy hv hpoison
        rw [exec_shipNack_again ht hu hlive hid hx hp hg hk hin hn hf hlt hy hv, hpoison]
        rfl
      · rw [exec_shipDone ht hu hlive hid hx hp hsome hf]
        exact ⟨fun hexp => by rw [if_pos hexp], fun hopen => by rw [hopen, if_neg Bool.false_ne_true]⟩
  case timers =>
    intro id s x hx ha
    refine ⟨exec_shipOfferTimeout_untagged hx ha, exec_shipOfferTimeout_moves hx ha, fun hexp => ?_, fun hopen => ?_⟩
    · rw [exec_shipLimitExpiry hx ha, if_pos hexp]
    · rw [exec_shipLimitExpiry hx ha, hopen, if_neg Bool.false_ne_true]

end Sys2Proof.Machine
end

section
/-! SUPPORT. Model fetches over links: what a partner's request, answers and stripes do, and the two timers of a fetch (R298, R313, R393). -/

namespace Sys2Proof.Machine

open Sys2Proof

/-! The frames on a live link. -/

section Frames

variable {l : Fin 48} {f : Frame} {s u : State} (ht : s.takes l f = true) (hu : u = s.taken l f) (hlive : (u.link l).live = true)
include ht hu hlive

/-- A MODEL_REQ is answered with HAVE where the link serves models and a READY slot holds the model. -/
theorem exec_modelReq (hf : frameFits 0x40 f = true) {o : Option Nat}
    (ho : o = (List.range 4).find? (fun k => (u.model k).state == .ready && (u.model k).modelId == fld (ofLeBytes f.bytes) 256 256)) :
    exec (.modelReq l f) s = .next ((o.elim (u.sendFrame l 0x42 0 []) (fun k =>
      if bit (u.link l).ownCaps 3 then (u.modLink l (fun q => { q with serves := some k })).sendFrame l 0x41 0 []
      else u.sendFrame l 0x42 0 [])).sendQueued l) := by
  refine (frameCmd_accepted hf ht hu hlive : execModelReq l f s = _).trans ?_
  simp only [← ho]
  cases o with
  | none => rw [Option.elim_none]
  | some k => rw [Option.elim_some]

theorem exec_modelHave (hf : frameFits 0x41 f = true) : exec (.modelHave l f) s = .next ((u.modelAnswer l true).sendQueued l) :=
  frameCmd_accepted hf ht hu hlive

theorem exec_modelNone (hf : frameFits 0x42 f = true) : exec (.modelNone l f) s = .next ((u.modelAnswer l false).sendQueued l) :=
  frameCmd_accepted hf ht hu hlive

theorem exec_modelDone (hf : frameFits 0x43 f = true) : exec (.modelDone l f) s =
    .next ((u.stripeDone l (fld f.head.args 0 8) (fld f.head.args 8 48) (fld f.head.args 56 32)).sendQueued l) :=
  frameCmd_accepted hf ht hu hlive

theorem exec_modelStripe (hf : frameFits 0x44 f = true) : exec (.modelStripe l f) s =
    .next ((u.serveStripe l (fld f.head.args 0 8) (fld f.head.args 8 48) (fld f.head.args 56 48)).sendQueued l) :=
  frameCmd_accepted hf ht hu hlive

end Frames

/-! Answers of asked partners. -/

/-- The fetch with one more answer noted. -/
def Fetch.answered (x : Fetch) (l : Nat) (has : Bool) : Fetch :=
  if has then { x with have_ := x.have_ ++ [l] } else { x with none_ := x.none_ ++ [l] }

theorem State.modelAnswer_first {s : State} {x : Fetch} {l : Nat} (hx : s.lglob.fetch = some x) (ha : l ∈ x.asked) (hh : l ∉ x.have_)
    (hn : l ∉ x.none_) (has : Bool) : s.modelAnswer l has = s.assignStripes (x.answered l has) := by
  simp [State.modelAnswer, Fetch.answered, hx, ha, hh, hn]

/-! A stripe reported written. -/

section Stripe

variable {l w off crc : Nat} {s : State}

theorem State.stripeDone_ungranted (hno : w ∉ (s.link l).offered) : s.stripeDone l w off crc = s.hostile l := by
  simp [State.stripeDone, hno]

variable (hin : w ∈ (s.link l).offered)
include hin

/-- One for a window that no fetch uses is ignored. -/
theorem State.stripeDone_unused (hno : ∀ x, s.lglob.fetch = some x → x.window ≠ w) : s.stripeDone l w off crc = s := by
  cases hx : s.lglob.fetch with
  | none => simp [State.stripeDone, hin, hx]
  | some x => simp [State.stripeDone, hin, hx, hno x hx]

variable {x : Fetch} {y : Stripe} (hx : s.lglob.fetch = some x) (hw : x.window = w)
  (hy : x.stripes.find? (fun z => z.link == l && z.offset == off && z.crc.isNone) = some y)
include hx hw hy

theorem State.stripeDone_corrupt (hcrc : crc32c (s.fetched x off y.len) ≠ crc) : s.stripeDone l w off crc = s.endFetch false := by
  simp [State.stripeDone, hin, hx, hw, hy, hcrc]

variable {x' : Fetch} {v : State} (hcrc : crc32c (s.fetched x off y.len) = crc)
  (hx' : x' = { x with stripes := x.stripes.map (fun z => if z == y then { z with crc := some crc } else z) })
  (hv : v = s.modLGlob (fun g => { g with fetch := some x' }))
include hcrc hx' hv

/-- A stripe whose CRC is right is marked; the last one ends the fetch by the package's digest. -/
theorem State.stripeDone_right : s.stripeDone l w off crc =
    if x'.stripes.all (fun z => z.crc.isSome) then v.endFetch (ofLeBytes (shake256 32 (v.fetched x' 0 x'.bytes)) == x'.modelId) else v := by
  subst hw
  have hbytes : v.fetched x 0 x.bytes = v.fetched x' 0 x'.bytes := by simp only [hx', State.fetched]
  have hmodel : x.modelId = x'.modelId := by rw [hx']
  simp only [State.stripeDone, List.contains_iff_mem.mpr hin, hx, hy, hcrc, Bool.not_true, Bool.false_eq_true, if_false, ne_eq,
    not_true_eq_false, ← hx', ← hv, hbytes]
  rw [hmodel, congrArg Fetch.stripes hx']

end Stripe

/-! A stripe served. -/

section Serve

variable {l w off n m : Nat} {s : State} {o : Owner} (hm : (s.link l).serves = some m) (hr : (s.model m).state = .ready)
  (hg : ∃ g ∈ (s.link l).granted, g.1 = w ∧ g.2.1 = 1 ∧ off + n ≤ 4096 * g.2.2) (ho : (s.hbmOwners 1 m).head? = some o)
include hm hr hg ho

/-- A stripe within a granted window is sent with its CRC, and consumed where the link meets poison. -/
theorem State.serveStripe_ready {bs : List Nat} {p : Option Nat} (hread : s.readDev (4096 * o.first + off) n = some (bs, p)) :
    s.serveStripe l w off n = p.elim ((s.wake.sendWrites l w off bs).sendFrame l 0x43 (w + off * 2 ^ 8 + crc32c bs * 2 ^ 56) [])
      (s.wake.linkPoison l (s.firstPoison (4096 * o.first + off) n)) := by
  have hwin : (s.link l).granted.any (fun g => g.1 == w && g.2.1 == 1 && decide (off + n ≤ 4096 * g.2.2)) = true := by
    obtain ⟨g, hin, hnum, hkind, hsize⟩ := hg
    exact List.any_eq_true.mpr ⟨g, hin, by simp [hnum, hkind, hsize]⟩
  have hgo : ((decide ((s.model m).state ≠ .ready)) || !(s.link l).granted.any
      (fun g => g.1 == w && g.2.1 == 1 && decide (off + n ≤ 4096 * g.2.2))) = false := by simp [hr, hwin]
  cases p with
  | none => simp only [State.serveStripe, hm, hgo, ho, hread, Bool.false_eq_true, if_false, Option.elim_none]
  | some c => simp only [State.serveStripe, hm, hgo, ho, hread, Bool.false_eq_true, if_false, Option.elim_some]

end Serve

/-! Timers. -/

section Timers

variable {s : State} {x : Fetch} (hx : s.lglob.fetch = some x) (ha : s.alive = true)
include hx ha

theorem exec_modelReplyTimeout (l : Fin 48) (hle : x.start + 100000 ≤ s.time) :
    exec (.modelReplyTimeout l) s = .next (s.modelAnswer l false) := by
  have hdue : ¬ s.time < x.start + 100000 := by omega
  show execModelReplyTimeout l s = _
  simp [execModelReplyTimeout, hx, ha, hdue]

theorem exec_modelLimitExpiry {k : Fin 4} (hk : x.mslot = k) (hle : x.start + 100000 * s.lglob.modelLimitMs ≤ s.time) :
    exec (.modelLimitExpiry k) s = .next (s.endFetch false) := by
  have hdue : ¬ s.time < x.start + 100000 * s.lglob.modelLimitMs := by omega
  show execModelLimitExpiry k s = _
  simp [execModelLimitExpiry, hx, ha, hk, hdue]

end Timers

/-- Settles O37: the five frames by what the link serves and the fetch awaits, and the two timers. -/
theorem modelFetches : Obligations.ModelFetches := by
  refine ⟨?frames, ?reply, ?limit⟩
  case frames =>
    rintro l f s u _ _ _ ht hu hlive rfl rfl rfl
    refine ⟨fun hf o ho => ?request, fun x hx ha hh hn => ⟨fun hf => ?_, fun hf => ?_⟩, fun hf => ?done, fun hf => ?stripe⟩
    case request =>
      rw [exec_modelReq ht hu hlive hf ho]
      refine ⟨?_, ?_⟩
      · rintro k rfl hs
        rw [Option.elim_some, if_pos hs]
      · rintro (rfl | hs)
        · rw [Option.elim_none]
        · cases o with
          | none => rw [Option.elim_none]
          | some k => rw [Option.elim_some, hs, if_neg Bool.false_ne_true]
    · rw [exec_modelHave ht hu hlive hf, State.modelAnswer_first hx ha hh hn, Fetch.answered, if_pos rfl]
    · rw [exec_modelNone ht hu hlive hf, State.modelAnswer_first hx ha hh hn, Fetch.answered, if_neg Bool.false_ne_true]
    case done =>
      rw [exec_modelDone ht hu hlive hf]
      refine ⟨fun hno => by rw [State.stripeDone_ungranted hno], fun hin hno => by rw [State.stripeDone_unused hin hno],
        fun x y hin hx hw hy => ⟨fun hcrc => by rw [State.stripeDone_corrupt hin hx hw hy hcrc], fun x' v hcrc hx' hv => ?_⟩⟩
      rw [State.stripeDone_right hin hx hw hy hcrc hx' hv]
      refine ⟨?_, fun hall => ?_⟩
      · rintro ⟨z, hz, hopen⟩
        rw [if_neg (fun hall => by simpa [hopen] using List.all_eq_true.mp hall z hz)]
      · rw [if_pos (List.all_eq_true.mpr fun z hz => Option.isSome_iff_ne_none.mpr (hall z hz))]
    case stripe =>
      intro m o bs p hm hr hg ho hread
      rw [exec_modelStripe ht hu hlive hf, State.serveStripe_ready hm hr hg ho hread]
      exact ⟨fun hclean => by rw [hclean, Option.elim_none], fun c hpoison => by rw [hpoison, Option.elim_some]⟩
  case reply =>
    intro l s x hx hs hle ha hh hn
    rw [exec_modelReplyTimeout hx hs l hle, State.modelAnswer_first hx ha hh hn, Fetch.answered, if_neg Bool.false_ne_true]
  case limit =>
    exact fun k s x hx ha hk => exec_modelLimitExpiry hx ha hk

end Sys2Proof.Machine
end

section
/-! SUPPORT. The frames of a handshake and of a rekey: an object that a frame completes, carries on or breaks, and what each frame then does (R287,
R291, R294–R296). -/

namespace Sys2Proof.Machine

open Sys2Proof

/-! Objects (R287). -/

section Objects

variable {s : State} {l type : Nat} {f : Frame} {legal : Nat → Bool} {act : State → List Nat → State} {g : Option (List Nat) × Bool × State}
  (hg : s.takeObject l type f legal = g)
include hg

theorem State.onObject_illegal (hl : g.2.1 = false) : s.onObject l type f legal act = g.2.2.malformed l := by
  obtain ⟨o, b, t⟩ := g
  obtain rfl : b = false := hl
  simp only [State.onObject, hg]

theorem State.onObject_unfinished (hl : g.2.1 = true) (ho : g.1 = none) : s.onObject l type f legal act = g.2.2 := by
  obtain ⟨o, b, t⟩ := g
  obtain rfl : b = true := hl
  obtain rfl : o = none := ho
  simp only [State.onObject, hg]

theorem State.onObject_complete {bs : List Nat} (hl : g.2.1 = true) (ho : g.1 = some bs) :
    s.onObject l type f legal act = act g.2.2 bs := by
  obtain ⟨o, b, t⟩ := g
  obtain rfl : b = true := hl
  obtain rfl : o = some bs := ho
  simp only [State.onObject, hg]

end Objects

/-! The frames that a link takes. -/

section Frames

variable {l : Fin 48} {f : Frame} {s u : State} (ht : s.takes l f = true) (hu : u = s.taken l f)
include ht hu

theorem exec_hello (hf : frameFits 0x01 f = true) (hst : (u.link l).state = .handshake) :
    exec (.hello l f) s = .next ((u.takeHello l f.bytes).sendQueued l) :=
  frameCmd_accepted hf ht hu (by simp [hst])

theorem exec_hello_unfit (hf : frameFits 0x01 f = true) (hst : (u.link l).state ≠ .handshake) :
    exec (.hello l f) s = .next ((u.malformed l).sendQueued l) :=
  frameCmd_unfit hf ht hu (by simp [hst])

theorem exec_cert (hf : frameFits 0x02 f = true) (hst : (u.link l).state = .handshake) (hc : (u.link l).shake.chain = none) :
    exec (.cert l f) s =
      .next ((u.onObject l 0x02 f (fun n => decide (0 < n ∧ n ≤ 150336)) (fun v bs => v.takeChain l bs)).sendQueued l) :=
  frameCmd_accepted hf ht hu (by simp [hst, hc])

theorem exec_cert_unfit (hf : frameFits 0x02 f = true)
    (hno : (u.link l).state ≠ .handshake ∨ (u.link l).shake.chain.isSome = true) :
    exec (.cert l f) s = .next ((u.malformed l).sendQueued l) :=
  frameCmd_unfit hf ht hu (by rcases hno with h | h <;> simp [h])

/-- An AUTH that is complete waits for its verification. -/
theorem exec_auth (hf : frameFits 0x05 f = true) (hst : (u.link l).state = .handshake) (hauth : (u.link l).shake.auth = none)
    (htr : (u.link l).shake.transcript ≠ []) :
    exec (.auth l f) s = .next ((u.onObject l 0x05 f (fun n => n == 49856) (fun v bs =>
      (v.modLink l (fun k => { k with shake := { k.shake with auth := some bs } })).modSec
        (fun q => { q with verQ := q.verQ ++ [.auth l] }))).sendQueued l) :=
  frameCmd_accepted hf ht hu (by simp [hst, hauth, htr])

/-- A FINISH is noted where it carries the own T; another one quarantines the link. -/
theorem exec_finish (hf : frameFits 0x06 f = true) (hst : (u.link l).state = .handshake) (hfin : (u.link l).shake.finish = false)
    (htr : (u.link l).shake.transcript ≠ []) :
    exec (.finish l f) s = .next ((if f.bytes = (u.link l).shake.transcript then
      (u.modLink l (fun k => { k with shake := { k.shake with finish := true } })).enterService l else u.quarantine l 4).sendQueued l) :=
  frameCmd_accepted hf ht hu (by simp [hst, hfin, htr])

/-! KEM_EK: a handshake's, or a rekey's at the responder (R294, R296). -/

section KemEk

variable {g : Option (List Nat) × Bool × State} (hf : frameFits 0x03 f = true)
  (hok : ((u.link l).state = .handshake ∧ (u.link l).shake.ek = none) ∨
    ((u.link l).live = true ∧ (u.link l).initiator = false ∧ (u.link l).nextKeys = none))
  (hg : u.takeObject l 0x03 f (fun n => n == 1568) = g)
include hf hok

/-- What the bytes of a complete KEM_EK do: the responder's new keys behind its KEM_CT, or the handshake's answer. -/
theorem exec_kemEk : exec (.kemEk l f) s = .next ((u.onObject l 0x03 f (fun n => n == 1568) (fun v bs =>
    if (v.link l).live then
      (v.random.2.modLink l (fun k => { k with
        rekey := some v.random.2.time, nextKeys := some (k.rekeys (Config.kemEncaps bs v.random.1).2) })).sendObject l 0x04
          (Config.kemEncaps bs v.random.1).1
    else v.takeEk l bs)).sendQueued l) :=
  frameCmd_accepted hf ht hu (by
    rcases hok with ⟨hst, hek⟩ | ⟨hlive, hi, hn⟩
    · simp [hst, hek]
    · simp [hlive, hi, hn])

include hg

theorem exec_kemEk_illegal (hl : g.2.1 = false) : exec (.kemEk l f) s = .next ((g.2.2.malformed l).sendQueued l) := by
  rw [exec_kemEk ht hu hf hok, State.onObject_illegal hg hl]

theorem exec_kemEk_unfinished (hl : g.2.1 = true) (ho : g.1 = none) : exec (.kemEk l f) s = .next (g.2.2.sendQueued l) := by
  rw [exec_kemEk ht hu hf hok, State.onObject_unfinished hg hl ho]

theorem exec_kemEk_handshake {bs : List Nat} (hl : g.2.1 = true) (ho : g.1 = some bs) (hlive : (g.2.2.link l).live = false) :
    exec (.kemEk l f) s = .next ((g.2.2.takeEk l bs).sendQueued l) := by
  rw [exec_kemEk ht hu hf hok, State.onObject_complete hg hl ho, hlive, if_neg Bool.false_ne_true]

theorem exec_kemEk_rekey {bs : List Nat} {v : State} {c : List Nat × List Nat} (hl : g.2.1 = true) (ho : g.1 = some bs)
    (hlive : (g.2.2.link l).live = true) (hv : v = g.2.2.random.2) (hc : c = Config.kemEncaps bs g.2.2.random.1) :
    exec (.kemEk l f) s = .next (((v.modLink l (fun k =>
      { k with rekey := some v.time, nextKeys := some (k.rekeys c.2) })).sendObject l 0x04 c.1).sendQueued l) := by
  rw [exec_kemEk ht hu hf hok, State.onObject_complete hg hl ho, hlive, if_pos rfl, ← hv, ← hc]

end KemEk

/-! KEM_CT: a handshake's, or a rekey's at the initiator (R294, R296). -/

/-- A complete KEM_CT brings the new keys into effect on a live link, and its secret into a handshake. -/
theorem exec_kemCt {g : Option (List Nat) × Bool × State} {bs sec : List Nat} (hf : frameFits 0x04 f = true)
    (hok : ((u.link l).state = .handshake ∧ (u.link l).shake.ct = none) ∨
      ((u.link l).live = true ∧ (u.link l).initiator = true ∧ (u.link l).rekey.isSome = true))
    (hg : u.takeObject l 0x04 f (fun n => n == 1568) = g) (hl : g.2.1 = true) (ho : g.1 = some bs)
    (hsec : sec = Config.kemDecaps (g.2.2.link l).shake.kemRand bs) :
    exec (.kemCt l f) s = .next ((if (g.2.2.link l).live then g.2.2.modLink l (fun k => k.newKeys (k.rekeys sec) g.2.2.time)
      else (g.2.2.modLink l (fun k => { k with shake := { k.shake with ct := some bs, peerSecret := sec } })).agree l).sendQueued l) := by
  have hfits : ((((u.link l).state == .handshake) && (u.link l).shake.ct.isNone) ||
      ((u.link l).live && (u.link l).initiator && (u.link l).rekey.isSome)) = true := by
    rcases hok with ⟨hst, hct⟩ | ⟨hlive, hi, hr⟩
    · simp [hst, hct]
    · simp [hlive, hi, hr]
  show execKemCt l f s = _
  rw [execKemCt, frameCmd_accepted hf ht hu hfits, State.onObject_complete hg hl ho, ← hsec]

end Frames

/-- Settles O38: one lemma of this file for each frame, and the objects by what a frame makes of them. -/
theorem handshakeFrames : Obligations.HandshakeFrames := by
  rintro l f s u _ ht hu rfl
  refine ⟨fun hf => ⟨exec_hello ht hu hf, exec_hello_unfit ht hu hf⟩, fun hf => ⟨exec_cert ht hu hf, exec_cert_unfit ht hu hf⟩,
    fun hf => ⟨fun hst hek g hg => ?_, fun hlive hi hn g bs v c hg hl ho hcarries hv hc => ?_⟩,
    fun hf hok g bs sec hg hl ho hsec => ?_, exec_auth ht hu, fun hf hst hfin htr => ?_⟩
  · exact ⟨exec_kemEk_illegal ht hu hf (.inl ⟨hst, hek⟩) hg, exec_kemEk_unfinished ht hu hf (.inl ⟨hst, hek⟩) hg,
      fun bs => exec_kemEk_handshake ht hu hf (.inl ⟨hst, hek⟩) hg⟩
  · exact exec_kemEk_rekey ht hu hf (.inr ⟨hlive, hi, hn⟩) hg hl ho hcarries hv hc
  · rw [exec_kemCt ht hu hf hok hg hl ho hsec]
    exact ⟨fun hlive => by rw [if_pos hlive], fun hdead => by rw [hdead, if_neg Bool.false_ne_true]⟩
  · rw [exec_finish ht hu hf hst hfin htr]
    exact ⟨fun hown => by rw [if_pos hown], fun hother => by rw [if_neg hother]⟩

end Sys2Proof.Machine
end

section
/-! SUPPORT. The jobs of the signing and the verification unit for a handshake, and the timers of a handshake and of a rekey (R294–R296, R369). -/

namespace Sys2Proof.Machine

open Sys2Proof

/-! The signing unit (R294, R369, R386). -/

section Signing

variable {l : Fin 48} {s : State} {rest : List SignJob} (hq : s.sec.signQ = .auth l :: rest)
include hq

/-- A finished signature goes out as AUTH while the link shakes hands, and FINISH may follow. -/
theorem exec_authSigned {u : State} {k : LinkSt} (ha : s.alive = true) (hd : s.sec.hasDik = true) (hst : (s.link l).state = .handshake)
    (hu : u = s.modSec (fun q => { q with signQ := rest })) (hk : k = u.random.2.link l) :
    exec (.authSigned l) s = .next (((u.random.2.sendObject l 0x05
      (Config.slhSign dikSeeds [] (authBytes k.initiator k.shake.transcript) u.random.1)).modLink l
        (fun k => { k with shake := { k.shake with authSent := true } })).sendFinish l) := by
  subst hu hk
  show execAuthSigned l s = _
  simp [execAuthSigned, hq, ha, hd, hst]

/-- Otherwise the job leaves the queue and nothing is sent. -/
theorem exec_authSigned_stale (hno : s.alive = false ∨ s.sec.hasDik = false ∨ (s.link l).state ≠ .handshake) :
    exec (.authSigned l) s = .next (s.modSec (fun q => { q with signQ := rest })) := by
  show execAuthSigned l s = _
  rcases hno with h | h | h
  · simp [execAuthSigned, hq, h]
  · simp [execAuthSigned, hq, h]
  · simp [execAuthSigned, hq, h]

end Signing

/-! The verification unit (R369, R373). -/

section Verifying

variable {s u : State} {rest : List VerJob} (ha : s.alive = true) (ht : s.sec.token = none)
  (hu : u = s.modSec (fun q => { q with verQ := rest }))
include ha ht hu

theorem exec_verificationDone_cert {l i : Nat} (hq : s.sec.verQ = .cert l i :: rest) :
    exec .verificationDone s = .next (u.certDone l i) := by
  subst hu
  show execVerificationDone s = _
  simp [execVerificationDone, hq, ha, ht]

theorem exec_verificationDone_auth {l : Nat} (hq : s.sec.verQ = .auth l :: rest) : exec .verificationDone s = .next (u.authDone l) := by
  subst hu
  show execVerificationDone s = _
  simp [execVerificationDone, hq, ha, ht]

end Verifying

/-! Timers (R295, R296). -/

theorem exec_rekeyStart_early {l : Fin 48} {s : State} (hfew : max (s.link l).keyFrames (s.link l).keyRx < 2 ^ 32)
    (hlt : s.time < (s.link l).keySince + 100000000 * s.lglob.rekeyS) : exec (.rekeyStart l) s = .next s := by
  have hdue : ¬ (2 ^ 32 ≤ max (s.link l).keyFrames (s.link l).keyRx ∨
      (s.link l).keySince + 100000000 * s.lglob.rekeyS ≤ s.time) := not_or.mpr ⟨hfew.not_ge, hlt.not_ge⟩
  show execRekeyStart l s = _
  simp only [execRekeyStart, hdue, decide_false, Bool.not_false, Bool.or_true, if_true]

section Timers

variable {l : Fin 48} {s : State} (ha : s.alive = true)
include ha

theorem exec_handshakeTimeout (hst : (s.link l).state = .handshake) (hle : (s.link l).shake.start + 20000000 ≤ s.time) :
    exec (.handshakeTimeout l) s = .next (s.train l 7) := by
  have hdue : ¬ s.time < (s.link l).shake.start + 20000000 := by omega
  show execHandshakeTimeout l s = _
  simp [execHandshakeTimeout, ha, hst, hdue]

theorem exec_handshakeRefusedRetry {t : Nat} (hst : (s.link l).state = .absent) (hw : (s.link l).waitUntil = some t) (hle : t ≤ s.time) :
    exec (.handshakeRefusedRetry l) s = .next (s.train l (s.link l).cause) := by
  have hdue : ¬ s.time < t := by omega
  show execHandshakeRefusedRetry l s = _
  simp [execHandshakeRefusedRetry, ha, hst, hw, hdue]

/-- At 2^32 frames of one direction, or REKEY_S under one key, the initiator sends a new key. -/
theorem exec_rekeyStart (hlive : (s.link l).live = true) (hi : (s.link l).initiator = true) (hr : (s.link l).rekey = none)
    (hdue : 2 ^ 32 ≤ max (s.link l).keyFrames (s.link l).keyRx ∨
      (s.link l).keySince + 100000000 * s.lglob.rekeyS ≤ s.time) :
    exec (.rekeyStart l) s = .next ((s.random.2.modLink l (fun k =>
      { k with rekey := some s.time, shake := { k.shake with kemRand := s.random.1 } })).sendObject l 0x03 (Config.kemKey s.random.1)) := by
  show execRekeyStart l s = _
  simp only [execRekeyStart, ha, hlive, hi, hr, hdue, Option.isSome_none, decide_true, Bool.not_true, Bool.or_self, Bool.false_eq_true,
    if_false]
  rfl

theorem exec_rekeyTimeout {t : Nat} (hlive : (s.link l).live = true) (hr : (s.link l).rekey = some t) (hle : t + 1000000 ≤ s.time) :
    exec (.rekeyTimeout l) s = .next (s.faulty l 6) := by
  have hdue : ¬ s.time < t + 1000000 := by omega
  show execRekeyTimeout l s = _
  simp [execRekeyTimeout, ha, hlive, hr, hdue]

end Timers

/-- Settles O39: one lemma of this file for each job and each timer. -/
theorem handshakeJobs : Obligations.HandshakeJobs := by
  refine ⟨?signed, ?stale, ?verified, ?timers⟩
  case signed => exact fun l s u rest k hq ha hd hst => exec_authSigned hq ha hd hst
  case stale => exact fun l s rest hq => exec_authSigned_stale hq
  case verified =>
    intro s u j rest hq ha ht hu
    refine ⟨?_, ?_⟩
    · rintro l i rfl
      exact exec_verificationDone_cert ha ht hu hq
    · rintro l rfl
      exact exec_verificationDone_auth ha ht hu hq
  case timers =>
    rintro l s _ rfl ha
    exact ⟨exec_handshakeTimeout ha, fun t => exec_handshakeRefusedRetry ha,
      fun hlive hi hr => ⟨exec_rekeyStart ha hlive hi hr, exec_rekeyStart_early⟩, fun t => exec_rekeyTimeout ha⟩

end Sys2Proof.Machine
end

section
/-! SUPPORT. How a link trains, leaves service and comes back: its signal, the training timers, FEC lock, the faults of a live link, SLOW and the
hold of a quarantine (R285, R292, R297–R299). -/

namespace Sys2Proof.Machine

open Sys2Proof

section Events

variable {l : Fin 48} {s : State} (ha : s.alive = true)

/-! Signal and training (R285, R297). -/

include ha in
theorem exec_signalDetect (hst : (s.link l).state = .absent) (hw : (s.link l).waitUntil = none) :
    exec (.signalDetect l) s = .next (s.train l (s.link l).cause) := by
  show execSignalDetect l s = _
  simp [execSignalDetect, ha, hst, hw]

include ha in
/-- A loss of signal sends a link that has begun to train to ABSENT, and a quarantined one before its third quarantine. -/
theorem exec_signalLoss (hst : (s.link l).state ∈ [LState.training, .handshake, .inService, .slow, .faulty] ∨
      ((s.link l).state = .quarantined ∧ (s.link l).quars < 3)) : exec (.signalLoss l) s = .next (s.leaveTo l .absent 1) := by
  show execSignalLoss l s = _
  rcases hst with hst | ⟨hst, hlt⟩
  · simp only [List.mem_cons, List.not_mem_nil, or_false] at hst
    rcases hst with h | h | h | h | h <;> simp [execSignalLoss, ha, h]
  · simp [execSignalLoss, ha, hst, hlt]

/-- A third quarantine holds on without signal (log entry 38). -/
theorem exec_signalLoss_third (hst : (s.link l).state = .quarantined) (h3 : 3 ≤ (s.link l).quars) :
    exec (.signalLoss l) s = .next s := by
  show execSignalLoss l s = _
  simp [execSignalLoss, hst, h3]

include ha in
/-- Training that lasts 500 ms goes on at the next lower allowed rate; at the lowest it waits 1 s. -/
theorem exec_trainingTimeout (hst : (s.link l).state = .training) (hw : (s.link l).waitUntil = none)
    (hle : (s.link l).since + 50000000 ≤ s.time) {o : Option Nat}
    (ho : (s.link l).allowed.find? (fun r => decide ((s.link l).trainRate < r)) = o) :
    exec (.trainingTimeout l) s = .next (o.elim (s.modLink l (fun k => { k with waitUntil := some (s.time + 100000000), cause := 2 }))
      (fun r => s.modLink l (fun k => { k with trainRate := r, since := s.time }))) := by
  have hdue : ¬ s.time < (s.link l).since + 50000000 := by omega
  show execTrainingTimeout l s = _
  simp only [execTrainingTimeout, ha, hst, hw, hdue, ho, Bool.not_true, bne_self_eq_false, Option.isSome_none, decide_false, Bool.or_self,
    Bool.false_eq_true, if_false]
  cases o with
  | none => rw [Option.elim_none]
  | some r => rw [Option.elim_some]

include ha in
theorem exec_trainingRestart {t : Nat} (hst : (s.link l).state = .training) (hw : (s.link l).waitUntil = some t) (hle : t ≤ s.time) :
    exec (.trainingRestart l) s = .next (s.train l (s.link l).cause) := by
  have hdue : ¬ s.time < t := by omega
  show execTrainingRestart l s = _
  simp [execTrainingRestart, ha, hst, hw, hdue]

/-- A link at the start of its handshake (R292, R294): SEQ, credits, replay, stalls and keys anew. -/
def LinkSt.startShake (k : LinkSt) (t : Nat) : LinkSt :=
  { k with
    state := .handshake, since := t, rate := k.trainRate, txSeq := 0, rxSeq := 0, ack := none, nullRx := none, kept := [], queue := []
    again := [], nullTx := 0, toldSeq := 0, told := [], sent := [], got := [], freed := [], credit := [], buf := [], stall := []
    clearSince := t, lastReplay := none, replaysFor := 0, replayAsked := 0, replayCount := 0, lastAccept := t, kg := 0, keys := []
    keySince := t, keyFrames := 0, keyRx := 0, rekey := none, nextKeys := none, shake := { start := t } }

include ha in
/-- FEC lock starts the handshake, and HELLO goes out. -/
theorem exec_fecLock (hst : (s.link l).state = .training) (hw : (s.link l).waitUntil = none) :
    exec (.fecLock l) s = .next ((s.modLink l (fun k => k.startShake s.time)).sendHello l) := by
  show execFecLock l s = _
  simp only [execFecLock, ha, hst, hw, Bool.not_true, bne_self_eq_false, Option.isSome_none, Bool.or_self, Bool.false_eq_true, if_false]
  rfl

/-! Faults of a live link (R299). -/

section Faults

variable (hlive : (s.link l).live = true)
include ha hlive

theorem exec_livenessTimeout (hle : (s.link l).lastAccept + 10000 ≤ s.time) : exec (.livenessTimeout l) s = .next (s.faulty l 7) := by
  have hdue : ¬ s.time < (s.link l).lastAccept + 10000 := by omega
  show execLivenessTimeout l s = _
  simp [execLivenessTimeout, ha, hlive, hdue]

theorem exec_fecUncorrLimit (n : Nat) : exec (.fecUncorrLimit l n) s = .next (if n < 16 then s else s.faulty l 6) := by
  show execFecUncorrLimit l n s = _
  simp only [execFecUncorrLimit, ha, hlive, Bool.not_true, Bool.false_or, decide_eq_true_eq]
  exact (apply_ite Host.Outcome.next _ _ _).symm

theorem exec_replayNoProgress (h3 : 3 ≤ (s.link l).replaysFor ∨ 3 ≤ (s.link l).replayCount) :
    exec (.replayNoProgress l) s = .next (s.faulty l 6) := by
  have hno : ¬ ((s.link l).replaysFor < 3 ∧ (s.link l).replayCount < 3) := by omega
  show execReplayNoProgress l s = _
  simp [execReplayNoProgress, ha, hlive, hno]

end Faults

/-! SLOW and the hold of a quarantine (R297, R298). -/

section Holds

include ha

theorem exec_creditStall {c : Fin 3} {t : Nat} (hst : (s.link l).state = .inService) (hstall : Tbl.get 0 c.val (s.link l).stall = t + 1)
    (hle : t + 100 * s.lglob.slowUs ≤ s.time) : exec (.creditStall l c) s =
      .next ((s.modLink l (fun k => { k with state := .slow })).report { code := 0x0811, kind := .link, unit := l }) := by
  have hdue : ¬ s.time < t + 100 * s.lglob.slowUs := by omega
  show execCreditStall l c s = _
  simp [execCreditStall, ha, hst, hstall, hdue]

theorem exec_slowExit (hst : (s.link l).state = .slow) (hq : (s.link l).queue = []) (hagain : (s.link l).again = [])
    (hle : (s.link l).clearSince + 1000000 ≤ s.time) :
    exec (.slowExit l) s = .next (s.modLink l (fun k => { k with state := .inService })) := by
  have hdue : ¬ s.time < (s.link l).clearSince + 1000000 := by omega
  show execSlowExit l s = _
  simp [execSlowExit, ha, hst, hq, hagain, hdue]

theorem exec_quarantineHoldExpiry (hst : (s.link l).state = .quarantined) (hlt : (s.link l).quars < 3)
    (hle : (s.link l).since + 100000000 * s.lglob.quarHoldS ≤ s.time) :
    exec (.quarantineHoldExpiry l) s = .next (s.train l (s.link l).cause) := by
  have hdue : ¬ (3 ≤ (s.link l).quars ∨ s.time < (s.link l).since + 100000000 * s.lglob.quarHoldS) := by omega
  show execQuarantineHoldExpiry l s = _
  simp [execQuarantineHoldExpiry, ha, hst, hdue]

end Holds

theorem exec_quarantineHoldExpiry_third (h3 : 3 ≤ (s.link l).quars) : exec (.quarantineHoldExpiry l) s = .next s := by
  show execQuarantineHoldExpiry l s = _
  simp [execQuarantineHoldExpiry, h3]

end Events

/-- Settles O40: one lemma of this file for each event, by the link's state. -/
theorem linkTraining : Obligations.LinkTraining := by
  rintro l s _ rfl ha
  refine ⟨exec_signalDetect ha, fun hst => exec_signalLoss ha (.inl hst),
    fun hst => ⟨fun hlt => exec_signalLoss ha (.inr ⟨hst, hlt⟩), exec_signalLoss_third hst⟩,
    fun hst hw hle => ⟨fun r hr => ?lower, fun hnone => ?wait⟩, fun t => exec_trainingRestart ha, exec_fecLock ha,
    fun hlive => ⟨exec_livenessTimeout ha hlive, fun n => ?uncorrected, exec_replayNoProgress ha hlive⟩, fun c t => exec_creditStall ha,
    exec_slowExit ha, fun hst => ⟨exec_quarantineHoldExpiry ha hst, exec_quarantineHoldExpiry_third⟩⟩
  case lower => rw [exec_trainingTimeout ha hst hw hle hr, Option.elim_some]
  case wait => rw [exec_trainingTimeout ha hst hw hle hnone, Option.elim_none]
  case uncorrected =>
    rw [exec_fecUncorrLimit ha hlive]
    exact ⟨fun hmany => by rw [if_neg hmany.not_gt], fun hfew => by rw [if_pos hfew]⟩

end Sys2Proof.Machine
end

section
/-! SUPPORT. A write of a link's control register: what it powers, and the four commands that it can be (R297, R314, R343, R402, R403). -/

namespace Sys2Proof.Machine

open Sys2Proof

/-! The register (R314, R431). -/

/-- An offset in a link's block lies in that block. -/
theorem blockOf_link (l : Fin 48) {o : Nat} (h : o < 0x80) : blockOf ((Blk.link l).base + o) = some (.link l, o) := by
  have hbelow : ∀ b, b ≤ 0x20000 → ¬ 0x20000 + 0x80 * l.val + o < b := fun b hb => by omega
  have hlt : 0x20000 + 0x80 * l.val + o < 0x21800 := by omega
  have hl : (0x20000 + 0x80 * l.val + o - 0x20000) / 0x80 = l.val := by omega
  have ho : (0x20000 + 0x80 * l.val + o) % 0x80 = o := by omega
  simp only [blockOf, Blk.base, hbelow _, Nat.reduceLeDiff, if_false, hlt, if_true, hl, ho]

/-- A write of the control register that is not refused, under a command that its value fits. -/
theorem linkCmd_applies {r : Requester} {l : Fin 48} {v : BitVec 64} {s u : State} {fits : Bool} (hr : s.reaches r = true)
    (ht : s.takesWrites (.link l) 0x010 = true) (hu : u = s.touch (.link l)) (hw : u.writeRefused r (.link l) 0x010 v.toNat = none)
    (hfits : fits = true) : linkCmd fits r l v s = .next (u.writeLink l v.toNat) := by
  rw [hu] at hw ⊢
  rw [linkCmd, hfits, if_pos rfl, State.regWrite_applies hr (blockOf_link l (by decide)) ht hw]
  rfl

section Register

variable {l v : Nat} {u : State}

/-- In a boot without service, and outside PRODUCTION, a write sets ENABLE alone (R377, R420). -/
theorem State.writeLink_unserved (h : u.glob.service = 2 ∨ u.sec.lifecycle ≠ 1) :
    u.writeLink l v = u.modLink l (fun k => { k with enable := bit v 0 }) := if_pos h

variable (hs : u.glob.service ≠ 2) (hl : u.sec.lifecycle = 1)
include hs hl

/-- ENABLE 1 powers the link's group first. -/
theorem State.writeLink_on {t : State} (hv : bit v 0 = true)
    (ht : t = (if u.pow.dom (24 + l / 8) = .off then u.modPow (fun p => p.setDoms [24 + l / 8] .on) else u)) :
    u.writeLink l v = t.linkControl l v := by
  subst ht
  simp [State.writeLink, hs, hl, hv]

/-- After ENABLE 0, a group whose eight links are DISABLED is off (log entry 36). -/
theorem State.writeLink_off {t : State} (hv : bit v 0 = false) (ht : t = u.linkControl l v) :
    u.writeLink l v = if ∀ k < 8, (t.link (8 * (l / 8) + k)).state = .disabled then t.modPow (fun p => p.setDoms [24 + l / 8] .off) else t := by
  subst ht
  simp [State.writeLink, hs, hl, hv]

end Register

/-! The link's control (R297, R314). -/

section Control

variable {l v : Nat} {t w : State}

theorem State.linkControl_disables (hst : (t.link l).state ∉ [LState.retired, .disabled]) (hv : bit v 0 = false) :
    t.linkControl l v = (t.modLink l (fun k => { k with enable := false })).leaveTo l .disabled 9 := by
  have hno : ¬ ((t.link l).state = .retired ∨ (t.link l).state = .disabled) := by simpa using hst
  simp only [State.linkControl, hv, if_true, if_neg hno]

variable (hv : bit v 0 = true)
  (hw : w = t.modLink l (fun k => { k with enable := true, state := if k.state = .disabled then .absent else k.state }))
include hv hw

theorem State.linkControl_releases (h1 : bit v 1 = true) (hq : (w.link l).state = .quarantined) :
    t.linkControl l v = w.train l (w.link l).cause := by
  simp [State.linkControl, hv, ← hw, h1, hq]

theorem State.linkControl_retrains (h2 : bit v 2 = true) (hlive : (w.link l).live = true) : t.linkControl l v = w.retrain l := by
  have hserves : (w.link l).state = .inService ∨ (w.link l).state = .slow := by simpa [LinkSt.live] using hlive
  have hfree : ((w.link l).state == .quarantined) = false := by rcases hserves with h | h <;> simp [h]
  simp [State.linkControl, hv, ← hw, h2, hfree, LinkSt.mayTrainAgain, hlive]

end Control

/-! A retrain and the link's key (R402, R403). -/

section Retrain

variable {l : Nat} {w : State}

/-- A retrain that meets the link's test is dropped. -/
theorem State.retrain_in_test (h : ∃ h ∈ w.integ.held, h.act = .linkTest l) : w.retrain l = w := by
  simp [State.retrain, h]

theorem State.retrain_waits (htest : ∀ h ∈ w.integ.held, h.act ≠ .linkTest l)
    (h : (∃ h ∈ w.integ.held, 84 + l ∈ h.act.groups) ∨ ∃ a ∈ w.integ.waiting, 84 + l ∈ a.groups) :
    w.retrain l = w.modInteg (fun g => { g with waiting := g.waiting ++ [.linkRetrain l] }) := by
  have hnot : ¬ ∃ h ∈ w.integ.held, h.act = .linkTest l := fun ⟨h, hin, hact⟩ => htest h hin hact
  simp [State.retrain, hnot, h]

/-- With its key free a link takes it and trains at once. -/
theorem State.retrain_free (hheld : ∀ h ∈ w.integ.held, 84 + l ∉ h.act.groups) (hwait : ∀ a ∈ w.integ.waiting, 84 + l ∉ a.groups) :
    w.retrain l = (w.modInteg (fun g => { g with held := g.held ++ [{ act := .linkRetrain l, since := w.time }] })).train l
      (w.link l).cause := by
  have htest : ¬ ∃ h ∈ w.integ.held, h.act = .linkTest l := fun ⟨h, hin, hact⟩ => hheld h hin (by simp [hact, Activity.groups])
  have hbusy : ¬ ((∃ h ∈ w.integ.held, 84 + l ∈ h.act.groups) ∨ ∃ a ∈ w.integ.waiting, 84 + l ∈ a.groups) := by
    rintro (⟨h, hin, hk⟩ | ⟨a, hin, hk⟩)
    · exact hheld h hin hk
    · exact hwait a hin hk
  have hlink : ∀ g, (w.modInteg g).link l = w.link l := fun _ => rfl
  simp [State.retrain, htest, hbusy, State.trainAgain, hlink]

end Retrain

/-- Settles O41: the register's write by service, life cycle and ENABLE, then the link's control by its bits. -/
theorem linkControl : Obligations.LinkControl := by
  rintro r l v s u t _ hr ht hu hw rfl
  have hcmd : ∀ {fits : Bool}, fits = true → linkCmd fits r l v s = .next (u.writeLink l v.toNat) := linkCmd_applies hr ht hu hw
  refine ⟨fun hs hl hv hpow => ⟨?enable, fun w hset => ⟨fun h1 hq => ?release, fun h2 hlive => ?retrain⟩⟩,
    fun hs hl hv hctl => ?disable, fun hno => ⟨fun hv => ?on, fun hv => ?off⟩, State.linkControl_disables⟩
  case enable => exact (hcmd hv).trans (by rw [State.writeLink_on hs hl hv hpow])
  case release =>
    exact (hcmd h1).trans (by rw [State.writeLink_on hs hl hv hpow, State.linkControl_releases hv hset h1 hq])
  case retrain =>
    have hgoes : exec (.retrain r l v) s = .next (w.retrain l) :=
      (hcmd h2).trans (by rw [State.writeLink_on hs hl hv hpow, State.linkControl_retrains hv hset h2 hlive])
    rw [hgoes]
    exact ⟨fun hheld hwait => by rw [State.retrain_free hheld hwait], fun htest => by rw [State.retrain_in_test htest],
      fun htest hbusy => by rw [State.retrain_waits htest hbusy]⟩
  case disable =>
    have hgoes : exec (.linkDisable r l v) s = .next (u.writeLink l v.toNat) := hcmd (by rw [hv, Bool.not_false])
    rw [hgoes, State.writeLink_off hs hl hv hctl]
    refine ⟨fun hall => by rw [if_pos hall], ?_⟩
    rintro ⟨k, hk, hsome⟩
    rw [if_neg (fun hall => hsome (hall k hk))]
  case on => exact (hcmd hv).trans (by rw [State.writeLink_unserved hno, hv])
  case off => exact (hcmd (by rw [hv, Bool.not_false])).trans (by rw [State.writeLink_unserved hno, hv])

end Sys2Proof.Machine
end

section
/-! SUPPORT. How a host is lost: what the clean-up of one function changes and what it leaves alone, and the PCIe events that lose a port's or a
seat's host, one command at a time. -/

namespace Sys2Proof.Machine

open Sys2Proof

/-! What the clean-up of a function leaves of its rings, windows and records (R332). -/

/-- A table filtered by its keys reads as before at the keys kept, and as its default at the others. -/
theorem Tbl.get_filter_key {α : Type} (d : α) (keep : Nat → Bool) (k : Nat) (t : Tbl α) :
    Tbl.get d k (t.filter (fun kv => keep kv.1)) = if keep k then Tbl.get d k t else d := by
  induction t with
  | nil => simp
  | cons x t ih =>
    obtain ⟨i, v⟩ := x
    cases hi : keep i with
    | false =>
      simp only [List.filter_cons, hi, Bool.false_eq_true, if_false, ih, Tbl.get]
      split_ifs with hk heq
      · exact absurd (heq ▸ hk) (by simp [hi])
      · rfl
      · rfl
    | true =>
      simp only [List.filter_cons, hi, if_true, Tbl.get, ih]
      split_ifs with heq hk hk
      · rfl
      · exact absurd (heq ▸ hi) hk
      · rfl
      · rfl

theorem ringKey_inj {p : Port} {j k : Nat} : ringKey p j = ringKey p k ↔ j = k := Nat.add_left_cancel_iff

/-- Rings `rs` of port `p` with ENABLE lowered. -/
def State.disableRings (s : State) (p : Port) (rs : List Nat) : State :=
  rs.foldl (fun s n => s.modRing p n (fun r => { r with enable := false })) s

theorem State.disableRings_ring (s : State) (p : Port) (rs : List Nat) (k : Nat) :
    (s.disableRings p rs).ring p k = if k ∈ rs then { s.ring p k with enable := false } else s.ring p k := by
  induction rs generalizing s with
  | nil => rfl
  | cons n rs ih =>
    have hstep : (s.modRing p n (fun r => { r with enable := false })).ring p k =
        if k = n then { s.ring p k with enable := false } else s.ring p k := by
      simp only [State.ring, State.modRing, State.modServe, Tbl.get_upd, ringKey_inj]
      split_ifs with hk
      · rw [hk]
      · rfl
    rw [State.disableRings, List.foldl_cons, ← State.disableRings, ih, hstep]
    by_cases hk : k = n <;> simp [hk]

/-- Disabling rings changes the rings alone. -/
theorem State.disableRings_eq (s : State) (p : Port) (rs : List Nat) :
    s.disableRings p rs = s.modServe (fun v => { v with rings := (s.disableRings p rs).serve.rings }) := by
  induction rs generalizing s with
  | nil => rfl
  | cons n rs ih =>
    rw [State.disableRings, List.foldl_cons, ← State.disableRings, ih]
    rfl

@[simp] theorem State.disableRings_port (s : State) (p q : Port) (rs : List Nat) : (s.disableRings p rs).port q = s.port q := by
  rw [State.disableRings_eq]
  cases q <;> rfl

@[simp] theorem State.disableRings_records (s : State) (p : Port) (rs : List Nat) : (s.disableRings p rs).serve.records = s.serve.records := by
  rw [State.disableRings_eq]
  rfl

theorem State.mem_fnRings {s : State} {p : Port} {fn k : Nat} : k ∈ s.fnRings p fn ↔ k < 16 ∧ s.ringFn p k = fn := by
  simp [State.fnRings]

/-- A port without the racking windows of function `fn`; what was enabled among them is kept for R327. -/
def PortSt.dropWindows (q : PortSt) (fn : Nat) : PortSt :=
  { q with
    windows := q.windows.filter (fun kv => q.winOwner kv.1 != fn)
    past := q.past ++ (q.windows.filter (fun kv => q.winOwner kv.1 == fn && kv.2.en)).map Prod.snd }

theorem PortSt.dropWindows_win (q : PortSt) (fn w : Nat) : (q.dropWindows fn).win w = if q.winOwner w = fn then {} else q.win w := by
  refine (Tbl.get_filter_key {} (fun k => q.winOwner k != fn) w q.windows).trans ?_
  by_cases how : q.winOwner w = fn <;> simp [how, PortSt.win]

section DropFn

variable (s : State) (p : Port) (fn : Nat)

theorem State.dropFn_port (q : Port) : (s.dropFn p fn).port q = (s.modPort p (fun x => x.dropWindows fn)).port q := by
  have hdrop : (s.dropFn p fn).port q = ((s.disableRings p (s.fnRings p fn)).modPort p (fun x => x.dropWindows fn)).port q := by
    cases q <;> rfl
  rw [hdrop]
  by_cases hq : q = p
  · rw [hq, State.modPort_port_self, State.modPort_port_self, State.disableRings_port]
  · rw [State.modPort_port_other _ hq, State.modPort_port_other _ hq, State.disableRings_port]

theorem State.dropFn_ring (k : Nat) : (s.dropFn p fn).ring p k = (s.disableRings p (s.fnRings p fn)).ring p k := by
  cases p <;> rfl

/-- The records that wait for the host through the function's rings go. -/
theorem State.dropFn_records : (s.dropFn p fn).serve.records =
    s.serve.records.filter (fun c => !(c.port == p && (s.fnRings p fn).contains c.ring)) := by
  rw [← State.disableRings_records s p (s.fnRings p fn)]
  cases p <;> rfl

end DropFn

/-! Steps 1 to 3 of R332. -/

@[simp] theorem State.dropReport_port (s : State) (p q : Port) : (s.dropReport p).port q = s.port q := by
  simp only [State.dropReport]
  split_ifs
  · cases q <;> rfl
  · rfl

@[simp] theorem State.dropReport_serve (s : State) (p : Port) : (s.dropReport p).serve = s.serve := by
  simp only [State.dropReport]
  split_ifs <;> rfl

section ClearFn

variable (s : State) (p : Port) (wide : Bool) (fn : Nat)

/-- The attestation report that only the PF's loss drops (R376) is no part of a port. -/
theorem State.clearFn_port (q : Port) : (s.clearFn p wide fn).port q = ((s.modFunc p fn (fun f => f.lose wide)).dropFn p fn).port q := by
  unfold State.clearFn
  split_ifs
  · exact State.dropReport_port ..
  · rfl

theorem State.clearFn_serve : (s.clearFn p wide fn).serve = ((s.modFunc p fn (fun f => f.lose wide)).dropFn p fn).serve := by
  unfold State.clearFn
  split_ifs
  · exact State.dropReport_serve ..
  · rfl

@[simp] theorem State.modFunc_ringFn (q : Port) (f : Func → Func) (k : Nat) : (s.modFunc p fn f).ringFn q k = s.ringFn q k := by
  cases p <;> cases q <;> rfl

theorem State.clearFn_func (m : Nat) :
    ((s.clearFn p wide fn).port p).func m = if m = fn then ((s.port p).func fn).lose wide else (s.port p).func m := by
  rw [State.clearFn_port, State.dropFn_port, State.modPort_port_self, State.modFunc, State.modPort_port_self]
  exact Tbl.get_upd {} fn m (fun f => f.lose wide) (s.port p).funcs

theorem State.clearFn_win (w : Nat) :
    ((s.clearFn p wide fn).port p).win w = if (s.port p).winOwner w = fn then {} else (s.port p).win w := by
  rw [State.clearFn_port, State.dropFn_port, State.modPort_port_self, State.modFunc, State.modPort_port_self]
  exact PortSt.dropWindows_win ..

theorem State.clearFn_ring {k : Nat} (hk : k < 16) :
    (s.clearFn p wide fn).ring p k = if s.ringFn p k = fn then { s.ring p k with enable := false } else s.ring p k := by
  have hring : (s.modFunc p fn (fun f => f.lose wide)).ring p k = s.ring p k := by cases p <;> rfl
  rw [State.ring, State.clearFn_serve, ← State.ring, State.dropFn_ring, State.disableRings_ring, hring]
  simp [State.mem_fnRings, hk]

/-- A record that still waits is not one of the function's rings. -/
theorem State.clearFn_records {c : CompRec} (hc : c ∈ (s.clearFn p wide fn).serve.records) (hp : c.port = p) (hk : c.ring < 16) :
    s.ringFn p c.ring ≠ fn := by
  rw [State.clearFn_serve, State.dropFn_records, List.mem_filter] at hc
  intro hfn
  simp [hp, State.mem_fnRings, hk, hfn] at hc

theorem State.clearFn_port_other {q : Port} (hq : q ≠ p) : (s.clearFn p wide fn).port q = s.port q := by
  rw [State.clearFn_port, State.dropFn_port, State.modPort_port_other _ hq, State.modFunc, State.modPort_port_other _ hq]

end ClearFn

/-! The events that lose a whole port's host (R331, R332, R338, R343). -/

theorem State.losePort_of_up {s : State} {p : Port} (h : (s.port p).link = .up) (c : Nat) :
    s.losePort p c = (s.port p).fns.foldl (fun s n => (s.clearFn p true n).endFn p n) (s.countLoss p c) :=
  if_neg (not_not_intro h)

theorem exec_dataLinkDown (p : Port) (b : Bool) (s : State) :
    exec (.dataLinkDown p b) s = .next (if b = true ∧ (s.port p).refclkSel = false
      then ((s.losePort p 6).linkAway p .down).modPort p (fun q => { q with refclkOk := false }) else (s.losePort p 2).linkAway p .down) := by
  show execDataLinkDown p b s = _
  cases b <;> cases hsel : (s.port p).refclkSel <;> simp [execDataLinkDown, hsel]

theorem exec_hotReset {p : Port} {s : State} (h : (s.port p).link = .up) :
    exec (.hotReset p) s = .next (((s.losePort p 3).linkAway p .down).trainPort p) := if_neg (not_not_intro h)

theorem exec_hotReset_away {p : Port} {s : State} (h : (s.port p).link ≠ .up) : exec (.hotReset p) s = .next s := if_pos h

section Configured

variable {p : Port} {s : State} (hc : (s.port p).configures 0 = true)
include hc

theorem exec_pfBmeClear (hd : ((s.port p).func 0).d3hot = false) : exec (.pfBmeClear p) s = .next (s.losePort p 4) := by
  show execPfBmeClear p s = _
  simp [execPfBmeClear, hc, hd]

theorem exec_pfFlr : exec (.pfFlr p) s = .next ((s.losePort p 4).modPort p (fun q => { q with numVf := 0 })) := by
  show execPfFlr p s = _
  simp [execPfFlr, hc]

theorem exec_vfEnableClear (n : Fin 16) : exec (.vfEnableClear p n) s = .next (s.lowerVfs p n) := by
  show execVfEnableClear p n s = _
  simp [execVfEnableClear, hc]

end Configured

/-- A port that is not ready answers the PF's configuration requests with Retry Status, and nothing happens (R334). -/
theorem exec_pfConfig_retried {p : Port} {s : State} (hc : (s.port p).configures 0 = false) :
    exec (.pfFlr p) s = .next s ∧ exec (.pfBmeClear p) s = .next s ∧ ∀ n, exec (.vfEnableClear p n) s = .next s := by
  refine ⟨?flr, ?bme, fun n => ?vf⟩
  case flr =>
    show execPfFlr p s = _
    simp [execPfFlr, hc]
  case bme =>
    show execPfBmeClear p s = _
    simp [execPfBmeClear, hc]
  case vf =>
    show execVfEnableClear p n s = _
    simp [execVfEnableClear, hc]

/-! The events that lose one function's host (R331, R338). -/

section Function

variable {p : Port} {n : Fin 16} {s : State} (hc : (s.port p).configures n = true)
include hc

theorem State.loseSeat_configured (hn : n ≠ 0) : s.loseSeat p n = (s.clearFn p false n).endFn p n :=
  if_pos ⟨fun h => hn (Fin.val_eq_zero_iff.mp h), hc⟩

theorem exec_seatFlr (hn : n ≠ 0) : exec (.seatFlr p n) s = .next ((s.clearFn p false n).endFn p n) :=
  congrArg Host.Outcome.next (State.loseSeat_configured hc hn)

theorem exec_seatBmeClear (hn : n ≠ 0) (hd : ((s.port p).func n).d3hot = false) :
    exec (.seatBmeClear p n) s = .next ((s.clearFn p false n).endFn p n) := by
  show execSeatBmeClear p n s = _
  rw [execSeatBmeClear, hd, State.loseSeat_configured hc hn]
  rfl

/-- Power state D3hot is set behind the loss, which clears it. -/
theorem exec_d3hotEntry (hd : ((s.port p).func n).d3hot = false) :
    exec (.d3hotEntry p n) s = .next (((((s.countLoss p 5).clearFn p (decide (n.val = 0)) n).endFn p n)).modFunc p n
      (fun f => { f with d3hot := true })) := by
  show execD3hotEntry p n s = _
  simp only [execD3hotEntry, hc, hd, Bool.not_true, Bool.or_self, Bool.false_eq_true, if_false]
  rfl

end Function

/-! The end of a clean-up (R332). -/

theorem exec_quiesceDone {p : Port} {n : Fin 16} {s : State} (ha : s.alive = true) (hq : ((s.port p).func n).quiesce = true) :
    exec (.quiesceDone p n) s = .next (if s.lingers p n then s
      else (s.modFunc p n (fun f => { f with quiesce := false, ended := 0 })).report
        { code := if ((s.port p).func n).lossPort then 0x2901 else 0x2902, kind := .port, unit := p.num, func := n, ports := 2 ^ p.num
          reqs := ((s.port p).func n).ended }) := by
  show execQuiesceDone p n s = _
  simp only [execQuiesceDone, ha, hq, Bool.not_true, Bool.false_or]
  split_ifs <;> rfl

/-- Settles O42: one lemma of this file for each event, and the clean-up by its functions, rings, windows and records. -/
theorem portsLoseHosts : Obligations.PortsLoseHosts := by
  refine ⟨fun p s => ⟨rfl, fun b => exec_dataLinkDown p b s, fun hup => ⟨State.losePort_of_up hup, exec_hotReset hup⟩,
    fun hc => ⟨exec_pfBmeClear hc, exec_pfFlr hc, exec_vfEnableClear hc⟩, exec_pfConfig_retried, exec_hotReset_away⟩, ?clear, ?function, ?done⟩
  case clear =>
    rintro p wide n s u rfl
    refine ⟨?func, fun k => ?ring, fun w => ?window, fun c => State.clearFn_records s p wide n, fun m hm => ?others,
      fun q => State.clearFn_port_other s p wide n⟩
    case func => rw [State.clearFn_func, if_pos rfl]; rfl
    case ring =>
      rw [State.clearFn_ring s p wide n k.isLt]
      exact ⟨fun hfn => by rw [if_pos hfn], fun hfn => if_neg hfn⟩
    case window =>
      rw [State.clearFn_win]
      exact ⟨fun how => if_pos how, fun how => if_neg how⟩
    case others => rw [State.clearFn_func, if_neg hm]
  case function =>
    refine fun p n s hc => ⟨fun hn => ⟨exec_seatFlr hc hn, exec_seatBmeClear hc hn⟩, ?_⟩
    rintro hd c rfl
    exact exec_d3hotEntry hc hd
  case done =>
    intro p n s ha hq
    rw [exec_quiesceDone ha hq]
    exact ⟨fun hl => by rw [if_pos hl], fun hl => by rw [hl]; rfl⟩

end Sys2Proof.Machine
end

section
/-! SUPPORT. What every command and the tick keep: the waiting commands and the canonical form of memory. The queue's discipline (log entry 13). -/

namespace Sys2Proof.Machine

open Sys2Proof

/-- Every command keeps what every operation keeps, by its own lemma of Laws/Keeps. -/
theorem exec_keeps {i : Instr} {r s t : State} (hK : Keeps r s) (h : exec i s = .next t) : Keeps r t := by
  cases i with
  | nop => exact execNop_keeps _ _ _ hK h
  | endPart => exact execEndPart_keeps _ _ _ hK h
  | loop => exact execLoop_keeps _ _ _ hK h
  | setc => exact execSetc_keeps _ _ _ hK h
  | ldcx => exact execLdcx_keeps _ _ _ hK h
  | mm => exact execMm_keeps _ _ _ hK h
  | mmw => exact execMmw_keeps _ _ _ hK h
  | decanterForward => exact execDecanterForward_keeps _ _ _ hK h
  | decanterRecompute => exact execDecanterRecompute_keeps _ _ _ hK h
  | map => exact execMap_keeps _ _ _ hK h
  | episet => exact execEpiset_keeps _ _ _ hK h
  | rowstat => exact execRowstat_keeps _ _ _ hK h
  | rowstatCombine => exact execRowstatCombine_keeps _ _ _ hK h
  | rownorm => exact execRownorm_keeps _ _ _ hK h
  | tbload => exact execTbload_keeps _ _ _ hK h
  | submit => exact execSubmit_keeps _ _ _ hK h
  | kfetch => exact execKfetch_keeps _ _ _ hK h
  | convfeed => exact execConvfeed_keeps _ _ _ hK h
  | pegSet => exact execPegSet_keeps _ _ _ hK h
  | pegAdd => exact execPegAdd_keeps _ _ _ hK h
  | acquire => exact execAcquire_keeps _ _ _ hK h
  | monitor => exact execMonitor_keeps _ _ _ hK h
  | pegRegister => exact execPegRegister_keeps _ _ hK h
  | pegWake => exact execPegWake_keeps _ _ hK h
  | pegClaim => exact execPegClaim_keeps _ _ hK h
  | stewardPegSet => exact execStewardPegSet_keeps _ _ _ _ hK h
  | stewardPegAdd => exact execStewardPegAdd_keeps _ _ _ _ hK h
  | streamCopy => exact execStreamCopy_keeps _ _ _ _ hK h
  | streamGather => exact execStreamGather_keeps _ _ _ _ hK h
  | streamScatter => exact execStreamScatter_keeps _ _ _ _ hK h
  | scalefeed => exact execScalefeed_keeps _ _ _ _ hK h
  | descriptorComplete => exact execDescriptorComplete_keeps _ _ _ hK h
  | weightRoundRequest => exact execWeightRoundRequest_keeps _ _ hK h
  | weightRoundStart => exact execWeightRoundStart_keeps _ hK h
  | passLaunch => exact execPassLaunch_keeps _ _ _ hK h
  | completionSlotWrite => exact execCompletionSlotWrite_keeps _ _ hK h
  | passCommit => exact execPassCommit_keeps _ _ _ hK h
  | rackComplete => exact execRackComplete_keeps _ _ _ hK h
  | passAbort => exact execPassAbort_keeps _ _ _ hK h
  | passRetry => exact execPassRetry_keeps _ _ hK h
  | drainLimitExpiry => exact execDrainLimitExpiry_keeps _ _ hK h
  | pegWaitExpiry => exact execPegWaitExpiry_keeps _ _ hK h
  | passWatchdogExpiry => exact execPassWatchdogExpiry_keeps _ _ hK h
  | chipBarrierExpiry => exact execChipBarrierExpiry_keeps _ _ hK h
  | stewardWatchdogExpiry => exact execStewardWatchdogExpiry_keeps _ _ hK h
  | kick => exact execKick_keeps _ _ _ hK h
  | handArrival => exact execHandArrival_keeps _ _ _ _ hK h
  | syncArrive => exact execSyncArrive_keeps _ _ _ hK h
  | syncRelease => exact execSyncRelease_keeps _ _ _ hK h
  | request => exact execRequest_keeps _ _ _ _ _ hK h
  | cancel => exact execCancel_keeps _ _ _ _ _ hK h
  | stakeLoad => exact execStakeLoad_keeps _ _ _ _ _ hK h
  | domainLoad => exact execDomainLoad_keeps _ _ _ _ _ hK h
  | domainPurge => exact execDomainPurge_keeps _ _ _ _ hK h
  | modelLoad => exact execModelLoad_keeps _ _ _ _ _ hK h
  | modelUnload => exact execModelUnload_keeps _ _ _ _ hK h
  | modelDrained => exact execModelDrained_keeps _ _ hK h
  | modelDrainTimeout => exact execModelDrainTimeout_keeps _ _ hK h
  | modelPartitionsSet => exact execModelPartitionsSet_keeps _ _ _ _ hK h
  | kickerLoad => exact execKickerLoad_keeps _ _ _ _ _ hK h
  | kickerDrop p n e => exact execKickerDrop_keeps p n e hK h
  | sessionClose => exact execSessionClose_keeps _ _ _ _ hK h
  | sessionQuery => exact execSessionQuery_keeps _ _ _ _ hK h
  | intakeIllegalOpcode => exact execIntakeIllegalOpcode_keeps _ _ _ _ hK h
  | vineWalk => exact execVineWalk_keeps _ _ _ hK h
  | stakeIntervalStart => exact execStakeIntervalStart_keeps _ _ hK h
  | pruneRound => exact execPruneRound_keeps _ _ _ hK h
  | unrack => exact execUnrack_keeps _ _ hK h
  | rackExpiry => exact execRackExpiry_keeps _ _ hK h
  | completionRecordWrite => exact execCompletionRecordWrite_keeps _ _ _ hK h
  | cqHeadWrite => exact execCqHeadWrite_keeps _ _ _ _ _ hK h
  | ringEnable => exact execRingEnable_keeps _ _ _ _ _ hK h
  | ringDisable => exact execRingDisable_keeps _ _ _ _ _ hK h
  | shipGrant => exact execShipGrant_keeps _ _ _ hK h
  | shipRefuse => exact execShipRefuse_keeps _ _ _ hK h
  | shipOfferTimeout => exact execShipOfferTimeout_keeps _ _ hK h
  | shipNack => exact execShipNack_keeps _ _ _ hK h
  | shipDone => exact execShipDone_keeps _ _ _ hK h
  | shipAbort => exact execShipAbort_keeps _ _ _ hK h
  | shipOffer => exact execShipOffer_keeps _ _ _ hK h
  | shipLimitExpiry => exact execShipLimitExpiry_keeps _ _ hK h
  | accept => exact execAccept_keeps _ _ _ hK h
  | write => exact execWrite_keeps _ _ _ hK h
  | windowRevoke => exact execWindowRevoke_keeps _ _ hK h
  | revokeAck => exact execRevokeAck_keeps _ _ _ hK h
  | revokeGraceExpiry => exact execRevokeGraceExpiry_keeps _ _ hK h
  | modelReq => exact execModelReq_keeps _ _ hK h
  | modelStripe => exact execModelStripe_keeps _ _ _ hK h
  | modelHave => exact execModelHave_keeps _ _ _ hK h
  | modelNone => exact execModelNone_keeps _ _ _ hK h
  | modelDone => exact execModelDone_keeps _ _ _ hK h
  | modelReplyTimeout => exact execModelReplyTimeout_keeps _ _ hK h
  | modelLimitExpiry => exact execModelLimitExpiry_keeps _ _ hK h
  | signalDetect => exact execSignalDetect_keeps _ _ hK h
  | signalLoss => exact execSignalLoss_keeps _ _ hK h
  | trainingTimeout => exact execTrainingTimeout_keeps _ _ hK h
  | trainingRestart => exact execTrainingRestart_keeps _ _ hK h
  | fecLock => exact execFecLock_keeps _ _ hK h
  | null => exact execNull_keeps _ _ _ hK h
  | hello => exact execHello_keeps _ _ _ hK h
  | cert => exact execCert_keeps _ _ _ hK h
  | kemEk => exact execKemEk_keeps _ _ _ hK h
  | kemCt => exact execKemCt_keeps _ _ _ hK h
  | auth => exact execAuth_keeps _ _ _ hK h
  | finish => exact execFinish_keeps _ _ _ hK h
  | replayReq => exact execReplayReq_keeps _ _ _ hK h
  | linkFrameMalformed => exact execLinkFrameMalformed_keeps _ _ _ hK h
  | handshakeTimeout => exact execHandshakeTimeout_keeps _ _ hK h
  | handshakeRefusedRetry => exact execHandshakeRefusedRetry_keeps _ _ hK h
  | rekeyStart => exact execRekeyStart_keeps _ _ hK h
  | rekeyTimeout => exact execRekeyTimeout_keeps _ _ hK h
  | livenessTimeout => exact execLivenessTimeout_keeps _ _ hK h
  | fecUncorrLimit => exact execFecUncorrLimit_keeps _ _ _ hK h
  | replayNoProgress => exact execReplayNoProgress_keeps _ _ hK h
  | creditStall => exact execCreditStall_keeps _ _ _ hK h
  | slowExit => exact execSlowExit_keeps _ _ hK h
  | quarantineHoldExpiry => exact execQuarantineHoldExpiry_keeps _ _ hK h
  | linkEnable => exact execLinkEnable_keeps _ _ _ _ hK h
  | linkDisable => exact execLinkDisable_keeps _ _ _ _ hK h
  | retrain => exact execRetrain_keeps _ _ _ _ hK h
  | quarRelease => exact execQuarRelease_keeps _ _ _ _ hK h
  | perstAssert => exact execPerstAssert_keeps _ _ hK h
  | perstDeassert => exact execPerstDeassert_keeps _ _ hK h
  | dataLinkDown => exact execDataLinkDown_keeps _ _ _ hK h
  | hotReset => exact execHotReset_keeps _ _ hK h
  | pfFlr => exact execPfFlr_keeps _ _ hK h
  | pfBmeClear => exact execPfBmeClear_keeps _ _ hK h
  | vfEnableClear => exact execVfEnableClear_keeps _ _ _ hK h
  | seatFlr => exact execSeatFlr_keeps _ _ _ hK h
  | seatBmeClear => exact execSeatBmeClear_keeps _ _ _ hK h
  | d3hotEntry => exact execD3hotEntry_keeps _ _ _ hK h
  | quiesceDone => exact execQuiesceDone_keeps _ _ _ hK h
  | busMasterEnableSet => exact execBusMasterEnableSet_keeps _ _ _ hK h
  | pcieLinkUp => exact execPcieLinkUp_keeps _ _ _ _ hK h
  | rackingWindowEnable => exact execRackingWindowEnable_keeps _ _ _ _ _ hK h
  | estimateIntervalEnd => exact execEstimateIntervalEnd_keeps _ hK h
  | pmbusCalibration => exact execPmbusCalibration_keeps _ _ hK h
  | boostEntry => exact execBoostEntry_keeps _ hK h
  | boostPowerGood => exact execBoostPowerGood_keeps _ hK h
  | temperatureReading => exact execTemperatureReading_keeps _ _ hK h
  | hbmTemperatureReading => exact execHbmTemperatureReading_keeps _ _ hK h
  | coolantOkFall => exact execCoolantOkFall_keeps _ hK h
  | coolantOkRise => exact execCoolantOkRise_keeps _ hK h
  | coolantStop => exact execCoolantStop_keeps _ hK h
  | vrAlertAssert => exact execVrAlertAssert_keeps _ hK h
  | vrStatusRead => exact execVrStatusRead_keeps _ _ hK h
  | fallbackWindowExpiry => exact execFallbackWindowExpiry_keeps _ hK h
  | readyIdleEntry => exact execReadyIdleEntry_keeps _ hK h
  | readyIdleWake => exact execReadyIdleWake_keeps _ hK h
  | rootPllLoss => exact execRootPllLoss_keeps _ hK h
  | dbgChal => exact execDbgChal_keeps _ hK h
  | dbgToken => exact execDbgToken_keeps _ _ hK h
  | tokenVerified => exact execTokenVerified_keeps _ hK h
  | unlockLockoutExpiry => exact execUnlockLockoutExpiry_keeps _ hK h
  | dbgStatus => exact execDbgStatus_keeps _ _ hK h
  | dbgAccess => exact execDbgAccess_keeps _ _ hK h
  | dbgScan => exact execDbgScan_keeps _ _ _ hK h
  | extest => exact execExtest_keeps _ _ hK h
  | samplePreload => exact execSamplePreload_keeps _ _ hK h
  | idcode => exact execIdcode_keeps _ hK h
  | clamp => exact execClamp_keeps _ _ hK h
  | highz => exact execHighz_keeps _ _ hK h
  | bypass => exact execBypass_keeps _ hK h
  | zeroise => exact execZeroise_keeps _ _ _ hK h
  | zeroisationComplete => exact execZeroisationComplete_keeps _ hK h
  | attestationGo => exact execAttestationGo_keeps _ _ _ hK h
  | attestationSigned => exact execAttestationSigned_keeps _ hK h
  | rngHealthFail => exact execRngHealthFail_keeps _ hK h
  | drbgReseed => exact execDrbgReseed_keeps _ hK h
  | uncorrectableDetect => exact execUncorrectableDetect_keeps _ _ hK h
  | poisonConsume => exact execPoisonConsume_keeps _ _ _ hK h
  | ceLimitReached => exact execCeLimitReached_keeps _ _ _ hK h
  | cellarKeyRequest => exact execCellarKeyRequest_keeps _ _ hK h
  | cellarKeyRelease => exact execCellarKeyRelease_keeps _ _ hK h
  | targetedTestVerdict => exact execTargetedTestVerdict_keeps _ _ _ _ hK h
  | compaction => exact execCompaction_keeps _ _ _ hK h
  | hbmPatrolScrub => exact execHbmPatrolScrub_keeps _ _ _ _ hK h
  | sramPatrolScrub => exact execSramPatrolScrub_keeps _ _ _ _ hK h
  | supply52vApply => exact execSupply52vApply_keeps _ hK h
  | resetInAssert => exact execResetInAssert_keeps _ _ hK h
  | resetInDeassert => exact execResetInDeassert_keeps _ _ hK h
  | firmwareReady => exact execFirmwareReady_keeps _ hK h
  | loaderReboot => exact execLoaderReboot_keeps _ hK h
  | rescueNext => exact execRescueNext_keeps _ _ _ hK h
  | rescueGo => exact execRescueGo_keeps _ _ _ _ hK h
  | rescueInstallDone => exact execRescueInstallDone_keeps _ _ hK h
  | readId => exact execReadId_keeps _ hK h
  | readStatus => exact execReadStatus_keeps _ hK h
  | readPower => exact execReadPower_keeps _ hK h
  | readTrip => exact execReadTrip_keeps _ hK h
  | readLog => exact execReadLog_keeps _ _ hK h
  | readRepair => exact execReadRepair_keeps _ _ hK h
  | readTime => exact execReadTime_keeps _ hK h
  | zarm => exact execZarm_keeps _ hK h
  | zarmExpiry => exact execZarmExpiry_keeps _ hK h
  | smbZeroise => exact execSmbZeroise_keeps _ _ hK h
  | smbRescue => exact execSmbRescue_keeps _ _ hK h
  | enMate => exact execEnMate_keeps _ hK h
  | powerOnResetEnd => exact execPowerOnResetEnd_keeps _ hK h
  | enBreak => exact execEnBreak_keeps _ hK h
  | inputLockout => exact execInputLockout_keeps _ hK h
  | circuitBreakerTrip => exact execCircuitBreakerTrip_keeps _ hK h
  | localTimeLowRead => exact execLocalTimeLowRead_keeps _ _ hK h
  | ctrClear => exact execCtrClear_keeps _ _ _ _ hK h
  | registerWrite => exact execRegisterWrite_keeps _ _ _ _ _ hK h
  | refclkDetect => exact execRefclkDetect_keeps _ _ hK h
  | pcieCompletionTimeout => exact execPcieCompletionTimeout_keeps _ _ _ hK h
  | rateWidthChange => exact execRateWidthChange_keeps _ _ _ hK h
  | vfEnableSet => exact execVfEnableSet_keeps _ _ _ hK h
  | vectorUnmask => exact execVectorUnmask_keeps _ _ _ _ hK h
  | returnToD0 => exact execReturnToD0_keeps _ _ _ hK h
  | aspmL1Entry => exact execAspmL1Entry_keeps _ _ hK h
  | aspmL1Exit => exact execAspmL1Exit_keeps _ _ hK h
  | vrAlertDeassert => exact execVrAlertDeassert_keeps _ hK h
  | returnToGated => exact execReturnToGated_keeps _ _ hK h
  | authSigned => exact execAuthSigned_keeps _ _ hK h
  | verificationDone => exact execVerificationDone_keeps _ hK h
  | windowGrant => exact execWindowGrant_keeps _ _ _ hK h
  | unrackComplete => exact execUnrackComplete_keeps _ _ hK h

/-- A step keeps the canonical form of memory: it is a command on the state with the queue's rest, or a tick. -/
theorem step_keeps_memCanon {s t : State} (hc : s.memCanon = true) (h : step s = .next t) : t.memCanon = true := by
  cases hq : s.pending with
  | nil =>
    rw [step_nil hq] at h
    obtain rfl : s.tick = t := by injection h
    exact (State.tick_keeps s (.refl s)).2 hc
  | cons c rest =>
    rw [step_cons hq] at h
    have hrest : ({ s with pending := rest } : State).memCanon = true := hc
    exact (exec_keeps (.refl _) h).2 hrest

/-- Settles O4: a command keeps the canonical form by its own lemma, and so does the tick. -/
theorem memoryStaysCanonical : Obligations.MemoryStaysCanonical := fun _ _ => step_keeps_memCanon

/-- Settles O3: a command keeps the waiting commands by its own lemma. -/
theorem execKeepsQueue : Obligations.ExecKeepsQueue := fun _ s _ h => (exec_keeps (.refl s) h).1

/-- Settles O2: the two rows of `step`. -/
theorem stepRunsFrontCommand : Obligations.StepRunsFrontCommand := fun _ => ⟨fun _ _ => step_cons, step_nil⟩

end Sys2Proof.Machine
end

section
/-! SUPPORT. What a command can answer: a next state where its operands are well formed, the fault illFormed where they are not (log entries 7 and 37). -/

namespace Sys2Proof.Machine

open Sys2Proof

/-- An outcome that is a next state where the operands fit, and the fault illFormed where they do not. -/
def Answers (ok : Bool) (o : Host.Outcome State Fault Refusal) : Prop :=
  (ok = true → ∃ t, o = .next t) ∧ (ok = false → o = .fault .illFormed)

theorem answers_next (t : State) : Answers true (.next t) := ⟨fun _ => ⟨t, rfl⟩, nofun⟩

theorem answers_fault : Answers false (.fault .illFormed) := ⟨nofun, fun _ => rfl⟩

theorem answers_ite {ok : Bool} {c : Prop} [Decidable c] {a b : Host.Outcome State Fault Refusal} (ha : Answers ok a) (hb : Answers ok b) :
    Answers ok (if c then a else b) := by split <;> assumption

/-- A command that checks its operands first. -/
theorem answers_guard (ok : Bool) (t : State) : Answers ok (if ok then .next t else .fault .illFormed) := by
  cases ok
  · exact answers_fault
  · exact answers_next t

/-- A command that turns its operands away first. -/
theorem answers_unless {ok : Bool} {bad : Prop} [Decidable bad] {o : Host.Outcome State Fault Refusal} (hok : ok = true ↔ ¬bad)
    (ho : Answers true o) : Answers ok (if bad then .fault .illFormed else o) := by
  by_cases hb : bad
  · rw [if_pos hb, Bool.eq_false_iff.mpr (fun h => hok.mp h hb)]
    exact answers_fault
  · rw [if_neg hb, hok.mpr hb]
    exact ho

/-! The checks that several commands share. -/

theorem coreWord_answers (own : Bool) (w : Word) (t : State) : Answers (own || coreIllegal w) (coreWord own w.toNat t) := by
  rw [coreWord, wIllegal_eq_coreIllegal]
  exact answers_guard _ t

theorem frameCmd_answers (type : Nat) (f : Frame) (t : State) : Answers (frameFits type f) (frameCmd type f t) := by
  cases hf : frameFits type f
  · rw [frameCmd, if_neg (by simpa [frameFits, Frame.head] using hf)]
    exact answers_fault
  · rw [frameCmd_of_fits hf]
    exact answers_next t

theorem entryCmd_answers (op : Nat) (e : BitVec 256) (t : State) : Answers (entryFits op e) (entryCmd op e t) := by
  cases he : entryFits op e
  · rw [entryCmd, if_neg (by simpa [entryFits, opcodeOf] using he)]
    exact answers_fault
  · rw [entryCmd_of_fits he]
    exact answers_next t

/-- Every command answers a next state where its operands are well formed, and illFormed where they are not. The commands stand by what they
check: a core word, a frame, an entry, a bit of a written value; the others check nothing, and only choose between next states. -/
theorem exec_answers (i : Instr) (s : State) : Answers i.wf (exec i s) := by
  cases i with
  | nop | endPart | loop | setc | ldcx | mm | mmw | decanterForward | decanterRecompute | map | episet | rownorm | tbload | submit | kfetch
    | convfeed | pegSet | pegAdd | acquire | monitor => exact coreWord_answers _ _ _
  | syncArrive | syncRelease | shipGrant | shipRefuse | shipNack | shipDone | shipAbort | shipOffer | accept | write | revokeAck | modelReq
    | modelStripe | modelHave | modelNone | modelDone | null | hello | cert | kemEk | kemCt | auth | finish | replayReq | windowGrant => exact frameCmd_answers _ _ _
  | request | stakeLoad | domainLoad | domainPurge | modelLoad | modelUnload | kickerLoad | kickerDrop | sessionClose | sessionQuery => exact entryCmd_answers _ _ _
  | ringEnable | linkEnable | linkDisable | retrain | quarRelease | rackingWindowEnable | zeroise | attestationGo | rescueNext | rescueGo => exact answers_guard _ _
  | streamCopy | streamGather | streamScatter | scalefeed | kick | cqHeadWrite | perstAssert | dataLinkDown | seatFlr | seatBmeClear
    | coolantOkFall | vrAlertAssert | readyIdleWake | dbgChal | dbgToken | dbgStatus | dbgAccess | dbgScan | extest | samplePreload | idcode | clamp
    | highz | bypass | rngHealthFail | supply52vApply | readId | readStatus | readPower | readTrip | readLog | readRepair | readTime | zarm
    | smbZeroise | smbRescue | enMate | enBreak | inputLockout | circuitBreakerTrip | ctrClear | refclkDetect | vrAlertDeassert => exact answers_next _
  | weightRoundRequest | weightRoundStart | drainLimitExpiry | passWatchdogExpiry | stewardWatchdogExpiry | modelDrainTimeout | stakeIntervalStart
    | pruneRound | windowRevoke | revokeGraceExpiry | signalDetect | signalLoss | fecLock | handshakeTimeout | rekeyStart | livenessTimeout
    | fecUncorrLimit | replayNoProgress | creditStall | slowExit | quarantineHoldExpiry | perstDeassert | hotReset | pfFlr | pfBmeClear
    | vfEnableClear | d3hotEntry | quiesceDone | busMasterEnableSet | pmbusCalibration | boostEntry | boostPowerGood | coolantOkRise | readyIdleEntry
    | unlockLockoutExpiry | zeroisationComplete | drbgReseed | cellarKeyRequest | cellarKeyRelease | loaderReboot | zarmExpiry | powerOnResetEnd
    | localTimeLowRead | vfEnableSet | vectorUnmask | returnToD0 | aspmL1Entry | aspmL1Exit => exact answers_ite (answers_next _) (answers_next _)
  | modelPartitionsSet | linkFrameMalformed | estimateIntervalEnd | temperatureReading | hbmTemperatureReading | vrStatusRead | rootPllLoss
    | resetInAssert | resetInDeassert | firmwareReady | rescueInstallDone =>
    (repeat' apply answers_ite) <;> exact answers_next _
  | pegRegister | pegWake | pegClaim | descriptorComplete | passLaunch | completionSlotWrite | passCommit | rackComplete | passRetry
    | pegWaitExpiry | chipBarrierExpiry | handArrival | modelDrained | vineWalk | unrack | rackExpiry | completionRecordWrite | shipOfferTimeout
    | shipLimitExpiry | modelReplyTimeout | modelLimitExpiry | trainingTimeout | trainingRestart | handshakeRefusedRetry | rekeyTimeout | coolantStop
    | fallbackWindowExpiry | tokenVerified | attestationSigned | uncorrectableDetect | poisonConsume | ceLimitReached | targetedTestVerdict
    | compaction | hbmPatrolScrub | sramPatrolScrub | pcieCompletionTimeout | returnToGated | authSigned | verificationDone | unrackComplete =>
    dsimp only [exec, execPegRegister, execPegWake, execPegClaim, execDescriptorComplete, execPassLaunch, execCompletionSlotWrite, execPassCommit, execRackComplete,
      execPassRetry, execPegWaitExpiry, execChipBarrierExpiry, execHandArrival, execModelDrained, execVineWalk, execUnrack, execRackExpiry,
      execCompletionRecordWrite, execShipOfferTimeout, execShipLimitExpiry, execModelReplyTimeout, execModelLimitExpiry, execTrainingTimeout,
      execTrainingRestart, execHandshakeRefusedRetry, execRekeyTimeout, execCoolantStop, execFallbackWindowExpiry, execTokenVerified,
      execAttestationSigned, execUncorrectableDetect, execPoisonConsume, execCeLimitReached, execTargetedTestVerdict, execCompaction,
      execHbmPatrolScrub, execSramPatrolScrub, execPcieCompletionTimeout, execReturnToGated, execAuthSigned, execVerificationDone, execUnrackComplete]
    (repeat' first | apply answers_ite | split) <;> exact answers_next _
  | cancel => exact answers_ite (entryCmd_answers _ _ _) (entryCmd_answers _ _ _)
  | rowstat c w =>
    rw [Instr.wf, rowstatFits, beq_false]
    exact coreWord_answers _ _ _
  | rowstatCombine c w =>
    rw [Instr.wf, rowstatFits, beq_true]
    exact coreWord_answers _ _ _
  | intakeIllegalOpcode => exact answers_unless (by simp [Instr.wf, entryOpcodes, opcodes, opcodeOf]) (answers_next _)
  | stewardPegSet | stewardPegAdd | ringDisable | rateWidthChange =>
    exact answers_unless (by simp [Instr.wf]) (answers_next _)
  | pcieLinkUp => exact answers_unless (by simp [Instr.wf]) (answers_ite (answers_next _) (answers_next _))
  | passAbort =>
    refine answers_unless (by simp [Instr.wf]) (answers_ite (answers_next _) ?_)
    split <;> exact answers_next _
  | registerWrite r t =>
    cases t with
    | bar0 => cases r <;> exact answers_next _
    | seat =>
      cases r with
      | port =>
        refine answers_ite (answers_next _) ?_
        split
        · exact answers_next _
        · exact answers_ite (answers_next _) (answers_next _)
      | steward | debug => exact answers_fault
    | bar4 | msixControl =>
      cases r with
      | port => exact answers_ite (answers_next _) (answers_next _)
      | steward | debug => exact answers_fault

/-- Settles O1: every command's answer, by what it checks. -/
theorem commandsAnswerNext : Obligations.CommandsAnswerNext := exec_answers

end Sys2Proof.Machine
end

section
/-! SUPPORT. READY_IDLE: its entry, its wake, and the return of a domain woken for an access (R341, R345, R437). -/

namespace Sys2Proof.Machine

open Sys2Proof

/-- The entry changes the power manager alone, and a module with work or with its idle time not yet over stays as it is. -/
theorem exec_readyIdleEntry (s : State) :
    exec .readyIdleEntry s = .next (if s.alive = false ∨ s.busy = true ∨ s.pow.mstate ≠ .active ∨ s.pow.commitAt = some s.time ∨
        s.pow.readyIdleMs = 0 ∨ s.time < s.pow.lastActivity + 100000 * s.pow.readyIdleMs then s
      else s.modPow (fun p => { (p.setDoms (handDoms ++ hbmDoms) .low) with mstate := .readyIdle, idleAt := some s.time })) := by
  show execReadyIdleEntry s = _
  simp only [execReadyIdleEntry, Bool.or_eq_true, Bool.not_eq_true', decide_eq_true_eq, or_assoc]
  split_ifs <;> rfl

section Entry

variable {s : State} (ha : s.alive = true) (hm : s.pow.mstate = .active) (hms : s.pow.readyIdleMs ≠ 0)
  (hle : s.pow.lastActivity + 100000 * s.pow.readyIdleMs ≤ s.time) (hc : s.pow.commitAt ≠ some s.time)

include ha hm hms hle hc in
theorem exec_readyIdleEntry_idle (hb : s.busy = false) :
    exec .readyIdleEntry s = .next (s.modPow (fun p => { (p.setDoms (handDoms ++ hbmDoms) .low) with mstate := .readyIdle, idleAt := some s.time })) := by
  rw [exec_readyIdleEntry, if_neg (by simp [ha, hb, hm, hc, hms, hle])]

theorem exec_readyIdleEntry_busy (hb : s.busy = true) : exec .readyIdleEntry s = .next s := by
  rw [exec_readyIdleEntry, if_pos (.inr (.inl hb))]

end Entry

theorem State.wake_readyIdle {s : State} (hm : s.pow.mstate = .readyIdle) :
    s.wake = s.modPow (fun p => { (p.setDoms (handDoms ++ hbmDoms) .on) with
      mstate := .active, wokeAt := (if p.idleAt = some s.time then p.wokeAt else s.time), lastActivity := s.time, touched := [] }) := if_pos hm

theorem State.wake_of_ne {s : State} (hm : s.pow.mstate ≠ .readyIdle) : s.wake = s := if_neg hm

section Return

variable {d : Fin 34} {s : State}

/-- A domain that no access has woken does not return. -/
theorem exec_returnToGated_untouched (hx : s.pow.touched.find? (fun kv => kv.1 == d.val) = none) : exec (.returnToGated d) s = .next s := by
  show execReturnToGated d s = _
  simp only [execReturnToGated, hx]

variable {x : Nat × Nat} (hx : s.pow.touched.find? (fun kv => kv.1 == d.val) = some x)
include hx

theorem exec_returnToGated_early (hlt : s.time < x.2 + 100) : exec (.returnToGated d) s = .next s := by
  show execReturnToGated d s = _
  simp [execReturnToGated, hx, hlt]

theorem exec_returnToGated (hle : x.2 + 100 ≤ s.time) :
    exec (.returnToGated d) s = .next (s.modPow (fun p => { (if p.mstate = .readyIdle then p.setDoms [d.val] .low else p) with
      touched := p.touched.filter (fun kv => kv.1 != d.val) })) := by
  show execReturnToGated d s = _
  simp [execReturnToGated, hx, Nat.not_lt.mpr hle]

end Return

/-- The three commands change the power manager alone. -/
theorem exec_idle_pow {i : Instr} {s t : State} (hi : i = .readyIdleEntry ∨ i = .readyIdleWake ∨ ∃ d, i = .returnToGated d)
    (h : exec i s = .next t) : t = { s with pow := t.pow } := by
  rcases hi with rfl | rfl | ⟨d, rfl⟩
  · rw [exec_readyIdleEntry] at h
    injection h with h
    rw [← h]
    split_ifs <;> rfl
  · obtain rfl : s.wake = t := by injection h
    exact s.wake_eq
  · cases hx : s.pow.touched.find? (fun kv => kv.1 == d.val) with
    | none => cases (exec_returnToGated_untouched hx).symm.trans h; rfl
    | some x =>
      rcases Nat.lt_or_ge s.time (x.2 + 100) with hlt | hle
      · cases (exec_returnToGated_early hx hlt).symm.trans h; rfl
      · cases (exec_returnToGated hx hle).symm.trans h; rfl

/-- Settles O46: one lemma of this file for each event, on both sides of its limit. -/
theorem idleStates : Obligations.IdleStates :=
  ⟨fun _ ha hm hms hle hc => ⟨exec_readyIdleEntry_idle ha hm hms hle hc, exec_readyIdleEntry_busy⟩,
    fun _ => ⟨fun hm => congrArg Host.Outcome.next (State.wake_readyIdle hm), fun hm => congrArg Host.Outcome.next (State.wake_of_ne hm)⟩,
    fun _ _ _ hx => ⟨exec_returnToGated_early hx, exec_returnToGated hx⟩,
    fun _ _ _ => exec_idle_pow⟩

end Sys2Proof.Machine
end

section
/-! SUPPORT. The end of an estimate interval, calibration and boost, one command at a time (R346, R347, R351, R353, R354, R361). -/

namespace Sys2Proof.Machine

open Sys2Proof

/-! The power manager at the end of an interval (R346, R351, R353, R354). -/

/-- An interval with estimate `mw` noted: interval `n` has ended. -/
def Power.noteInterval (p : Power) (n mw : Nat) : Power :=
  { p with ended := n, hist := (mw :: p.hist).take 500, sinceRaise := p.sinceRaise + 1 }

/-- The cap's controller, which fixed mode leaves out, and the rails' (R351, R353, R355). -/
def Power.control (p : Power) (a : Activity2us) (mw avg8 : Nat) : Power :=
  (if p.fixed then { p with sCap := 0 } else p.capStep mw avg8).railStep a

/-- The intervals counted in which the conditions of boost have held (R354). -/
def Power.stepBoost (p : Power) (a : Activity2us) (avg8 : Nat) : Power :=
  if p.boostOk avg8 (p.dynMw 0 a) then { p with boostHold := p.boostHold + 1 }
  else if p.boosting || p.boostPending then p.endBoost else { p with boostHold := 0 }

/-- An interval with estimate `mw` up to the charging of its energy. -/
def State.endInterval (s : State) (a : Activity2us) (mw : Nat) : State :=
  let s := s.modPow (fun p => p.noteInterval (s.time / 200) mw)
  let avg8 := meanOf 8 s.pow.hist
  (s.modPow (fun p => p.control a mw avg8)).modPow (fun p => p.stepBoost a avg8)

/-- Two states of the power manager that agree on what the controllers of an interval only read. -/
def Power.sameRecord (p q : Power) : Prop :=
  q.hist = p.hist ∧ q.ended = p.ended ∧ q.chipNj = p.chipNj ∧ q.capCode = p.capCode ∧ q.fixed = p.fixed

theorem Power.sameRecord_trans {p q r : Power} (h : p.sameRecord q) (k : q.sameRecord r) : p.sameRecord r := by
  obtain ⟨h1, h2, h3, h4, h5⟩ := h
  obtain ⟨k1, k2, k3, k4, k5⟩ := k
  exact ⟨k1.trans h1, k2.trans h2, k3.trans h3, k4.trans h4, k5.trans h5⟩

theorem Power.sameRecord_capStep (p : Power) (pn avg8 : Nat) : p.sameRecord (p.capStep pn avg8) := by
  unfold Power.capStep
  dsimp only
  split_ifs <;> exact ⟨rfl, rfl, rfl, rfl, rfl⟩

/-- Rails replaced one after another leave everything but the rails. -/
theorem Power.foldl_setRail (f : Power → Nat → Rail) (l : List Nat) (p : Power) :
    l.foldl (fun q r => q.setRail r (f q r)) p = { p with rails := (l.foldl (fun q r => q.setRail r (f q r)) p).rails } := by
  induction l generalizing p with
  | nil => rfl
  | cons r l ih => exact ih (p.setRail r (f p r))

theorem Power.railStep_frame (p : Power) (a : Activity2us) :
    p.sameRecord (p.railStep a) ∧ (p.railStep a).sCap = p.sCap := by
  unfold Power.railStep
  dsimp only
  rw [Power.foldl_setRail]
  exact ⟨⟨rfl, rfl, rfl, rfl, rfl⟩, rfl⟩

theorem Power.control_frame (p : Power) (a : Activity2us) (mw avg8 : Nat) :
    p.sameRecord (p.control a mw avg8) ∧ (p.fixed = true → (p.control a mw avg8).sCap = 0) := by
  unfold Power.control
  obtain ⟨hrail, hs⟩ := Power.railStep_frame (if p.fixed then { p with sCap := 0 } else p.capStep mw avg8) a
  rw [hs]
  refine ⟨Power.sameRecord_trans ?_ hrail, fun hf => by rw [if_pos hf]⟩
  split_ifs
  · exact ⟨rfl, rfl, rfl, rfl, rfl⟩
  · exact p.sameRecord_capStep mw avg8

theorem Power.stepBoost_frame (p : Power) (a : Activity2us) (avg8 : Nat) :
    p.sameRecord (p.stepBoost a avg8) ∧ (p.stepBoost a avg8).sCap = p.sCap := by
  unfold Power.stepBoost
  split_ifs <;> exact ⟨⟨rfl, rfl, rfl, rfl, rfl⟩, rfl⟩

/-- The window, the number of intervals and what the controllers only read; in fixed mode S_CAP is 0 (R351, R355). -/
theorem State.endInterval_pow (s : State) (a : Activity2us) (mw : Nat) :
    (s.pow.noteInterval (s.time / 200) mw).sameRecord (s.endInterval a mw).pow ∧ (s.pow.fixed = true → (s.endInterval a mw).pow.sCap = 0) := by
  unfold State.endInterval
  dsimp only [State.modPow_pow]
  have hp : (s.pow.noteInterval (s.time / 200) mw).fixed = s.pow.fixed := rfl
  rw [← hp]
  generalize s.pow.noteInterval (s.time / 200) mw = p
  obtain ⟨hc, hfix⟩ := p.control_frame a mw (meanOf 8 p.hist)
  obtain ⟨hb, hs⟩ := (p.control a mw (meanOf 8 p.hist)).stepBoost_frame a (meanOf 8 p.hist)
  exact ⟨Power.sameRecord_trans hc hb, fun hf => hs.trans (hfix hf)⟩

/-! The energies of requests (R361). -/

/-- `t` is `s` but for energies of requests. -/
def ChargesOnly (s t : State) : Prop :=
  t = { s with serve := { s.serve with reqs := t.serve.reqs } } ∧
    t.serve.reqs.map (fun r => { r with energy := 0 }) = s.serve.reqs.map (fun r => { r with energy := 0 })

theorem ChargesOnly.refl (s : State) : ChargesOnly s s := ⟨rfl, rfl⟩

theorem ChargesOnly.trans {s t u : State} (h : ChargesOnly s t) (k : ChargesOnly t u) : ChargesOnly s u := by
  obtain ⟨hs, he⟩ := h
  obtain ⟨ks, ke⟩ := k
  rw [hs] at ks
  exact ⟨ks, ke.trans he⟩

theorem ChargesOnly.charge (s : State) (rid nj : Nat) : ChargesOnly s (s.modServe (fun v => v.charge rid nj)) := by
  refine ⟨rfl, ?_⟩
  show (s.serve.reqs.map _).map _ = _
  rw [List.map_map]
  refine List.map_congr_left fun r _ => ?_
  simp only [Function.comp_apply]
  split_ifs <;> rfl

theorem ChargesOnly.foldl {α : Type} {f : State → α → State} (hf : ∀ s x, ChargesOnly s (f s x)) (l : List α) (s : State) :
    ChargesOnly s (l.foldl f s) := by
  induction l generalizing s with
  | nil => exact .refl s
  | cons x l ih => exact (hf s x).trans (ih _)

/-- Mode 0 charges requests, and changes the power manager's counters of energy (R361). -/
theorem State.attribute_charges (s : State) (chipNj linkNj : Nat) :
    ∃ (t : State) (idle : Nat) (ran : List PassRun), ChargesOnly s t ∧ s.attribute chipNj linkNj =
      { t with pow := { t.pow with chipNj := t.pow.chipNj + chipNj, idleNj := idle, shipBytes := [], ran := ran } } := by
  unfold State.attribute
  dsimp only
  generalize hship : s.pow.shipBytes.foldl _ s = u
  have hu : ChargesOnly s u := by rw [← hship]; exact .foldl (fun s x => .charge s _ _) _ s
  generalize hrun : List.foldl _ u _ = t
  have ht : ChargesOnly u t := by rw [← hrun]; exact .foldl (fun s x => .foldl (fun s i => .charge s _ _) _ s) _ u
  exact ⟨t, _, _, hu.trans ht, rfl⟩

/-! The command. -/

/-- The estimate of the six link groups' domains in mW (R361). -/
def Power.linkMw (p : Power) (a : Activity2us) : Nat :=
  ((List.range 5).map (fun r => ((List.range 6).map (fun i => Config.leakMw p.energy r (24 + i) p.temps (p.railMv r))).sum
    + p.dynMw r { counts := a.counts.zipIdx.map (fun x => if 24 ≤ x.2 ∧ x.2 ≤ 29 then x.1 else []) })).sum

/-- The report of an overrun of a rail's limits: at most one a second (R353). -/
def State.reportRails (s : State) : State :=
  if s.pow.railOver && (match (s.pow.rail 0).lastEvent with | some t => decide (t + 100000000 ≤ s.time) | none => true) then
    (s.modPow (fun p => p.setRail 0 { s.pow.rail 0 with lastEvent := some s.time })).report
      { code := 0x1A21, kind := .rail, unit := ((List.range 5).find? (fun r => (s.pow.rail r).exceeds)).getD 0 }
  else s

/-- A report of a rail changes the rails, the log and the ports' messages. -/
theorem State.reportRails_frame (s : State) : ∃ rails, s.reportRails.pow = { s.pow with rails := rails } ∧ s.reportRails.serve = s.serve ∧
    s.reportRails.mem = s.mem ∧ s.reportRails.cores = s.cores ∧ s.reportRails.links = s.links ∧ s.reportRails.pages = s.pages := by
  unfold State.reportRails
  split_ifs
  · simp only [State.report_pow, State.report_serve, State.report_mem, State.report_cores, State.report_links, State.report_pages]
    exact ⟨_, rfl, rfl, rfl, rfl, rfl, rfl⟩
  · exact ⟨_, rfl, rfl, rfl, rfl, rfl, rfl⟩

section Interval

variable {a : Activity2us} {s : State}

theorem exec_estimateIntervalEnd_idle (h : s.pow.mstate = .standby ∨ s.pow.mstate = .tripped ∨ s.pow.intervalDue s.time = false) :
    exec (.estimateIntervalEnd a) s = .next s := if_pos h

theorem exec_estimateIntervalEnd {mw : Nat} (hs : s.pow.mstate ≠ .standby) (ht : s.pow.mstate ≠ .tripped) (hd : s.pow.intervalDue s.time = true)
    (hmw : mw = ((List.range 5).map (fun r => s.pow.railMw r a)).sum) :
    exec (.estimateIntervalEnd a) s = .next (((s.endInterval a mw).attribute (2 * mw) (2 * s.pow.linkMw a)).modPow
      (fun p => { p with capOn := p.capCode })).noteSkip.reportRails := by
  show execEstimateIntervalEnd a s = _
  unfold execEstimateIntervalEnd
  rw [if_neg (by simp [hs, ht, hd])]
  extract_lets s1 sum linkMw s2 avg8 s3 s4 s5 s6 r0 due
  have hsum : mw = sum := hmw
  have hnote : s2 = s.modPow (fun p => p.noteInterval (s.time / 200) sum) := rfl
  have hlink : linkMw = s.pow.linkMw a := rfl
  rw [hsum, State.endInterval, ← hnote, ← hlink]
  exact (apply_ite Host.Outcome.next _ _ _).symm

end Interval

theorem State.noteSkip_eq (s : State) : ∃ y, s.noteSkip = { s with sync := y } := by
  rcases s.noteSkip_cases with h | ⟨t, f, h⟩
  · exact ⟨s.sync, h⟩
  · exact ⟨_, h⟩

/-- What follows the charging changes the cap in effect, the rails and the pass tables, and may report. -/
theorem State.closeInterval_frame (s : State) :
    let t := ((s.modPow (fun p => { p with capOn := p.capCode })).noteSkip).reportRails
    (∃ rails, t.pow = { s.pow with capOn := s.pow.capCode, rails := rails }) ∧ t.serve = s.serve ∧ t.mem = s.mem ∧ t.cores = s.cores ∧
      t.links = s.links ∧ t.pages = s.pages := by
  dsimp only
  obtain ⟨y, hy⟩ := (s.modPow (fun p => { p with capOn := p.capCode })).noteSkip_eq
  rw [hy]
  obtain ⟨rails, hpow, hrest⟩ := State.reportRails_frame { s.modPow (fun p => { p with capOn := p.capCode }) with sync := y }
  exact ⟨⟨rails, hpow⟩, hrest⟩

/-- What the end of an interval leaves (R346, R350, R351, R361). -/
theorem exec_estimateIntervalEnd_leaves {a : Activity2us} {s : State} {mw : Nat} (hs : s.pow.mstate ≠ .standby) (ht : s.pow.mstate ≠ .tripped)
    (hd : s.pow.intervalDue s.time = true) (hmw : mw = ((List.range 5).map (fun r => s.pow.railMw r a)).sum) :
    ∃ t, exec (.estimateIntervalEnd a) s = .next t ∧ t.pow.hist = (mw :: s.pow.hist).take 500 ∧ t.pow.chipNj = s.pow.chipNj + 2 * mw ∧
      t.pow.ended = s.time / 200 ∧ t.pow.capOn = s.pow.capCode ∧ (s.pow.fixed = true → t.pow.sCap = 0) ∧ t.pow.shipBytes = [] ∧
      t.serve = { s.serve with reqs := t.serve.reqs } ∧
      t.serve.reqs.map (fun r => { r with energy := 0 }) = s.serve.reqs.map (fun r => { r with energy := 0 }) ∧
      t.mem = s.mem ∧ t.cores = s.cores ∧ t.links = s.links ∧ t.pages = s.pages := by
  obtain ⟨⟨hhist, hended, hchip, hcap, -⟩, hfix⟩ := s.endInterval_pow a mw
  obtain ⟨u, idle, ran, ⟨hu, henergy⟩, hattr⟩ := (s.endInterval a mw).attribute_charges (2 * mw) (2 * s.pow.linkMw a)
  obtain ⟨⟨rails, hpow⟩, hserve, hmem, hcores, hlinks, hpages⟩ := ((s.endInterval a mw).attribute (2 * mw) (2 * s.pow.linkMw a)).closeInterval_frame
  refine ⟨_, exec_estimateIntervalEnd hs ht hd hmw, ?_⟩
  rw [hpow, hserve, hmem, hcores, hlinks, hpages, hattr]
  have hupow : u.pow = (s.endInterval a mw).pow := by rw [hu]
  dsimp only
  rw [hupow]
  refine ⟨hhist, by rw [hchip]; rfl, hended, hcap, hfix, rfl, ?_, henergy, ?_⟩
  · rw [hu]; rfl
  · rw [hu]; exact ⟨rfl, rfl, rfl, rfl⟩

/-! Calibration (R347). -/

/-- A rail calibrated to a measured power: an eighth of the difference, within 50 W. -/
def Rail.calibrate (x : Rail) (m : Nat) : Rail :=
  { x with est := [], offset := max (-50000) (min 50000 (x.offset + (Int.ofNat m - Int.ofNat (meanOf 500 x.est)) / 8)) }

theorem Power.rail_setRail_self (p : Power) (r : Nat) (x : Rail) : (p.setRail r x).rail r = x := Tbl.get_set_self _ _ _ _

/-- A rail's place holds no other rail, whatever its own limits are. -/
theorem Power.rail_setRail_other (p : Power) {r q : Nat} (h : q ≠ r) (x : Rail) : (p.setRail r x).rail q = p.rail q := by
  unfold Power.setRail Power.rail Tbl.set
  dsimp only
  split_ifs
  · exact Tbl.get_erase_other _ h _
  · rw [Tbl.get_insert_other _ h, Tbl.get_erase_other _ h]

/-- Different rails changed one after another: each is changed once. -/
theorem Power.rail_foldl_setRail (f : Nat → Rail → Rail) {l : List Nat} (hl : l.Nodup) (p : Power) (q : Nat) :
    (l.foldl (fun p r => p.setRail r (f r (p.rail r))) p).rail q = if q ∈ l then f q (p.rail q) else p.rail q := by
  induction l generalizing p with
  | nil => simp
  | cons r l ih =>
    obtain ⟨hr, hl⟩ := List.nodup_cons.mp hl
    rw [List.foldl_cons, ih hl]
    by_cases hq : q = r
    · subst hq
      rw [if_neg hr, if_pos List.mem_cons_self, Power.rail_setRail_self]
    · rw [Power.rail_setRail_other _ hq]
      simp [hq]

theorem exec_pmbusCalibration {m : List Nat} {s : State} (hm : m.length = 5) (hs : s.pow.mstate ≠ .standby) (ht : s.pow.mstate ≠ .tripped)
    (hle : 500 ≤ (s.pow.rail 0).est.length) : exec (.pmbusCalibration m) s = .next (s.modPow (fun p =>
      (List.range 5).foldl (fun p r => p.setRail r ((p.rail r).calibrate (m.getD r 0))) p)) := by
  show execPmbusCalibration m s = _
  rw [execPmbusCalibration, if_neg (by simp [hs, ht, Nat.not_lt.mpr hle])]
  refine congrArg Host.Outcome.next (State.modPow_congr (List.foldl_ext _ _ _ fun p r hr => ?_))
  have hlt : r < m.length := by rw [hm]; exact List.mem_range.mp hr
  simp only [List.getElem?_eq_getElem hlt, List.getD_eq_getElem _ _ hlt]
  rfl

/-! Boost (R354). -/

section Boost

variable {s : State}

theorem exec_boostEntry (ha : s.alive = true) (hb : s.pow.boosting = false) (hp : s.pow.boostPending = false) (hf : s.pow.fixed = false)
    (he : s.pow.boostEn = true) : exec .boostEntry s = .next (if s.pow.boostHold < 500 ∨ s.time < s.pow.divAt + 1000000 then s
      else s.modPow (fun p => { p with boostPending := true })) := by
  show execBoostEntry s = _
  simp only [execBoostEntry, ha, hb, hp, hf, he, Bool.not_true, Bool.or_self, Bool.false_or, decide_eq_true_eq]
  split_ifs <;> rfl

theorem exec_boostPowerGood (s : State) : exec .boostPowerGood s = .next (if s.pow.boostPending = true ∧ s.pow.powerGoodAt = none then
    s.modPow (fun p => { p with powerGoodAt := some s.time }) else s) := by
  show execBoostPowerGood s = _
  simp only [execBoostPowerGood, Bool.and_eq_true, Option.isNone_iff_eq_none]
  split_ifs <;> rfl

end Boost

/-- Settles O44: one lemma of this file for each command, and the tick of Clock at an alignment point. -/
theorem powerIntervals : Obligations.PowerIntervals := by
  refine ⟨fun a s mw hs ht hd hmw => exec_estimateIntervalEnd_leaves hs ht hd hmw, fun a s h => exec_estimateIntervalEnd_idle h,
    fun m s hm hs ht hle => ⟨_, exec_pmbusCalibration hm hs ht hle, ?frame, fun r hr => ?rail⟩, fun s ha hb hp hf he => ⟨fun hh hd => ?on, fun h => ?off⟩,
    fun s => ⟨fun hp hg => ?good, fun h => ?known⟩, fun p t g ho hp hg hb => ?tick⟩
  case frame => exact congrArg (fun p => { s with pow := p }) (Power.foldl_setRail _ _ _)
  case rail =>
    rw [State.modPow_pow, Power.rail_foldl_setRail (fun r x => x.calibrate (m.getD r 0)) List.nodup_range, if_pos (List.mem_range.mpr hr)]
    rfl
  case on => rw [exec_boostEntry ha hb hp hf he, if_neg (by omega)]
  case off => rw [exec_boostEntry ha hb hp hf he, if_pos h]
  case good => rw [exec_boostPowerGood, if_pos ⟨hp, hg⟩]
  case known =>
    refine (exec_boostPowerGood s).trans (congrArg _ (if_neg fun ⟨hp, hg⟩ => ?_))
    rcases h with h | h
    · rw [h] at hp; exact Bool.false_ne_true hp
    · exact h hg
  case tick =>
    have hready : (p.boostReady (t + 1) || p.boosting) = decide (g + 5000 ≤ t + 1) := by simp [Power.boostReady, hp, hg, hb]
    rw [Power.tick_align ho]
    exact ⟨hready, hready⟩

end Sys2Proof.Machine
end

section
/-! SUPPORT. The TAP's instructions taken and replaced, and the unlock of debug levels (R377–R382, R387, R388, R457). -/

namespace Sys2Proof.Machine

open Sys2Proof

/-! The TAP (R380, R457). -/

section Tap

variable {s : State} {code : Nat} {ok : Bool} {act : State → State}

theorem State.tap_off (h : s.board.aux = false) : s.tap code ok act = s := by
  simp [State.tap, h]

theorem State.tap_taken (h : s.board.aux = true) (hok : ok = true) : s.tap code ok act = act (s.setIr code) := by
  simp [State.tap, h, hok]

theorem State.tap_replaced (h : s.board.aux = true) (hok : ok = false) : s.tap code ok act = (s.report { code := 0x0B12 }).bypass := by
  simp [State.tap, h, hok]

theorem State.unscrapped_of_ne (h : s.sec.lifecycle ≠ 3) : s.unscrapped = true := bne_iff_ne.mpr h

theorem State.unscrapped_of_scrapped (h : s.sec.lifecycle = 3) : s.unscrapped = false := by
  rw [State.unscrapped, h]
  rfl

end Tap

/-! DBG_CHAL, DBG_TOKEN and DBG_STATUS (R381, R382, R388). -/

section Unlock

variable {s u : State} {tok : List Nat} {lo : Option (Fin 4)} (ha : s.board.aux = true)
include ha

theorem exec_dbg_scrapped (hl : s.sec.lifecycle = 3) (hu : u = (s.report { code := 0x0B12 }).bypass) :
    exec .dbgChal s = .next u ∧ exec (.dbgToken tok) s = .next u ∧ exec (.dbgStatus lo) s = .next u := by
  subst hu
  have hscrap := State.unscrapped_of_scrapped hl
  exact ⟨congrArg _ (State.tap_replaced ha hscrap), congrArg _ (State.tap_replaced ha hscrap), congrArg _ (State.tap_replaced ha hscrap)⟩

variable (hl : s.sec.lifecycle ≠ 3)
include hl

theorem exec_dbgChal_locked (hu : u = s.setIr 0x10) (hk : s.sec.locked s.time = true) : exec .dbgChal s = .next (u.emit (.tdo 0 512)) := by
  subst hu
  exact congrArg Host.Outcome.next ((State.tap_taken ha (State.unscrapped_of_ne hl)).trans (if_pos hk))

/-- A fresh challenge is shifted out and kept with its time. -/
theorem exec_dbgChal (hu : u = s.setIr 0x10) (hk : s.sec.locked s.time = false) {c : Nat}
    (hc : c = u.random.1.toNat % 2 ^ 256 * 2 ^ 256 + Config.fuseSerial.toNat * 2 ^ 192 + s.sec.dikId % 2 ^ 64 * 2 ^ 128 + s.sec.debug % 4 * 4 +
      s.sec.lifecycle % 4) :
    exec .dbgChal s = .next ((u.random.2.modSec (fun k => { k with challenge := some (BitVec.ofNat 512 c, s.time) })).emit (.tdo c 512)) := by
  subst hu hc
  exact congrArg Host.Outcome.next ((State.tap_taken ha (State.unscrapped_of_ne hl)).trans (if_neg (ne_true_of_eq_false hk)))

theorem exec_dbgToken_first (hu : u = s.setIr 0x11) (ht : s.sec.token = none) :
    exec (.dbgToken tok) s = .next (u.modSec (fun k => { k with token := some tok })) := by
  subst hu
  exact congrArg Host.Outcome.next ((State.tap_taken ha (State.unscrapped_of_ne hl)).trans (if_neg (by rw [State.setIr, ht]; exact Bool.false_ne_true)))

theorem exec_dbgToken_second (hu : u = s.setIr 0x11) (ht : s.sec.token.isSome = true) : exec (.dbgToken tok) s = .next u.refuseToken := by
  subst hu
  exact congrArg Host.Outcome.next ((State.tap_taken ha (State.unscrapped_of_ne hl)).trans (if_pos ht))

variable {bs : List Bool} (hbs : bs = Config.dbgStatusBits s.sec.debug s.sec.tokenResult s.sec.domainOff)
  (hu : u = (s.setIr 0x12).emit (.tdo (bitsNat bs) bs.length))
include hbs hu

theorem exec_dbgStatus_lowers {n : Fin 4} (hlo : lo = some n) (hn : n.val < s.sec.debug) :
    exec (.dbgStatus lo) s = .next (u.modSec (fun k => { k with debug := n.val })) := by
  subst hu hbs hlo
  exact congrArg Host.Outcome.next ((State.tap_taken ha (State.unscrapped_of_ne hl)).trans (if_pos hn))

/-- No write raises the level (R381). -/
theorem exec_dbgStatus_reads (hlo : lo = none ∨ ∃ n, lo = some n ∧ s.sec.debug ≤ n.val) : exec (.dbgStatus lo) s = .next u := by
  subst hu hbs
  refine congrArg Host.Outcome.next ((State.tap_taken ha (State.unscrapped_of_ne hl)).trans ?_)
  rcases hlo with rfl | ⟨n, rfl, hn⟩
  · rfl
  · exact if_neg (Nat.not_lt.mpr hn)

end Unlock

/-! Tokens and the lockout (R381, R382). -/

theorem exec_tokenVerified {s u : State} {bs : List Nat} {t : Token} (hs : s.sec.token = some bs) (ht : t = Token.ofBytes bs)
    (hu : u = s.modSec (fun k => { k with token := none, challenge := none })) :
    exec .tokenVerified s = .next (if s.sec.accepts t s.time then u.grantToken t else u.refuseToken) := by
  subst hu ht
  show execTokenVerified s = _
  simp only [execTokenVerified, hs]

/-- DBG_CHAL is locked for 1 s after a refusal, and from the sixteenth refusal on. -/
theorem Sec.locked_iff (k : Sec) (now : Nat) : k.locked now = true ↔ 16 ≤ k.unlockFails ∨ ∃ t, k.lockout = some t ∧ now < t + 100000000 := by
  unfold Sec.locked
  cases k.lockout <;> simp

theorem exec_unlockLockoutExpiry_locked {s : State} (h : s.sec.locked s.time = true) : exec .unlockLockoutExpiry s = .next s := if_pos h

theorem exec_unlockLockoutExpiry {s : State} (h : s.sec.locked s.time = false) :
    exec .unlockLockoutExpiry s = .next (s.modSec (fun k => { k with lockout := none })) := if_neg (ne_true_of_eq_false h)

/-- Settles O47: one lemma of this file for each instruction and each fate of a token, and the lockout by its two causes. -/
theorem debugUnlock : Obligations.DebugUnlock := by
  refine ⟨fun s u tok lo ha => ⟨fun hl hu => exec_dbg_scrapped ha hl hu, fun hl => ⟨?chal, ?token, ?status⟩⟩,
    fun s u bs t hs ht hu => ⟨?accepted, ?refused⟩, fun s => ⟨?past, ?sixteenth, ?early⟩⟩
  case chal => exact fun hu => ⟨exec_dbgChal_locked ha hl hu, fun hk c hc => exec_dbgChal ha hl hu hk hc⟩
  case token => exact fun hu => ⟨exec_dbgToken_first ha hl hu, exec_dbgToken_second ha hl hu⟩
  case status => exact fun bs hbs hu => ⟨fun n => exec_dbgStatus_lowers ha hl hbs hu, exec_dbgStatus_reads ha hl hbs hu⟩
  case accepted => exact fun hok => by rw [exec_tokenVerified hs ht hu, if_pos hok]
  case refused =>
    intro hno
    rw [exec_tokenVerified hs ht hu, if_neg (ne_true_of_eq_false hno), hu]
    rfl
  case past =>
    intro hfew hpast
    refine exec_unlockLockoutExpiry (Bool.eq_false_iff.mpr fun hk => ?_)
    rcases (s.sec.locked_iff s.time).mp hk with h16 | ⟨t, ht, hlt⟩
    · omega
    · have := hpast t ht
      omega
  case sixteenth => exact fun h16 => exec_unlockLockoutExpiry_locked ((s.sec.locked_iff s.time).mpr (.inl h16))
  case early => exact fun t ht hlt => exec_unlockLockoutExpiry_locked ((s.sec.locked_iff s.time).mpr (.inr ⟨t, ht, hlt⟩))

end Sys2Proof.Machine
end

section
/-! SUPPORT. Boundary scan, DBG_ACCESS and DBG_SCAN, one instruction at a time (R379, R380, R387, R388, R439). -/

namespace Sys2Proof.Machine

open Sys2Proof

/-! Boundary scan (R380). -/

section BoundaryScan

variable {s : State}

/-- Without PD33 no instruction of the TAP does anything (R457). -/
theorem exec_tap_off (ha : s.board.aux = false) {i : Instr} (hi : i ∈ [Instr.idcode, .bypass] ∨
    ∃ bs x n, i ∈ [Instr.extest bs, .samplePreload bs, .clamp bs, .highz bs, .dbgAccess x, .dbgScan n bs]) : exec i s = .next s := by
  rcases hi with hi | ⟨bs, x, n, hi⟩ <;> fin_cases hi <;> exact congrArg Host.Outcome.next (State.tap_off ha)

variable (ha : s.board.aux = true)
include ha

theorem exec_idcode : exec .idcode s = .next ((s.setIr 0x02).emit (.tdo 0x1962056F 32)) := congrArg Host.Outcome.next (State.tap_taken ha rfl)

theorem exec_bypass : exec .bypass s = .next ((s.setIr 0x3F).emit (.tdo 0 1)) := congrArg Host.Outcome.next (State.tap_taken ha rfl)

variable (bs : List Bool)

theorem exec_samplePreload : exec (.samplePreload bs) s = .next ((s.setIr 0x01).boundaryScan bs) :=
  congrArg Host.Outcome.next (State.tap_taken ha rfl)

/-- The three instructions that drive the pins need a stopped service. -/
theorem exec_pins_stopped (hs : s.serviceStopped = true) : exec (.extest bs) s = .next ((s.setIr 0x00).boundaryScan bs) ∧
    exec (.clamp bs) s = .next ((s.setIr 0x03).emit (.tdo (bitsNat (false :: bs.dropLast)) (max 1 bs.length))) ∧
    exec (.highz bs) s = .next ((s.setIr 0x04).emit (.tdo (bitsNat (false :: bs.dropLast)) (max 1 bs.length))) :=
  ⟨congrArg Host.Outcome.next (State.tap_taken ha hs), congrArg Host.Outcome.next (State.tap_taken ha hs),
    congrArg Host.Outcome.next (State.tap_taken ha hs)⟩

theorem exec_pins_serving (hs : s.serviceStopped = false) {i : Instr} (hi : i ∈ [Instr.extest bs, .clamp bs, .highz bs]) :
    exec i s = .next (s.report { code := 0x0B12 }).bypass := by
  fin_cases hi <;> exact congrArg Host.Outcome.next (State.tap_replaced ha hs)

end BoundaryScan

/-! DBG_ACCESS (R379, R388). -/

section DbgAccess

variable {a : BitVec 48} {d : BitVec 64} {s u v : State} (ha : s.board.aux = true)
include ha

/-- Below L1, or beyond the rights of its level, an access is replaced. -/
theorem exec_dbgAccess_read_denied (h : s.sec.debug = 0 ∨ s.dbgMay a.toNat false = false) :
    exec (.dbgAccess (.read a)) s = .next (s.report { code := 0x0B12 }).bypass := by
  refine congrArg Host.Outcome.next (State.tap_replaced ha ?_)
  rcases h with h | h <;> simp [h]

theorem exec_dbgAccess_write_denied (h : s.sec.debug = 0 ∨ s.dbgMay a.toNat true = false) :
    exec (.dbgAccess (.write a d)) s = .next (s.report { code := 0x0B12 }).bypass := by
  refine congrArg Host.Outcome.next (State.tap_replaced ha ?_)
  rcases h with h | h <;> simp [h]

variable (hl : s.sec.lifecycle ≠ 3) (hd : 1 ≤ s.sec.debug)
include hl hd

omit ha in
theorem State.dbgAccess_ok {wr : Bool} (hm : s.dbgMay a.toNat wr = true) :
    (s.unscrapped && decide (1 ≤ s.sec.debug) && s.dbgMay a.toNat wr) = true := by
  simp [State.unscrapped_of_ne hl, hd, hm]

/-- A place without power reads 0 and sets DOMAIN_OFF. -/
theorem exec_dbgAccess_read_off (hu : u = (s.setIr 0x13).setDomainOff true) (hm : s.dbgMay a.toNat false = true)
    (hoff : (s.setIr 0x13).dbgOff a.toNat = true) : exec (.dbgAccess (.read a)) s = .next (u.emit (.tdo 0 64)) := by
  subst hu
  exact congrArg Host.Outcome.next ((State.tap_taken ha (State.dbgAccess_ok hl hd hm)).trans (if_pos hoff))

theorem exec_dbgAccess_read (hv : v = ((s.setIr 0x13).setDomainOff false).dbgTouch a.toNat) (hm : s.dbgMay a.toNat false = true)
    (hon : (s.setIr 0x13).dbgOff a.toNat = false) : exec (.dbgAccess (.read a)) s = .next (v.emit (.tdo (v.dbgRead a.toNat) 64)) := by
  subst hv
  exact congrArg Host.Outcome.next ((State.tap_taken ha (State.dbgAccess_ok hl hd hm)).trans (if_neg (ne_true_of_eq_false hon)))

theorem exec_dbgAccess_write_off (hu : u = (s.setIr 0x13).setDomainOff true) (hm : s.dbgMay a.toNat true = true)
    (hoff : (s.setIr 0x13).dbgOff a.toNat = true) : exec (.dbgAccess (.write a d)) s = .next u := by
  subst hu
  exact congrArg Host.Outcome.next ((State.tap_taken ha (State.dbgAccess_ok hl hd hm)).trans (if_pos hoff))

theorem exec_dbgAccess_write (hv : v = ((s.setIr 0x13).setDomainOff false).dbgTouch a.toNat) (hm : s.dbgMay a.toNat true = true)
    (hon : (s.setIr 0x13).dbgOff a.toNat = false) : exec (.dbgAccess (.write a d)) s = .next (v.dbgWrite a.toNat d.toNat) := by
  subst hv
  exact congrArg Host.Outcome.next ((State.tap_taken ha (State.dbgAccess_ok hl hd hm)).trans (if_neg (ne_true_of_eq_false hon)))

end DbgAccess

/-! DBG_SCAN (R379, R383, R388). -/

section DbgScan

variable {n : Nat} {bs : List Bool} {s u : State} (ha : s.board.aux = true)
include ha

/-- Below L3, and for a chain that does not scan, the instruction is replaced. -/
theorem exec_dbgScan_denied (h : s.sec.debug < 3 ∨ s.scans n = false) : exec (.dbgScan n bs) s = .next (s.report { code := 0x0B12 }).bypass := by
  refine congrArg Host.Outcome.next (State.tap_replaced ha ?_)
  rcases h with h | h
  · simp [Nat.not_le.mpr h]
  · simp [h]

variable (hl : s.sec.lifecycle ≠ 3) (hd : 3 ≤ s.sec.debug) (hu : u = (s.setIr 0x14).emit (.scan n (Config.scanOut n bs)))
include hl hd hu

theorem exec_dbgScan_domain (hn : Config.scanDomain n ≠ 33) (hs : s.scans n = true) : exec (.dbgScan n bs) s = .next u := by
  subst hu
  exact congrArg Host.Outcome.next ((State.tap_taken ha (by simp [State.unscrapped_of_ne hl, hd, hs])).trans (if_pos hn))

/-- A chain of PD33 stops clocks, and under a held level writes BOOT_HOLD while the stewards have not begun. -/
theorem exec_dbgScan_pd33 (hn : Config.scanDomain n = 33) {w v : State}
    (hw : w = u.modSec (fun k => { k with stoppedDoms := Config.scanStops k.stoppedDoms n bs }))
    (hv : v = w.modSec (fun k => { k with bootHold := Config.scanHold n bs })) :
    exec (.dbgScan n bs) s = .next (if s.sec.held && (s.pow.mstate == .standby || s.boot.stage == 0x0A) then
      (if s.boot.stage = 0x0A ∧ v.sec.bootHold = false then v.startFirmware else v) else w) := by
  subst hu hw hv
  exact congrArg Host.Outcome.next ((State.tap_taken ha (by simp [State.unscrapped_of_ne hl, hd, State.scans, hn])).trans (if_neg (not_not.mpr hn)))

end DbgScan

/-- Which chains scan (R388). -/
theorem State.scans_iff (s : State) (n : Nat) :
    s.scans n = true ↔ Config.scanDomain n = 33 ∨ (s.dark = false ∧ Config.scanDomain n ∈ s.sec.stoppedDoms) := by
  simp [State.scans]

/-- Settles O48: one lemma of this file for each instruction by its rights, and DBG_SCAN by its chain. -/
theorem tapInstructions : Obligations.TapInstructions := by
  refine ⟨fun i s ha hi => exec_tap_off ha hi,
    fun bs s ha => ⟨exec_idcode ha, exec_bypass ha, exec_samplePreload ha bs, exec_pins_stopped ha bs, fun hs i hi => exec_pins_serving ha bs hs hi⟩,
    fun a d s u v ha hl hu hv => ⟨fun hd hm => ⟨exec_dbgAccess_read_off ha hl hd hu hm, exec_dbgAccess_read ha hl hd hv hm⟩,
      fun hd hm => ⟨exec_dbgAccess_write_off ha hl hd hu hm, exec_dbgAccess_write ha hl hd hv hm⟩,
      exec_dbgAccess_read_denied ha, exec_dbgAccess_write_denied ha⟩,
    fun n bs s u ha hl => ⟨fun hd => exec_dbgScan_denied ha (.inl hd), fun hd hu w v r x hw hv hfree hheld hhold hx => ?_⟩⟩
  by_cases hn : Config.scanDomain n = 33
  · rw [if_pos hn, exec_dbgScan_pd33 ha hl hd hu hn hw hv]
    congr 1
    cases hk : s.sec.held with
    | false => exact (hfree (.inl hk)).symm
    | true =>
      by_cases hstage : s.boot.stage = 0x0A
      · rw [hhold hk hstage, if_pos (by simp [hstage])]
        simp only [hstage, true_and]
      · by_cases hm : s.pow.mstate = .standby
        · rw [hheld hk hm hstage, if_pos (by simp [hm]), if_neg (fun h => hstage h.1)]
        · rw [hfree (.inr ⟨hm, hstage⟩), if_neg (by simp [hm, hstage])]
  · rw [if_neg hn]
    by_cases hs : s.dark = false ∧ Config.scanDomain n ∈ s.sec.stoppedDoms
    · rw [if_pos hs]
      exact exec_dbgScan_domain ha hl hd hu hn ((s.scans_iff n).mpr (.inr hs))
    · rw [if_neg hs, hx]
      exact exec_dbgScan_denied ha (.inr (Bool.eq_false_iff.mpr fun h => ((s.scans_iff n).mp h).elim hn hs))

end Sys2Proof.Machine
end

section
/-! SUPPORT. The module's supply: power-on reset and the loss of auxiliary power (R383, R406, R443, R454–R456). -/

namespace Sys2Proof.Machine

open Sys2Proof

/-! Reset and loss keep the fuses and the NVM (R406, R425, R443). -/

theorem map_fuse_afterLoss (l : List CoreSlot) : (l.map CoreSlot.afterLoss).map CoreSlot.fuse = l.map CoreSlot.fuse := List.map_map

/-- An image slot that was not being written stays. -/
theorem State.nvmAfterReset_of_ne {s : State} (h : s.boot.rstatus ≠ 3) : s.nvmAfterReset = s.board.nvm := if_neg h

/-! POWER_ON_RESET_END (R406, R455). -/

section PowerOn

variable {s : State}

theorem exec_powerOnResetEnd_early (h : s.board.aux = true ∨ s.board.v52 = false ∨ s.board.en = false) : exec .powerOnResetEnd s = .next s := by
  refine if_pos ?_
  rcases h with h | h | h <;> simp [h]

theorem exec_powerOnResetEnd {u : State} (ha : s.board.aux = false) (hv : s.board.v52 = true) (he : s.board.en = true)
    (hu : u = ({ s with board := { s.board with aux := true } } : State).modPow (fun p =>
      { (p.setDoms [33] .on) with mstate := .standby, coolantLowAt := if p.coolantOk then none else some s.time })) :
    exec .powerOnResetEnd s = .next (if s.board.resetIn then u.setStage 1 else u.atFuses) := by
  subst hu
  exact if_neg (by simp [ha, hv, he])

end PowerOn

/-- Settles O54: the two pins, the power-on reset by its inputs, and the three losses by what `State.losePower` leaves. -/
theorem supplyEvents : Obligations.SupplyEvents := by
  refine ⟨fun s => ⟨rfl, rfl⟩, fun s u ha hv he hu => ⟨fun hr => ?_, fun hr => ?_⟩, fun s => exec_powerOnResetEnd_early, fun s i hi => ?loss⟩
  · rw [exec_powerOnResetEnd ha hv he hu, if_pos hr]
  · rw [exec_powerOnResetEnd ha hv he hu, if_neg (ne_true_of_eq_false hr)]
  case loss =>
    fin_cases hi
    all_goals refine ⟨_, rfl, rfl, rfl, rfl, rfl, rfl, rfl, rfl, rfl, rfl, rfl, rfl, rfl, rfl, rfl, rfl, rfl, rfl, map_fuse_afterLoss s.slots,
      State.nvmAfterReset_of_ne, ?_⟩
    · exact ⟨fun _ => ⟨rfl, rfl⟩, fun h => absurd rfl h⟩
    · exact ⟨nofun, fun _ => ⟨rfl, rfl⟩⟩
    · exact ⟨nofun, fun _ => ⟨rfl, rfl⟩⟩

end Sys2Proof.Machine
end

section
/-! SUPPORT. The SMBus commands: which transactions the module takes, what a read returns, and the armed ZEROISE (R458–R460). -/

namespace Sys2Proof.Machine

open Sys2Proof

/-! Transactions (R458). -/

theorem State.hears_iff (s : State) (x : SmbCall) (sent : List Nat) : s.hears x sent = true ↔
    s.board.aux = true ∧ x.addr.toNat = 0x58 + s.board.straps.toNat ∧ ∀ p, x.pec = some p → p.toNat = crc8 (2 * x.addr.toNat :: sent) := by
  unfold State.hears Board.address
  cases x.pec <;> simp [and_assoc]

section Transaction

variable {s : State} {x : SmbCall} {sent : List Nat} {act : State → State}

theorem State.smbus_heard (h : s.hears x sent = true) : s.smbus x sent act = act s := if_pos h

theorem State.smbus_unheard (h : s.hears x sent = false) : s.smbus x sent act = s := if_neg (ne_true_of_eq_false h)

/-- A read that the module takes changes nothing but what it sends. -/
theorem State.smbRead_heard {block : Bool} {bs : List Nat} (h : s.hears x sent = true) : s.smbRead x sent block bs = s.answer x sent block bs :=
  State.smbus_heard h

end Transaction

/-- A transaction that is not taken, of each command that finds it in `Board.smb`. -/
theorem exec_smbus_unheard {s : State} {x : SmbCall} (hx : s.board.smb = x) {y : Instr × Nat}
    (hy : y ∈ [(Instr.readId, 0x01), (.readStatus, 0x02), (.readPower, 0x03), (.readTrip, 0x04), (.readTime, 0x07), (.zarm, 0x10)])
    (h : s.hears x [y.2] = false) : exec y.1 s = .next s := by
  subst hx
  fin_cases hy <;> exact congrArg Host.Outcome.next (State.smbus_unheard h)

/-! ZARM and ZEROISE (R459). -/

/-- ZEROISE is armed for the half-open second that ZARM began. -/
theorem State.zarmed_iff (s : State) : s.zarmed = true ↔ ∃ a, s.board.armed = some a ∧ s.time < a + 100000000 := by
  unfold State.zarmed
  cases s.board.armed <;> simp

theorem State.zarmed_eq_false {s : State} (h : s.board.armed = none ∨ ∃ a, s.board.armed = some a ∧ a + 100000000 ≤ s.time) : s.zarmed = false := by
  unfold State.zarmed
  rcases h with h | ⟨a, h, hle⟩
  · rw [h]
  · rw [h]
    exact decide_eq_false (Nat.not_lt.mpr hle)

section Zeroise

variable {s u : State} {x : SmbCall} (hu : u = { s with board := { s.board with smb := x } }) (hx : s.hears x [0x11] = true)
include hu hx

theorem exec_smbZeroise_armed (hz : s.zarmed = true) : exec (.smbZeroise x) s = .next u.smbZeroise := by
  subst hu
  exact congrArg Host.Outcome.next ((State.smbus_heard (s := s.smbDrive x) hx).trans (if_pos hz))

theorem exec_smbZeroise_unarmed (hz : s.zarmed = false) : exec (.smbZeroise x) s = .next u := by
  subst hu
  exact congrArg Host.Outcome.next ((State.smbus_heard (s := s.smbDrive x) hx).trans (if_neg (ne_true_of_eq_false hz)))

end Zeroise

theorem State.smbZeroise_dark {s : State} (h : s.dark = true) : s.smbZeroise = s := if_pos h

theorem State.booting_not_dark {s : State} (h : s.booting = true) : s.dark = false := by
  simp only [State.booting, Bool.and_eq_true, Bool.not_eq_true'] at h
  exact h.1

theorem State.smbZeroise_booting {s : State} (h : s.booting = true) : s.smbZeroise = s.modBoot (fun b => { b with noService := true }) := by
  rw [State.smbZeroise, if_neg (ne_true_of_eq_false (State.booting_not_dark h)), if_pos h]

theorem State.smbZeroise_serving {s : State} (hd : s.dark = false) (hb : s.booting = false) : s.smbZeroise = s.zeroise := by
  rw [State.smbZeroise, if_neg (ne_true_of_eq_false hd), if_neg (ne_true_of_eq_false hb)]

/-- Settles O55: a read by what is heard, ZEROISE by its arming and the module's state, and the end of the armed second. -/
theorem smbusCommands : Obligations.SmbusCommands := by
  refine ⟨State.hears_iff, ?answer, ?heard, ?zeroise, ?unheard, fun s h => ?_, fun s a h hlt => ?_⟩
  case answer => rintro s x sent bs block all rfl; rfl
  case heard =>
    rintro s x k rfl
    have hread : ∀ {sent block bs}, s.hears s.board.smb sent = true →
        Host.Outcome.next (s.smbRead s.board.smb sent block bs) = (.next (s.answer s.board.smb sent block bs) : Host.Outcome State Fault Refusal) :=
      fun h => congrArg _ (State.smbRead_heard h)
    refine ⟨hread, hread, hread, hread, fun sent hs h => ?_, fun h => ⟨fun r hr => ?_, fun hle => ?_⟩, hread, fun h => ?_⟩
    · subst hs
      exact hread h
    · refine (hread h).trans ?_
      rw [hr]
    · refine (hread h).trans ?_
      rw [List.getElem?_eq_none hle]
    · exact congrArg Host.Outcome.next (State.smbus_heard h)
  case zeroise =>
    intro s u x hu hx
    refine ⟨fun a ha hlt => ?_, fun h => exec_smbZeroise_unarmed hu hx (State.zarmed_eq_false h)⟩
    have harmed := exec_smbZeroise_armed hu hx (s.zarmed_iff.mpr ⟨a, ha, hlt⟩)
    have hdark : u.dark = s.dark := by rw [hu]; rfl
    have hboot : u.booting = s.booting := by rw [hu]; rfl
    exact ⟨fun hd => harmed.trans (congrArg _ (State.smbZeroise_dark (hdark.trans hd))),
      fun hb => harmed.trans (congrArg _ (State.smbZeroise_booting (hboot.trans hb))),
      fun hd hb => harmed.trans (congrArg _ (State.smbZeroise_serving (hdark.trans hd) (hboot.trans hb)))⟩
  case unheard =>
    intro s x k
    refine ⟨fun hx y hy h => exec_smbus_unheard hx hy h, fun h => ?_, fun hx h => ?_, fun hx h => ?_⟩
    · exact congrArg Host.Outcome.next (State.smbus_unheard (s := s.smbDrive x) h)
    · subst hx; exact congrArg Host.Outcome.next (State.smbus_unheard h)
    · subst hx; exact congrArg Host.Outcome.next (State.smbus_unheard h)
  · exact if_neg (ne_true_of_eq_false (State.zarmed_eq_false h))
  · exact if_pos (s.zarmed_iff.mpr ⟨a, h, hlt⟩)

end Sys2Proof.Machine
end

section
/-! SUPPORT. The latch of LOCAL_TIME_HI (R433, R438). -/

namespace Sys2Proof.Machine

open Sys2Proof

/-- The requester that holds a key. -/
def Requester.ofKey : Nat → Requester
  | 0 => .port .A
  | 1 => .port .B
  | 6 => .debug
  | k => .steward (Fin.ofNat 4 (k - 2))

/-- Every requester has a latch of its own. -/
theorem Requester.key_injective : Function.Injective Requester.key := by
  refine Function.LeftInverse.injective (g := Requester.ofKey) fun r => ?_
  cases r with
  | port p => cases p <;> rfl
  | steward n => fin_cases n <;> rfl
  | debug => rfl

/-- LOCAL_TIME_HI is what its requester has latched. -/
theorem State.readBlk_timeHi (s : State) (who : Nat) : s.readBlk who .glob 0x088 = Tbl.get 0 who s.glob.timeHi := rfl

/-- The high half of the counter latched for a requester. -/
def State.latchTime (s : State) (r : Requester) : State :=
  s.modGlob (fun g => { g with timeHi := Tbl.set 0 r.key (s.time / 2 ^ 32 % 2 ^ 32) g.timeHi })

theorem exec_localTimeLowRead {r : Requester} {s : State} (hr : r ≠ .debug) (hreach : s.reaches r = true) (h4 : s.glob.service ≠ 4) :
    exec (.localTimeLowRead r) s = .next ((s.latchTime r).emit (.readData r (s.time % 2 ^ 32))) := by
  cases r with
  | port | steward => exact if_neg (by simp [State.reads, hreach, h4])
  | debug => exact absurd rfl hr

theorem exec_localTimeLowRead_debug {s : State} (ha : s.board.aux = true) (hd : 1 ≤ s.sec.debug) (h4 : s.glob.service ≠ 4) :
    exec (.localTimeLowRead .debug) s = .next (s.emit (.readData .debug (s.time % 2 ^ 32))) :=
  if_neg (by simp [State.reads, ha, hd, h4])

/-- Settles O58: the latch under the requester's key, and the keys apart. -/
theorem localTimeLatch : Obligations.LocalTimeLatch := by
  refine ⟨fun r s hr hreach h4 => ⟨_, exec_localTimeLowRead hr hreach h4, rfl, fun n => ?_, fun q hq => ?_⟩,
    fun s => exec_localTimeLowRead_debug⟩
  · exact Tbl.get_set_self _ _ _ _
  · exact Tbl.get_set_other _ (fun h => hq (Requester.key_injective h)) _ _

end Sys2Proof.Machine
end

section
/-! SUPPORT. Uncorrectable errors and poison: where an error is detected, who consumes it, and the counts of corrected ones (R392, R393, R402, R404). -/

namespace Sys2Proof.Machine

open Sys2Proof

/-! Detection (R392, R393). -/

/-- Which part of a stack an HBM address lies in changes its kind of region only. -/
theorem region_of_lt_hbm {a : Nat} (h : a < 0x2400000000) : region a = .reserved a ∨ region a = .hbm a := by
  rw [region, if_pos h, hbmRegion]
  split
  · exact .inl rfl
  · exact .inr rfl

theorem exec_uncorrectableDetect_dark {s : State} (d : Detect) (h : s.dark = true) : exec (.uncorrectableDetect d) s = .next s := if_pos h

section Detected

variable {s : State} (hd : s.dark = false)
include hd

theorem execUncorrectableDetect_hbm {a : BitVec 48} (ha : a.toNat < 0x2400000000) : exec (.uncorrectableDetect (.hbm a)) s =
    if s.inTables a.toNat then .next (s.report { code := 0x3C30, addr := a.toNat, kind := .stack, unit := a.toNat / stackBytes })
    else .next ((s.markPoison (a.toNat / 32 * 32) 32 0x2C20).reportTest { code := 0x2C20, addr := a.toNat, kind := .stack, unit := a.toNat / stackBytes }
      (.rowTest (a.toNat / stackBytes))) := by
  refine (if_neg (ne_true_of_eq_false hd)).trans ?_
  rcases region_of_lt_hbm ha with h | h <;> simp only [h]

theorem exec_uncorrectableDetect_hbmTables {a : BitVec 48} (ha : a.toNat < 0x2400000000) (ht : s.inTables a.toNat = true) :
    exec (.uncorrectableDetect (.hbm a)) s = .next (s.report { code := 0x3C30, addr := a.toNat, kind := .stack, unit := a.toNat / stackBytes }) := by
  rw [execUncorrectableDetect_hbm hd ha, if_pos ht]

theorem exec_uncorrectableDetect_hbmData {a : BitVec 48} (ha : a.toNat < 0x2400000000) (ht : s.inTables a.toNat = false) :
    exec (.uncorrectableDetect (.hbm a)) s = .next ((s.markPoison (a.toNat / 32 * 32) 32 0x2C20).reportTest
      { code := 0x2C20, addr := a.toNat, kind := .stack, unit := a.toNat / stackBytes } (.rowTest (a.toNat / stackBytes))) := by
  rw [execUncorrectableDetect_hbm hd ha, if_neg (ne_true_of_eq_false ht)]

theorem exec_uncorrectableDetect_sram {n : Fin 72} (off : Fin 6291456) {c : Nat} (hc : s.logicalOn n = some c) :
    exec (.uncorrectableDetect (.sram n off)) s = .next ((s.markPoison (sramAddr c off.val / 8 * 8) 8 0x2C21).reportTest
      { code := 0x2C21, addr := sramAddr c off.val, kind := .coreSlot, unit := n } (.coreTest n)) := by
  refine (if_neg (ne_true_of_eq_false hd)).trans ?_
  simp only [hc]

theorem exec_uncorrectableDetect_sramSpare {n : Fin 72} (off : Fin 6291456) (hc : s.logicalOn n = none) :
    exec (.uncorrectableDetect (.sram n off)) s = .next (s.reportTest { code := 0x2C21, kind := .coreSlot, unit := n } (.coreTest n)) := by
  refine (if_neg (ne_true_of_eq_false hd)).trans ?_
  simp only [hc]

theorem exec_uncorrectableDetect_idleArray (n : Fin 72) (hr : s.running = none) :
    exec (.uncorrectableDetect (.array n)) s = .next (s.reportTest { code := 0x2122, kind := .coreSlot, unit := n } (.coreTest n)) := by
  refine (if_neg (ne_true_of_eq_false hd)).trans ?_
  simp only [hr, State.abortTest, ite_self]

theorem exec_uncorrectableDetect_coreBuffer {n : Fin 72} {c : Nat} (hc : s.logicalOn n = some c) :
    exec (.uncorrectableDetect (.coreBuffer n)) s =
      .next ((s.modRun c (fun r => if r.active && r.stopped.isNone then { r with stopped := some (1, 0x2C21) } else r)).reportTest
        { code := 0x2C21, kind := .coreSlot, unit := n } (.coreTest n)) := by
  refine (if_neg (ne_true_of_eq_false hd)).trans ?_
  simp only [hc]

/-- The places whose error is reported without a look at who uses them. -/
theorem exec_uncorrectableDetect_elsewhere (n : Fin 72) (m : Fin 6) (w : Fin 4) (k : Nat) (p : Port) (l : Fin 48) (d : Option (BitVec 48)) :
    exec (.uncorrectableDetect (.sfu n)) s = .next (s.abortTest { code := 0x2C23, kind := .coreSlot, unit := n } (.coreTest n)) ∧
    exec (.uncorrectableDetect (.press m)) s = .next (s.abortTest { code := 0x2C24, kind := .stack, unit := m } (.pressTest m)) ∧
    exec (.uncorrectableDetect (.stewardSram w)) s = .next (s.report { code := 0x3C31, kind := .steward, unit := w }) ∧
    exec (.uncorrectableDetect (.controlMesh k)) s = .next (s.report { code := 0x3C32, kind := .router, unit := k }) ∧
    exec (.uncorrectableDetect (.portBuffer p d)) s = .next ((s.poisonBuffer d).report { code := 0x2C21, addr := (d.getD 0).toNat, kind := .port, unit := p.num }) ∧
    exec (.uncorrectableDetect (.linkBuffer l d)) s = .next ((s.poisonBuffer d).report { code := 0x2C21, addr := (d.getD 0).toNat, kind := .link, unit := l }) :=
  have hn := ne_true_of_eq_false hd
  ⟨if_neg hn, if_neg hn, if_neg hn, if_neg hn, if_neg hn, if_neg hn⟩

end Detected

/-! A contained hardware error aborts the pass that runs (R393). -/

theorem State.abortTest_running {s : State} (r : Report) (x : Activity) {t : Nat} {tab : PassTable} (ha : s.alive = true) (hr : s.running = some (t, tab)) :
    s.abortTest r x = (s.abortPass t r.code).reportTest { r with detail := tab.tag, reqs := tab.endedBy r.code } x := by
  rw [State.abortTest, if_pos ha, hr]

theorem State.abortTest_idle {s : State} (r : Report) (x : Activity) (h : s.alive = false ∨ s.running = none) : s.abortTest r x = s.reportTest r x := by
  have hn : (if s.alive then s.running else none) = none := by
    rcases h with h | h <;> simp [h]
  rw [State.abortTest, hn]

/-! Consumption (R393). -/

/-- Clean bytes, and addresses that name no byte of the module's memory. -/
theorem exec_poisonConsume_clean (c : Consumer) {a : BitVec 48} {s : State} (h : ∀ x, (region a.toNat).canon = some x → s.poisonIn x 1 = none) :
    exec (.poisonConsume c a) s = .next s := by
  have hn : (region a.toNat).canon.bind (fun x => (s.poisonIn x 1).map (fun code => (x, code))) = none :=
    Option.bind_eq_none_iff.mpr fun x hx => by rw [h x hx, Option.map_none]
  show execPoisonConsume c a s = _
  unfold execPoisonConsume
  rw [hn]

theorem exec_poisonConsume_core {k : Fin 64} {a : BitVec 48} {s u v : State} {x code t : Nat} {tab : PassTable} {o : List Nat × State} (ha : s.alive = true)
    (hx : (region a.toNat).canon = some x) (hp : s.poisonIn x 1 = some code) (hk : (s.core k).run.active = true) (hr : s.running = some (t, tab)) (ho : o = s.owners x)
    (hu : u = o.2.abortPass t code) (hv : v = u.endOwners (some t) o.1 code) :
    exec (.poisonConsume (.core k) a) s = if code = 0x2201 then .next v
      else .next (v.report { code := code, addr := a.toNat, detail := (o.2.table t).tag, kind := .coreSlot, unit := s.slotOf k
                             reqs := ((o.2.table t).endedWith o.1).length }) := by
  subst hv hu ho
  have hb : (region a.toNat).canon.bind (fun x => (s.poisonIn x 1).map (fun code => (x, code))) = some (x, code) := by
    rw [hx, Option.bind_some, hp, Option.map_some]
  show execPoisonConsume (.core k) a s = _
  unfold execPoisonConsume
  rw [hb]
  simp only [ha, Bool.not_true, Bool.false_eq_true, if_false, hr, hk, if_true, State.consumerUnit, Option.map_some, Option.getD_some]

/-! Corrected errors and scrubs (R402, R404). -/

theorem exec_ceLimitReached {s : State} (hd : s.dark = false) (m : Fin 6) (a : BitVec 48) (slot : Fin 72) (off : Fin 6291456) (r n : Nat) :
    exec (.ceLimitReached (.hbm m a) n) s = .next (s.correctedHbm m a.toNat n) ∧
    exec (.ceLimitReached (.sram slot off) n) s = .next (s.correctedSram slot off.val n) ∧
    exec (.ceLimitReached (.mesh r) n) s = .next ((s.modInteg (fun g => { g with meshRetry := g.meshRetry + BitVec.ofNat 64 n })).corrected
      { code := 0x1C14, kind := .router, unit := r } .routeTest n) :=
  have hn := ne_true_of_eq_false hd
  ⟨if_neg hn, if_neg hn, if_neg hn⟩

theorem State.corrected_eq {s : State} {g : Integrity} {b : Bool} {rep : Report} {n : Nat} (x : Activity)
    (h : s.integ.ceAdd rep.code (reporter rep.code rep.unit) n s.time = (b, g)) :
    s.corrected rep x n = if b then ({ s with integ := g } : State).reportTest rep x else { s with integ := g } := by
  rw [State.corrected, h]

section Scrubs

variable {s : State} (hd : s.dark = false)
include hd

theorem exec_hbmPatrolScrub {m : Fin 6} {a : BitVec 48} (hh : s.holds (.hbmScrub m) = true) (ha : a.toNat / stackBytes = m) (w : Fin 64) :
    exec (.hbmPatrolScrub m a .clean) s = .next s ∧ exec (.hbmPatrolScrub m a .corrected) s = .next (s.correctedHbm m a.toNat 1) ∧
    exec (.hbmPatrolScrub m a (.uncorrectable w)) s =
      if s.inTables a.toNat then .next (s.report { code := 0x3C30, addr := a.toNat, kind := .stack, unit := m })
      else .next ((s.markPoison (a.toNat / 32 * 32) 32 0x2C20).reportTest { code := 0x2C25, addr := a.toNat, kind := .stack, unit := m } (.rowTest m)) := by
  have hn : ¬ (s.dark || !s.holds (.hbmScrub m) || decide (a.toNat / stackBytes ≠ m.val)) = true := by
    simp [hd, hh, ha]
  exact ⟨if_neg hn, if_neg hn, if_neg hn⟩

theorem exec_sramPatrolScrub {n : Fin 72} (hh : s.holds (.sramScrub n) = true) (l : Fin 12288) :
    exec (.sramPatrolScrub n l .clean) s = .next s ∧ exec (.sramPatrolScrub n l .corrected) s = .next (s.correctedSram n (512 * l.val) 1) := by
  have hn : ¬ (s.dark || !s.holds (.sramScrub n)) = true := by simp [hd, hh]
  exact ⟨if_neg hn, if_neg hn⟩

theorem exec_sramPatrolScrub_uncorrectable {n : Fin 72} (hh : s.holds (.sramScrub n) = true) (l : Fin 12288) (w : Fin 64) {c : Nat} (hc : s.logicalOn n = some c) :
    exec (.sramPatrolScrub n l (.uncorrectable w)) s = .next ((s.markPoison (sramAddr c (512 * l.val + 8 * w.val)) 8 0x2C21).reportTest
      { code := 0x2C21, addr := sramAddr c (512 * l.val + 8 * w.val), kind := .coreSlot, unit := n } (.coreTest n)) := by
  have hn : ¬ (s.dark || !s.holds (.sramScrub n)) = true := by simp [hd, hh]
  refine (if_neg hn).trans ?_
  simp only [hc]

end Scrubs

/-- Settles O50, place by place of detection, then consumption, corrected counts and the two scrubs. -/
theorem errorsContained : Obligations.ErrorsContained := by
  refine ⟨fun _ d h => exec_uncorrectableDetect_dark d h, fun s a n off m w k hd => ?detect,
    fun s r x => ⟨fun _ _ => State.abortTest_running r x, State.abortTest_idle r x⟩,
    fun k a s u v x code t tab o ha hx hp hk hr ho hu hv => ?core, fun c a s => exec_poisonConsume_clean c,
    fun s m a slot off r n hd => ?limit, fun m a w s hd hh ha => ?hbm, fun n l w s hd hh => ?sram⟩
  case detect =>
    obtain ⟨hsfu, hpress, hsteward, hmesh, -⟩ := exec_uncorrectableDetect_elsewhere hd n m w k .A 0 none
    refine ⟨exec_uncorrectableDetect_hbmData hd, exec_uncorrectableDetect_hbmTables hd, fun _ => exec_uncorrectableDetect_sram hd off,
      exec_uncorrectableDetect_sramSpare hd off, hsfu, hpress, hsteward, hmesh, exec_uncorrectableDetect_idleArray hd n, ?_, fun p l d => ?_⟩
    · rintro c _ hc rfl
      exact exec_uncorrectableDetect_coreBuffer hd hc
    · obtain ⟨-, -, -, -, hport, hlink⟩ := exec_uncorrectableDetect_elsewhere hd n m w k p l d
      exact ⟨hport, hlink⟩
  case core =>
    rw [exec_poisonConsume_core ha hx hp hk hr ho hu hv]
    exact ⟨fun h => if_neg h, fun h => if_pos h⟩
  case limit =>
    obtain ⟨hhbm, hsram, hmesh⟩ := exec_ceLimitReached hd m a slot off r n
    exact ⟨hhbm, hsram, hmesh, fun _ _ _ x => State.corrected_eq x⟩
  case hbm =>
    obtain ⟨hclean, hcorrected, hbad⟩ := exec_hbmPatrolScrub hd hh ha w
    refine ⟨hclean, hcorrected, fun ht => ?_, fun ht => ?_⟩
    · rw [hbad, if_pos ht]
    · rw [hbad, if_neg (ne_true_of_eq_false ht)]
  case sram =>
    obtain ⟨hclean, hcorrected⟩ := exec_sramPatrolScrub hd hh l
    exact ⟨hclean, hcorrected, fun _ => exec_sramPatrolScrub_uncorrectable hd hh l w⟩

end Sys2Proof.Machine
end

section
/-! SUPPORT. Reset and boot: RESET_IN# and the stages to READY (R406, R409, R419, R420, R443, R452, R455). -/

namespace Sys2Proof.Machine

open Sys2Proof

/-! The fuses of a slot (R443). -/

theorem CoreSlot.fromFuses_fused {x : CoreSlot} (t : Nat) (h : x.fuse = true) : (x.fromFuses t).state = .retired := if_pos h

theorem CoreSlot.fromFuses_unfused {x : CoreSlot} (t : Nat) (h : x.fuse = false) : (x.fromFuses t).state = x.mfg := if_neg (ne_true_of_eq_false h)

theorem CoreSlot.fromFuses_enabled {x : CoreSlot} (t : Nat) (h : x.mfg = .enabled) : (x.fromFuses t).logical = x.mfgLogical := if_pos h

/-! RESET_IN_ASSERT (R406, R452). -/

section Assert

variable {ns : Nat} {s : State}

theorem exec_resetInAssert_unsupplied (h : s.board.aux = false) :
    exec (.resetInAssert ns) s = .next { s with board := { s.board with resetIn := true } } := if_pos (by simp [h])

theorem exec_resetInAssert_short (ha : s.board.aux = true) (hn : ns < 1000) : exec (.resetInAssert ns) s = .next s :=
  (if_neg (by simp [ha])).trans (if_pos hn)

theorem exec_resetInAssert_long (ha : s.board.aux = true) (hn : 10000 ≤ ns) : exec (.resetInAssert ns) s = .next s.moduleReset := by
  have hnot : ¬ ns < 1000 := by omega
  exact (if_neg (by simp [ha])).trans ((if_neg hnot).trans (if_pos (by simp [hn])))

end Assert

/-! RESET_IN_DEASSERT (R406, R419). -/

section Boot

variable {f : BootFacts} {s : State}

theorem State.runBoot_scrapped (h : s.sec.lifecycle = 3) : s.runBoot f = s.atFuses.setStage 0x0F := if_pos h

section Unscrapped

variable (h : s.sec.lifecycle ≠ 3)
include h

theorem State.runBoot_noAnswer (hf : f.nvmAnswers = false) : s.runBoot f = (s.atFuses.rebuildMap.report { code := 0x3002 }).enterRescue 4 3 :=
  (if_neg h).trans (if_pos (by simp [hf]))

theorem State.runBoot_unfit (hf : f.nvmAnswers = true) (hk : s.atFuses.rebuildMap.sec.dikMatches = false) :
    s.runBoot f = (s.atFuses.rebuildMap.report { code := 0x3B31 }).setStage 0x0F :=
  (if_neg h).trans ((if_neg (by simp [hf])).trans (if_pos (by simp [hk])))

theorem State.runBoot_fit (hf : f.nvmAnswers = true) (hk : s.atFuses.rebuildMap.sec.dikMatches = true) :
    s.runBoot f = s.atFuses.rebuildMap.checkImage (f.badSlots.map Fin.val) :=
  (if_neg h).trans ((if_neg (by simp [hf])).trans (if_neg (by simp [hk])))

end Unscrapped

variable {u : State} (hu : u = { s with board := { s.board with resetIn := false } })
include hu

theorem exec_resetInDeassert_unsupplied (h : s.board.aux = false) : exec (.resetInDeassert f) s = .next u := by
  subst hu
  exact if_pos (by simp [h])

theorem exec_resetInDeassert_boots (ha : s.board.aux = true) (ht : s.pow.mstate ≠ .tripped) (hr : s.board.resetIn = true ∨ s.boot.stage = 1) :
    exec (.resetInDeassert f) s = .next (u.runBoot f) := by
  subst hu
  exact (if_neg (by simp [ha])).trans ((if_neg ht).trans (if_pos (by simpa using hr)))

end Boot

/-! FIRMWARE_READY (R420). -/

section Ready

variable {s u : State} (hs : s.boot.stage = 0x0B) (hf : s.glob.fatal = false ∨ s.boot.noService = true)
  (hu : u = (s.modBoot (fun b => { b with bootMs := (s.time - b.startAt) / 100000 })).readyPorts)
include hs hf hu

theorem exec_firmwareReady : exec .firmwareReady s = if u.mayServe then
      .next (((((u.setStage 0x0C).modGlob (fun g => { g with service := 1, modReady := true })).modSec (fun k => k.blow u.boot.commitSvn u.boot.revoke)).modPow
        (fun p => { p with mstate := .active, lastActivity := u.time })).freeLinks)
    else .next ((u.setStage 0x0D).modGlob (fun g => { g with service := 2 })) := by
  subst hu
  refine if_neg ?_
  rcases hf with h | h <;> simp [hs, h]

end Ready

/-- Settles O52: the pin's pulses, the fuses, the boot by its first obstacle, and the end of boot. -/
theorem resetAndBoot : Obligations.ResetAndBoot := by
  refine ⟨fun ns s ha => ⟨exec_resetInAssert_short ha, fun hn => ⟨_, exec_resetInAssert_long ha hn, ?kept⟩⟩,
    fun x t => ⟨rfl, rfl, rfl, rfl, CoreSlot.fromFuses_fused t, CoreSlot.fromFuses_unfused t, CoreSlot.fromFuses_enabled t⟩,
    fun ns s => exec_resetInAssert_unsupplied, fun f s u v hu => ⟨exec_resetInDeassert_unsupplied hu, fun ha ht hr hv => ?boot⟩,
    fun s u v hs hf hu => ?ready⟩
  case kept =>
    exact ⟨rfl, rfl, rfl, rfl, rfl, rfl, rfl, rfl, rfl, rfl, rfl, rfl, rfl, rfl, rfl, rfl, rfl, State.nvmAfterReset_of_ne⟩
  case boot =>
    have hlife : u.sec.lifecycle = s.sec.lifecycle := by rw [hu]
    rw [exec_resetInDeassert_boots hu ha ht hr, ← hlife, hv]
    exact ⟨fun h => congrArg _ (State.runBoot_scrapped h), fun h hf => congrArg _ (State.runBoot_noAnswer h hf),
      fun h hf hk => congrArg _ (State.runBoot_unfit h hf hk), fun h hf hk => congrArg _ (State.runBoot_fit h hf hk)⟩
  case ready =>
    rw [exec_firmwareReady hs hf hu]
    refine ⟨fun hm hv => ?_, fun hm => if_neg (ne_true_of_eq_false hm)⟩
    subst hv
    exact if_pos hm

end Sys2Proof.Machine
end

section
/-! SUPPORT. The rescue loader: how it is asked for, what GO reads and checks, and the install (R406, R417, R418, R422–R425). -/

namespace Sys2Proof.Machine

open Sys2Proof

/-! The word of the boot block that asks for the loader and its GO (R429). -/

section Write

variable {r : Requester} {s u : State} {v : BitVec 64} (hr : s.reaches r = true) (ht : s.takesWrites .boot 0x030 = true) (hu : u = s.touch .boot)
  (hw : u.writeRefused r .boot 0x030 v.toNat = none)
include hr ht hu hw

theorem State.regWrite_rescueWord : s.regWrite r (Blk.boot.base + 0x030) v.toNat = u.writeBoot r 0x030 v.toNat := by
  subst hu
  exact State.regWrite_applies hr rfl ht hw

theorem exec_rescueNext (h1 : bit v.toNat 1 = true) (h0 : bit v.toNat 0 = false) : exec (.rescueNext r v) s = .next u.askRescue := by
  have hword : u.writeBoot r 0x030 v.toNat = u.askRescue := by
    cases h : u.askRescue.asPort r <;> simp [State.writeBoot, h1, h0, h]
  exact (if_pos h1).trans (by rw [State.regWrite_rescueWord hr ht hu hw, hword])

end Write

theorem exec_rescueGo {p : Port} {v : BitVec 64} {host : Cells} {s t u : State} (hs : t = s.hostStore p host) (hr : t.reaches (.port p) = true)
    (ht : t.takesWrites .boot 0x030 = true) (hu : u = t.touch .boot) (hw : u.writeRefused (.port p) .boot 0x030 v.toNat = none) (h0 : bit v.toNat 0 = true)
    (h1 : bit v.toNat 1 = false) : exec (.rescueGo (.port p) v host) s = .next (u.rescueGo p) := by
  have hword : u.writeBoot (.port p) 0x030 v.toNat = u.rescueGo p := by
    simp [State.writeBoot, h1, h0, State.asPort]
  subst hs
  exact (if_pos h0).trans (congrArg Host.Outcome.next ((State.regWrite_rescueWord hr ht hu hw).trans hword))

/-! GO (R424): the image by the first fault that is found in it. -/

section Go

variable {s : State} {p : Port} (h4 : s.glob.service = 4) (hst : s.boot.rstatus = 0 ∨ 4 ≤ s.boot.rstatus)
include h4 hst

theorem State.rescueGo_idle : ¬ (s.glob.service ≠ 4 ∨ (1 ≤ s.boot.rstatus ∧ s.boot.rstatus ≤ 3)) := by omega

theorem State.rescueGo_noMaster (hb : ((s.port p).func 0).bme = false) : s.rescueGo p = s.refuseRescue 0x3002 0 :=
  (if_neg (State.rescueGo_idle h4 hst)).trans (if_pos (.inl hb))

section Read

variable {x : Image} (hb : ((s.port p).func 0).bme = true) (hl : (s.port p).link = .up)
  (hx : x = Image.ofBytes (s.hostGet p s.boot.rescueSrc.toNat s.boot.rescueBytes.toNat))
include hb hl hx

theorem State.rescueGo_read : s.rescueGo p = if !s.sec.verifies x then s.refuseRescue 0x3002 0
    else match x.conflict s with
      | some d => s.refuseRescue 0x3003 d
      | none => s.modBoot (fun b => { b with rstatus := 3, staged := x.bytes, rescuePort := p }) := by
  subst hx
  exact (if_neg (State.rescueGo_idle h4 hst)).trans (if_neg (by simp [hb, hl]))

theorem State.rescueGo_unsigned (hv : s.sec.verifies x = false) : s.rescueGo p = s.refuseRescue 0x3002 0 :=
  (State.rescueGo_read h4 hst hb hl hx).trans (if_pos (by simp [hv]))

theorem State.rescueGo_conflict {d : Nat} (hv : s.sec.verifies x = true) (hc : x.conflict s = some d) : s.rescueGo p = s.refuseRescue 0x3003 d := by
  refine (State.rescueGo_read h4 hst hb hl hx).trans ((if_neg (by simp [hv])).trans ?_)
  rw [hc]

theorem State.rescueGo_install (hv : s.sec.verifies x = true) (hc : x.conflict s = none) :
    s.rescueGo p = s.modBoot (fun b => { b with rstatus := 3, staged := x.bytes, rescuePort := p }) := by
  refine (State.rescueGo_read h4 hst hb hl hx).trans ((if_neg (by simp [hv])).trans ?_)
  rw [hc]

end Read
end Go

/-! The install and the reboot after it (R406, R425). -/

section Install

variable {s : State} (h4 : s.glob.service = 4)
include h4

theorem exec_rescueInstallDone_right (hst : s.boot.rstatus = 3) : exec (.rescueInstallDone true) s =
    .next ({ s with board := { s.board with nvm := memPut [] 0 s.boot.staged } }.modBoot (fun b => { b with rstatus := 5, staged := [] })) :=
  if_neg (by simp [h4, hst])

theorem exec_rescueInstallDone_wrong (hst : s.boot.rstatus = 3) :
    exec (.rescueInstallDone false) s = .next ({ s with board := { s.board with nvm := [] } }.refuseRescue 0x3002 0) :=
  if_neg (by simp [h4, hst])

theorem exec_loaderReboot (hst : s.boot.rstatus = 5) :
    exec .loaderReboot s = .next { s.moduleReset.atFuses with board := { s.moduleReset.board with resetIn := false } } :=
  if_neg (by simp [h4, hst])

end Install

/-- Settles O53: how the loader is asked for, its GO, the end of an install, and the reboot. -/
theorem rescueLoader : Obligations.RescueLoader := by
  refine ⟨fun r v s u hr ht hu hw => exec_rescueNext hr ht hu hw, fun s x u hu => ?smbus,
    fun p v host s t u x hs hr ht hu hw h0 h1 h4 hst hx => ?go, fun s u v h4 hst hu hv => ?install, fun s h4 hst => ?reboot⟩
  case smbus =>
    subst hu
    exact ⟨fun h => congrArg Host.Outcome.next (State.smbus_heard (s := s.smbDrive x) h),
      fun h => congrArg Host.Outcome.next (State.smbus_unheard (s := s.smbDrive x) h)⟩
  case go =>
    rw [exec_rescueGo hs hr ht hu hw h0 h1]
    exact ⟨fun hb => congrArg _ (State.rescueGo_noMaster h4 hst hb), fun hb hl =>
      ⟨fun hv => congrArg _ (State.rescueGo_unsigned h4 hst hb hl hx hv), fun d hv hc => congrArg _ (State.rescueGo_conflict h4 hst hb hl hx hv hc),
        fun hv hc => congrArg _ (State.rescueGo_install h4 hst hb hl hx hv hc)⟩⟩
  case install =>
    subst hu hv
    exact ⟨exec_rescueInstallDone_right h4 hst, exec_rescueInstallDone_wrong h4 hst, rfl, rfl⟩
  case reboot =>
    have hne : s.boot.rstatus ≠ 3 := by omega
    exact ⟨_, exec_loaderReboot h4 hst, rfl, rfl, State.nvmAfterReset_of_ne hne, rfl, rfl, rfl, rfl, rfl⟩

end Sys2Proof.Machine
end

section
/-! SUPPORT. The security engine: zeroisation, links held DISABLED, attestation and the generator (R368, R376–R378, R384–R386, R390). -/

namespace Sys2Proof.Machine

open Sys2Proof

/-! The word that holds ZEROISE and ATT_GO (R390). -/

section Write

variable {r : Requester} {v : BitVec 64} {s u : State} (hr : s.reaches r = true) (ht : s.takesWrites .sec 0x040 = true) (hu : u = s.touch .sec)
  (hw : u.writeRefused r .sec 0x040 v.toNat = none)
include hr ht hu hw

theorem State.regWrite_secControl : s.regWrite r (Blk.sec.base + 0x040) v.toNat = u.writeSec r 0x040 v.toNat := by
  subst hu
  exact State.regWrite_applies hr rfl ht hw

theorem exec_zeroise (h1 : bit v.toNat 1 = true) (h0 : bit v.toNat 0 = false) : exec (.zeroise r v) s = .next u.zeroise := by
  have hword : u.writeSec r 0x040 v.toNat = u.zeroise := by
    cases h : u.asPort r <;> simp [State.writeSec, h1, h0, h]
  exact (if_pos h1).trans (by rw [State.regWrite_secControl hr ht hu hw, hword])

theorem exec_attestationGo {p : Port} (hp : r = .port p) (h0 : bit v.toNat 0 = true) :
    exec (.attestationGo r v) s = .next (if bit v.toNat 1 then (u.attest p).zeroise else u.attest p) := by
  have hword : u.writeSec r 0x040 v.toNat = if bit v.toNat 1 then (u.attest p).zeroise else u.attest p := by
    simp [State.writeSec, h0, hp, State.asPort]
  exact (if_pos h0).trans (by rw [State.regWrite_secControl hr ht hu hw, hword])

end Write

/-! Links held DISABLED while nothing is on its way on them (R377). -/

/-- A state whose links, landing windows and queues of handshake work are others. -/
def State.withLinks (s : State) (links : Tbl LinkSt) (windows : Tbl Landing) (verify : List VerJob) (sign : List SignJob) : State :=
  { s with links := links, lglob := { s.lglob with windows := windows }, sec := { s.sec with verQ := verify, signQ := sign } }

/-- No shipment and no fetch is on its way. -/
def State.noTransfer (s : State) : Prop := s.lglob.ships = [] ∧ s.lglob.fetch = none

theorem State.reassign_of_noTransfer {s : State} (h : s.noTransfer) (l : Nat) : s.reassign l = s := by
  obtain ⟨hships, hfetch⟩ := h
  have hsame : s.modLGlob (fun g => { g with ships := g.ships.map (fun x => { x with sentOn := x.sentOn.filter (fun kv => kv.2 != l + 1) }) }) = s := by
    rw [State.modLGlob, hships, List.map_nil, ← hships]
  unfold State.reassign
  simp only [hsame, hships, List.foldl_nil, hfetch]

/-- Without transfers, what leaves is the link's own record, its windows and its queued work. -/
theorem State.leaveTo_of_noTransfer {s : State} (h : s.noTransfer) (l : Nat) (st : LState) (cause : Nat) :
    ∃ windows verify sign, s.leaveTo l st cause = s.withLinks (s.modLink l (fun k => k.toState st cause s.time)).links windows verify sign := by
  unfold State.leaveTo
  extract_lets was t u
  split
  · exact ⟨_, _, _, State.reassign_of_noTransfer (s := u.modLGlob (fun g => g.dropLink l)) h l⟩
  · exact ⟨_, _, _, rfl⟩

/-- A link is out of use. -/
def LinkSt.isHeld (k : LinkSt) : Prop := k.state ∈ [LState.disabled, .retired]

/-- One link held DISABLED, where it is not RETIRED. -/
def State.holdLink (s : State) (l : Nat) : State :=
  match (s.link l).state with
  | .disabled | .retired => s
  | _ => s.leaveTo l .disabled 9

theorem State.holdLinks_eq (s : State) : s.holdLinks = (List.range 48).foldl State.holdLink s := rfl

theorem State.holdLink_cases (s : State) (l : Nat) : (s.link l).isHeld ∧ s.holdLink l = s ∨ s.holdLink l = s.leaveTo l .disabled 9 := by
  unfold State.holdLink LinkSt.isHeld
  cases (s.link l).state <;> simp

theorem State.leaveTo_link_of_noTransfer {s : State} (h : s.noTransfer) (l : Nat) (st : LState) (cause m : Nat) :
    (s.leaveTo l st cause).link m = (s.modLink l (fun k => k.toState st cause s.time)).link m := by
  obtain ⟨windows, verify, sign, he⟩ := State.leaveTo_of_noTransfer h l st cause
  rw [he]
  rfl

theorem State.holdLink_of_noTransfer {s : State} (h : s.noTransfer) (l : Nat) :
    ∃ links windows verify sign, s.holdLink l = s.withLinks links windows verify sign := by
  rcases s.holdLink_cases l with ⟨-, he⟩ | he
  · exact ⟨s.links, s.lglob.windows, s.sec.verQ, s.sec.signQ, he⟩
  · obtain ⟨windows, verify, sign, hl⟩ := State.leaveTo_of_noTransfer h l .disabled 9
    exact ⟨_, windows, verify, sign, he.trans hl⟩

theorem State.holdLink_self {s : State} (h : s.noTransfer) (l : Nat) : ((s.holdLink l).link l).isHeld := by
  rcases s.holdLink_cases l with ⟨hheld, he⟩ | he
  · rwa [he]
  · rw [he, State.leaveTo_link_of_noTransfer h, State.modLink_link_self]
    exact List.mem_cons_self

theorem State.holdLink_keeps_isHeld {s : State} (h : s.noTransfer) (l : Nat) {m : Nat} (hm : (s.link m).isHeld) : ((s.holdLink l).link m).isHeld := by
  rcases eq_or_ne m l with rfl | hne
  · exact State.holdLink_self h m
  · rcases s.holdLink_cases l with ⟨-, he⟩ | he
    · rwa [he]
    · rwa [he, State.leaveTo_link_of_noTransfer h, State.modLink_link_other s hne]

/-- Holding several links changes no more than holding one does; each of them ends held, and so does one that was. -/
theorem State.foldl_holdLink (ls : List Nat) (s : State) (h : s.noTransfer) :
    (∃ links windows verify sign, ls.foldl State.holdLink s = s.withLinks links windows verify sign) ∧
    ∀ m, m ∈ ls ∨ (s.link m).isHeld → ((ls.foldl State.holdLink s).link m).isHeld := by
  induction ls generalizing s with
  | nil => exact ⟨⟨s.links, s.lglob.windows, s.sec.verQ, s.sec.signQ, rfl⟩, fun m hm => hm.resolve_left List.not_mem_nil⟩
  | cons l ls ih =>
    obtain ⟨links, windows, verify, sign, he⟩ := State.holdLink_of_noTransfer h l
    have hnext : (s.holdLink l).noTransfer := by rw [he]; exact h
    obtain ⟨⟨links', windows', verify', sign', he'⟩, hheld⟩ := ih (s.holdLink l) hnext
    refine ⟨⟨links', windows', verify', sign', he'.trans (by rw [he]; rfl)⟩, fun m hm => hheld m ?_⟩
    rcases hm with hm | hm
    · rcases List.mem_cons.mp hm with rfl | hm
      · exact .inr (State.holdLink_self h m)
      · exact .inl hm
    · exact .inr (State.holdLink_keeps_isHeld h l hm)

/-! ZEROISATION_COMPLETE (R384, R386). -/

/-- What zeroisation leaves, before the links of an RMA module are held. -/
def State.zeroised (s : State) : State := s.eraseData.modSec (fun k => { k.advance with zstate := 2 })

theorem Sec.advance_of_none {k : Sec} (h : k.nextLife = none) : k.advance = k := by
  rw [Sec.advance, h]

theorem Sec.advance_of_some {k : Sec} {n : Nat} (h : k.nextLife = some n) : k.advance =
    { k with lifecycle := n, udsKilled := k.udsKilled || n == 3, nextLife := none, debug := if n = 3 then 0 else k.debug, held := k.held && n != 3 } := by
  rw [Sec.advance, h]

theorem exec_zeroisationComplete {s : State} (hz : s.sec.zstate = 1) (hd : s.dark = false) :
    exec .zeroisationComplete s = .next (if s.zeroised.sec.lifecycle = 2 then s.zeroised.holdLinks else s.zeroised) :=
  if_neg (by simp [hz, hd])

/-- Zeroisation ends in `zeroised`, but for the links; in RMA these are held. -/
theorem exec_zeroisationComplete_withLinks {s : State} (hz : s.sec.zstate = 1) (hd : s.dark = false) :
    ∃ links windows verify sign, exec .zeroisationComplete s = .next (s.zeroised.withLinks links windows verify sign) ∧
      (s.zeroised.sec.lifecycle = 2 → ∀ l < 48, ((s.zeroised.withLinks links windows verify sign).link l).isHeld) := by
  rw [exec_zeroisationComplete hz hd]
  split
  next =>
    obtain ⟨⟨links, windows, verify, sign, he⟩, hheld⟩ := State.foldl_holdLink (List.range 48) s.zeroised ⟨rfl, rfl⟩
    rw [State.holdLinks_eq, he]
    rw [he] at hheld
    exact ⟨links, windows, verify, sign, rfl, fun _ l hl => hheld l (.inl (List.mem_range.mpr hl))⟩
  next hne => exact ⟨s.zeroised.links, s.zeroised.lglob.windows, s.zeroised.sec.verQ, s.zeroised.sec.signQ, rfl, fun h => absurd h hne⟩

/-! ATTESTATION_SIGNED (R376, R386) and the generator (R368). -/

section Signed

variable {s u : State} {p : Port} {nonce : List Nat} {dest : Nat} {rest : List SignJob} (hq : s.sec.signQ = .report p nonce dest :: rest)
include hq

theorem exec_attestationSigned_noIdentity (hk : s.sec.hasDik = false) :
    exec .attestationSigned s = .next (s.modSec (fun k => { k with signQ := rest, attStatus := 5 })) := by
  show execAttestationSigned s = _
  unfold execAttestationSigned
  rw [hq]
  exact if_pos hk

variable (hk : s.sec.hasDik = true) (hu : u = (s.modSec (fun k => { k with signQ := rest })).random.2)
include hk hu

theorem exec_attestationSigned : exec .attestationSigned s =
    if (u.port p).link ≠ .up ∨ u.dark = true then .next (u.modSec (fun k => { k with attStatus := 4 }))
    else match u.reportPlace p dest with
      | none => .next (u.modSec (fun k => { k with attStatus := 4 }))
      | some a => .next ((u.hostPut p a (u.reportBody p nonce ++ Config.slhSign dikSeeds (ascii "SPRJ-ATTEST") (u.reportBody p nonce)
          (s.modSec (fun k => { k with signQ := rest })).random.1)).modSec (fun k => { k with attStatus := 3 })) := by
  subst hu
  show execAttestationSigned s = _
  unfold execAttestationSigned
  rw [hq]
  exact if_neg (by simp [hk])

theorem exec_attestationSigned_gone (h : (u.port p).link ≠ .up ∨ u.dark = true ∨ u.reportPlace p dest = none) :
    exec .attestationSigned s = .next (u.modSec (fun k => { k with attStatus := 4 })) := by
  rw [exec_attestationSigned hq hk hu]
  split
  · rfl
  next hup =>
    rw [← or_assoc] at h
    rw [h.resolve_left hup]

theorem exec_attestationSigned_written {a : Nat} (hl : (u.port p).link = .up) (hd : u.dark = false) (hp : u.reportPlace p dest = some a) :
    exec .attestationSigned s = .next ((u.hostPut p a (u.reportBody p nonce ++ Config.slhSign dikSeeds (ascii "SPRJ-ATTEST") (u.reportBody p nonce)
      (s.modSec (fun k => { k with signQ := rest })).random.1)).modSec (fun k => { k with attStatus := 3 })) := by
  rw [exec_attestationSigned hq hk hu, if_neg (by simp [hl, hd]), hp]

end Signed

theorem exec_drbgReseed_due {s : State} (h : 2 ^ 20 * (s.sec.reseeds + 1) ≤ s.sec.drbg) :
    exec .drbgReseed s = .next (s.modSec (fun k => { k with reseeds := k.reseeds + 1 })) := if_neg (Nat.not_lt.mpr h)

theorem exec_drbgReseed_early {s : State} (h : s.sec.drbg < 2 ^ 20 * (s.sec.reseeds + 1)) : exec .drbgReseed s = .next s := if_pos h

/-- Settles O49: the register's two commands, the end of zeroisation, the report's three endings, and the generator. -/
theorem securityEngine : Obligations.SecurityEngine := by
  refine ⟨fun r v s u w hr ht hu hw => ⟨exec_zeroise hr ht hu hw, fun p hp h0 hx => ?_⟩, fun s hz hd => ?complete,
    fun s u p nonce dest rest hq hu => ⟨exec_attestationSigned_noIdentity hq, fun hk =>
      ⟨exec_attestationSigned_gone hq hk hu, fun a hl hd hp => exec_attestationSigned_written hq hk hu hl hd hp⟩⟩,
    fun s => ⟨rfl, exec_drbgReseed_due, exec_drbgReseed_early⟩⟩
  · rw [exec_attestationGo hr ht hu hw hp h0, hx]
  case complete =>
    obtain ⟨links, windows, verify, sign, hexec, hheld⟩ := exec_zeroisationComplete_withLinks hz hd
    refine ⟨_, hexec, rfl, rfl, rfl, rfl, rfl, rfl, rfl, rfl, rfl, rfl, rfl, rfl, fun h => ?_, fun n h => ?_, hheld⟩
    · show s.sec.advance.lifecycle = s.sec.lifecycle
      rw [Sec.advance_of_none h]
    · show s.sec.advance.lifecycle = n ∧ (n = 3 → s.sec.advance.debug = 0)
      rw [Sec.advance_of_some h]
      exact ⟨rfl, fun h3 => if_pos h3⟩

end Sys2Proof.Machine
end

section
/-! SUPPORT. Control words: what NOP, END, LOOP, SETC and LDCX leave when they issue, and what a core-word command leaves that waits or
meets a faulty word. -/

namespace Sys2Proof.Machine

open Sys2Proof

section Issues

variable {s : State} {c : Nat} {w : Word} {check : Option Nat} {foot : Footprint} {ready : Bool} {f : CoreRun → CoreRun}
  {run : State → State}

/-- A word whose effect neither stops its core nor waits nor begins a longer word counts as issued. -/
theorem State.runWord_of_standing (h : s.issues c w check foot ready = true)
    (hrun : ((run s).core c).run.standing = (s.core c).run.standing) :
    s.runWord c w.toNat check foot ready run = (run s).modRun c (CoreRun.issued w.toNat) := by
  obtain ⟨-, -, hstop, hunder, hwait, -⟩ := (State.issues_iff s c w check foot ready).mp h
  simp only [CoreRun.standing, Prod.mk.injEq] at hrun
  obtain ⟨hs, hw, hd, hheld⟩ := hrun
  refine State.runWord_goes run h (hs.trans hstop) ?_ (hw.trans hwait)
  rw [← hunder, CoreRun.underWay, CoreRun.underWay, hd, hheld]

/-- The same for a word that changes its core's run alone. -/
theorem State.runWord_modRun (h : s.issues c w check foot ready = true) (hrun : run s = s.modRun c f)
    (hf : (f (s.core c).run).standing = (s.core c).run.standing) :
    s.runWord c w.toNat check foot ready run = s.modRun c (fun r => CoreRun.issued w.toNat (f r)) := by
  rw [State.runWord_of_standing h (by rw [hrun, State.modRun_core_self]; exact hf), hrun, State.modRun_modRun]

/-- A word that stops its sequencer leaves the position where it stands. -/
theorem State.runWord_stops {e : Nat × Nat} (h : s.issues c w check foot ready = true) (hrun : run s = s.modRun c f)
    (hf : (f (s.core c).run).stopped = some e) : s.runWord c w.toNat check foot ready run = s.modRun c f := by
  rw [State.runWord_issues _ h, hrun, State.modRun_core_self, hf]
  rfl

/-- A word with no failing check passes. -/
theorem firstFault_eq_none {l : List (Bool × Nat)} (h : ∀ x ∈ l, x.1 = false) : firstFault l = none := by
  rw [firstFault, List.find?_eq_none.mpr (fun x hx => by rw [h x hx]; exact Bool.false_ne_true), Option.map_none]

/-- A command for a word of its own kind has the effect of the frame of core words. -/
theorem coreWord_own {cls op n : Nat} {v : Word} (h : coreOwn cls op v = true) (t : State) : coreWord (wIs cls op v.toNat) n t = .next t := by
  rw [wIs_eq_coreOwn, h, coreWord_of_own]

end Issues

section Control

variable {c : Fin 64} {w : Word} {s : State}

/-! NOP and END (R94, R101). -/

theorem exec_nop_issues (hown : coreOwn 0 0 w = true) (h : s.issues c w none {} true = true) :
    exec (.nop c w) s = .next (s.modRun c (CoreRun.issued w.toNat)) :=
  (coreWord_own hown _).trans (congrArg _ (State.runWord_of_run_eq h rfl))

theorem exec_endPart_stops (hown : coreOwn 0 1 w = true) (h : s.issues c w none {} true = true) (hl : (s.core c).run.loops = [])
    (ht : s.sync.seq.ntiles ≤ (s.core c).run.cursor) :
    exec (.endPart c w) s = .next (s.modRun c (fun r => { CoreRun.issued w.toNat r with stopped := some (0, 0) })) := by
  refine (coreWord_own hown _).trans (congrArg _ ?_)
  rw [firstFault_eq_none (by simp [hl, ht])]
  exact State.runWord_stops h rfl rfl

/-! LOOP (R95). -/

/-- A level that has just opened ends behind the sequencer's position, so the next word is the body's first. -/
theorem stepLoops_loopOf (r : CoreRun) (w : Nat) (ls : List Loop) : stepLoops r.pc (loopOf r w :: ls) = (r.pc + 1, loopOf r w :: ls) := by
  have hlast : (loopOf r w).last ≠ r.pc := by simp only [loopOf]; omega
  rw [stepLoops, if_neg hlast]

theorem CoreRun.issued_loopOf (r : CoreRun) (w : Nat) :
    CoreRun.issued w { r with loops := loopOf r w :: r.loops } =
      { r with index := r.index + 1, pc := r.pc + 1, ibuf := r.buffered w true, loops := loopOf r w :: r.loops } := by
  simp only [CoreRun.issued, stepLoops_loopOf]
  rfl

theorem exec_loop_opens (hown : coreOwn 0 2 w = true) (h : s.issues c w none {} true = true) (hdepth : (s.core c).run.loops.length < 4)
    (hin : ∀ o ∈ (s.core c).run.loops.head?, (s.core c).run.pc + fld w.toNat 36 8 + 1 ≤ o.last) :
    exec (.loop c w) s = .next (s.modRun c (fun r =>
      { r with index := r.index + 1, pc := r.pc + 1, ibuf := r.buffered w.toNat true, loops := loopOf r w.toNat :: r.loops })) := by
  refine (coreWord_own hown _).trans (congrArg _ ?_)
  rw [firstFault_eq_none ?checks, State.runWord_modRun h rfl rfl]
  case checks =>
    cases hl : (s.core c).run.loops with
    | nil => simp
    | cons o os =>
      rw [hl] at hdepth hin
      have hlast := hin o rfl
      simp only [List.length_cons] at hdepth
      simp [loopOf]
      omega
  exact State.modRun_congr s c (CoreRun.issued_loopOf _ _)

/-! SETC and LDCX (R94). -/

theorem exec_setc_writes (hown : coreOwn 0 3 w = true) (h : s.issues c w none {} true = true) (hi : fld w.toNat 11 5 < 16) :
    exec (.setc c w) s = .next (s.modRun c (fun r => { CoreRun.issued w.toNat r with
      consts := Tbl.set 0 (fld w.toNat 11 5) (BitVec.ofNat 32 (fld w.toNat 16 32)) r.consts })) := by
  refine (coreWord_own hown _).trans (congrArg _ ?_)
  rw [firstFault_eq_none (by simp [hi])]
  exact State.runWord_modRun (f := fun r => { r with
    consts := Tbl.set 0 (fld w.toNat 11 5) (BitVec.ofNat 32 (fld w.toNat 16 32)) r.consts }) h rfl rfl

/-- A word that reads 64 bytes of the window keeps to it (R81). -/
theorem Footprint.inWindow_read64 {base : Int} (hlo : 0 ≤ base) (hhi : base + 64 ≤ 0x600000) :
    ({ reads := [⟨base, 64⟩] } : Footprint).inWindow = true := by
  have hin : Range.inWindow ⟨base, 64⟩ = true := by
    unfold Range.inWindow
    exact decide_eq_true ⟨hlo, hhi⟩
  simp only [Footprint.inWindow, List.all_cons, List.all_nil, hin, Bool.and_self]

theorem State.runWord_setCtx {n i : Nat} {check : Option Nat} {foot : Footprint} {ready : Bool} {run : State → State} {v : BitVec 512}
    (h : s.issues n w check foot ready = true) (hrun : run s = s.modRun n (fun r => { r with ctxs := Tbl.set 0 i v r.ctxs })) :
    s.runWord n w.toNat check foot ready run =
      s.modRun n (fun r => { CoreRun.issued w.toNat r with ctxs := Tbl.set 0 i v r.ctxs }) :=
  State.runWord_modRun (f := fun r => { r with ctxs := Tbl.set 0 i v r.ctxs }) h hrun rfl

theorem exec_ldcx_writes {base : Int} (hown : coreOwn 0 4 w = true) (hbase : base = 64 * (s.core c).run.eff w.toNat .a (fld w.toNat 16 17))
    (hlo : 0 ≤ base) (hhi : base + 64 ≤ 0x600000) (h : s.issues c w none { reads := [⟨base, 64⟩] } true = true) :
    exec (.ldcx c w) s = .next (s.modRun c (fun r => { CoreRun.issued w.toNat r with
      ctxs := Tbl.set 0 (fld w.toNat 11 4) (BitVec.ofNat 512 (ofLeBytes (memGet s.mem (sramAddr c base.toNat) 64))) r.ctxs })) := by
  subst hbase
  refine (coreWord_own hown _).trans (congrArg _ ?_)
  rw [firstFault_eq_none (by simp [Footprint.inWindow_read64 hlo hhi])]
  exact State.runWord_setCtx h rfl

end Control

/-- Settles O7: one lemma of this file for each control word. -/
theorem controlWordsIssue : Obligations.ControlWordsIssue := fun _ _ _ =>
  ⟨exec_nop_issues, exec_endPart_stops, exec_loop_opens, exec_setc_writes,
    fun _ hown hbase hlo hhi h => exec_ldcx_writes hown hbase hlo hhi h⟩

/-! Words that wait or fault (R96, R101–R104). -/

section Faults

variable {s : State} {c w : Nat} {check : Option Nat} {foot : Footprint} {ready : Bool} {run : State → State}

/-- A fetch that is refused or meets poison stops the core with 0x2136. -/
theorem State.runWord_unfetched (hd : s.canDecode c = true) (h : s.fetchWord c = none) :
    s.runWord c w check foot ready run = s.wordFault c 0x2136 := by
  simp only [State.runWord, hd, h, Bool.not_true, Bool.false_eq_true, if_false]

/-- An illegal word at the sequencer's position stops the core with 0x2130. -/
theorem State.runWord_illegal (hd : s.canDecode c = true) (h : s.fetchWord c = some w) (hi : wIllegal w = true) :
    s.runWord c w check foot ready run = s.wordFault c 0x2130 := by
  simp only [State.runWord, hd, h, hi, Bool.not_true, Bool.false_eq_true, if_false, if_true, ne_eq, not_true_eq_false]

/-- A decode fault of a word: the stop, and the sequencer's record where no earlier fault stands. -/
theorem State.wordFault_decode (s : State) (c : Nat) {code : Nat} (hlo : 0x2130 ≤ code) (hhi : code ≤ 0x2136) :
    s.wordFault c code = s.modCore c (fun k => { k with
      run := { k.run with stopped := stopWith code k.run.stopped, wait := none, scaleHeld := [] }
      regs := { k.regs with seqFault := if k.regs.seqFault.valid then k.regs.seqFault else
        ⟨true, code % 256, k.run.tag, k.run.pc, k.run.index.toNat⟩ } }) := by
  refine (State.modCore_modCore s c _ _).trans (State.modCore_congr s c ?_)
  unfold CoreRegs.recordFault
  rw [if_neg (by omega), if_neg (by omega), if_pos (Or.inl ⟨hlo, hhi⟩)]
  rfl

end Faults

theorem exec_nop {c : Fin 64} {w : Word} (s : State) (h : coreOwn 0 0 w = true ∨ coreIllegal w = true) :
    exec (.nop c w) s = .next (s.runWord c w.toNat none {} true id) := by
  rcases h with h | h
  · exact coreWord_own h _
  · exact coreWord_of_illegal (wIllegal_eq_coreIllegal w ▸ h) _

/-- Settles O8: a word that waits, an illegal word and a failed fetch are three branches of the frame of core words. -/
theorem wordsWaitOrFault : Obligations.WordsWaitOrFault := by
  intro c w s hw
  rw [exec_nop s hw]
  refine ⟨fun hwait => by rw [State.runWord_waits hwait], fun hd hbad => ?_⟩
  rcases hbad with ⟨hf, hi⟩ | hf
  · rw [State.runWord_illegal hd hf (wIllegal_eq_coreIllegal w ▸ hi), State.wordFault_decode s c (by decide) (by decide), hf]
    rfl
  · rw [State.runWord_unfetched hd hf, State.wordFault_decode s c (by decide) (by decide), hf]
    rfl

end Sys2Proof.Machine
end

section
/-! SUPPORT. SFU words: what the words that compute elements leave, and what MAP, EPISET, ROWSTAT, ROWSTAT_COMBINE and ROWNORM do when they
issue. -/

namespace Sys2Proof.Machine

open Sys2Proof

/-- What an SFU word that computes elements leaves: its results in SRAM, its flags, and free values in the lanes (R137, R142; log entry 45). -/
def State.sfuLeaves (s : State) (c : Nat) (ws : List (Nat × List Nat)) (fl : Nat) : State :=
  ((s.sramWrites c ws).modRegs c (fun g => g.raise engSfu fl)).useLanes c

theorem State.sfuLeaves_run (s : State) (c : Nat) (ws : List (Nat × List Nat)) (fl : Nat) : ((s.sfuLeaves c ws fl).core c).run = (s.core c).run := by
  rw [State.sfuLeaves, State.useLanes_run, State.modRegs_core_self, State.core, State.sramWrites_cores, ← State.core]

/-- A word whose whole effect is that of the SFU counts as issued. -/
theorem State.runWord_sfuLeaves {s : State} {c : Nat} {w : Word} {check : Option Nat} {foot : Footprint} {ready : Bool} {run : State → State}
    {ws : List (Nat × List Nat)} {fl : Nat} (h : s.issues c w check foot ready = true) (hrun : run s = s.sfuLeaves c ws fl) :
    s.runWord c w.toNat check foot ready run = (s.sfuLeaves c ws fl).modRun c (CoreRun.issued w.toNat) := by
  rw [State.runWord_of_run_eq h (by rw [hrun, State.sfuLeaves_run]), hrun]

section SfuWords

variable {c : Fin 64} {w : Word} {s : State} {x : SWord} (hx : x = SWord.decode w.toNat)
include hx

/-! MAP (R137, R142) and EPISET (R88, R150). -/

theorem exec_map (hown : coreOwn 3 0 w = true) : exec (.map c w) s = .next (s.runWord c w.toNat
    (x.checkMap (s.core c).run w.toNat) (x.mapFoot (s.core c).run w.toNat) true (fun s => s.runMap c w.toNat)) := by
  subst hx
  exact coreWord_own hown _

theorem exec_episet (hown : coreOwn 3 1 w = true) : exec (.episet c w) s = .next (s.runWord c w.toNat
    (x.checkEpiset (s.core c).run w.toNat) {} true
    (fun t => t.modRun c (fun k => { k with epis := Tbl.set {} x.eslot (x.slotOf (s.core c).run w.toNat) k.epis }))) := by
  subst hx
  exact coreWord_own hown _

/-! ROWSTAT in its two forms (R152, R155). -/

omit hx in
/-- A ROWSTAT word of either form is one of its class and operation. -/
theorem wIs_rowstat (hown : coreOwn 3 2 w = true) {b : Bool} (hb : b = true) : (wIs 3 2 w.toNat && b) = true := by
  rw [wIs_eq_coreOwn, hown, hb, Bool.and_self]

theorem exec_rowstat (hown : coreOwn 3 2 w = true) (hf : x.func = 0) : exec (.rowstat c w) s = .next (s.runWord c w.toNat
    (firstFault (x.checks false true ++
      [(x.strideBad ((Fmt.ofCode x.ifmt).getD .fp32), 0x2133), (!(x.statFoot (s.core c).run w.toNat).inWindow, 0x2132)]))
    (x.statFoot (s.core c).run w.toNat) true (fun s => s.runRowstat c w.toNat)) := by
  subst hx
  show coreWord _ _ _ = _
  rw [wIs_rowstat hown (by rw [hf]; rfl), coreWord_of_own, hf]
  rfl

theorem exec_rowstatCombine (hown : coreOwn 3 2 w = true) (hf : x.func = 1) : exec (.rowstatCombine c w) s = .next (s.runWord c w.toNat
    (firstFault [((Fmt.ofCode x.ifmt).isNone || (Fmt.ofCode x.ofmt).isNone, 0x2130), (sfuFmtBad x.ifmt || sfuFmtBad x.ofmt, 0x2330),
      (!(x.combineFoot (s.core c).run w.toNat).inWindow, 0x2132)])
    (x.combineFoot (s.core c).run w.toNat) true (fun s => s.runCombine c w.toNat)) := by
  subst hx
  show coreWord _ _ _ = _
  rw [wIs_rowstat hown (by rw [hf]; rfl), coreWord_of_own]

/-! ROWNORM (R157). -/

theorem exec_rownorm (hown : coreOwn 3 3 w = true) : exec (.rownorm c w) s = .next (s.runWord c w.toNat
    (firstFault (x.checks true (decide (x.func % 8 ≤ 1)) ++
      [((x.cscEn || x.biasEn) && !(Tbl.get {} x.eslot (s.core c).run.epis).isSet, 0x2135),
       (x.strideBad ((Fmt.ofCode x.ifmt).getD .fp32) || x.strideBad ((Fmt.ofCode x.ofmt).getD .fp32), 0x2133),
       (!(x.normFoot (s.core c).run w.toNat).inWindow, 0x2132)]))
    (x.normFoot (s.core c).run w.toNat) true (fun s => s.runRownorm c w.toNat)) := by
  subst hx
  exact coreWord_own hown _

end SfuWords

/-- Pairs that all combine are the records that the combination keeps. -/
theorem filterMap_id_map_some {α : Type} (l : List α) : (l.map some).filterMap id = l := by
  rw [List.filterMap_map]
  exact List.filterMap_some

/-- Settles O11: each word that issues has its row function's results, or stops its core before it writes. -/
theorem sfuWordsIssue : Obligations.SfuWordsIssue := by
  rintro c w s x r rd fi fo a p o hx rfl rfl rfl rfl rfl rfl rfl
  refine ⟨fun hown h => ?map, fun hown h e he => ?episet, fun hown hf h rs hrs => ?rowstat, fun hown hf h qs hqs => ?combine,
    fun chk rec' es hrec hes hown hchk h => ?rownorm⟩
  case map =>
    rw [exec_map hx hown]
    subst hx
    refine ⟨fun ht => congrArg _ (State.runWord_faults h (if_pos ht)), ?_⟩
    rintro ht rows rfl
    exact congrArg _ (State.runWord_sfuLeaves h (if_neg (by simp [ht])))
  case episet =>
    rw [exec_episet hx hown, he]
    exact congrArg _ (State.runWord_modRun (f := fun k => { k with epis := Tbl.set {} x.eslot (x.slotOf (s.core c).run w.toNat) k.epis }) h rfl rfl)
  case rowstat =>
    rw [exec_rowstat hx hown hf]
    subst hx hrs
    exact congrArg _ (State.runWord_sfuLeaves h rfl)
  case combine =>
    rw [exec_rowstatCombine hx hown hf]
    subst hx
    refine ⟨fun hnone => congrArg _ (State.runWord_faults h (if_pos ?some)), fun rs hrs => congrArg _ (State.runWord_sfuLeaves h ?all)⟩
    case some =>
      rw [hqs] at hnone
      exact List.any_eq_true.mpr ⟨none, hnone, rfl⟩
    case all =>
      subst hqs
      unfold State.runCombine
      dsimp only
      rw [hrs, if_neg (by simp), filterMap_id_map_some]
      rfl
  case rownorm =>
    subst hchk hes
    rw [exec_rownorm hx hown]
    subst hx hrec
    refine ⟨fun hbad => congrArg _ (State.runWord_faults h (if_pos ?bad)), ?good⟩
    case bad => simpa using hbad
    case good =>
      rintro hgood par rows rfl rfl
      refine congrArg _ (State.runWord_sfuLeaves h ?_)
      unfold State.runRownorm
      dsimp only
      rw [if_neg (by simpa using hgood)]
      rfl

end Sys2Proof.Machine
end

section
/-! SUPPORT. Peg words: what a SET or ADD does at its home as its core's message, and how ACQUIRE and MONITOR complete or wait. -/

namespace Sys2Proof.Machine

open Sys2Proof

/-! The frame of core words, by its issue conditions (R95–R101). -/

section Issues

variable {s : State} {c : Nat} {w : Word} {check : Option Nat} {foot : Footprint} {ready : Bool} {run : State → State} {f : CoreRun → CoreRun}

/-- Conditions that hold may stand for each other. -/
theorem State.issues_of_ready {r : Bool} (h : s.issues c w check foot ready = true) (hr : r = true) : s.issues c w check foot r = true := by
  obtain rfl : ready = true := State.begins_ready (.inl h)
  rw [hr]
  exact h

/-- A word that begins to wait stays at the sequencer's position. -/
theorem State.runWord_pauses {x : PegWait} (h : s.issues c w check foot ready = true) (hrun : run s = s.modRun c f)
    (hf : (f (s.core c).run).wait = some x) : s.runWord c w.toNat check foot ready run = s.modRun c f := by
  rw [State.runWord_issues _ h, hrun, if_pos]
  simp [hf]

end Issues

/-! A home's operation, seen from a core that waits for nothing (R258, R263, R268). -/

/-- The test of a board completes a wait of its own core alone. -/
theorem State.testOwn_core_other (s : State) {c d : Nat} (hd : c ≠ d) (p : Nat) : (s.testOwn d p).core c = s.core c := by
  have hfinish : ∀ t : State, (t.finishWait d).core c = t.core c := fun t => t.modRun_core_other hd _
  have hset : ∀ v, (s.setPeg (.core d) p v).core c = s.core c := fun v => s.modCore_core_other hd _
  unfold State.testOwn
  split
  · split_ifs <;> dsimp only <;> split_ifs <;> simp only [hfinish, hset]
  · rfl

theorem State.testOwn_run {s : State} {c : Nat} (hw : (s.core c).run.wait = none) (d p : Nat) :
    ((s.testOwn d p).core c).run = (s.core c).run := by
  by_cases hd : c = d
  · rw [← hd, State.testOwn_idle hw]
  · rw [State.testOwn_core_other s hd]

theorem State.setPeg_run (s : State) (h : Home) (p : Nat) (v : Peg) (c : Nat) : ((s.setPeg h p v).core c).run = (s.core c).run := by
  cases h with
  | core d =>
    by_cases hd : c = d
    · subst hd
      simp [State.setPeg]
    · simp [State.setPeg, hd]
  | coll => rfl

theorem State.modRegs_run_any (s : State) (d : Nat) (f : CoreRegs → CoreRegs) (c : Nat) : ((s.modRegs d f).core c).run = (s.core c).run := by
  by_cases hd : c = d
  · rw [hd, State.modRegs_run]
  · rw [State.modRegs_core_other s hd]

/-- A core that waits for nothing runs on as it was through any peg operation. -/
theorem State.pegOp_run {s : State} {c : Nat} (hw : (s.core c).run.wait = none) (h : Home) (p src : Nat) (op : PegOp) :
    ((s.pegOp h p src op).core c).run = (s.core c).run := by
  unfold State.pegOp
  obtain ⟨v, clamp⟩ := (s.peg h p).apply op
  cases h with
  | core d =>
    cases clamp with
    | none => exact (State.testOwn_run (by rw [State.setPeg_run, hw]) d p).trans (State.setPeg_run s _ p v c)
    | some low =>
      have hrun : ∀ f, (((s.setPeg (.core d) p v).modRegs d f).core c).run = (s.core c).run := fun f => by
        rw [State.modRegs_run_any, State.setPeg_run]
      exact (State.testOwn_run ((congrArg _ (hrun _)).trans hw) d p).trans (hrun _)
  | coll => cases clamp <;> rfl

/-- An arrival flips its core's sense and touches nothing that holds the sequencer. -/
theorem State.arrive_standing (s : State) (c g : Nat) : ((s.arrive c g).core c).run.standing = (s.core c).run.standing := by
  have hsense : ((s.modRun c (fun r => { r with senses := r.senses ^^^ BitVec.ofNat 7 (2 ^ g) })).core c).run.standing =
      (s.core c).run.standing := by
    rw [State.modRun_core_self]
    rfl
  unfold State.arrive
  dsimp only
  split_ifs
  · exact hsense
  · exact hsense

/-! SET and ADD as messages of their core (R264, R268). -/

section Send

variable {s : State} {c tk tcore p : Nat}

theorem State.sendPeg_message (op : PegOp) (h : homeOf c tk tcore ≠ .coll ∨ (s.peg .coll p).barrier = false) :
    s.sendPeg c tk tcore p op = s.pegOp (homeOf c tk tcore) p c op := by
  unfold State.sendPeg
  dsimp only
  split
  next g hh hg =>
    rw [if_neg (by simpa using h.resolve_left (fun hne => hne hh)), hh]
  next => rfl

theorem State.sendPeg_arrival {g : Nat} (op : PegOp) (hh : homeOf c tk tcore = .coll) (hg : s.arriveGroup p = some g)
    (hb : (s.peg .coll p).barrier = true) : s.sendPeg c tk tcore p op = s.arrive c g := by
  unfold State.sendPeg
  simp only [hh, hg, hb, if_true]

end Send

/-- The fields of a decoded peg word of a command's own kind. -/
theorem PWord.decode_op {op : Nat} {w : Word} (h : coreOwn 5 op w = true) : (PWord.decode w.toNat).op = op := by
  simp only [coreOwn, Bool.and_eq_true, beq_iff_eq] at h
  exact h.2

/-! The effects of peg words (R93, R264, R275). -/

/-- What a SET or ADD word does once it issues behind queue `q`: its message, or a place in the queue. -/
def State.pegSend (s : State) (c : Nat) (x : PWord) (q : List SqEntry) : State :=
  if x.relq = 31 ∨ q = [] then s.sendPeg c x.tk x.tcore x.peg x.pegOp
  else s.modRun c (fun r => { r with queues := Tbl.set [] x.relq (q ++ [.peg x.tk x.tcore x.peg x.pegOp]) r.queues })

/-- The wait that an ACQUIRE or MONITOR word begins, with the limit that holds now. -/
def State.pegWait (s : State) (w : Word) (x : PWord) : PegWait :=
  { acquire := x.op == 2, coll := x.tk == 2, peg := x.peg, pred := (if x.op == 2 then 0 else x.pred),
    value := (if x.op == 2 then 1 else x.value), started := s.time, limitUs := s.sync.pegWaitUs, word := w }

/-- What an ACQUIRE or MONITOR word does once it issues: it completes on the core's own board, or waits. -/
def State.pegMeet (s : State) (c : Nat) (w : Word) (x : PWord) : State :=
  if x.tk = 0 ∧ (x.op == 2) = true ∧ 1 ≤ (s.peg (.core c) x.peg).value then
    s.setPeg (.core c) x.peg (s.peg (.core c) x.peg).claim.1
  else if x.tk = 0 ∧ (x.op == 2) = false ∧ predHolds x.pred (s.peg (.core c) x.peg).value x.value = true then s
  else s.modRun c (fun r => { r with wait := some (s.pegWait w x) })

section Meets

variable {s : State} {c : Nat} {w : Word} {x : PWord}

theorem State.pegMeet_claims (hop : x.op = 2) (ht : x.tk = 0) (hv : 1 ≤ (s.peg (.core c) x.peg).value) : s.pegMeet c w x =
    s.setPeg (.core c) x.peg { s.peg (.core c) x.peg with value := (s.peg (.core c) x.peg).value - 1 } := by
  rw [State.pegMeet, if_pos ⟨ht, by rw [hop]; rfl, hv⟩, Peg.claim, if_pos hv]

theorem State.pegMeet_holds (hop : x.op = 3) (ht : x.tk = 0) (hp : predHolds x.pred (s.peg (.core c) x.peg).value x.value = true) :
    s.pegMeet c w x = s := by
  have hno : (x.op == 2) = false := by rw [hop]; rfl
  rw [State.pegMeet, if_neg (by simp [hno]), if_pos ⟨ht, hno, hp⟩]

/-- An ACQUIRE of a peg elsewhere, or of one with nothing to claim, waits. -/
theorem State.pegMeet_waits (hop : x.op = 2) (h : x.tk ≠ 0 ∨ (s.peg (.core c) x.peg).value = 0) :
    s.pegMeet c w x = s.modRun c (fun r => { r with wait := some (s.pegWait w x) }) := by
  rw [State.pegMeet, if_neg (by omega), if_neg (by simp [hop])]

/-- A MONITOR of a peg elsewhere, or of one whose value is not what it waits for, waits. -/
theorem State.pegMeet_watches (hop : x.op = 3) (h : x.tk ≠ 0 ∨ predHolds x.pred (s.peg (.core c) x.peg).value x.value = false) :
    s.pegMeet c w x = s.modRun c (fun r => { r with wait := some (s.pegWait w x) }) := by
  rw [State.pegMeet, if_neg (by simp [hop]), if_neg]
  rintro ⟨ht, -, hp⟩
  simp [ht, hp] at h

theorem State.pegWait_acquire (hop : x.op = 2) : s.pegWait w x =
    { acquire := true, coll := x.tk == 2, peg := x.peg, pred := 0, value := 1, started := s.time, limitUs := s.sync.pegWaitUs, word := w } := by
  simp [State.pegWait, hop]

theorem State.pegWait_monitor (hop : x.op = 3) : s.pegWait w x =
    { acquire := false, coll := x.tk == 2, peg := x.peg, pred := x.pred, value := x.value, started := s.time, limitUs := s.sync.pegWaitUs,
      word := w } := by
  simp [State.pegWait, hop]

end Meets

section PegWords

variable {c : Fin 64} {w : Word} {s : State} {x : PWord} (hx : x = PWord.decode w.toNat)
  (h : s.issues c w (s.checkPeg c x) {} (!(s.core c).run.releaseOpen x) = true)

/-- A SET or ADD word has the effect of `execPegSend` under its own command. -/
theorem exec_pegSend {i : Instr} (hi : coreOwn 5 0 w = true ∧ i = Instr.pegSet c w ∨ coreOwn 5 1 w = true ∧ i = Instr.pegAdd c w) :
    exec i s = .next (execPegSend c w s) := by
  obtain ⟨hown, rfl⟩ | ⟨hown, rfl⟩ := hi
  · exact coreWord_own hown _
  · exact coreWord_own hown _

section Sent

variable {q : List SqEntry} (hq : q = Tbl.get [] x.relq (s.core c).run.queues)
  (hroom : x.relq = 31 ∨ (s.core c).run.queueLoad < 16)
include hx hq

/-- SET and ADD words in the frame of core words. -/
theorem execPegSend_eq : execPegSend c w s = s.runWord c w.toNat (s.checkPeg c x) {}
    (!(s.core c).run.releaseOpen x && (x.relq == 31 || decide ((s.core c).run.queueLoad < 16))) (fun t => t.pegSend c x q) := by
  subst hx hq
  rfl

include h hroom

/-- A SET or ADD word with room in its stream queue has its effect, and counts as issued where that keeps the sequencer. -/
theorem execPegSend_issues {t : State} (hrun : s.pegSend c x q = t) (hs : (t.core c).run.standing = (s.core c).run.standing) :
    execPegSend c w s = t.modRun c (CoreRun.issued w.toNat) := by
  have hiss : s.issues c w (s.checkPeg c x) {}
      (!(s.core c).run.releaseOpen x && (x.relq == 31 || decide ((s.core c).run.queueLoad < 16))) = true :=
    State.issues_of_ready h (by rw [State.begins_ready (.inl h)]; simpa using hroom)
  subst hrun
  rw [execPegSend_eq hx hq, State.runWord_of_standing hiss hs]

theorem execPegSend_queued (hr : x.relq ≠ 31) (hne : q ≠ []) : execPegSend c w s = s.modRun c (fun r => { CoreRun.issued w.toNat r with
    queues := Tbl.set [] x.relq (q ++ [.peg x.tk x.tcore x.peg x.pegOp]) r.queues }) := by
  have hrun : s.pegSend c x q = s.modRun c (fun r => { r with
      queues := Tbl.set [] x.relq (q ++ [.peg x.tk x.tcore x.peg x.pegOp]) r.queues }) := if_neg (not_or.mpr ⟨hr, hne⟩)
  rw [execPegSend_issues hx h hq hroom hrun (by rw [State.modRun_core_self]; rfl), State.modRun_modRun]
  rfl

end Sent

/-! ACQUIRE and MONITOR (R93, R262, R275). -/

section Waits

include hx

theorem execPegWait_eq : execPegWait c w s = s.runWord c w.toNat (s.checkPeg c x) {} (!(s.core c).run.releaseOpen x)
    (fun t => t.pegMeet c w x) := by
  subst hx
  rfl

include h

/-- A word whose peg meets it at once takes what it claims and counts as issued. -/
theorem execPegWait_completes {t : State} (hrun : s.pegMeet c w x = t) (hs : (t.core c).run = (s.core c).run) :
    execPegWait c w s = t.modRun c (CoreRun.issued w.toNat) := by
  subst hrun
  rw [execPegWait_eq hx, State.runWord_of_run_eq h hs]

/-- A word that its peg does not meet waits from now on. -/
theorem execPegWait_waits (hrun : s.pegMeet c w x = s.modRun c (fun r => { r with wait := some (s.pegWait w x) })) :
    execPegWait c w s = s.modRun c (fun r => { r with wait := some (s.pegWait w x) }) := by
  rw [execPegWait_eq hx, State.runWord_pauses h hrun rfl]

end Waits

end PegWords

/-- Settles O17: SET and ADD by what the word does at its home or in its queue, ACQUIRE and MONITOR by whether the peg meets them. -/
theorem pegWordsIssue : Obligations.PegWordsIssue := by
  intro c w s x q hx hq h
  obtain ⟨-, -, -, -, hwait, -⟩ := (State.issues_iff s c w _ _ _).mp h
  refine ⟨fun i hroom hi => ?send, fun hown => ?acquire, fun hown => ?monitor⟩
  case send =>
    rw [exec_pegSend hi]
    refine ⟨fun hdirect hhome => ?_, fun g hdirect hcoll hg hb => ?_, fun hr hne => by rw [execPegSend_queued hx h hq hroom hr hne]⟩
    · rw [execPegSend_issues hx h hq hroom ((if_pos hdirect).trans (State.sendPeg_message _ hhome)) (by rw [State.pegOp_run hwait])]
    · rw [execPegSend_issues hx h hq hroom ((if_pos hdirect).trans (State.sendPeg_arrival _ hcoll hg hb)) (State.arrive_standing s c g)]
  case acquire =>
    have hop : x.op = 2 := by rw [hx, PWord.decode_op hown]
    have hexec : exec (.acquire c w) s = .next (execPegWait c w s) := coreWord_own hown _
    rw [hexec]
    refine ⟨fun ht hv => ?_, fun hno => ?_⟩
    · rw [execPegWait_completes hx h (State.pegMeet_claims hop ht hv) (State.setPeg_run s _ _ _ c)]
    · rw [execPegWait_waits hx h (State.pegMeet_waits hop hno), State.pegWait_acquire hop]
  case monitor =>
    have hop : x.op = 3 := by rw [hx, PWord.decode_op hown]
    have hexec : exec (.monitor c w) s = .next (execPegWait c w s) := coreWord_own hown _
    rw [hexec]
    refine ⟨fun ht hp => ?_, fun hno => ?_⟩
    · rw [execPegWait_completes hx h (State.pegMeet_holds hop ht hp) rfl]
    · rw [execPegWait_waits hx h (State.pegMeet_watches hop hno), State.pegWait_monitor hop]

end Sys2Proof.Machine
end

section
/-! SUPPORT. Stream words: what SUBMIT, KFETCH and CONVFEED leave when they issue, and their wait for a place in the stream queue. -/

namespace Sys2Proof.Machine

open Sys2Proof

section Issues

variable {s : State} {c : Nat} {w : Word} {check : Option Nat} {foot : Footprint} {run : State → State}

/-- A word that needs a place in the stream queue waits while the queue is full (R96; log entry 8). -/
theorem State.runWord_queueFull (h : s.issues c w check foot true = true) (hfull : 16 ≤ (s.core c).run.queueLoad) :
    s.runWord c w.toNat check foot (decide ((s.core c).run.queueLoad < 16)) run = s := by
  obtain ⟨ha, hact, hst, -, hwait, hf, hi, hc, -⟩ := (State.issues_iff s c w check foot true).mp h
  have hcan : s.canDecode c = true := by simp [State.canDecode, ha, hact, hst, hwait]
  have hroom : decide ((s.core c).run.queueLoad < 16) = false := decide_eq_false (Nat.not_lt.mpr hfull)
  unfold State.runWord
  simp only [hcan, hf, wIllegal_eq_coreIllegal, hi, hc, hroom]
  simp

/-- With a place in the queue the conditions are those of any word. -/
theorem State.issues_queueRoom (h : s.issues c w check foot true = true) (hroom : (s.core c).run.queueLoad < 16) :
    s.issues c w check foot (decide ((s.core c).run.queueLoad < 16)) = true := State.issues_of_ready h (decide_eq_true hroom)

end Issues

/-! SUBMIT (R89, R106, R128). -/

section Submit

variable {c : Fin 64} {w : Word} {s : State} {base : Int} (hbase : base = 64 * (s.core c).run.eff w.toNat .a (fld w.toNat 20 17))
include hbase

theorem exec_submit (hown : coreOwn 4 0 w = true) (hlo : 0 ≤ base) (hhi : base + 64 ≤ 0x600000)
    (hdp : fld w.toNat 37 6 < 48 ∨ fld w.toNat 37 6 = 63) : exec (.submit c w) s = .next (s.runWord c w.toNat none { reads := [⟨base, 64⟩] }
      (decide ((s.core c).run.queueLoad < 16)) (fun s => s.runSubmit c w.toNat)) := by
  subst hbase
  have hpeg : ¬ (48 ≤ fld w.toNat 37 6 ∧ fld w.toNat 37 6 ≤ 62) := by omega
  refine (coreWord_own hown _).trans ?_
  rw [firstFault_eq_none (by simp [hpeg, Footprint.inWindow_read64 hlo hhi])]

variable {v : Nat} {d : SDesc} (hv : v = ofLeBytes (memGet s.mem (sramAddr c base.toNat) 64)) (hd : d = SDesc.decode v)
include hv hd

/-- SUBMIT by the descriptor that the engine reads. -/
theorem State.runSubmit_eq : s.runSubmit c w.toNat = if d.refused then (s.modRun c (CoreRun.issued w.toNat)).coreFault c 0x2202
    else s.modRun c (fun r => { r with
      queues := Tbl.set [] (fld w.toNat 16 4)
        (Tbl.get [] (fld w.toNat 16 4) r.queues ++ [.desc (BitVec.ofNat 512 v) (fld w.toNat 37 6) r.index.toNat false 0]) r.queues
      lqPlan := r.lqPlan ++ (if d.dlq then [(r.index.toNat, if d.kind = 3 then none else some (d.tiles (d.runs [])))] else []) }) := by
  have hentry : ∀ n, d.lqEntry n = if d.dlq then [(n, if d.kind = 3 then none else some (d.tiles (d.runs [])))] else [] := by
    intro n
    unfold SDesc.lqEntry
    cases d.dlq <;> rfl
  simp only [State.runSubmit, ← hbase, ← hv, ← hd, hentry]

end Submit

/-! KFETCH (R89, R130, R252). -/

section Kfetch

variable {c : Fin 64} {w : Word} {s : State} {b : Binding} (hb : (s.core c).run.bindings[fld w.toNat 11 5]? = some b)
include hb

theorem exec_kfetch (hown : coreOwn 4 1 w = true) (hlt : fld w.toNat 11 5 < 16) : exec (.kfetch c w) s =
    .next (s.runWord c w.toNat none {} (decide ((s.core c).run.queueLoad < 16)) (fun s => s.runKfetch c w.toNat)) := by
  refine (coreWord_own hown _).trans ?_
  rw [firstFault_eq_none (by simp [hb, hlt])]

/-- The tiles of the site's part take their places among the producers, and those with a free slot arrive. -/
theorem State.runKfetch_fetches {k : Kicker} {n : Nat} (hk : Tbl.get none b.kicker s.serve.kickers = some k)
    (hn : n = k.part (fld w.toNat 16 10) (fld w.toNat 26 1)) : s.runKfetch c w.toNat = (s.modRun c (fun r => { r with
      lqPlan := r.lqPlan ++ [(r.index.toNat, some n)]
      kfetches := r.kfetches ++ [{ index := r.index.toNat, count := n, bytes := k.tile
                                   addr := if k.sites.contains (fld w.toNat 16 10)
                                     then some (k.base + k.offset k.tile (fld w.toNat 16 10) (fld w.toNat 26 1)) else none }] })).pumpKfetch c := by
  subst hn
  unfold State.runKfetch
  simp only [hb, hk]
  exact congrArg (fun t => State.pumpKfetch t c) (State.modRun_congr s c rfl)

end Kfetch

/-! CONVFEED (R91, R92). -/

/-- A context and word that R91 allows pass the checks on their fields. -/
theorem ConvCtx.checks_pass {cx : ConvCtx} {step : Bool} {lvl : Option Loop} {drs : Nat} (hkind : cx.kind = 2)
    (hlevel : step = true → lvl.isSome = true) (hfmt : cx.efmt ∈ [0, 1, 2, 3, 4, 7]) (hbad : cx.bad = false) (hrow : cx.bytes ≤ drs) :
    firstFault [(cx.kind != 2, 0x2135), (step && lvl.isNone, 0x2135), (decide (9 ≤ cx.efmt), 0x2130),
      (!([0, 1, 2, 3, 4, 7].contains cx.efmt), 0x2131), (cx.bad, 0x2133), (decide (drs < cx.bytes), 0x2133)] = none := by
  have hlevel' : (step && lvl.isNone) = false := by
    cases step with
    | false => rfl
    | true => simpa using hlevel rfl
  have hle : cx.efmt < 9 := by
    simp only [List.mem_cons, List.not_mem_nil, or_false] at hfmt
    omega
  have hlisted : [0, 1, 2, 3, 4, 7].contains cx.efmt = true := List.contains_iff_mem.mpr hfmt
  refine firstFault_eq_none ?_
  simp only [List.forall_mem_cons, hlevel', hlisted, hkind, hbad]
  simp [hle, hrow]

theorem exec_convfeed {c : Fin 64} {w : Word} {s : State} {x : CWord} {cx : ConvCtx} (hx : x = CWord.decode (s.core c).run w.toNat)
    (hcx : cx = ConvCtx.decode (Tbl.get (0 : BitVec 512) x.cx (s.core c).run.ctxs).toNat) (hown : coreOwn 4 2 w = true)
    (hkind : cx.kind = 2) (hlevel : x.kstep = true → ((s.core c).run.level x.klvl).isSome = true) (hfmt : cx.efmt ∈ [0, 1, 2, 3, 4, 7])
    (hbad : cx.bad = false) (hrow : cx.bytes ≤ x.drs) (hin : (x.foot (s.core c).run cx).inWindow = true) :
    exec (.convfeed c w) s = .next (s.runWord c w.toNat none (x.foot (s.core c).run cx) (decide ((s.core c).run.queueLoad < 16))
      (fun s => s.runConvfeed c w.toNat)) := by
  subst hcx hx
  refine (coreWord_own hown _).trans ?_
  rw [ConvCtx.checks_pass hkind hlevel hfmt hbad hrow]
  simp only [hin, if_true]

/-- Settles O13: each word by the room in the stream queue, and SUBMIT by its descriptor. -/
theorem streamWordsIssue : Obligations.StreamWordsIssue := by
  rintro c w s r rfl
  refine ⟨fun base v d hown hbase hlo hhi hdp h hv hd => ?submit, fun b k n hown h hlt hb hk hn => ?kfetch,
    fun x cx hown hx hcx hkind hlevel hfmt hbad hrow hin h => ?convfeed⟩
  case submit =>
    rw [exec_submit hbase hown hlo hhi hdp]
    refine ⟨fun hfull => by rw [State.runWord_queueFull h hfull], fun hroom href => ?_, fun hroom hok => ?_⟩
    · have hstop : ((s.modRun c (CoreRun.issued w.toNat)).core c).run.stopped = none := by
        obtain ⟨-, -, hstop, -⟩ := (State.issues_iff s c w _ _ _).mp h
        rw [State.modRun_core_self]
        exact hstop
      have hrun := (State.runSubmit_eq hbase hv hd).trans (if_pos href)
      rw [State.runWord_issues _ (State.issues_queueRoom h hroom), hrun, State.coreFault_stops hstop]
      rfl
    · have hrun := (State.runSubmit_eq hbase hv hd).trans (if_neg (by simp [hok]))
      rw [State.runWord_of_standing (State.issues_queueRoom h hroom) (by rw [hrun, State.modRun_core_self]; rfl), hrun, State.modRun_modRun]
      rfl
  case kfetch =>
    rw [exec_kfetch hb hown hlt]
    refine ⟨fun hfull => by rw [State.runWord_queueFull h hfull], fun hroom => ?_⟩
    have hstand : ((s.runKfetch c w.toNat).core c).run.standing = (s.core c).run.standing := by
      rw [State.runKfetch_fetches hb hk hn, State.pumpKfetch_standing, State.modRun_core_self]
      rfl
    rw [State.runWord_of_standing (State.issues_queueRoom h hroom) hstand, State.runKfetch_fetches hb hk hn]
  case convfeed =>
    rw [exec_convfeed hx hcx hown hkind hlevel hfmt hbad hrow hin]
    refine ⟨fun hfull => by rw [State.runWord_queueFull h hfull], fun hroom => ?_⟩
    subst hcx hx
    exact congrArg _ (State.runWord_of_run_eq (State.issues_queueRoom h hroom) (congrArg Core.run (State.sramWrites_core s c c _)))

end Sys2Proof.Machine
end


section
/-! SUPPORT. The end of a pass: what an abort leaves of the table, the cores and the counts, what a completion slot leaves of the table, and
the forced end of a core that has not drained (R101, R103, R272, R273, R467). -/

namespace Sys2Proof.Machine

open Sys2Proof

/-! Tables and masks. -/

theorem mem_maskList {n v i : Nat} : i ∈ maskList n v ↔ i < n ∧ bit v i = true := by simp [maskList]

/-- A property of the default and of every new value holds of every entry of a table whose values have been replaced. -/
theorem Tbl.get_mapVals_of {α : Type} [DecidableEq α] {P : α → Prop} {d : α} {f : Nat → α → α} (hd : P d) (hf : ∀ k v, P (f k v)) (k : Nat)
    (t : Tbl α) : P (Tbl.get d k (Tbl.mapVals d f t)) := by
  have hfold : ∀ (l : List (Nat × α)) (acc : Tbl α), (P (Tbl.get d k acc) ∨ ∃ x ∈ l, x.1 = k) →
      P (Tbl.get d k (l.foldl (fun acc kv => Tbl.set d kv.1 (f kv.1 kv.2) acc) acc)) := by
    intro l
    induction l with
    | nil => exact fun acc h => h.elim id (fun ⟨_, hx, _⟩ => absurd hx List.not_mem_nil)
    | cons x l ih =>
      intro acc h
      refine ih _ ?_
      by_cases hk : k = x.1
      · left
        rw [hk, Tbl.get_set_self]
        exact hf _ _
      · rw [Tbl.get_set_other d hk]
        refine h.imp_right (fun ⟨y, hy, hyk⟩ => ⟨y, (List.mem_cons.mp hy).resolve_left (fun hyx => hk ?_), hyk⟩)
        rw [← hyk, hyx]
  have hkey : ∀ u : Tbl α, P (Tbl.get d k u) ∨ ∃ x ∈ u, x.1 = k := by
    intro u
    induction u with
    | nil => exact .inl hd
    | cons x u ih =>
      by_cases hx : x.1 = k
      · exact .inr ⟨x, List.mem_cons_self, hx⟩
      · rw [Tbl.get, if_neg hx]
        exact ih.imp_right (fun ⟨y, hy, hyk⟩ => ⟨y, List.mem_cons_of_mem x hy, hyk⟩)
  exact hfold t t (hkey t)

/-! A report leaves the counts of R442. -/

theorem State.stopService_cnt (s : State) (code : Nat) : (s.stopService code).glob.cnt = s.glob.cnt := rfl

theorem State.report_cnt (s : State) (r : Report) : (s.report r).glob.cnt = s.glob.cnt := by
  have hlog : (s.writeLog r).glob = s.glob := (s.writeLog_messages r).glob_eq
  simp [State.report, apply_ite State.glob, apply_ite Glob.cnt, State.stopService_cnt, hlog]

/-! The abort of a pass (R101, R103). -/

theorem SyncOnly.mem_serve_links {s t : State} (h : SyncOnly s t) : t.mem = s.mem ∧ t.serve = s.serve ∧ t.links = s.links := by
  unfold SyncOnly LogOnly MessagesOnly at h
  rw [h]
  exact ⟨rfl, rfl, rfl⟩

theorem CoreRun.abort_of_active {t : Nat} {r : CoreRun} (ha : r.active = true) (ht : r.table = t) : r.abort t =
    { r with stopped := (match r.stopped with | some x => some x | none => some (2, 0)), wait := none } := by
  unfold CoreRun.abort
  exact if_pos (by simp [ha, ht])

theorem CoreRun.abort_abort (t : Nat) (r : CoreRun) : (r.abort t).abort t = r.abort t := by
  unfold CoreRun.abort
  split_ifs
  · cases r.stopped <;> rfl
  · rfl

theorem State.told_core_of_notMem {t c : Nat} {l : List Nat} (hc : c ∉ l) (s : State) :
    (l.foldl (fun s c => s.modRun c (CoreRun.abort t)) s).core c = s.core c :=
  List.foldlRecOn (motive := fun u : State => u.core c = s.core c) l _ rfl
    (fun u h _ hd => (u.modRun_core_other (ne_of_mem_of_not_mem hd hc).symm _).trans h)

/-- A core that is told of the abort, however often, has been told once. -/
theorem State.told_run_of_mem {t c : Nat} {l : List Nat} (hc : c ∈ l) (s : State) :
    ((l.foldl (fun s c => s.modRun c (CoreRun.abort t)) s).core c).run = (s.core c).run.abort t := by
  induction l generalizing s with
  | nil => exact absurd hc List.not_mem_nil
  | cons d l ih =>
    rw [List.foldl_cons]
    by_cases hl : c ∈ l
    · rw [ih hl]
      by_cases hd : c = d
      · rw [hd, State.modRun_core_self]
        exact CoreRun.abort_abort t _
      · rw [State.modRun_core_other s hd]
    · obtain rfl : c = d := (List.mem_cons.mp hc).resolve_right hl
      rw [State.told_core_of_notMem hl, State.modRun_core_self]

section Abort

variable {s : State} {t : Nat} (hab : (s.table t).abortable = true)
include hab

theorem State.abortPass_core (code c : Nat) : (s.abortPass t code).core c =
    ((maskList 64 (s.table t).mask.toNat).foldl (fun s c => s.modRun c (CoreRun.abort t)) (s.modTable t (fun x => x.aborted s.time code))).core c := by
  unfold State.abortPass
  dsimp only
  rw [if_neg (by simp [hab])]
  split_ifs <;> rfl

theorem State.abortPass_tables (code : Nat) :
    (s.abortPass t code).sync.tables = (s.modTable t (fun x => x.aborted s.time code)).sync.tables := by
  unfold State.abortPass
  dsimp only
  rw [if_neg (by simp [hab])]
  split_ifs
  · simp only [State.count_sync, State.modSync_sync, State.told_sync]
    rfl
  · simp only [State.count_sync, State.told_sync]
    rfl

theorem State.abortPass_cnt (code : Nat) : (s.abortPass t code).glob.cnt.passesAborted = s.glob.cnt.passesAborted + 1 := by
  have htold : ∀ (l : List Nat) (u : State), (l.foldl (fun s c => s.modRun c (CoreRun.abort t)) u).glob = u.glob := fun l u =>
    List.foldlRecOn (motive := fun v : State => v.glob = u.glob) l _ rfl (fun _ h _ _ => h)
  unfold State.abortPass
  dsimp only
  rw [if_neg (by simp [hab])]
  split_ifs <;> simp [htold]

theorem State.abortLogged_eq (r : Report) :
    s.abortLogged t r = (s.abortPass t r.code).report { r with detail := (s.table t).tag, reqs := (s.table t).endedBy r.code } := by
  unfold State.abortLogged
  rw [if_neg (by simp [hab])]

theorem State.abortLogged_table (r : Report) : (s.abortLogged t r).table t = (s.table t).aborted s.time r.code := by
  have htables : (s.abortLogged t r).sync.tables = (s.modTable t (fun x => x.aborted s.time r.code)).sync.tables := by
    rw [State.abortLogged_eq hab, State.report_sync, State.abortPass_tables hab]
  rw [State.table, htables]
  exact s.modTable_table_self t _

theorem State.abortLogged_cnt (r : Report) : (s.abortLogged t r).glob.cnt.passesAborted = s.glob.cnt.passesAborted + 1 := by
  rw [State.abortLogged_eq hab, State.report_cnt, State.abortPass_cnt hab]

theorem State.abortLogged_core (r : Report) (c : Nat) : (s.abortLogged t r).core c = (s.abortPass t r.code).core c := by
  rw [State.abortLogged_eq hab]
  simp [State.core]

theorem State.abortLogged_core_of_out {c : Nat} (hc : bit (s.table t).mask.toNat c = false) (r : Report) :
    (s.abortLogged t r).core c = s.core c := by
  rw [State.abortLogged_core hab, State.abortPass_core hab, State.told_core_of_notMem (by simp [mem_maskList, hc])]
  rfl

theorem State.abortLogged_run_of_in {c : Nat} (hc64 : c < 64) (hc : bit (s.table t).mask.toNat c = true) (r : Report) :
    ((s.abortLogged t r).core c).run = (s.core c).run.abort t := by
  rw [State.abortLogged_core hab, State.abortPass_core hab, State.told_run_of_mem (mem_maskList.mpr ⟨hc64, hc⟩)]
  rfl

end Abort

theorem State.abortLogged_sync {s : State} {t : Nat} (hrun : (s.table t).state = .running) (r : Report) :
    (s.abortLogged t r).sync = { (s.modTable t (fun x => x.aborted s.time r.code)).sync.endBarriers with
      seq := { s.sync.seq with active := false } } := by
  rw [State.abortLogged_eq (by simp [PassTable.abortable, hrun]), State.report_sync, State.abortPass_sync hrun]

/-- No collector peg is a barrier's once the barriers have ended (R257). -/
theorem Sync.endBarriers_barrier (y : Sync) (p : Nat) : (Tbl.get {} p y.endBarriers.pegs).barrier = false :=
  Tbl.get_mapVals_of (P := fun v : Peg => v.barrier = false) (f := fun _ v => { v with barrier := false }) rfl (fun _ _ => rfl) p y.pegs

/-- The code of an abort that the steward asks for: that of the lowest core that met a fault, else the steward's own (R103). -/
def State.abortCode (s : State) (t code : Nat) : Nat := ((s.coreFaultCode t).map Prod.snd).getD code

theorem exec_passAbort {t : Fin 4} {code : BitVec 16} {s : State} (hcode : containedCode code.toNat = true) (ha : s.alive = true) :
    ∃ r, exec (.passAbort t code) s = .next (s.abortLogged t r) ∧ r.code = s.abortCode t code.toNat := by
  have hexec : exec (.passAbort t code) s = execPassAbort t code s := rfl
  rw [hexec, execPassAbort, if_neg (by simp [hcode]), if_neg (by simp [ha]), State.abortCode]
  cases s.coreFaultCode t with
  | none => exact ⟨_, rfl, rfl⟩
  | some x => exact ⟨_, rfl, rfl⟩

theorem exec_passCommit_faulty {t : Fin 4} {logits : List LogitRow} {s : State} {c k : Nat} (ha : s.alive = true)
    (hcl : (s.table t).state = .closed) (hf : (s.table t).slotFault = some (c, k)) :
    ∃ r, exec (.passCommit t logits) s = .next (s.abortLogged t r) ∧ r.code = k := by
  have hexec : exec (.passCommit t logits) s = execPassCommit t logits s := rfl
  rw [hexec, execPassCommit]
  dsimp only
  rw [if_neg (by simp [ha, hcl]), hf]
  exact ⟨_, rfl, rfl⟩

theorem passAbort_of_running {t : Fin 4} {code : BitVec 16} {s : State} (hcode : containedCode code.toNat = true) (ha : s.alive = true)
    (hrun : (s.table t).state = .running)
    (hown : ∀ c < 64, bit (s.table t).mask.toNat c = true → (s.core c).run.active = true → (s.core c).run.table = t.val) :
    ∃ n, exec (.passAbort t code) s = .next n ∧ n.table t = (s.table t).aborted s.time (s.abortCode t code.toNat) ∧
      (∀ c < 64, bit (s.table t).mask.toNat c = true → (s.core c).run.active = true → (n.core c).run =
        { (s.core c).run with stopped := (match (s.core c).run.stopped with | some x => some x | none => some (2, 0)), wait := none }) ∧
      (∀ c < 64, bit (s.table t).mask.toNat c = false → n.core c = s.core c) ∧
      n.sync.seq.active = false ∧ (∀ p, (n.peg .coll p).barrier = false) ∧ n.glob.cnt.passesAborted = s.glob.cnt.passesAborted + 1 ∧
      n.mem = s.mem ∧ n.serve = s.serve ∧ n.links = s.links := by
  obtain ⟨r, hexec, hr⟩ := exec_passAbort hcode ha
  have hab : (s.table t).abortable = true := by simp [PassTable.abortable, hrun]
  have hrest := SyncOnly.abortLogged s t r
  refine ⟨_, hexec, hr ▸ State.abortLogged_table hab r, fun c hc hbit hact => ?_, fun c _ hbit => State.abortLogged_core_of_out hab hbit r,
    ?_, fun p => ?_, State.abortLogged_cnt hab r, hrest.mem_serve_links⟩
  · rw [State.abortLogged_run_of_in hab hc hbit, CoreRun.abort_of_active hact (hown c hc hbit hact)]
  · rw [State.abortLogged_sync hrun]
  · show (Tbl.get {} p (s.abortLogged t r).sync.pegs).barrier = false
    rw [State.abortLogged_sync hrun]
    exact Sync.endBarriers_barrier _ p

theorem passEnd_of_faulty {t : Fin 4} {code : BitVec 16} {logits : List LogitRow} {s : State} {c k : Nat} {i : Instr}
    (hcode : containedCode code.toNat = true) (ha : s.alive = true) (hcl : (s.table t).state = .closed)
    (hf : (s.table t).slotFault = some (c, k)) (hi : i ∈ [Instr.passAbort t code, .passCommit t logits]) :
    ∃ n, exec i s = .next n ∧ n.table t = (s.table t).aborted s.time k ∧ n.glob.cnt.passesAborted = s.glob.cnt.passesAborted + 1 ∧
      n.mem = s.mem ∧ n.serve = s.serve := by
  have hab : (s.table t).abortable = true := by simp [PassTable.abortable, hcl, hf]
  have hlog : ∃ r, exec i s = .next (s.abortLogged t r) ∧ r.code = k := by
    rcases List.mem_pair.mp hi with rfl | rfl
    · have hk : s.abortCode t code.toNat = k := by simp [State.abortCode, State.coreFaultCode, hf]
      exact hk ▸ exec_passAbort hcode ha
    · exact exec_passCommit_faulty ha hcl hf
  obtain ⟨r, hexec, rfl⟩ := hlog
  have hrest := SyncOnly.abortLogged s t r
  exact ⟨_, hexec, State.abortLogged_table hab r, State.abortLogged_cnt hab r, hrest.mem_serve_links.1, hrest.mem_serve_links.2.1⟩

/-! The completion slot (R272, R273, R467). -/

theorem State.closePass_rest (s : State) (t : Nat) : s.closePass t = { s with sync := (s.closePass t).sync } := by
  unfold State.closePass
  dsimp only
  split_ifs <;> rfl

theorem State.closePass_missing (s : State) (t : Nat) : (s.closePass t).sync.missing = s.sync.missing := by
  unfold State.closePass
  dsimp only
  split_ifs <;> rfl

theorem State.closePass_of_open {s : State} {t : Nat} (h : (s.table t).present ≠ (s.table t).mask) : s.closePass t = s := if_pos h

theorem State.closePass_present (s : State) (t : Nat) : ((s.closePass t).table t).present = (s.table t).present := by
  unfold State.closePass
  dsimp only
  split_ifs
  · rfl
  · rw [State.modTable_table_self]
    rfl
  · rw [State.modTable_table_self]

theorem State.closePass_closes {s : State} {t : Nat} (h : (s.table t).present = (s.table t).mask) (hrun : (s.table t).state = .running) :
    ((s.closePass t).table t).state = .closed ∧ ((s.closePass t).table t).closedAt = some s.time := by
  unfold State.closePass
  dsimp only
  rw [if_neg (not_not_intro h), if_pos hrun]
  rw [State.modTable_table_self]
  exact ⟨if_pos hrun, rfl⟩

theorem State.commitSlot_rest (s : State) (t c v : Nat) : s.commitSlot t c v = { s with sync := (s.commitSlot t c v).sync } :=
  State.closePass_rest _ t

theorem State.commitSlot_missing (s : State) (t c v : Nat) : (s.commitSlot t c v).sync.missing = s.sync.missing :=
  State.closePass_missing _ t

theorem State.commitSlot_core (s : State) (t c v d : Nat) : (s.commitSlot t c v).core d = s.core d := by
  rw [s.commitSlot_rest t c v]
  rfl

theorem State.commitSlot_present (s : State) (t c v : Nat) :
    ((s.commitSlot t c v).table t).present = (s.table t).present ||| BitVec.ofNat 64 (2 ^ c) := by
  rw [State.commitSlot, State.closePass_present, State.modTable_table_self]

theorem State.commitSlot_open {s : State} {t c : Nat} (h : (s.table t).present ||| BitVec.ofNat 64 (2 ^ c) ≠ (s.table t).mask) (v : Nat) :
    (s.commitSlot t c v).table t =
      { s.table t with present := (s.table t).present ||| BitVec.ofNat 64 (2 ^ c), slots := Tbl.set 0 c v (s.table t).slots } := by
  rw [State.commitSlot, State.closePass_of_open (by simpa using h), State.modTable_table_self]

theorem State.commitSlot_closes {s : State} {t c : Nat} (h : (s.table t).present ||| BitVec.ofNat 64 (2 ^ c) = (s.table t).mask)
    (hrun : (s.table t).state = .running) (v : Nat) :
    ((s.commitSlot t c v).table t).state = .closed ∧ ((s.commitSlot t c v).table t).closedAt = some s.time :=
  State.closePass_closes (by simpa using h) (by simpa using hrun)

theorem State.idleFeed_flags (s : State) (c : Nat) (r : CoreRegs) :
    (s.idleFeed c r).numStatus = r.numStatus ∧ (s.idleFeed c r).streamFlags = r.streamFlags := by
  unfold State.idleFeed
  dsimp only
  split_ifs <;> exact ⟨rfl, rfl⟩

/-- Core `c` after its slot has been written: what it copied is clear, and it is free. -/
def State.freeCore (s : State) (c : Nat) (f : CoreRun → CoreRun) : State :=
  s.modCore c (fun k => { k with regs := s.idleFeed c k.regs.clearCopied, run := f k.run })

theorem exec_completionSlotWrite {c : Fin 64} {s : State} {cause fault : Nat} (ha : s.alive = true) (hact : (s.core c).run.active = true)
    (hst : (s.core c).run.stopped = some (cause, fault)) (hdr : (s.core c).run.drained = true) (hcl : ∀ k ∈ s.sync.claims, k.1 ≠ c.val) :
    exec (.completionSlotWrite c) s = .next ((s.freeCore c (fun r => { r with active := false })).commitSlot (s.core c).run.table c
      ((s.core c).slotBits cause fault)) := by
  have hnone : s.sync.claims.any (fun x => x.1 == c.val) = false := by simpa using hcl
  have hexec : exec (.completionSlotWrite c) s = execCompletionSlotWrite c s := rfl
  rw [hexec, execCompletionSlotWrite]
  dsimp only
  rw [hst]
  dsimp only
  rw [if_neg (by simp [ha, hact, hdr, hnone])]
  rfl

theorem exec_drainLimitExpiry {c : Fin 64} {s : State} {x : PassTable} (ha : s.alive = true) (hact : (s.core c).run.active = true)
    (hx : x = s.table (s.core c).run.table) (hst : x.state = .aborting) (hin : bit x.mask.toNat c = true) (hout : bit x.present.toNat c = false)
    (hle : x.abortAt + 100000 ≤ s.time) : exec (.drainLimitExpiry c) s = .next
      ((((s.freeCore c (fun _ => {})).modSync (fun y => { y with missing := y.missing ||| BitVec.ofNat 64 (2 ^ c.val) })).commitSlot (s.core c).run.table c
        (3 * 2 ^ 664 + 0x2721 * 2 ^ 640)).reportTest { code := 0x2721, detail := x.tag, kind := .coreSlot, unit := s.slotOf c }
        (.coreTest (s.slotOf c))) := by
  subst hx
  have hexec : exec (.drainLimitExpiry c) s = execDrainLimitExpiry c s := rfl
  rw [hexec, execDrainLimitExpiry]
  dsimp only
  rw [if_neg (by simp [ha, hact, hst, hin, hout, hle])]
  rfl

theorem State.reportTest_core (s : State) (r : Report) (a : Activity) (c : Nat) : (s.reportTest r a).core c = s.core c := by
  simp [State.reportTest, State.core]

theorem State.freeCore_self (s : State) (c : Nat) (f : CoreRun → CoreRun) : ((s.freeCore c f).core c).run = f (s.core c).run ∧
    ((s.freeCore c f).core c).regs.numStatus = 0 ∧ ((s.freeCore c f).core c).regs.streamFlags = 0 := by
  obtain ⟨hnum, hflags⟩ := s.idleFeed_flags c (s.core c).regs.clearCopied
  rw [State.freeCore, State.modCore_core_self]
  exact ⟨rfl, hnum, hflags⟩

theorem State.freeCore_other (s : State) {c d : Nat} (h : d ≠ c) (f : CoreRun → CoreRun) : (s.freeCore c f).core d = s.core d :=
  State.modCore_core_other s h _

theorem completionSlotWrite_frees {c : Fin 64} {s : State} {cause fault : Nat} {x : PassTable} (ha : s.alive = true)
    (hact : (s.core c).run.active = true) (hst : (s.core c).run.stopped = some (cause, fault)) (hdr : (s.core c).run.drained = true)
    (hcl : ∀ k ∈ s.sync.claims, k.1 ≠ c.val) (hx : x = s.table (s.core c).run.table) :
    ∃ n, exec (.completionSlotWrite c) s = .next n ∧
      (n.core c).run.active = false ∧ (n.core c).regs.numStatus = 0 ∧ (n.core c).regs.streamFlags = 0 ∧
      (n.table (s.core c).run.table).present = x.present ||| BitVec.ofNat 64 (2 ^ c.val) ∧
      (x.present ||| BitVec.ofNat 64 (2 ^ c.val) ≠ x.mask →
        (n.table (s.core c).run.table) = { x with present := x.present ||| BitVec.ofNat 64 (2 ^ c.val),
                                                  slots := Tbl.set 0 c.val ((s.core c).slotBits cause fault) x.slots }) ∧
      (x.present ||| BitVec.ofNat 64 (2 ^ c.val) = x.mask → x.state = .running →
        (n.table (s.core c).run.table).state = .closed ∧ (n.table (s.core c).run.table).closedAt = some s.time) ∧
      (∀ k, k ≠ c.val → n.core k = s.core k) ∧ n.mem = s.mem ∧ n.serve = s.serve ∧ n.out = s.out := by
  subst hx
  obtain ⟨hrun, hnum, hflags⟩ := s.freeCore_self c (fun r => { r with active := false })
  refine ⟨_, exec_completionSlotWrite ha hact hst hdr hcl, ?_, ?_, ?_, State.commitSlot_present _ _ _ _, 
    fun h => State.commitSlot_open (s := s.freeCore c _) h _, fun h hrunning => State.commitSlot_closes (s := s.freeCore c _) h hrunning _,
    fun k hk => ?_, ?_⟩
  · rw [State.commitSlot_core, hrun]
  · rw [State.commitSlot_core, hnum]
  · rw [State.commitSlot_core, hflags]
  · rw [State.commitSlot_core]
    exact s.freeCore_other hk _
  · rw [State.commitSlot_rest]
    exact ⟨rfl, rfl, rfl⟩

theorem drainLimitExpiry_frees {c : Fin 64} {s : State} {x : PassTable} (ha : s.alive = true) (hact : (s.core c).run.active = true)
    (hx : x = s.table (s.core c).run.table) (hst : x.state = .aborting) (hin : bit x.mask.toNat c = true) (hout : bit x.present.toNat c = false)
    (hle : x.abortAt + 100000 ≤ s.time) : ∃ n, exec (.drainLimitExpiry c) s = .next n ∧
      (n.core c).run = {} ∧ (n.table (s.core c).run.table).present = x.present ||| BitVec.ofNat 64 (2 ^ c.val) ∧
      n.sync.missing = s.sync.missing ||| BitVec.ofNat 64 (2 ^ c.val) ∧
      (∃ e ∈ n.integ.tests, e.act = .coreTest (s.slotOf c) ∧ e.code = 0x2721) ∧ (∀ k, k ≠ c.val → n.core k = s.core k) := by
  refine ⟨_, exec_drainLimitExpiry ha hact hx hst hin hout hle, ?_, ?_, ?_, State.reportTest_due _ _ _, fun k hk => ?_⟩
  · rw [State.reportTest_core, State.commitSlot_core]
    exact (s.freeCore_self c (fun _ => {})).1
  · rw [State.reportTest_table, State.commitSlot_present, hx]
    rfl
  · rw [State.reportTest_sync, State.commitSlot_missing]
    rfl
  · rw [State.reportTest_core, State.commitSlot_core]
    exact s.freeCore_other hk (fun _ => {})

end Sys2Proof.Machine
end

section
/-! SUPPORT. What the work of serving leaves of a pass: no operation on pages, sessions, requests, records, links or shipments changes the
synchronisation state, a core, or a count of passes. One equation for each operation that a launch, a retry or a commit calls. -/

namespace Sys2Proof.Machine

open Sys2Proof

/-- What shows the passes in a state: the synchronisation state with its pass tables, the cores, and the two counts of started passes. -/
def State.passView (s : State) : Sync × Tbl Core × BitVec 64 × BitVec 64 :=
  (s.sync, s.cores, s.glob.cnt.passesLaunched, s.glob.cnt.passesRetried)

theorem State.sync_of_passView {s t : State} (h : t.passView = s.passView) : t.sync = s.sync :=
  congrArg (fun v : Sync × Tbl Core × BitVec 64 × BitVec 64 => v.1) h

theorem State.cores_of_passView {s t : State} (h : t.passView = s.passView) : t.cores = s.cores :=
  congrArg (fun v : Sync × Tbl Core × BitVec 64 × BitVec 64 => v.2.1) h

theorem State.table_of_passView {s t : State} (h : t.passView = s.passView) (k : Nat) : t.table k = s.table k := by
  rw [State.table, State.sync_of_passView h, State.table]

theorem State.core_of_passView {s t : State} (h : t.passView = s.passView) (c : Nat) : t.core c = s.core c := by
  rw [State.core, State.cores_of_passView h, State.core]

theorem State.launched_of_passView {s t : State} (h : t.passView = s.passView) :
    t.glob.cnt.passesLaunched = s.glob.cnt.passesLaunched :=
  congrArg (fun v : Sync × Tbl Core × BitVec 64 × BitVec 64 => v.2.2.1) h

theorem State.retried_of_passView {s t : State} (h : t.passView = s.passView) : t.glob.cnt.passesRetried = s.glob.cnt.passesRetried :=
  congrArg (fun v : Sync × Tbl Core × BitVec 64 × BitVec 64 => v.2.2.2) h

/-- A fold of steps that each leave the view. -/
theorem foldl_passView {α : Type} {f : State → α → State} (hf : ∀ s x, (f s x).passView = s.passView) (l : List α) (s : State) :
    (l.foldl f s).passView = s.passView := by
  induction l generalizing s with
  | nil => rfl
  | cons x l ih => rw [List.foldl_cons, ih, hf]

/-! Changes of one part. -/

@[simp] theorem State.modPages_passView (s : State) (f : Pages → Pages) : (s.modPages f).passView = s.passView := rfl
@[simp] theorem State.modPage_passView (s : State) (p : Nat) (f : PageDesc → PageDesc) : (s.modPage p f).passView = s.passView := rfl
@[simp] theorem State.modPageCnt_passView (s : State) (m : Nat) (f : PageCounters → PageCounters) :
    (s.modPageCnt m f).passView = s.passView := rfl
@[simp] theorem State.modServe_passView (s : State) (f : Serve → Serve) : (s.modServe f).passView = s.passView := rfl
@[simp] theorem State.modReq_passView (s : State) (rid : Nat) (f : Req → Req) : (s.modReq rid f).passView = s.passView := rfl
@[simp] theorem State.modSessions_passView (s : State) (f : Tbl Session → Tbl Session) : (s.modSessions f).passView = s.passView := rfl
@[simp] theorem State.modSess_passView (s : State) (i : Nat) (f : Session → Session) : (s.modSess i f).passView = s.passView := rfl
@[simp] theorem State.modInteg_passView (s : State) (f : Integrity → Integrity) : (s.modInteg f).passView = s.passView := rfl
@[simp] theorem State.modLink_passView (s : State) (l : Nat) (f : LinkSt → LinkSt) : (s.modLink l f).passView = s.passView := rfl
@[simp] theorem State.modLGlob_passView (s : State) (f : LinkGlob → LinkGlob) : (s.modLGlob f).passView = s.passView := rfl
@[simp] theorem State.modLanding_passView (s : State) (w : Nat) (f : Landing → Landing) : (s.modLanding w f).passView = s.passView := rfl
@[simp] theorem State.modShip_passView (s : State) (id : Nat) (f : Shipment → Shipment) : (s.modShip id f).passView = s.passView := rfl
@[simp] theorem State.modSec_passView (s : State) (f : Sec → Sec) : (s.modSec f).passView = s.passView := rfl
@[simp] theorem State.modPow_passView (s : State) (f : Power → Power) : (s.modPow f).passView = s.passView := rfl
@[simp] theorem State.emit_passView (s : State) (o : Output) : (s.emit o).passView = s.passView := rfl
@[simp] theorem State.putMem_passView (s : State) (a : Nat) (bs : List Nat) : (s.putMem a bs).passView = s.passView := rfl
@[simp] theorem State.modPort_passView (s : State) (p : Port) (f : PortSt → PortSt) : (s.modPort p f).passView = s.passView := by
  cases p <;> rfl
@[simp] theorem State.modFunc_passView (s : State) (p : Port) (fn : Nat) (f : Func → Func) : (s.modFunc p fn f).passView = s.passView :=
  s.modPort_passView p _
@[simp] theorem State.modRing_passView (s : State) (p : Port) (n : Nat) (f : Ring → Ring) : (s.modRing p n f).passView = s.passView := rfl
@[simp] theorem State.hostPut_passView (s : State) (p : Port) (a : Nat) (bs : List Nat) : (s.hostPut p a bs).passView = s.passView :=
  s.modPort_passView p _
@[simp] theorem State.dmaRefuse_passView (s : State) (p : Port) : (s.dmaRefuse p).passView = s.passView := s.modPort_passView p _
@[simp] theorem State.noteActivity_passView (s : State) : s.noteActivity.passView = s.passView := rfl

/-- A count that is not one of passes. -/
theorem State.count_passView (s : State) {f : Counters → Counters} (hl : (f s.glob.cnt).passesLaunched = s.glob.cnt.passesLaunched)
    (hr : (f s.glob.cnt).passesRetried = s.glob.cnt.passesRetried) : (s.count f).passView = s.passView := by
  simp [State.passView, hl, hr]

@[simp] theorem State.report_passView (s : State) (r : Report) : (s.report r).passView = s.passView := by
  simp [State.passView, State.report_cnt]

@[simp] theorem State.sendVector_passView (s : State) (p : Port) (fn vec : Nat) : (s.sendVector p fn vec).passView = s.passView := by
  rw [MessagesOnly.sendVector s p fn vec]
  rfl

/-! Pages. -/

@[simp] theorem State.writeHeader_passView (s : State) (p vkey : Nat) : (s.writeHeader p vkey).passView = s.passView := by
  unfold State.writeHeader
  exact s.putMem_passView _ _

@[simp] theorem State.brokenPage_passView (s : State) (p : Nat) : (s.brokenPage p).passView = s.passView := s.report_passView _
@[simp] theorem State.decline_passView (s : State) (p : Nat) : (s.decline p).passView = s.passView := s.report_passView _
@[simp] theorem State.sweep_passView (s : State) : s.sweep.passView = s.passView := rfl
@[simp] theorem State.drawEpoch_passView (s : State) : s.drawEpoch.passView = s.passView := rfl
@[simp] theorem State.retireEpoch_passView (s : State) (e : Nat) : (s.retireEpoch e).passView = s.passView := rfl

@[simp] theorem State.release_passView (s : State) (p : Nat) : (s.release p).passView = s.passView := by
  simp [State.release, apply_ite State.passView]

@[simp] theorem State.releaseAll_passView (ps : List Nat) (s : State) : (ps.foldl State.release s).passView = s.passView :=
  foldl_passView State.release_passView ps s

@[simp] theorem State.pin_passView (s : State) (p e : Nat) : (s.pin p e).passView = s.passView := by
  unfold State.pin
  dsimp only
  split_ifs <;> simp

@[simp] theorem State.pinAll_passView (ps : List Nat) (e : Nat) (s : State) : (ps.foldl (fun s p => s.pin p e) s).passView = s.passView :=
  foldl_passView (fun s p => s.pin_passView p e) ps s

theorem State.take_passView {s t : State} {p : Nat} (h : s.take p = some t) : t.passView = s.passView := by
  unfold State.take at h
  dsimp only at h
  split_ifs at h
  rw [← Option.some.inj h, State.modPage_passView]

theorem State.takeAll_passView {s t : State} {ps : List Nat} (h : s.takeAll ps = some t) : t.passView = s.passView := by
  have hfold : ∀ (ps : List Nat) (o : Option State), (∀ u, o = some u → u.passView = s.passView) →
      ∀ t, ps.foldl (fun (o : Option State) p => o.bind (fun s => s.take p)) o = some t → t.passView = s.passView := by
    intro ps
    induction ps with
    | nil => exact fun o ho t ht => ho t ht
    | cons p ps ih =>
      refine fun o ho t ht => ih _ (fun u hu => ?_) t ht
      obtain ⟨v, hv, hvu⟩ := Option.bind_eq_some_iff.mp hu
      exact (State.take_passView hvu).trans (ho v hv)
  exact hfold ps (some s) (fun u hu => by rw [Option.some.inj hu]) t h

theorem State.takeIfVine_passView {s t : State} {p g : Nat} (h : s.takeIfVine p g = .taken t) : t.passView = s.passView := by
  unfold State.takeIfVine at h
  dsimp only at h
  split_ifs at h
  injection h with h
  rw [← h, State.modPage_passView]

@[simp] theorem State.removeNode_passView (s : State) (p : Nat) : (s.removeNode p).passView = s.passView := by
  simp [State.removeNode, apply_ite State.passView]

theorem State.wayFor_passView {s t : State} {set k w : Nat} (h : s.wayFor set k = some (w, t)) : t.passView = s.passView := by
  unfold State.wayFor at h
  dsimp only at h
  split at h
  · obtain ⟨-, rfl⟩ := Prod.mk.inj (Option.some.inj h)
    rfl
  · obtain ⟨v, -, hv⟩ := Option.map_eq_some_iff.mp h
    obtain ⟨-, rfl⟩ := Prod.mk.inj hv
    exact s.removeNode_passView _

@[simp] theorem State.plant_passView (s : State) (p set w key parent : Nat) : (s.plant p set w key parent).passView = s.passView := by
  unfold State.plant
  rw [State.modPageCnt_passView, State.modPages_passView, apply_ite State.passView, State.modPage_passView, ite_self, State.writeHeader_passView,
    State.modPage_passView]

@[simp] theorem State.insertPage_passView (s : State) (p d k dom parent : Nat) : (s.insertPage p d k dom parent).s.passView = s.passView := by
  unfold State.insertPage
  generalize (if parent = noIndex then 0 else (s.header parent).vkey) = pk
  dsimp only
  generalize vkey pk (s.header p).tokens k dom = key
  generalize key % 131072 = set
  have hu : (s.modPageCnt (set % 6) (fun c => { c with lookups := c.lookups + 1 })).passView = s.passView := rfl
  generalize s.modPageCnt (set % 6) (fun c => { c with lookups := c.lookups + 1 }) = u at hu ⊢
  have hfresh : ∀ (c : Prop) [Decidable c], (if c then Inserted.mk p (u.decline p) else match u.wayFor set k with
      | some (w, v) => Inserted.mk p (v.plant p set w key parent)
      | none => Inserted.mk p (u.decline p)).s.passView = s.passView := by
    intro c _
    split_ifs
    · exact (u.decline_passView p).trans hu
    · split
      next h => exact (State.plant_passView _ _ _ _ _ _).trans ((State.wayFor_passView h).trans hu)
      next => exact (u.decline_passView p).trans hu
  split
  · split
    · split
      next h => exact (State.modPageCnt_passView _ _ _).trans ((State.release_passView _ p).trans ((State.takeIfVine_passView h).trans hu))
      next => exact (u.decline_passView p).trans hu
      next => exact hfresh _
    · exact hfresh _
  · exact hfresh _

/-! Sessions, requests and their records. -/

@[simp] theorem State.putPage_passView (s : State) (i j p : Nat) : (s.putPage i j p).passView = s.passView := rfl

@[simp] theorem State.adjust_passView (s : State) (r : Req) (goal : Nat) : (s.adjust r goal).passView = s.passView := by
  unfold State.adjust
  dsimp only
  split_ifs <;> rfl

@[simp] theorem State.dropKicker_passView (s : State) (k : Option Nat) : (s.dropKicker k).passView = s.passView := by cases k <;> rfl

@[simp] theorem State.closeSess_passView (s : State) (i : Nat) : (s.closeSess i).passView = s.passView := by
  unfold State.closeSess
  dsimp only
  split <;> simp

@[simp] theorem State.closeVat_passView (s : State) (i : Nat) : (s.closeVat i).passView = s.passView := by
  unfold State.closeVat
  dsimp only
  rw [State.modSess_passView, State.releaseAll_passView, foldl_passView]
  intro s p
  split_ifs <;> simp

@[simp] theorem State.rackTag_passView (s : State) (i : Nat) : (s.rackTag i).passView = s.passView := by
  simp [State.rackTag, apply_ite State.passView]

theorem State.startRack_passView {s t : State} {i why : Nat} (h : s.startRack i why = some t) : t.passView = s.passView := by
  obtain ⟨u, hu, ht⟩ := Option.map_eq_some_iff.mp h
  rw [← ht, State.rackTag_passView, State.modSess_passView, State.takeAll_passView hu]

@[simp] theorem State.putRecord_passView (s : State) (c : CompRec) : (s.putRecord c).passView = s.passView := by
  unfold State.putRecord
  dsimp only
  split_ifs
  · rw [State.modRing_passView]
    exact (State.sendVector_passView _ _ _ _).trans ((State.count_passView _ rfl rfl).trans (by simp))
  · exact (State.count_passView _ rfl rfl).trans (by simp)
  · simp

@[simp] theorem State.record_passView (s : State) (c : CompRec) : (s.record c).passView = s.passView := by
  simp [State.record, apply_ite State.passView]

@[simp] theorem State.finishReq_passView (s : State) (r : Req) (code handle tail : Nat) :
    (s.finishReq r code handle tail).passView = s.passView := by
  have hcount : ∀ (u : State) (f g h i : Counters → BitVec 64), (u.count (fun k => { k with
      reqOk := f k, reqErr := g k, posComputed := h k, posVine := i k })).passView = u.passView := fun u _ _ _ _ => u.count_passView rfl rfl
  unfold State.finishReq
  dsimp only
  split_ifs <;> simp [hcount]

@[simp] theorem State.dropUnrack_passView (s : State) (i : Nat) : (s.dropUnrack i).passView = s.passView := by simp [State.dropUnrack]

@[simp] theorem State.settleVat_passView (s : State) (i : Nat) : (s.settleVat i).passView = s.passView := by
  simp [State.settleVat, apply_ite State.passView]

@[simp] theorem State.endReq_passView (s : State) (r : Req) (code : Nat) (closeIt : Bool) : (s.endReq r code closeIt).passView = s.passView := by
  unfold State.endReq
  dsimp only
  split_ifs
  · simp
  · simp
  · simp
  · simp
  · split
    · simp
    · next h => simp [State.startRack_passView h]
  · simp

@[simp] theorem State.closeWith_passView (s : State) (r : Req) (code : Nat) : (s.closeWith r code).passView = s.passView := by
  simp [State.closeWith, apply_ite State.passView]

/-! Links and shipments. -/

@[simp] theorem State.countLink_passView (s : State) (l n : Nat) : (s.countLink l n).passView = s.passView := rfl

@[simp] theorem State.noteBytes_passView (s : State) (f : TxFrame) : (s.noteBytes f).passView = s.passView := by
  unfold State.noteBytes
  split <;> rfl

@[simp] theorem State.transmit_passView (s : State) (l : Nat) (f : TxFrame) : (s.transmit l f).passView = s.passView := by
  simp [State.transmit]

@[simp] theorem State.repeatTx_passView (s : State) (l : Nat) (f : TxFrame) : (s.repeatTx l f).passView = s.passView := by
  simp [State.repeatTx]

@[simp] theorem State.pump_passView (l n : Nat) (s : State) : (State.pump l n s).passView = s.passView := by
  induction n generalizing s with
  | zero => rfl
  | succ n ih =>
    unfold State.pump
    dsimp only
    repeat' split
    all_goals simp [ih]

@[simp] theorem State.sendNull_passView (s : State) (l : Nat) : (s.sendNull l).passView = s.passView := by simp [State.sendNull]

@[simp] theorem State.sendQueued_passView (s : State) (l : Nat) : (s.sendQueued l).passView = s.passView := by
  simp [State.sendQueued, apply_ite State.passView]

@[simp] theorem State.sendFor_passView (s : State) (rid : Option Nat) (l type args : Nat) (payload : List Nat) :
    (s.sendFor rid l type args payload).passView = s.passView := by simp [State.sendFor]

@[simp] theorem State.sendFrame_passView (s : State) (l type args : Nat) (payload : List Nat) :
    (s.sendFrame l type args payload).passView = s.passView := s.sendFor_passView none l type args payload

@[simp] theorem State.writesFor_passView (s : State) (rid : Option Nat) (l window off : Nat) (bs : List Nat) :
    (s.writesFor rid l window off bs).passView = s.passView := foldl_passView (fun _ _ => by simp) _ _

@[simp] theorem State.sendPage_passView (s : State) (x : Shipment) (window off4k k l : Nat) :
    (s.sendPage x window off4k k l).passView = s.passView := by
  unfold State.sendPage
  dsimp only
  repeat' split
  all_goals simp

@[simp] theorem State.sendOpen_passView (s : State) (x : Shipment) : (s.sendOpen x).passView = s.passView := by
  unfold State.sendOpen
  dsimp only
  repeat' split
  · rfl
  · rfl
  · exact foldl_passView (fun _ _ => by simp) _ _

@[simp] theorem State.reassign_passView (s : State) (l : Nat) : (s.reassign l).passView = s.passView := by
  have hopen : ∀ (xs : List Shipment) (u : State), (xs.foldl State.sendOpen u).passView = u.passView := foldl_passView State.sendOpen_passView
  unfold State.reassign
  dsimp only
  repeat' split
  · simp [hopen]
  · simp [hopen]
  · rw [foldl_passView (fun _ _ => by simp)]
    simp [hopen]

@[simp] theorem State.leaveTo_passView (s : State) (l : Nat) (st : LState) (cause : Nat) : (s.leaveTo l st cause).passView = s.passView := by
  simp [State.leaveTo, apply_ite State.passView]

@[simp] theorem State.hostile_passView (s : State) (l : Nat) : (s.hostile l).passView = s.passView := by
  simp [State.hostile, apply_ite State.passView]

@[simp] theorem State.malformed_passView (s : State) (l : Nat) : (s.malformed l).passView = s.passView := by simp [State.malformed]

@[simp] theorem State.tellGrant_passView (s : State) (l w kind size : Nat) : (s.tellGrant l w kind size).passView = s.passView := by
  simp [State.tellGrant]

@[simp] theorem State.grantColl_passView (s : State) (g : CollGrant) : (s.grantColl g).passView = s.passView := by
  have htell : ∀ (ls : List Nat) (u : State), (ls.foldl (fun s l => s.tellGrant l g.window 2 g.size4k) u).passView = u.passView :=
    foldl_passView (fun _ _ => by simp)
  simp [State.grantColl, apply_ite State.passView, htell]

@[simp] theorem State.dropShip_passView (s : State) (x : Shipment) (ok : Bool) (reason : Option Nat) :
    (s.dropShip x ok reason).passView = s.passView := by
  unfold State.dropShip
  dsimp only
  repeat' split
  all_goals simp

@[simp] theorem State.endShip_passView (s : State) (x : Shipment) (code : Nat) (reason : Option Nat) :
    (s.endShip x code reason).passView = s.passView := by
  unfold State.endShip
  dsimp only
  repeat' split
  all_goals simp

@[simp] theorem State.offerNext_passView (s : State) (x : Shipment) : (s.offerNext x).passView = s.passView := by
  unfold State.offerNext
  dsimp only
  repeat' split
  all_goals simp

@[simp] theorem State.tagShip_passView (s : State) (x : Shipment) : (s.tagShip x).passView = s.passView := by
  simp [State.tagShip, apply_ite State.passView]

@[simp] theorem State.startShip_passView (s : State) (r : Req) : (s.startShip r).passView = s.passView := by
  unfold State.startShip
  dsimp only
  split
  · simp
  · next h => simp [State.takeAll_passView h]

end Sys2Proof.Machine
end

section
/-! SUPPORT. The commit of a pass, step by step: what each step of R234 leaves of the passes, and the settled obligation. -/

namespace Sys2Proof.Machine

open Sys2Proof

@[simp] theorem State.commitTail_passView (s : State) (i n : Nat) : (s.commitTail i n).passView = s.passView := by
  unfold State.commitTail
  dsimp only
  rw [foldl_passView, State.modSess_passView]
  intro u p
  split
  · rfl
  · rw [State.writeHeader_passView, State.modPage_passView]

@[simp] theorem State.commitItem_passView (s : State) (x : PassTable) (i : PassItem) : (s.commitItem x i).passView = s.passView := by
  unfold State.commitItem
  dsimp only
  split
  · rfl
  · split <;> simp

@[simp] theorem State.accept_passView (s : State) (i a c n : Nat) : (s.accept i a c n).passView = s.passView := by
  unfold State.accept
  dsimp only
  rw [State.modSess_passView, foldl_passView]
  intro u j
  split_ifs <;> simp

@[simp] theorem State.sampleItem_passView (s : State) (rows : List LogitRow) (i : PassItem) : (s.sampleItem rows i).2.passView = s.passView := by
  unfold State.sampleItem
  dsimp only
  split
  · rfl
  · split
    · rfl
    · split_ifs
      · rfl
      · split <;> rfl
    · split
      · simp
      · exact s.accept_passView _ _ _ _

@[simp] theorem State.sampleAll_passView (rows : List LogitRow) (is : List PassItem) (s : State) :
    (State.sampleAll rows is s).2.passView = s.passView := by
  induction is generalizing s with
  | nil => rfl
  | cons i is ih => exact (ih _).trans (s.sampleItem_passView rows i)

@[simp] theorem State.insertAll_passView (s : State) (rid : Nat) : (s.insertAll rid).passView = s.passView := by
  unfold State.insertAll
  split
  · rfl
  · refine foldl_passView (fun u d => ?_) _ _
    rw [apply_ite State.passView, State.putPage_passView, State.insertPage_passView, ite_self]

@[simp] theorem State.pour_passView (r : Req) (last shipped : Bool) (ts : List Nat) (idx : Nat) (s : State) :
    (State.pour r last shipped ts idx s).2.2.passView = s.passView := by
  induction ts generalizing idx s with
  | nil => rfl
  | cons t ts ih =>
    unfold State.pour
    dsimp only
    split_ifs
    · exact (ih _ _).trans (s.hostPut_passView _ _ _)
    · exact s.dmaRefuse_passView _

@[simp] theorem State.pourItem_passView (s : State) (p : Produced) : (s.pourItem p).2.passView = s.passView := by
  unfold State.pourItem
  split
  · rfl
  · exact (State.count_passView _ rfl rfl).trans ((State.modReq_passView _ _ _).trans (State.pour_passView _ _ _ _ _ _))

@[simp] theorem State.pourAll_passView (ps : List Produced) (s : State) : (State.pourAll ps s).2.passView = s.passView := by
  induction ps generalizing s with
  | nil => rfl
  | cons p ps ih => exact (ih _).trans (s.pourItem_passView p)

@[simp] theorem State.settle_passView (s : State) (i : PassItem) (a : After) : (s.settle i a).passView = s.passView := by
  unfold State.settle
  split
  · rfl
  · split
    · simp
    · split_ifs
      · simp
      · split <;> simp

@[simp] theorem State.promote_passView (s : State) : s.promote.passView = s.passView := by
  refine foldl_passView (fun u r => ?_) _ _
  split_ifs
  · rw [State.modReq_passView]
  · rfl

/-! A table freed (R273). -/

theorem State.dropTable_table_self (s : State) (t : Nat) : (s.dropTable t).table t = {} := by simp [State.dropTable, State.table]

theorem State.dropTable_table_other (s : State) {t u : Nat} (h : u ≠ t) : (s.dropTable t).table u = s.table u := by
  simp [State.dropTable, State.table, h]

/-- The commit of a closed pass without a fault: after the steps of R234, which leave the passes, its table is freed. -/
theorem exec_passCommit {t : Fin 4} {logits : List LogitRow} {s : State} (ha : s.alive = true) (hcl : (s.table t).state = .closed)
    (hf : (s.table t).slotFault = none) :
    ∃ u : State, u.passView = s.passView ∧ exec (.passCommit t logits) s = .next (u.dropTable t.val).promote.noteActivity := by
  have hexec : exec (.passCommit t logits) s = execPassCommit t logits s := rfl
  rw [hexec, execPassCommit]
  dsimp only
  rw [if_neg (by simp [ha, hcl]), hf]
  refine ⟨_, ?_, rfl⟩
  calc
    _ = _ := foldl_passView (fun _ _ => State.settle_passView _ _ _) _ _
    _ = _ := State.retireEpoch_passView _ _
    _ = _ := State.pourAll_passView _ _
    _ = _ := foldl_passView (fun _ _ => State.insertAll_passView _ _) _ _
    _ = _ := State.sampleAll_passView _ _ _
    _ = _ := foldl_passView (fun _ _ => State.commitItem_passView _ _ _) _ _

theorem passCommit_frees {t : Fin 4} {logits : List LogitRow} {s : State} (ha : s.alive = true) (hcl : (s.table t).state = .closed)
    (hf : (s.table t).slotFault = none) : ∃ n, exec (.passCommit t logits) s = .next n ∧
    n.table t = {} ∧ (∀ j, j ≠ t.val → n.table j = s.table j) ∧ n.glob.cnt.passesLaunched = s.glob.cnt.passesLaunched := by
  obtain ⟨u, hu, hexec⟩ := exec_passCommit (logits := logits) ha hcl hf
  have hend : (u.dropTable t.val).promote.noteActivity.passView = (u.dropTable t.val).passView := by
    rw [State.noteActivity_passView, State.promote_passView]
  refine ⟨_, hexec, ?_, fun j hj => ?_, ?_⟩
  · rw [State.table_of_passView hend, State.dropTable_table_self]
  · rw [State.table_of_passView hend, State.dropTable_table_other u hj, State.table_of_passView hu]
  · have hdrop : (u.dropTable t.val).glob = u.glob := rfl
    rw [State.launched_of_passView hend, hdrop, State.launched_of_passView hu]

/-- Settles O23: each command's next state by the shared abort (`passAbort_of_running`, `passEnd_of_faulty`), by the slot that a core writes
(`completionSlotWrite_frees`, `drainLimitExpiry_frees`), and for the commit by `passView`, which no step of R234 changes. -/
theorem passesEnd : Obligations.PassesEnd := by
  unfold Obligations.PassesEnd
  refine ⟨?_, ?_, ?_, ?_, ?_⟩
  · intro t code s k hcode ha hrun hown hk
    have hcodes : k = s.abortCode t code.toNat := by
      rw [hk, State.abortCode]
      cases s.coreFaultCode t <;> rfl
    exact hcodes ▸ passAbort_of_running hcode ha hrun hown
  · exact fun t code logits s c k i hcode ha hcl hf hi => passEnd_of_faulty hcode ha hcl hf hi
  · exact fun c s cause fault x ha hact hst hdr hcl hx => completionSlotWrite_frees ha hact hst hdr hcl hx
  · exact fun c s x ha hact hx hst hin hout hle => drainLimitExpiry_frees ha hact hx hst hin hout hle
  · exact fun t logits s ha hcl hf => passCommit_frees ha hcl hf

end Sys2Proof.Machine
end

section
/-! SUPPORT. The start of a pass: what its table, its cores and the counts show once the arrivals that the links held have been presented, and
what a launch, a refused launch and the retry decision make of that (R100, R191, R233, R261, R303). -/

namespace Sys2Proof.Machine

open Sys2Proof

/-! What the arrivals presented at a start leave of the passes. -/

/-- The pass tables and the two counts of started passes. -/
def State.tally (s : State) : Tbl PassTable × BitVec 64 × BitVec 64 :=
  (s.sync.tables, s.glob.cnt.passesLaunched, s.glob.cnt.passesRetried)

/-- `t` has the tables and counts of `s`, and in it every core that waits for nothing runs on as it was. -/
def RunsOn (s t : State) : Prop := t.tally = s.tally ∧ ∀ c, (s.core c).run.wait = none → (t.core c).run = (s.core c).run

theorem RunsOn.refl (s : State) : RunsOn s s := ⟨rfl, fun _ _ => rfl⟩

theorem RunsOn.trans {s t u : State} (h : RunsOn s t) (k : RunsOn t u) : RunsOn s u :=
  ⟨k.1.trans h.1, fun c hc => (k.2 c ((congrArg CoreRun.wait (h.2 c hc)).trans hc)).trans (h.2 c hc)⟩

theorem RunsOn.foldl {α : Type} {f : State → α → State} (hf : ∀ s x, RunsOn s (f s x)) (l : List α) (s : State) : RunsOn s (l.foldl f s) := by
  induction l generalizing s with
  | nil => exact .refl s
  | cons x l ih => exact (hf s x).trans (ih (f s x))

theorem State.tally_of_passView {s t : State} (h : t.passView = s.passView) : t.tally = s.tally := by
  rw [State.tally, State.sync_of_passView h, State.launched_of_passView h, State.retried_of_passView h, State.tally]

theorem RunsOn.of_passView {s t : State} (h : t.passView = s.passView) : RunsOn s t :=
  ⟨State.tally_of_passView h, fun c _ => congrArg Core.run (State.core_of_passView h c)⟩

theorem RunsOn.modGroup (s : State) (g : Nat) (f : GroupRun → GroupRun) : RunsOn s (s.modGroup g f) := ⟨rfl, fun _ _ => rfl⟩

theorem RunsOn.sendFrame (s : State) (l type args : Nat) (payload : List Nat) : RunsOn s (s.sendFrame l type args payload) :=
  .of_passView (s.sendFrame_passView l type args payload)

theorem State.testOwn_tally (s : State) (c p : Nat) : (s.testOwn c p).tally = s.tally := by
  unfold State.testOwn
  split
  · dsimp only
    split_ifs <;> rfl
  · rfl

theorem State.pegOp_tally (s : State) (h : Home) (p src : Nat) (op : PegOp) : (s.pegOp h p src op).tally = s.tally := by
  unfold State.pegOp
  obtain ⟨v, clamp⟩ := (s.peg h p).apply op
  cases h with
  | core d => cases clamp <;> exact State.testOwn_tally _ d p
  | coll => cases clamp <;> rfl

theorem RunsOn.pegOp (s : State) (h : Home) (p src : Nat) (op : PegOp) : RunsOn s (s.pegOp h p src op) :=
  ⟨s.pegOp_tally h p src op, fun _ hc => State.pegOp_run hc h p src op⟩

theorem RunsOn.releaseGroup (s : State) (g : Nat) (d : GroupDecl) (sense : Bool) : RunsOn s (s.releaseGroup g d sense) :=
  ((RunsOn.foldl (fun u l => .sendFrame u l _ _ _) _ s).trans (.modGroup _ g _)).trans
    (.foldl (fun u _ => .foldl (fun v c => .pegOp v (.core c) _ _ _) _ u) _ _)

theorem RunsOn.chipPhase (s : State) (g : Nat) (d : GroupDecl) (sense : Bool) : RunsOn s (s.chipPhase g d sense) := by
  unfold State.chipPhase
  dsimp only
  split_ifs
  · exact .refl s
  · exact (RunsOn.modGroup s g _).trans (.sendFrame _ _ _ _ _)
  · exact .refl s
  · exact .releaseGroup s g d sense

theorem RunsOn.malformed (s : State) (l : Nat) : RunsOn s (s.malformed l) := .of_passView (s.malformed_passView l)

theorem RunsOn.childArrival (s : State) (l g : Nat) (sense : Bool) : RunsOn s (s.childArrival l g sense) := by
  unfold State.childArrival
  split
  · dsimp only
    split_ifs
    · exact .malformed s l
    · exact (RunsOn.modGroup s g _).trans (.chipPhase _ g _ sense)
  · exact .malformed s l

/-- The arrivals that one link's latch holds, presented to the pass. -/
def State.presentLatch (s : State) (l : Nat) : State :=
  (s.link l).latch.foldl (fun u x => u.childArrival l x.1 x.2)
    (if (s.link l).latch = [] then s else s.modLink l (fun k => { k with latch := [] }))

theorem State.presentLatches_eq (s : State) : s.presentLatches = (List.range 48).foldl State.presentLatch s := by
  unfold State.presentLatches State.presentLatch
  rfl

theorem RunsOn.presentLatch (s : State) (l : Nat) : RunsOn s (s.presentLatch l) := by
  have hclear : RunsOn s (if (s.link l).latch = [] then s else s.modLink l (fun k => { k with latch := [] })) := by
    split_ifs
    · exact .refl s
    · exact .of_passView (s.modLink_passView l _)
  have hheld : ∀ (u : State) (x : Nat × Bool), RunsOn u (u.childArrival l x.1 x.2) := fun u x => .childArrival u l x.1 x.2
  exact hclear.trans (RunsOn.foldl hheld _ _)

theorem RunsOn.presentLatches (s : State) : RunsOn s s.presentLatches :=
  s.presentLatches_eq ▸ .foldl RunsOn.presentLatch _ s

/-! The cores of a started pass. -/

/-- What a core holds as its pass starts: the launch's program at word 0, and nothing issued or waiting (R100). -/
def Launch.startRun (l : Launch) (t tag : Nat) (seed : BitVec 64) (bs : List Binding) : CoreRun :=
  { active := true, table := t, prog := l.program, tag := tag, seed := seed, bindings := bs, lqBase := l.lqBase, rqBase := l.rqBase,
    rqLines := l.rqLines }

theorem Core.start_run (k : Core) (t : Nat) (l : Launch) (tag : Nat) (seed : BitVec 64) (bs : List Binding) (retry : Bool) :
    (k.start t l tag seed bs retry).run = l.startRun t tag seed bs := rfl

/-- Cores that all come to hold `r` hold it at the end. -/
theorem State.foldl_modCore_run {f : Nat → Core → Core} {r : CoreRun} (hf : ∀ d k, (f d k).run = r) {c : Nat} (l : List Nat) (s : State)
    (hc : c ∈ l ∨ (s.core c).run = r) : ((l.foldl (fun s d => s.modCore d (f d)) s).core c).run = r := by
  induction l generalizing s with
  | nil => exact hc.resolve_left List.not_mem_nil
  | cons d l ih =>
    refine ih _ ?_
    by_cases hd : c = d
    · right
      rw [hd, State.modCore_core_self, hf]
    · rw [State.modCore_core_other s hd]
      exact hc.imp_left (fun h => (List.mem_cons.mp h).resolve_left hd)

theorem State.foldl_modCore_tally (f : Nat → Core → Core) (l : List Nat) (s : State) :
    (l.foldl (fun s d => s.modCore d (f d)) s).tally = s.tally :=
  List.foldlRecOn (motive := fun u : State => u.tally = s.tally) l _ rfl (fun _ h _ _ => h)

/-! The start of a pass. -/

/-- The table of a pass as it starts. -/
def State.startTable (s : State) (x : PassTable) (l : Launch) : PassTable :=
  { x with
    state := .running, mask := BitVec.ofNat 64 l.coreMask, present := 0, slots := [], launch := some l, launchedAt := s.time, closedAt := none
    limitUs := if l.passLimitUs = 0 then s.sync.passDefaultUs else l.passLimitUs }

/-- The state at a start as the links' held arrivals come to be presented: the table and the synchronisation state as launched, the cores started. -/
def State.startCores (s : State) (t : Nat) (x : PassTable) (l : Launch) (segs : List Seg) : State :=
  (maskList 64 l.coreMask).foldl (fun u c => u.modCore c (fun k => k.start t l x.tag x.seed x.bindings (x.arrayCores.contains c)))
    ((((l.grants.foldl State.grantColl s).modPort .A (fun q => { q with past := [] })).modPort .B (fun q => { q with past := [] })).modSync
      (fun y => { (y.start l segs) with tables := Tbl.set {} t (s.startTable x l) y.tables }))

theorem State.startCores_tally (s : State) (t : Nat) (x : PassTable) (l : Launch) (segs : List Seg) : (s.startCores t x l segs).tally =
    (Tbl.set {} t (s.startTable x l) s.sync.tables, s.glob.cnt.passesLaunched, s.glob.cnt.passesRetried) := by
  have hgrants : (((l.grants.foldl State.grantColl s).modPort .A (fun q => { q with past := [] })).modPort .B
      (fun q => { q with past := [] })).passView = s.passView := by
    rw [State.modPort_passView, State.modPort_passView, foldl_passView State.grantColl_passView]
  rw [State.startCores, State.foldl_modCore_tally]
  generalize (((l.grants.foldl State.grantColl s).modPort .A (fun q => { q with past := [] })).modPort .B (fun q => { q with past := [] })) = u
    at hgrants ⊢
  rw [← State.sync_of_passView hgrants, ← State.launched_of_passView hgrants, ← State.retried_of_passView hgrants]
  rfl

theorem State.startCores_run (s : State) {t : Nat} (x : PassTable) (l : Launch) (segs : List Seg) {c : Nat} (hc : c < 64)
    (hbit : bit l.coreMask c = true) : ((s.startCores t x l segs).core c).run = l.startRun t x.tag x.seed x.bindings :=
  State.foldl_modCore_run (f := fun c k => k.start t l x.tag x.seed x.bindings (x.arrayCores.contains c)) (fun _ _ => rfl) _ _ (.inl (mem_maskList.mpr ⟨hc, hbit⟩))

/-- A pass is started: after the presented arrivals only the requests' marks, the count, and a report of forced cores follow. -/
theorem State.startPass_runsOn (s : State) (t : Nat) (x : PassTable) (l : Launch) (segs : List Seg) :
    ∃ u, RunsOn (s.startCores t x l segs) u ∧
      (s.startPass t x l segs).passView = (u.count (fun k => { k with passesLaunched := k.passesLaunched + 1 })).passView := by
  have hmark : ∀ (u : State) (i : PassItem), (u.modReq i.rid (fun r => { r with inPass := true })).passView = u.passView := fun _ _ => rfl
  refine ⟨x.items.foldl (fun u i => u.modReq i.rid (fun r => { r with inPass := true })) (s.startCores t x l segs).presentLatches,
    (RunsOn.presentLatches _).trans (.of_passView (foldl_passView hmark _ _)), ?_⟩
  unfold State.startPass State.startCores State.startTable
  dsimp only
  rw [apply_ite State.passView, State.report_passView, ite_self]

section StartPass

variable (s : State) {t : Nat} (x : PassTable) (l : Launch) (segs : List Seg)

theorem State.startPass_table : (s.startPass t x l segs).table t = s.startTable x l := by
  obtain ⟨u, ⟨htally, -⟩, hview⟩ := s.startPass_runsOn t x l segs
  rw [State.table_of_passView hview]
  have htables : u.sync.tables = Tbl.set {} t (s.startTable x l) s.sync.tables :=
    congrArg Prod.fst (htally.trans (s.startCores_tally t x l segs))
  show Tbl.get {} t u.sync.tables = _
  rw [htables, Tbl.get_set_self]

theorem State.startPass_run {c : Nat} (hc : c < 64) (hbit : bit l.coreMask c = true) :
    ((s.startPass t x l segs).core c).run = l.startRun t x.tag x.seed x.bindings := by
  obtain ⟨u, ⟨-, hrun⟩, hview⟩ := s.startPass_runsOn t x l segs
  have hstart := s.startCores_run (t := t) x l segs hc hbit
  rw [State.core_of_passView hview]
  exact (hrun c (by rw [hstart]; rfl)).trans hstart

theorem State.startPass_counts : (s.startPass t x l segs).glob.cnt.passesLaunched = s.glob.cnt.passesLaunched + 1 ∧
    (s.startPass t x l segs).glob.cnt.passesRetried = s.glob.cnt.passesRetried := by
  obtain ⟨u, ⟨htally, -⟩, hview⟩ := s.startPass_runsOn t x l segs
  have hcounts := congrArg Prod.snd (htally.trans (s.startCores_tally t x l segs))
  rw [State.launched_of_passView hview, State.retried_of_passView hview]
  exact ⟨congrArg (fun v => v.1 + 1) hcounts, congrArg Prod.snd hcounts⟩

end StartPass

end Sys2Proof.Machine
end

section
/-! SUPPORT. PASS_LAUNCH and PASS_RETRY: what each starts, refuses or gives up, and the settled obligation (R100, R191, R230–R233, R277). -/

namespace Sys2Proof.Machine

open Sys2Proof

/-! PASS_LAUNCH (R230–R233). -/

@[simp] theorem State.pinItems_passView (s : State) (e : Nat) (items : List PassItem) : (s.pinItems e items).passView = s.passView := by
  refine foldl_passView (fun u i => ?_) _ _
  cases u.req i.rid with
  | some r => exact State.pinAll_passView _ e u
  | none => rfl

theorem State.refuseLaunch_passView (s : State) (k : Nat) (l : Launch) (code : Nat) (rids : List Nat) :
    (s.refuseLaunch k l code rids).passView = s.passView := by
  unfold State.refuseLaunch
  dsimp only
  refine (foldl_passView (fun u rid => ?_) _ _).trans ?_
  · cases u.req rid with
    | some r => exact u.endReq_passView _ _ _
    | none => rfl
  · rw [State.report_passView, apply_ite State.passView, State.modInteg_passView, ite_self]

/-- The pass that a launch starts, once its items' pages are ready. -/
def State.launchTable (s : State) (k : Nat) (l : Launch) (rotation : Bool) (ready : List PassItem) : PassTable :=
  let p := s.place ready
  let u := s.drawEpoch.random.2
  let v := (u.pinItems s.drawEpoch.pages.newest p.items).modServe (fun v => { v with turn := (k + 1) % 4 })
  { tag := s.drawEpoch.pages.newest, seed := BitVec.ofNat 64 (s.drawEpoch.random.1.toNat % 2 ^ 64), mslot := k, rotation := rotation
    items := p.items, bindings := p.bindings, stacked := if rotation then [] else v.stackSessions l.heads p.items }

/-- A launch whose items are ready starts its pass from a state that shows the passes as before. -/
theorem State.launch_eq {s v : State} {items ready : List PassItem} (k t : Nat) (l : Launch) (segs : List Seg) (rotation : Bool)
    (hprep : State.prepItems items s = (ready, false, v)) (hready : ready ≠ []) : ∃ u : State, u.passView = v.passView ∧
      s.launch k t l segs rotation items = u.startPass t (v.launchTable k l rotation ready) l segs := by
  unfold State.launch
  rw [hprep]
  dsimp only
  rw [if_neg (by simpa using hready)]
  refine ⟨_, ?_, rfl⟩
  rw [State.modServe_passView, State.pinItems_passView]
  rfl

/-- What a launch for the slot whose turn it is comes to: a start, or the launch's refusal. -/
def State.launchPicked (s : State) (k f : Nat) (l : Launch) (rotation : Bool) (items : List PassItem) : Host.Outcome State Fault Refusal :=
  match s.launchCode l, s.plan l with
  | some code, _ => .next (s.refuseLaunch k l code (items.map (fun i => i.rid)))
  | none, .ok segs => .next (s.launch k f l segs rotation items)
  | none, _ => .next s

theorem exec_passLaunch {k : Fin 4} {l : Launch} {s p u : State} {f : Nat} {rot : Bool} {items : List PassItem}
    (hserve : s.serving = true) (hfree : s.passBusy = false) (hp : p = s.promote) (htab : p.freeTable = some f)
    (hnext : p.nextPass k = some (rot, items)) (hmodel : (p.model k).state = .ready ∨ (p.model k).state = .draining)
    (hturn : p.turnOf k = true) (hu : u = p.wake) (hawake : u.awake l.coreMask rot = true) (hrail : u.pow.sRail = 15 → u.pow.railOver = false)
    (hblock : u.blocked l.coreMask = false) (hdraw : u.pages.mayDraw = true) :
    exec (.passLaunch k l) s = u.launchPicked k f l rot items := by
  subst hp hu
  have hexec : exec (.passLaunch k l) s = execPassLaunch k l s := rfl
  have hon : ¬ (s.promote.wake.awake l.coreMask rot = false ∨ (s.promote.wake.pow.sRail = 15 ∧ s.promote.wake.pow.railOver = true) ∨
      s.promote.wake.blocked l.coreMask = true ∨ s.promote.wake.pages.mayDraw = false) := by
    simpa [hawake, hblock, hdraw] using hrail
  rw [hexec, execPassLaunch, if_neg (by simp [hserve, hfree])]
  dsimp only
  rw [htab, hnext]
  dsimp only
  rw [if_neg (by rcases hmodel with h | h <;> simp [h, hturn]), if_neg hon]
  rfl

theorem State.launchPicked_refused {s : State} {l : Launch} {code : Nat} (hcode : s.launchCode l = some code) (k f : Nat) (rot : Bool)
    (items : List PassItem) : s.launchPicked k f l rot items = .next (s.refuseLaunch k l code (items.map (fun i => i.rid))) := by
  rw [State.launchPicked, hcode]

theorem State.launchPicked_starts {s : State} {l : Launch} {segs : List Seg} (hcode : s.launchCode l = none) (hplan : s.plan l = .ok segs)
    (k f : Nat) (rot : Bool) (items : List PassItem) : s.launchPicked k f l rot items = .next (s.launch k f l segs rot items) := by
  rw [State.launchPicked, hcode, hplan]

/-- A launch whose items are ready: its table and cores run the pass, and one more pass counts as launched. -/
theorem State.launchPicked_runs {u v : State} {l : Launch} {segs : List Seg} {items ready : List PassItem} {rot : Bool} (k f : Nat)
    (hcode : u.launchCode l = none) (hplan : u.plan l = .ok segs) (hprep : State.prepItems items u = (ready, false, v)) (hready : ready ≠ []) :
    ∃ n, u.launchPicked k f l rot items = .next n ∧
      (n.table f).state = .running ∧ (n.table f).tag = v.drawEpoch.pages.newest ∧ (n.table f).mask = BitVec.ofNat 64 l.coreMask ∧
      (n.table f).present = 0 ∧ (n.table f).mslot = k ∧
      (∀ c < 64, bit l.coreMask c = true → (n.core c).run.active = true ∧ (n.core c).run.table = f ∧ (n.core c).run.prog = l.program ∧
        (n.core c).run.pc = 0 ∧ (n.core c).run.tag = v.drawEpoch.pages.newest) ∧
      n.glob.cnt.passesLaunched = v.glob.cnt.passesLaunched + 1 := by
  obtain ⟨w, hw, hlaunch⟩ := State.launch_eq k f l segs rot hprep hready
  refine ⟨_, (State.launchPicked_starts hcode hplan k f rot items).trans (congrArg _ hlaunch), ?_, ?_, ?_, ?_, ?_, fun c hc hbit => ?_, ?_⟩
  iterate 5
    rw [State.startPass_table]
    rfl
  · rw [State.startPass_run _ _ _ _ hc hbit]
    exact ⟨rfl, rfl, rfl, rfl, rfl⟩
  · rw [(State.startPass_counts _ _ _ _).1, State.launched_of_passView hw]

/-! PASS_RETRY (R233, R277). -/

@[simp] theorem State.endAborted_passView (s : State) (rid code : Nat) : (s.endAborted rid code).passView = s.passView := by
  unfold State.endAborted
  cases s.req rid with
  | some r => exact s.endReq_passView _ _ _
  | none => rfl

theorem State.abandon_passView (s : State) (x : PassTable) (code : Nat) : (s.abandon x code).passView = s.passView := by
  unfold State.abandon
  dsimp only
  rw [State.noteActivity_passView, State.retireEpoch_passView]
  exact foldl_passView (fun u _ => u.endAborted_passView _ _) _ _

/-- The retry decision's state: the aborted table freed, its slots folded into its requests. -/
def State.foldAborted (s : State) (t : Nat) (x : PassTable) : State :=
  x.items.foldl (fun u i => u.modReq i.rid (x.foldSlots i)) (s.dropTable t)

theorem State.foldAborted_passView (s : State) (t : Nat) (x : PassTable) : (s.foldAborted t x).passView = (s.dropTable t).passView :=
  foldl_passView (fun u (i : PassItem) => u.modReq_passView i.rid (x.foldSlots i)) _ _

theorem State.dropTable_glob (s : State) (t : Nat) : (s.dropTable t).glob = s.glob := rfl

theorem State.foldAborted_retried (s : State) (t : Nat) (x : PassTable) :
    (s.foldAborted t x).glob.cnt.passesRetried = s.glob.cnt.passesRetried := by
  rw [State.retried_of_passView (s.foldAborted_passView t x), State.dropTable_glob]

/-- A pass as its retry starts it: without the requests that end, and not to be retried again. -/
def PassTable.retry (x : PassTable) (keep : List PassItem) : PassTable :=
  { x with items := keep, retried := true, mayRetry := false, abortCode := 0, victims := [], customSeen := false, skipSeen := false }

section Retry

variable {t : Fin 4} {s : State} {x : PassTable} (hx : x = s.table t) (ha : s.alive = true) (hst : x.state = .aborting)
  (hall : x.present = x.mask) (hblock : s.blocked x.mask.toNat = false) (hother : s.otherPass t = false) (hawait : s.awaits x = false)
include hx ha hst hall hblock hother hawait

theorem exec_passRetry_abandons (hmay : x.mayRetry = false) :
    exec (.passRetry t) s = .next ((s.foldAborted t x).abandon x x.abortCode) := by
  subst hx
  have hexec : exec (.passRetry t) s = execPassRetry t s := rfl
  rw [hexec, execPassRetry]
  dsimp only
  rw [if_neg (by simp [ha, hst, hall, hblock, hother, hawait])]
  split
  · rw [if_pos (.inl hmay)]
    rfl
  · rfl

theorem exec_passRetry_starts {l : Launch} {f : Nat} {segs : List Seg} (hl : x.launch = some l) (hf : (s.foldAborted t x).freeTable = some f)
    (hmay : x.mayRetry = true)
    (hkeep : ∃ i ∈ x.items, ((s.foldAborted t x).victimCode x i).isNone = true ∧ ((s.foldAborted t x).req i.rid).isSome = true)
    (hcode : (s.foldAborted t x).launchCode l = none) (hplan : (s.foldAborted t x).plan l = .ok segs) :
    ∃ (w : State) (keep : List PassItem), w.passView = (s.foldAborted t x).passView ∧ exec (.passRetry t) s =
      .next ((w.count (fun k => { k with passesRetried := k.passesRetried + 1 })).startPass f (x.retry keep) l segs) := by
  subst hx
  have hexec : exec (.passRetry t) s = execPassRetry t s := rfl
  have hfold : (s.table t).items.foldl (fun u i => u.modReq i.rid ((s.table t).foldSlots i)) (s.dropTable t) = s.foldAborted t (s.table t) := rfl
  rw [hexec, execPassRetry]
  dsimp only
  rw [if_neg (by simp [ha, hst, hall, hblock, hother, hawait]), hfold, hl, hf]
  generalize s.foldAborted t (s.table t) = u at hkeep hcode hplan ⊢
  dsimp only
  obtain ⟨i, hi, hnone, hsome⟩ := hkeep
  rw [if_neg (not_or.mpr ⟨by simp [hmay], List.ne_nil_of_mem (List.mem_filter.mpr ⟨hi, by simp [hnone, hsome]⟩)⟩), hcode, hplan]
  refine ⟨_, _, ?_, rfl⟩
  refine foldl_passView (fun v j => ?_) _ _
  cases v.victimCode (s.table t) j with
  | some code => exact v.endAborted_passView _ _
  | none => rfl

theorem passRetry_abandons (hmay : x.mayRetry = false) : ∃ n, exec (.passRetry t) s = .next n ∧ (n.table t).state = .free ∧
    n.glob.cnt.passesRetried = s.glob.cnt.passesRetried := by
  have hview : ((s.foldAborted t x).abandon x x.abortCode).passView = (s.dropTable t).passView :=
    (State.abandon_passView _ _ _).trans (s.foldAborted_passView t x)
  refine ⟨_, exec_passRetry_abandons hx ha hst hall hblock hother hawait hmay, ?_, ?_⟩
  · rw [State.table_of_passView hview, State.dropTable_table_self]
  · rw [State.retried_of_passView hview, State.dropTable_glob]

theorem passRetry_starts {l : Launch} {f : Nat} {segs : List Seg} (hl : x.launch = some l) (hf : (s.foldAborted t x).freeTable = some f)
    (hmay : x.mayRetry = true)
    (hkeep : ∃ i ∈ x.items, ((s.foldAborted t x).victimCode x i).isNone = true ∧ ((s.foldAborted t x).req i.rid).isSome = true)
    (hcode : (s.foldAborted t x).launchCode l = none) (hplan : (s.foldAborted t x).plan l = .ok segs) : ∃ n, exec (.passRetry t) s = .next n ∧
      (n.table f).state = .running ∧ (n.table f).tag = x.tag ∧ (n.table f).seed = x.seed ∧ (n.table f).retried = true ∧
      (n.table f).mayRetry = false ∧
      (∀ c < 64, bit l.coreMask c = true → (n.core c).run.active = true ∧ (n.core c).run.prog = l.program ∧ (n.core c).run.tag = x.tag ∧
        (n.core c).run.seed = x.seed) ∧ n.glob.cnt.passesRetried = s.glob.cnt.passesRetried + 1 := by
  obtain ⟨w, keep, hw, hexec⟩ := exec_passRetry_starts hx ha hst hall hblock hother hawait hl hf hmay hkeep hcode hplan
  refine ⟨_, hexec, ?_, ?_, ?_, ?_, ?_, fun c hc hbit => ?_, ?_⟩
  iterate 5
    rw [State.startPass_table]
    rfl
  · rw [State.startPass_run _ _ _ _ hc hbit]
    exact ⟨rfl, rfl, rfl, rfl⟩
  · rw [(State.startPass_counts _ _ _ _).2, State.count_glob]
    exact congrArg (· + 1) ((State.retried_of_passView hw).trans (s.foldAborted_retried t x))

end Retry

/-- Settles O22: a launch by the start of its pass (`launchPicked_runs`) or its refusal, which leaves `passView`; a retry by the same start
from the state with the aborted table freed, or by its abandonment. -/
theorem passesStart : Obligations.PassesStart := by
  unfold Obligations.PassesStart
  refine ⟨fun k l s p u v f rot items ready hserve hfree hp htab hnext hmodel hturn hu hawake hrail hblock hdraw => ?launch,
    fun t s x hx ha hst hall hblock hother hawait => ⟨?retry, ?giveUp⟩⟩
  case launch =>
    have hexec := exec_passLaunch hserve hfree hp htab hnext hmodel hturn hu hawake hrail hblock hdraw
    refine ⟨fun segs hcode hplan hprep hready => hexec ▸ State.launchPicked_runs k f hcode hplan hprep hready, fun code hcode =>
      ⟨hexec.trans (State.launchPicked_refused hcode k f rot items), ?_⟩⟩
    rw [State.sync_of_passView (u.refuseLaunch_passView k l code _)]
  case retry =>
    rintro l f segs u rfl hl hf hmay hkeep hcode hplan
    exact passRetry_starts hx ha hst hall hblock hother hawait hl hf hmay hkeep hcode hplan
  case giveUp => exact passRetry_abandons hx ha hst hall hblock hother hawait

end Sys2Proof.Machine
end
